-- ==== Sys2Proof/Word.lean ====
section
/-!
DEFINITION. The word types of the model: bytes, register words and the wider words the manual numbers bit by bit.
-/

namespace Sys2Proof

/-- One byte (R5: byte 0 of a field holds bits [7:0]). -/
abbrev Byte := BitVec 8

/-- A register, or the word of a register access (Register interface). -/
abbrev Word := BitVec 32

/-- A scalar register, a bundle slot, a GTC value. -/
abbrev Dword := BitVec 64

/-- A tenant or device address. -/
abbrev Addr := BitVec 48

/-- A chip identity (R326). -/
abbrev ChipId := BitVec 14

end Sys2Proof
end

