-- ==== Sys2Proof/Syntax.lean ====
section
/-!
DEFINITION. The commands of the Mevavy MV3 as a block: one constructor per row of spec/opcode_table.json, with the
operands the row's step needs. An operand is what comes from outside the modelled chip (a message, a pin, a bus access)
or what only time or physics decides (a measured cycle count, an error of a memory cell).
-/

namespace Sys2Proof

/-- The path of a register access (R383): a PCIe function, the I3C bus, a control core, the debug access path. -/
inductive Path where
  | pf
  | vf (v : Fin 512)
  | i3c
  | core (n : Fin 32)
  | debug
deriving DecidableEq, Repr

/-- The causes of a late dispatch (Table 2.2). -/
inductive Cause where
  | own | linkRetry | prismPeer | kalBlock | hbmRetry | ouu | swap | power | thermal | linkNarrow | host | debug | extWait
deriving DecidableEq, Repr

/-- The waits that can hold a frame open (R114): WAITE or ENDF on a KROT; WAITE or ENDF on a PCOL or a Prism sink, or FENCE.G;
WAITE or ENDF on a DMA through the spill tier; instruction fetch; WAITE, ENDF or RETD on another DMA, on an add-on-write, on a
drain into HBM or on a SEMR; SEMW; a full engine queue; a bank or mesh-port refusal. -/
inductive Wait where
  | krot | pcol | prismSink | fenceG | spillDma | fetch | dma | aow | hbmDrain | semr | semw | queueFull | portRefused
deriving DecidableEq, Repr

/-- An error that a memory cell has developed when the command reads it (R44, R53, R221): local store words by tile
and address, an accumulator entry by tile, unit, row and column, HBM words by device address. `hbmMiscorrected` is the word of three or
more wrong symbols whose syndrome is that of one (R221): it is corrected to a wrong value and counted as corrected. -/
inductive CellError where
  | lsCorrectable (t : Fin 64) (a : BitVec 25)
  | lsUncorrectable (t : Fin 64) (a : BitVec 25)
  | accParity (t : Fin 64) (mu : Fin 4) (row : Fin 256) (col : Fin 128)
  | hbmCorrectable (da : BitVec 40)
  | hbmUncorrectable (da : BitVec 40)
  | hbmMiscorrected (da : BitVec 40)
deriving DecidableEq, Repr

/-- A bundle of four slots, S0 first (R99), with the cell errors that stand when it issues. -/
structure Bundle where
  s0 : Dword
  s1 : Dword
  s2 : Dword
  s3 : Dword
  errs : List CellError := []
deriving DecidableEq, Repr

/-- A collective is named across chips by TAG, launcher and SEQ (R120, R123). -/
structure CollId where
  tag : Word
  launcher : Fin 65
  seq : Word
deriving DecidableEq, Repr

/-- The launch header that a contribution's first flit carries (R124). -/
structure LaunchHeader where
  pop : BitVec 4
  xl : Dword
  sfmt : BitVec 4
  dfmt : BitVec 4
  n : Nat
deriving DecidableEq, Repr

/-- What the first flit of a rotated block carries (R150). -/
structure BlockHeader where
  tag : Word
  hop : Word
  xl : Nat
  origin : BitVec 8
deriving DecidableEq, Repr

/-- What a patrol read finds (R222): a clean word, a correctable or an uncorrectable one, or one with three or more wrong symbols
that is corrected to a wrong value (R221). -/
inductive ScrubFinding where
  | clean | correctable | uncorrectable | miscorrected
deriving DecidableEq, Repr

/-- What the far end of a link answers in training (R300, R301): the step that failed, if any; the usable
wavelengths; the identity sent in step 6; the delay figures of step 7 and the VL0 credits advertised in step 8. -/
structure TrainResult where
  failStep : Option (Fin 9)
  usable : BitVec 10
  farDomain : Word
  farChip : ChipId
  farLink : BitVec 6
  farIsSwitch : Bool
  farKind : BitVec 2
  farNamesUs : Bool
  farGrid : BitVec 8
  delayPs : Word
  asymPs : Word
  vl0Credits : Nat
deriving DecidableEq, Repr

/-- A packet header (Table 13.8). -/
structure PacketHeader where
  dst : ChipId
  src : ChipId
  tenant : Fin 512
  kind : BitVec 4
  pseq : BitVec 16
  len : BitVec 13
  ctx : Word
deriving DecidableEq, Repr

/-- A packet as a lane of a link brings it (R306, R310). -/
structure LanePacket where
  link : Fin 36
  vl : Fin 8
  head : PacketHeader
deriving DecidableEq, Repr

/-- An Ethernet packet as the requester tells them apart (R315, R316). -/
inductive EthPacket where
  | readResponse (qp : Fin 4096) (psn : BitVec 24) (last : Bool) (ce : Bool) (data : List Byte)
  | ack (qp : Fin 4096) (psn : BitVec 24)
  | nak (qp : Fin 4096) (psn : BitVec 24)
  | rnrNak (qp : Fin 4096) (psn : BitVec 24)
  | cnp (qp : Fin 4096)
  | pause (prio : BitVec 3) (quanta : BitVec 16)
  | other
deriving DecidableEq, Repr

/-- How an extent of a network transfer ended outside the chip: its bytes, or no bytes (R281, R355). -/
inductive WireResult where
  | data (bytes : List Byte)
  | failed
deriving DecidableEq, Repr

/-- What a worker reports to the domain manager on VL0; `launchRefused` is the domain manager's own message to a worker, with the
status of the refusal. -/
inductive Report where
  | launchRefused (status : Byte)
  | lateLaunch | notInLock | mirrorFingerprint | mirrorFreeze | linkNarrowed | ticksStopped | workerLeft | stepBoundary
  | ouuTable | collectiveFailed | mirrorLost
deriving DecidableEq, Repr

/-- A worker's report in a checkpoint cut (Table 15.10). -/
inductive CutStage where
  | copied | done | failed
deriving DecidableEq, Repr

/-- What starts a reset of the compute domain (Table 15.3, Table 15.4). -/
inductive ResetSource where
  | admin | dmOrder | fault
deriving DecidableEq, Repr

/-- The window of a wide-value mailbox (R390): the GLB one, or a tenant's. -/
inductive MbxWindow where
  | glb
  | ten (v : Fin 512)
deriving DecidableEq, Repr

/-- One access of the RISC-V debug module interface (R408): address, operation (0 none, 1 read, 2 write), data. -/
structure DmiAccess where
  addr : BitVec 7
  op : BitVec 2
  data : Word
deriving DecidableEq, Repr

/-- The commands: the rows of spec/opcode_table.json, in the table's order. -/
inductive Instr where
  -- Time and frames (02, R10, R22-R40; 08, R174-R181; 09, R192)
  | launchCount (jobId : Word) (count : Dword)
  | lockCheck (p : Fin 8) (partnerFingerprint : Option (BitVec 256))
  | tick (p : Fin 8)
  | lateDispatch (t : Fin 64) (now : Dword) (ownCycles : Nat) (blockCause : Option Cause) (wait : Option Wait)
  | frameClose (t : Fin 64) (cyclesLeft : Nat)
  | stepClose (p : Fin 8)
  | ouuPass (p : Fin 8) (framesTaken : Nat) (errs : List CellError)
  | ledgerRecord (p : Fin 8)
  | checkpointCut (p : Fin 8) (wire : List (BitVec 8))
  | jobEnd (p : Fin 8)
  | timeExchange (t1 t2 t3 t4 : Dword) (correction : Int)
  | holdover
  | reformPending
  | reform (g : Dword)
  | gtcReform
  | periodWrite (path : Path) (p : Fin 8) (value : Word)
  -- Tile issue and the S0 instructions (05)
  | bundleRelease (t : Fin 64)
  | lineFetchArrive (t : Fin 64) (line : Nat) (errs : List CellError)
  | nop (t : Fin 64) (b : Bundle)
  | alu (t : Fin 64) (b : Bundle)
  | alui (t : Fin 64) (b : Bundle)
  | li (t : Fin 64) (b : Bundle)
  | lih (t : Fin 64) (b : Bundle)
  | cmp (t : Fin 64) (b : Bundle)
  | plog (t : Fin 64) (b : Bundle)
  | br (t : Fin 64) (b : Bundle)
  | loop (t : Fin 64) (b : Bundle)
  | call (t : Fin 64) (b : Bundle)
  | ret (t : Fin 64) (b : Bundle)
  | endf (t : Fin 64) (b : Bundle)
  | waitc (t : Fin 64) (b : Bundle)
  | waite (t : Fin 64) (b : Bundle)
  | semw (t : Fin 64) (b : Bundle)
  | sems (t : Fin 64) (b : Bundle)
  | fenceT (t : Fin 64) (b : Bundle)
  | fenceC (t : Fin 64) (b : Bundle)
  | fenceG (t : Fin 64) (b : Bundle)
  | defp (t : Fin 64) (b : Bundle)
  | defd (t : Fin 64) (b : Bundle)
  | retd (t : Fin 64) (b : Bundle)
  | deferredReturn (t : Fin 64) (cyclesLeft : Nat)
  | dset (t : Fin 64) (b : Bundle)
  | dget (t : Fin 64) (b : Bundle)
  | mfs (t : Fin 64) (b : Bundle)
  | brk (t : Fin 64) (b : Bundle)
  -- S1, S2, S3 and their completions (05)
  | mma (t : Fin 64) (b : Bundle)
  | mmaDone (t : Fin 64) (op : Nat)
  | mdrain (t : Fin 64) (b : Bundle)
  | mdrainDone (t : Fin 64) (op : Nat)
  | varith (t : Fin 64) (b : Bundle)
  | vfma (t : Fin 64) (b : Bundle)
  | vbcast (t : Fin 64) (b : Bundle)
  | vred (t : Fin 64) (b : Bundle)
  | vsfu (t : Fin 64) (b : Bundle)
  | vcvt (t : Fin 64) (b : Bundle)
  | vld (t : Fin 64) (b : Bundle)
  | vst (t : Fin 64) (b : Bundle)
  | vrng (t : Fin 64) (b : Bundle)
  | s2Result (t : Fin 64) (op : Nat)
  | vstDone (t : Fin 64) (op : Nat)
  | vcvtMxDone (t : Fin 64) (op : Nat)
  | dma (t : Fin 64) (b : Bundle)
  | dmaDone (t : Fin 64) (op : Nat) (pcieError : Bool)
  | krot (t : Fin 64) (b : Bundle)
  | pcol (t : Fin 64) (b : Bundle)
  | semr (t : Fin 64) (b : Bundle)
  | semrSent (t : Fin 64) (op : Nat)
  | dld (t : Fin 64) (b : Bundle)
  | dstr (t : Fin 64) (b : Bundle)
  | ipf (t : Fin 64) (b : Bundle)
  -- Prism (06)
  | contribHeader (id : CollId) (rank : ChipId) (h : LaunchHeader)
  | mismatchNotice (id : CollId)
  | anchorEc (id : CollId) (rank : ChipId) (block : Nat) (ec : BitVec 16)
  | anchorReply (id : CollId) (owner : ChipId) (block : Nat) (anchor : BitVec 16)
  | contribution (id : CollId) (rank : ChipId) (data side : List Byte)
  | deadline (id : CollId)
  | shardComplete (id : CollId)
  | shardResult (id : CollId) (owner : ChipId) (data side : List Byte) (present : List ChipId)
  | collectiveComplete (id : CollId)
  | barrierComplete (id : CollId)
  | countExchange (id : CollId) (rank : ChipId) (count : Word)
  | capacityNotice (id : CollId)
  | sourceResetNotice (chip : ChipId)
  | failDeclaration (chip : ChipId)
  | memberFailTimeout (id : CollId) (rank : ChipId)
  | gtwCommit (path : Path)
  | gtwInvalidate (path : Path)
  | gtwRead (path : Path)
  -- Kaleidoscope (07), OUU registers (08)
  | krotGrant (ring : Fin 16) (hop : Word)
  | krotData (ring : Fin 16) (first : Option BlockHeader) (data : List Byte)
  | krotAck (ring : Fin 16) (bytes : Option Nat)
  | krotTimeout (ring : Fin 16)
  | rtwCommit (path : Path)
  | rtwInvalidate (path : Path)
  | rtwRead (path : Path)
  | ouuReload (path : Path) (p : Fin 8)
  | ouuTblWrite (path : Path) (p : Fin 8) (high : Bool) (value : Word)
  -- Digests and Mirror (09)
  | frameDigestFinal (t : Fin 64) (frame : BitVec 48)
  | mirrorDigest (t : Fin 64) (frame : BitVec 48) (digest : BitVec 128)
  | mirrorTimeout (p : Fin 8)
  -- Memory and Apertures (10)
  | patrolScrub (da : BitVec 40) (finding : ScrubFinding)
  | aowRequest (t : Fin 64) (op : Nat) (request : Nat) (errs : List CellError)
  | aowDataPiece (piece : Nat)
  | aowInitDone (side : BitVec 40)
  | aowCompletion (k : Nat)
  | aptCommit (path : Path)
  | aptInvalidate (path : Path) (keep : Bool)
  | aptRead (path : Path)
  | aptDrainTimeout
  | granuleZeroDone
  -- Channels and tenants (11)
  | doorbellSq (fn : Fin 512) (high : Word) (low : Option Word)
  | doorbellCq (fn : Fin 512) (high : Word) (low : Option Word)
  | doorbellLowHalf (fn : Fin 512) (cq : Bool) (low : Word)
  | commandFetch (ch : Fin 262144)
  | channelNop (ch : Fin 262144) (index : Word)
  | flush (ch : Fin 262144) (index : Word)
  | flushDone (ch : Fin 262144) (index : Word)
  | launch (ch : Fin 262144) (index : Word)
  | start (ch : Fin 262144) (index : Word)
  | invoke (ch : Fin 262144) (index : Word)
  | stop (ch : Fin 262144) (index : Word)
  | groupWrite (ch : Fin 262144) (index : Word)
  | ringWrite (ch : Fin 262144) (index : Word)
  | semSet (ch : Fin 262144) (index : Word)
  | copy (ch : Fin 262144) (index : Word) (errs : List CellError)
  | copyDone (ch : Fin 262144) (index : Word)
  | ckptReq (ch : Fin 262144) (index : Word)
  | cwCreate (path : Path)
  | cwDestroy (path : Path)
  | cwRead (path : Path)
  | cwStop (path : Path)
  | cwResume (path : Path)
  | tCommit (path : Path)
  | tRead (path : Path)
  | semSignalWrite (fn : Fin 512) (k : BitVec 13) (v : Word)
  | semSetWrite (fn : Fin 512) (k : BitVec 13) (v : Word)
  | semrArrive (tenant : Fin 512) (jobId : Word) (k : BitVec 13) (count : Nat)
  | flr (fn : Fin 512)
  | creditRecall (p : Fin 8) (tenant : Fin 512)
  -- Weight ingress (12)
  | fetch (ch : Fin 262144) (index : Word)
  | extentEnd (ch : Fin 262144) (index : Word) (extent : Nat) (wire : WireResult)
  | wsetCreate (ch : Fin 262144) (index : Word)
  | wsetBind (ch : Fin 262144) (index : Word)
  | wsetUnbind (ch : Fin 262144) (index : Word)
  | wsetFlip (ch : Fin 262144) (index : Word)
  | flipWordWrite (set : Fin 1024) (tenant : Fin 512)
  | wsetDestroy (ch : Fin 262144) (index : Word)
  | keyLoad (ch : Fin 262144) (index : Word) (journalOk : Bool)
  | keyClear (ch : Fin 262144) (index : Word) (journalOk : Bool)
  -- Optical links (13)
  | linkTrain (l : Fin 36) (r : TrainResult)
  | trainRetry (l : Fin 36)
  | laneFail (l : Fin 36) (lane : Fin 10)
  | narrowRetrainDone (l : Fin 36)
  | rlmPoll (id status : BitVec 16) (power pmin : List (BitVec 16)) (temp : BitVec 16)
  | flitReceive (l : Fin 36) (flit : List Byte) (uncorrectable : Bool) (corrected : List (Fin 10 × Nat))
  | replayTimeout (l : Fin 36)
  | packetReceive (h : LanePacket) (payload : List Byte)
  | linkCreditWatchdog (l : Fin 36) (vl : Fin 8) (tenant : Fin 512)
  | reserveRelease (l : Fin 36) (tenant : Fin 512)
  | lnkRetrain (path : Path) (l : Fin 36)
  | clrLanes (path : Path) (l : Fin 36)
  | linkDisable (path : Path) (l : Fin 36) (disable : Bool)
  | rlmEnable (path : Path) (en : Bool)
  | qpCommit (path : Path)
  | qpReset (path : Path)
  | qpRead (path : Path)
  | ethPacketReceive (l : Fin 36) (pkt : EthPacket)
  | qpTimeout (q : Fin 4096)
  | qpRateRise (q : Fin 4096)
  -- The I3C sideband, coordinates, managers and HALT_N (14)
  | entdaa (address : BitVec 7)
  | rstdaa
  | enec
  | disec
  | getpid
  | getbcr
  | getdcr
  | getstatus
  | getmwl
  | getmrl
  | rstact (action : Byte)
  | i3cUnsupportedCcc (code : Byte)
  | i3cPrivateWrite (offset : BitVec 16) (data : List Byte)
  | i3cPrivateRead (offset : BitVec 16)
  | commit
  | halt (path : Path)
  | haltDriveEnd
  | boardHalt
  | haltNLow
  | parentLost (newParent : Option ChipId)
  -- Faults, resets and elastic jobs (15)
  | frameWatchdog (t : Fin 64)
  | channelWatchdog (ch : Fin 262144)
  | serviceCoreWatchdog (core : Fin 8)
  | companionCoreWatchdog (core : Fin 24) (tenant : Fin 512)
  | resetWatchdog
  | computeReset (source : ResetSource)
  | resetDrainTimeout
  | dumpDone
  | resetEnd
  | memoryReset
  | hbmRetrainDone (ok : Bool) (writesKept : List Nat)
  | controlReset
  | controlRestartDone
  | wholeDeviceReset
  | resetCompute (path : Path)
  | resetMemory (path : Path)
  | resetControl (path : Path)
  | resetDevice (path : Path)
  | abandon (jobId : Word) (cause : ChipId)
  | warningReceive (chip : ChipId) (source : Fin 5)
  | cutOrder (jobId : Word) (c : BitVec 40)
  | cutReport (jobId : Word) (chip : ChipId) (stage : CutStage)
  | cutRelease (jobId : Word)
  | cutDrainDone (p : Fin 8) (wire : List (BitVec 8))
  | restoreDone (p : Fin 8) (wire : List WireResult)
  | admissionCopy (p : Fin 8) (extent : Nat) (data : List Byte) (digest : BitVec 128) (ue : Option (BitVec 40))
  -- Start-up, images and fuses (16)
  | resetNRise (railsInRange : Bool)
  | chipReady
  | flashRelease
  | fuseArm (path : Path) (key : BitVec 16)
  | fuseProgram (path : Path)
  | fuseProgramDone (intact : Bool)
  | fuseRead (path : Path)
  | imageStage (path : Path)
  | imageStageDone (ok : Bool)
  | imageActivate (path : Path)
  | activationSwap
  | activateCancel (path : Path)
  -- Register interface (17)
  | registerWrite (path : Path) (offset : BitVec 29) (enables : BitVec 4) (value : Word)
  | rcRead (path : Path) (offset : BitVec 29) (enables : BitVec 4)
  | registerStallTimeout (path : Path) (offset : BitVec 29) (write : Bool)
  | glbStrobe (path : Path) (blocks : Word)
  | pwrApply (path : Path)
  | pwrCfgWrite (path : Path) (value : Word)
  | stagingWrite (path : Path) (value : Word)
  | blockEnableWrite (path : Path) (value : Word)
  | mbxRequest (path : Path) (window : MbxWindow) (value : Word)
  | mbxServe (window : MbxWindow)
  -- Counters, console and debug (18)
  | counterClear (path : Path) (c : Fin 712)
  | brkEnWrite (path : Path) (t : Fin 64) (en : Bool)
  | tileDebugHalt (path : Path) (t : Fin 64)
  | tileDebugResume (path : Path) (t : Fin 64)
  | tileDebugStep (path : Path) (t : Fin 64)
  | uartRxChar (data : Byte) (stop : Bool)
  | uartTxWrite (path : Path) (data : Byte)
  | uartRxRead (path : Path)
  | idcode
  | samplePreload (pins preload : List Bool)
  | extest
  | clamp
  | highz
  | dtmcs
  | dmi (a : DmiAccess)
  | bypass
  -- Package, power and signals (19)
  | railMonitorTrip (rail : Fin 8)
  | refclkLoss
  | refclkRestore
  | thermalSample (die iod hbm oe : List (BitVec 8))
  | thermalRelease
  | resetNLow
  | perstNRise
  | haltNRelease
  -- Managers and activation (02, 11, 14, 15, 16, 18)
  | activationRelease
  | gangPreemption (jobId : Word)
  | registration (chip : ChipId) (jobId : Word) (mode : Bool) (stepFrames : Word) (launching : Bool)
  | workerReport (chip : ChipId) (jobId : Word) (r : Report)
  | gtcReformLimit
  | holdMinExpiry (jobId : Word)
  | uartTxChar
deriving DecidableEq, Repr

end Sys2Proof
end

