-- ==== Sys2Proof/Decode.lean ====
section
/-!
DEFINITION. The decoder of table words. No row of spec/opcode_table.json gives bits: the rows are events and
operations of the block, so no word spells a command.
-/

namespace Sys2Proof

/-- The command that `nbits` bits of a table word spell: none, for every word. -/
def decodeTableWord (_nbits _w : Nat) : Option Instr := none

end Sys2Proof
end

