-- ==== Sys2Proof/Machine/Num.lean ====
section
/-!
DEFINITION. Element formats and rounding (04 R68-R74, R83, R91): exact dyadic values, the nine element encodings, the
rounding modes and the IEEE operations of the vector and matrix units. Every operation is computed exactly and rounded
once at the end.
-/

namespace Sys2Proof.Machine

/-- A dyadic number: its magnitude is `man` × 2^`exp`; a zero keeps its sign. -/
structure Dy where
  neg : Bool
  man : Nat
  exp : Int
deriving DecidableEq, Repr

/-- A value of a binary format. -/
inductive Val where
  | nan
  | inf (neg : Bool)
  | fin (d : Dy)
deriving DecidableEq, Repr

/-- The rounding modes of Table 4.4; `sr` carries its 16 random bits. -/
inductive RMode where
  | rne
  | rtz
  | sr (r : Nat)
deriving DecidableEq, Repr

/-- The formats of Table 5.4. -/
inductive Fmt where
  | b32 | bf16 | b16 | e4m3 | e5m2 | e3m2 | e2m3 | e2m1 | int8 | ws64 | ws128 | bytes
deriving DecidableEq, Repr

/-- Format codes (Table 5.4); 0xC-0xF are reserved. -/
def Fmt.ofCode (c : BitVec 4) : Option Fmt :=
  match c.toNat with
  | 0 => some .b32 | 1 => some .bf16 | 2 => some .b16 | 3 => some .e4m3 | 4 => some .e5m2 | 5 => some .e3m2
  | 6 => some .e2m3 | 7 => some .e2m1 | 8 => some .int8 | 9 => some .ws64 | 10 => some .ws128 | 11 => some .bytes
  | _ => none

/-- The bits of one element (Table 4.1, R84); bytes count eight. -/
def Fmt.bits : Fmt → Nat
  | .b32 => 32 | .bf16 => 16 | .b16 => 16 | .e4m3 => 8 | .e5m2 => 8 | .e3m2 => 6 | .e2m3 => 6 | .e2m1 => 4 | .int8 => 8
  | .ws64 => 64 | .ws128 => 128 | .bytes => 8

/-- The MX formats. -/
def Fmt.isMx : Fmt → Bool
  | .e4m3 | .e5m2 | .e3m2 | .e2m3 | .e2m1 | .int8 => true
  | _ => false

/-- The wide-sum formats (R84). -/
def Fmt.isWs : Fmt → Bool
  | .ws64 | .ws128 => true
  | _ => false

/-- Exponent bits, mantissa bits and bias of a floating-point format (Table 4.1); binary64 serves the optimiser. -/
structure FpShape where
  eb : Nat
  mb : Nat
  bias : Nat
deriving DecidableEq, Repr

def shapeB32 : FpShape := ⟨8, 23, 127⟩
def shapeB64 : FpShape := ⟨11, 52, 1023⟩

/-- The shape of each floating-point element; MXINT8, the wide sums and bytes have none and take that of binary32. -/
def Fmt.shape : Fmt → FpShape
  | .b32 => shapeB32 | .bf16 => ⟨8, 7, 127⟩ | .b16 => ⟨5, 10, 15⟩ | .e4m3 => ⟨4, 3, 7⟩ | .e5m2 => ⟨5, 2, 15⟩
  | .e3m2 => ⟨3, 2, 3⟩ | .e2m3 => ⟨2, 3, 1⟩ | .e2m1 => ⟨2, 1, 1⟩
  | _ => shapeB32

/-- lsb, top and emax of the MX elements (Table 4.3). -/
def Fmt.lsb : Fmt → Int
  | .e2m1 => -1 | .e2m3 => -3 | .e3m2 => -4 | .e4m3 => -9 | .e5m2 => -16 | .int8 => -6 | _ => 0
def Fmt.top : Fmt → Int
  | .e2m1 => 3 | .e2m3 => 3 | .e3m2 => 5 | .e4m3 => 9 | .e5m2 => 16 | .int8 => 1 | _ => 0
def Fmt.emax : Fmt → Int
  | .e2m1 => 2 | .e2m3 => 2 | .e3m2 => 4 | .e4m3 => 8 | .e5m2 => 15 | .int8 => 0 | _ => 0

/-! ### Dyadic arithmetic -/

def Dy.zero (neg : Bool) : Dy := ⟨neg, 0, 0⟩

/-- The integer `man` with its sign. -/
def Dy.signed (d : Dy) : Int := if d.neg then -(d.man : Int) else d.man

def Dy.ofInt (x : Int) (e : Int) : Dy := ⟨decide (x < 0), x.natAbs, e⟩

/-- The exact sum; an exact zero is +0 unless both terms are negative (R83). -/
def Dy.add (a b : Dy) : Dy :=
  let e := min a.exp b.exp
  let x := a.signed * ((2 ^ (a.exp - e).toNat : Nat) : Int) + b.signed * ((2 ^ (b.exp - e).toNat : Nat) : Int)
  if x = 0 then ⟨a.neg && b.neg, 0, e⟩ else ⟨decide (x < 0), x.natAbs, e⟩

def Dy.mul (a b : Dy) : Dy := ⟨a.neg != b.neg, a.man * b.man, a.exp + b.exp⟩

def Dy.neg' (a : Dy) : Dy := { a with neg := !a.neg }

/-- floor(log2 |d|) of a non-zero value. -/
def Dy.log2 (d : Dy) : Int := (Nat.log2 d.man : Int) + d.exp

/-- Exact comparison of values (−0 equals +0). -/
def Dy.lt (a b : Dy) : Bool :=
  let e := min a.exp b.exp
  decide (a.signed * ((2 ^ (a.exp - e).toNat : Nat) : Int) < b.signed * ((2 ^ (b.exp - e).toNat : Nat) : Int))

/-- Whether |a| is below 2^e. -/
def Dy.absBelow (a : Dy) (e : Int) : Bool := a.man == 0 || decide (a.log2 < e)

/-! ### Rounding (R73, Table 4.4) -/

/-- m / 2^s rounded to an integer. -/
def roundShift (md : RMode) (m s : Nat) : Nat :=
  let k := m / 2 ^ s
  let f := m - k * 2 ^ s
  match md with
  | .rtz => k
  | .rne => if 2 * f > 2 ^ s || (2 * f == 2 ^ s && k % 2 == 1) then k + 1 else k
  | .sr r => if f * 65536 / 2 ^ s + r ≥ 65536 then k + 1 else k

/-- |d| as a multiple of 2^q, rounded to an integer. -/
def Dy.roundAt (md : RMode) (d : Dy) (q : Int) : Nat :=
  if d.exp ≥ q then d.man * 2 ^ (d.exp - q).toNat else roundShift md d.man (q - d.exp).toNat

/-- The exponent of the last place that a value keeps in a format. -/
def FpShape.quantum (f : FpShape) (d : Dy) : Int :=
  let qmin : Int := 1 - (f.bias : Int) - f.mb
  if d.man = 0 then qmin else max qmin (d.log2 - f.mb)

/-- The magnitude bits (exponent and mantissa) of a value rounded without a bound on the exponent. -/
def FpShape.encodeMag (f : FpShape) (md : RMode) (d : Dy) : Nat :=
  let qmin : Int := 1 - (f.bias : Int) - f.mb
  let q := f.quantum d
  (q - qmin).toNat * 2 ^ f.mb + d.roundAt md q

/-- The sign bit of a format's word. -/
def FpShape.signBit (f : FpShape) (neg : Bool) : Nat := if neg then 2 ^ (f.eb + f.mb) else 0

/-- The magnitude bits of infinity. -/
def FpShape.infMag (f : FpShape) : Nat := (2 ^ f.eb - 1) * 2 ^ f.mb

/-- The canonical NaN of an IEEE format (Table 4.2). -/
def FpShape.nanBits (f : FpShape) : Nat := f.infMag + 2 ^ (f.mb - 1)

/-- Round a value into an IEEE format: overflow is ±Infinity under RNE, the largest finite value under RTZ and SR
(R72, R74). -/
def FpShape.ofVal (f : FpShape) (md : RMode) : Val → Nat
  | .nan => f.nanBits
  | .inf n => f.signBit n + f.infMag
  | .fin d =>
    let m := f.encodeMag md d
    let m := if m < f.infMag then m else match md with
      | .rne => f.infMag
      | _ => f.infMag - 1
    f.signBit d.neg + m

/-- The value of magnitude bits, every exponent taken as finite. -/
def FpShape.magVal (f : FpShape) (neg : Bool) (m : Nat) : Dy :=
  let e := m / 2 ^ f.mb
  let x := m % 2 ^ f.mb
  if e = 0 then ⟨neg, x, 1 - (f.bias : Int) - f.mb⟩
  else ⟨neg, 2 ^ f.mb + x, (e : Int) - f.bias - f.mb⟩

/-- The value of an IEEE word. -/
def FpShape.toVal (f : FpShape) (w : Nat) : Val :=
  let n := decide (w / 2 ^ (f.eb + f.mb) % 2 = 1)
  let m := w % 2 ^ (f.eb + f.mb)
  if m < f.infMag then .fin (f.magVal n m) else if m = f.infMag then .inf n else .nan

/-! ### Elements (R68, R69, R70) -/

/-- The value of an element; MX elements without their block scale. -/
def Fmt.toVal (f : Fmt) (w : Nat) : Val :=
  match f with
  | .b32 | .bf16 | .b16 | .e5m2 => f.shape.toVal w
  | .e4m3 => if w % 128 = 127 then .nan else .fin (f.shape.magVal (decide (w / 128 % 2 = 1)) (w % 128))
  | .e3m2 | .e2m3 => .fin (f.shape.magVal (decide (w / 32 % 2 = 1)) (w % 32))
  | .e2m1 => .fin (f.shape.magVal (decide (w / 8 % 2 = 1)) (w % 8))
  | .int8 => .fin (Dy.ofInt (BitVec.ofNat 8 w).toInt (-6))
  | .ws64 | .ws128 | .bytes => .nan

/-- The value of an element under its scale byte: 2^(byte − 127), NaN for 0xFF (R69). -/
def Val.scaled (v : Val) (scale : Nat) : Val :=
  if scale % 256 = 255 then .nan else
  match v with
  | .fin d => .fin { d with exp := d.exp + (scale % 256 : Nat) - 127 }
  | v => v

/-- The largest magnitude code of an MX format (Table 4.1). -/
def Fmt.maxMag : Fmt → Nat
  | .e4m3 => 0x7E | .e5m2 => 0x7B | .e3m2 => 0x1F | .e2m3 => 0x1F | .e2m1 => 0x7 | .int8 => 127
  | _ => 0

/-- One finite value, already divided by its block scale, into an MX element: the code, and whether it saturated
(R71, R72). −0 keeps its sign in E5M2 and E4M3 only (Table 4.7). -/
def Fmt.mxElem (f : Fmt) (md : RMode) (d : Dy) : Nat × Bool :=
  match f with
  | .int8 =>
    let m := d.roundAt md (-6)
    let sat := decide (127 < m)
    let m := if sat then 127 else m
    ((if d.neg then (256 - m) % 256 else m), sat)
  | _ =>
    let m := f.shape.encodeMag md d
    let sat := decide (f.maxMag < m)
    let m := if sat then f.maxMag else m
    let keep := d.man != 0 || f == .e5m2 || f == .e4m3
    (f.shape.signBit (d.neg && keep) + m, sat)

/-- The code of a non-finite value in the formats that have one (R71). -/
def Fmt.mxSpecial (f : Fmt) : Val → Nat
  | .inf n => if f == .e5m2 then (if n then 0xFC else 0x7C) else 0x7F
  | _ => 0x7F

/-- Whether the format has codes for non-finite values. -/
def Fmt.hasSpecial (f : Fmt) : Bool := f == .e5m2 || f == .e4m3

def Val.isFin : Val → Bool
  | .fin _ => true
  | _ => false

/-- floor(log2 amax) over the finite values, `none` when amax is zero. -/
def amaxLog (vs : List Val) : Option Int :=
  vs.foldl (fun m v => match v with
    | .fin d => if d.man = 0 then m else match m with
      | none => some d.log2
      | some x => some (max x d.log2)
    | _ => m) none

/-- The block scale of R71; 0xFF for a NaN block. -/
def Fmt.blockScale (f : Fmt) (vs : List Val) : Nat :=
  if !f.hasSpecial && vs.any (fun v => !v.isFin) then 0xFF else
  match amaxLog vs with
  | none => 0x7F
  | some l => (max (-127) (min 127 (l - f.emax)) + 127).toNat

/-- A block cast into an MX format (R71): the scale byte and, per element, its code and whether it saturated; `md i`
is the rounding of element i. -/
def Fmt.castBlock (f : Fmt) (md : Nat → RMode) (vs : List Val) : Nat × List (Nat × Bool) :=
  let s := f.blockScale vs
  if s = 0xFF then (s, vs.map fun _ => (0, false)) else
  (s, vs.mapIdx fun i v => match v with
    | .fin d => f.mxElem (md i) { d with exp := d.exp - ((s : Int) - 127) }
    | v => (f.mxSpecial v, false))

/-- A value into a binary format (R72). -/
def Fmt.ofVal (f : Fmt) (md : RMode) (v : Val) : Nat := f.shape.ofVal md v

/-! ### IEEE operations (R83, R110) -/

def Val.add : Val → Val → Val
  | .nan, _ => .nan
  | _, .nan => .nan
  | .inf a, .inf b => if a = b then .inf a else .nan
  | .inf a, _ => .inf a
  | _, .inf b => .inf b
  | .fin a, .fin b => .fin (a.add b)

def Val.neg : Val → Val
  | .nan => .nan
  | .inf a => .inf (!a)
  | .fin a => .fin a.neg'

def Val.signNeg : Val → Bool
  | .nan => false
  | .inf a => a
  | .fin a => a.neg

def Val.mul : Val → Val → Val
  | .nan, _ => .nan
  | _, .nan => .nan
  | .fin a, .fin b => .fin (a.mul b)
  | .inf a, .inf b => .inf (a != b)
  | .inf a, .fin b => if b.man = 0 then .nan else .inf (a != b.neg)
  | .fin a, .inf b => if a.man = 0 then .nan else .inf (a.neg != b)

/-- a < b of two values that are no NaN. -/
def Val.ltNum : Val → Val → Bool
  | .inf true, .inf true => false
  | .inf true, _ => true
  | .inf false, _ => false
  | _, .inf b => !b
  | .fin a, .fin b => a.lt b
  | _, _ => false

/-- The comparison a < b; false with a NaN. -/
def Val.lt : Val → Val → Bool
  | .nan, _ => false
  | _, .nan => false
  | a, b => a.ltNum b

/-- The comparison a = b; −0 equals +0, and a NaN equals nothing. -/
def Val.eq (a b : Val) : Bool :=
  match a, b with
  | .nan, _ => false
  | _, .nan => false
  | a, b => !a.ltNum b && !b.ltNum a

/-- minimum and maximum of IEEE 754-2019: a NaN gives NaN, −0 is below +0 (R110). -/
def Val.minimum (a b : Val) : Val :=
  match a, b with
  | .nan, _ => .nan
  | _, .nan => .nan
  | a, b => if a.ltNum b then a else if b.ltNum a then b else if a.signNeg then a else b

def Val.maximum (a b : Val) : Val :=
  match a, b with
  | .nan, _ => .nan
  | _, .nan => .nan
  | a, b => if a.ltNum b then b else if b.ltNum a then a else if a.signNeg then b else a

/-- Binary32 words. -/
def f32 (w : Word) : Val := shapeB32.toVal w.toNat
def toF32 (md : RMode) (v : Val) : Word := BitVec.ofNat 32 (shapeB32.ofVal md v)
def f64 (w : Dword) : Val := shapeB64.toVal w.toNat
def toF64 (md : RMode) (v : Val) : Dword := BitVec.ofNat 64 (shapeB64.ofVal md v)

def addF32 (a b : Word) : Word := toF32 .rne ((f32 a).add (f32 b))
def mulF32 (a b : Word) : Word := toF32 .rne ((f32 a).mul (f32 b))
/-- a × b + c with one rounding. -/
def fmaF32 (a b c : Word) : Word := toF32 .rne (((f32 a).mul (f32 b)).add (f32 c))

/-- Adjacent pairs added, an odd last element kept. -/
def pairSums (add : Word → Word → Word) : List Word → List Word
  | a :: b :: r => add a b :: pairSums add r
  | l => l

/-- A pairwise tree of `levels` levels (R81, Table 5.11). -/
def treeSum (add : Word → Word → Word) : Nat → List Word → List Word
  | 0, l => l
  | n + 1, l => treeSum add n (pairSums add l)

/-! ### Packed elements (R69) -/

/-- Little-endian bytes as a number (R5). -/
def bytesToNat : List Byte → Nat
  | [] => 0
  | b :: bs => b.toNat + 256 * bytesToNat bs

/-- `n` little-endian bytes of a number. -/
def natToBytes (n x : Nat) : List Byte := (List.range n).map fun i => BitVec.ofNat 8 (x / 256 ^ i)

/-- Element `i` of an array of `f` elements in little-endian bytes (R69: four MXFP6 elements fill 24 bits). -/
def packedElem (f : Fmt) (read : Nat → Byte) (i : Nat) : Nat :=
  let lo := i * f.bits
  let b0 := lo / 8
  let b1 := (lo + f.bits + 7) / 8
  bytesToNat ((List.range (b1 - b0)).map fun j => read (b0 + j)) / 2 ^ (lo % 8) % 2 ^ f.bits

/-- Elements packed into little-endian bytes, whole bytes together. -/
def packElems (f : Fmt) (xs : List Nat) : List Byte :=
  let total := xs.foldr (fun x acc => x % 2 ^ f.bits + 2 ^ f.bits * acc) 0
  natToBytes ((xs.length * f.bits + 7) / 8) total

/-- `n` fields of `b` bits, the lowest first. -/
def peel (b : Nat) : Nat → Nat → List Nat
  | 0, _ => []
  | n + 1, x => x % 2 ^ b :: peel b n (x / 2 ^ b)

/-- `n` elements of packed little-endian bytes. -/
def unpackElems (f : Fmt) (n : Nat) (data : List Byte) : List Nat := peel f.bits n (bytesToNat data)

/-- The bytes of `n` elements. -/
def Fmt.bytesFor (f : Fmt) (n : Nat) : Nat := (n * f.bits + 7) / 8

/-- Consecutive pieces of at most `k` items; `fuel` bounds their count. -/
def chunksGo {α : Type} (k : Nat) : Nat → List α → List (List α)
  | 0, _ => []
  | fuel + 1, l => match l with
    | [] => []
    | l => l.take k :: chunksGo k fuel (l.drop k)
def chunks {α : Type} (k : Nat) (l : List α) : List (List α) := chunksGo k l.length l

end Sys2Proof.Machine
end

