-- ==== Sys2Proof/Machine/Crypto.lean ====
section
/-!
DEFINITION. The published algorithms that the spec names: SHA-256 and SHA-384 (FIPS 180-4), AES-256 in Galois/counter mode
(FIPS 197, NIST SP 800-38D), P-384 with ECDSA verification (FIPS 186-5). Numbers are naturals, strings lists of bytes.
-/

namespace Sys2Proof.Machine

/-! ### Big-endian strings -/

def beToNat (l : List Byte) : Nat := l.foldl (fun n b => n * 256 + b.toNat) 0
def natToBe (n x : Nat) : List Byte := (natToBytes n x).reverse

/-! ### SHA-2 (FIPS 180-4) -/

/-- f of a number that is evaluated first. -/
def eager {α : Type} (n : Nat) (f : Nat → α) : α := match n with
  | 0 => f 0
  | k + 1 => f (k + 1)

/-- What tells SHA-256 and SHA-512 apart: word width, rounds, and the rotations of their four sigma functions. -/
structure Sha2 where
  w : Nat
  rounds : Nat
  big0 : Nat × Nat × Nat
  big1 : Nat × Nat × Nat
  small0 : Nat × Nat × Nat
  small1 : Nat × Nat × Nat

def sha256P : Sha2 := ⟨32, 64, (2, 13, 22), (6, 11, 25), (7, 18, 3), (17, 19, 10)⟩
def sha512P : Sha2 := ⟨64, 80, (28, 34, 39), (14, 18, 41), (1, 8, 7), (19, 61, 6)⟩

/-- The largest r below 2^b above the bits found with r^k at most n. -/
def rootBits (k n : Nat) : Nat → Nat → Nat
  | 0, r => r
  | b + 1, r => rootBits k n b (if (r + 2 ^ b) ^ k ≤ n then r + 2 ^ b else r)

/-- The first 64 bits of the fractional part of the k-th root of p. -/
def rootFrac (k p : Nat) : Nat := rootBits k (p * 2 ^ (64 * k)) 70 0 % 2 ^ 64


/-- Primes below 441. -/
def isPrime (n : Nat) : Bool := decide (2 ≤ n) && (List.range 21).all fun d => decide (d < 2) || decide (n ≤ d) || n % d != 0
/-- The first 80 primes. -/
def shaPrimes : List Nat := (List.range 410).filter isPrime

/-- Round constants: cube roots of the first primes. -/
def shaK : List Nat := shaPrimes.map (rootFrac 3)

def Sha2.rotr (f : Sha2) (x n : Nat) : Nat := x / 2 ^ n + x % 2 ^ n * 2 ^ (f.w - n)
def Sha2.big (f : Sha2) (r : Nat × Nat × Nat) (x : Nat) : Nat := f.rotr x r.1 ^^^ f.rotr x r.2.1 ^^^ f.rotr x r.2.2
/-- Two rotations and a shift. -/
def Sha2.small (f : Sha2) (r : Nat × Nat × Nat) (x : Nat) : Nat := f.rotr x r.1 ^^^ f.rotr x r.2.1 ^^^ (x / 2 ^ r.2.2)

/-- n further words of the schedule, the newest first. -/
def Sha2.schedule (f : Sha2) : Nat → List Nat → List Nat
  | 0, l => l
  | n + 1, l => eager ((f.small f.small1 (l.getD 1 0) + l.getD 6 0 + f.small f.small0 (l.getD 14 0) + l.getD 15 0) % 2 ^ f.w) fun x =>
    f.schedule n (x :: l)

/-- The working variables. -/
structure Work where
  a : Nat
  b : Nat
  c : Nat
  d : Nat
  e : Nat
  f : Nat
  g : Nat
  h : Nat

/-- One round with its constant and its word of the schedule. -/
def Sha2.round (f : Sha2) (x : Work) (k w : Nat) : Work := match x with
  | ⟨a, b, c, d, e, ef, g, h⟩ =>
    let m := 2 ^ f.w
    eager (h + f.big f.big1 e + ((e &&& ef) ^^^ ((m - 1 - e) &&& g)) + k / 2 ^ (64 - f.w) + w) fun t =>
    eager ((t + f.big f.big0 a + ((a &&& b) ^^^ (a &&& c) ^^^ (b &&& c))) % m) fun a' =>
    eager ((d + t) % m) fun e' => ⟨a', a, b, c, e', e, ef, g⟩

def Sha2.runRounds (f : Sha2) : List (Nat × Nat) → Work → Work
  | [], x => x
  | kw :: l, x => f.runRounds l (f.round x kw.1 kw.2)

def Sha2.block (f : Sha2) (x : Work) (b : List Byte) : Work :=
  let ws := ((chunks (f.w / 8) b).map beToNat).reverse
  let y := f.runRounds (List.zip (shaK.take f.rounds) (f.schedule (f.rounds - 16) ws).reverse) x
  let m := 2 ^ f.w
  ⟨(x.a + y.a) % m, (x.b + y.b) % m, (x.c + y.c) % m, (x.d + y.d) % m, (x.e + y.e) % m, (x.f + y.f) % m, (x.g + y.g) % m, (x.h + y.h) % m⟩

/-- The message with its padding: 0x80, zeros, the bit length in two words. -/
def Sha2.pad (f : Sha2) (l : List Byte) : List Byte :=
  let n := 2 * f.w
  let z := (2 * n - (l.length + 1 + f.w / 4) % n) % n
  l ++ [0x80] ++ List.replicate z 0 ++ natToBe (f.w / 4) (8 * l.length)

def Work.ofList (l : List Nat) : Work :=
  ⟨l.getD 0 0, l.getD 1 0, l.getD 2 0, l.getD 3 0, l.getD 4 0, l.getD 5 0, l.getD 6 0, l.getD 7 0⟩
def Work.words (x : Work) : List Nat := [x.a, x.b, x.c, x.d, x.e, x.f, x.g, x.h]

def Sha2.hash (f : Sha2) (iv : List Nat) (l : List Byte) : List Byte :=
  ((chunks (2 * f.w) (f.pad l)).foldl f.block (Work.ofList iv)).words.flatMap (natToBe (f.w / 8))

/-- SHA-256: 32 bytes. -/
def sha256 (l : List Byte) : List Byte :=
  sha256P.hash ((shaPrimes.take 8).map fun p => rootFrac 2 p / 2 ^ 32) l

/-- SHA-384: the first 48 bytes under its own initial value. -/
def sha384 (l : List Byte) : List Byte := (sha512P.hash (((shaPrimes.drop 8).take 8).map (rootFrac 2)) l).take 48

/-! ### AES-256 (FIPS 197) -/

/-- Multiplication in GF(2^8) modulo x^8 + x^4 + x^3 + x + 1. -/
def gf8 (a b : Nat) : Nat :=
  ((List.range 8).foldl (fun (s : Nat × Nat) i =>
    (if b.testBit i then s.1 ^^^ s.2 else s.1, if 128 ≤ s.2 then (2 * s.2) ^^^ 0x11B else 2 * s.2)) (0, a)).1

def gf8Sq (a : Nat) : Nat := gf8 a a

/-- The inverse a^254. -/
def gf8Inv (a : Nat) : Nat :=
  let a2 := gf8Sq a
  let a3 := gf8 a2 a
  let a12 := gf8Sq (gf8Sq a3)
  let a15 := gf8 a12 a3
  let a240 := gf8Sq (gf8Sq (gf8Sq (gf8Sq a15)))
  gf8 (gf8 a240 a12) a2

def aesSbox (a : Nat) : Nat :=
  let b := gf8Inv a
  let r := fun n => b * 2 ^ n % 256 ||| b / 2 ^ (8 - n)
  b ^^^ r 1 ^^^ r 2 ^^^ r 3 ^^^ r 4 ^^^ 0x63

def aesTable : List Nat := (List.range 256).map aesSbox
def aesSub (a : Nat) : Nat := aesTable.getD a 0

def xorList (a b : List Nat) : List Nat := List.zipWith (· ^^^ ·) a b

/-- The round keys as 60 words of four bytes: each word from the one before and the one eight before. -/
def aesExpand (key : List Nat) : List (List Nat) :=
  (List.range 52).foldl (fun ws j =>
    let i := j + 8
    let t := ws.getD (i - 1) []
    let t := if i % 8 = 0 then xorList ((t.drop 1 ++ t.take 1).map aesSub) [2 ^ (i / 8 - 1) % 256, 0, 0, 0]
      else if i % 8 = 4 then t.map aesSub else t
    ws ++ [xorList (ws.getD (i - 8) []) t]) (chunks 4 key)

def mixColumn (c : List Nat) : List Nat :=
  (List.range 4).map fun r =>
    let x := fun i => c.getD ((r + i) % 4) 0
    gf8 (x 0) 2 ^^^ gf8 (x 1) 3 ^^^ x 2 ^^^ x 3

def shiftRows (s : List Nat) : List Nat := (List.range 16).map fun i => s.getD (i % 4 + 4 * ((i / 4 + i % 4) % 4)) 0

/-- One block of 16 bytes under expanded keys. -/
def aesBlock (ws : List (List Nat)) (s : List Nat) : List Nat :=
  let rk := fun n => ((ws.drop (4 * n)).take 4).flatten
  (List.range 14).foldl (fun s n =>
    let s := shiftRows (s.map aesSub)
    let s := if n = 13 then s else ((chunks 4 s).map mixColumn).flatten
    xorList s (rk (n + 1))) (xorList s (rk 0))

/-! ### GCM (NIST SP 800-38D) -/

/-- Multiplication in GF(2^128), bit 0 of a block its most significant bit. -/
def gf128 (x y : Nat) : Nat :=
  ((List.range 128).foldl (fun (s : Nat × Nat) i =>
    (if x.testBit (127 - i) then s.1 ^^^ s.2 else s.1,
     if s.2 % 2 = 1 then (s.2 / 2) ^^^ (0xE1 * 2 ^ 120) else s.2 / 2)) (0, y)).1

/-- GHASH of a string, each part padded to whole blocks. -/
def ghash (h : Nat) (l : List Byte) : Nat :=
  (chunks 16 l).foldl (fun y b => gf128 (y ^^^ beToNat (b ++ List.replicate (16 - b.length) 0)) h) 0

def padTo16 (l : List Byte) : List Byte := l ++ List.replicate ((16 - l.length % 16) % 16) 0

def aesEnc (ws : List (List Nat)) (block : List Byte) : List Byte :=
  (aesBlock ws (block.map (·.toNat))).map (BitVec.ofNat 8)

/-- AES-256-GCM decryption with a 96-bit IV: the plaintext, and whether the tag holds. -/
def gcmDecrypt (key iv aad ct tag : List Byte) : List Byte × Bool :=
  let ws := aesExpand (key.map (·.toNat))
  let h := beToNat (aesEnc ws (List.replicate 16 0))
  let ctr := fun n => aesEnc ws (iv ++ natToBe 4 n)
  let pt := ((chunks 16 ct).mapIdx fun i b => List.zipWith (· ^^^ ·) b (ctr ((i + 2) % 2 ^ 32))).flatten
  let s := ghash h (padTo16 aad ++ padTo16 ct ++ natToBe 8 (8 * aad.length) ++ natToBe 8 (8 * ct.length))
  (pt, natToBe 16 (s ^^^ beToNat (ctr 1)) == tag)

/-! ### P-384 (NIST SP 800-186) and ECDSA (FIPS 186-5) -/

def p384 : Nat := 2 ^ 384 - 2 ^ 128 - 2 ^ 96 + 2 ^ 32 - 1
def p384N : Nat :=
  0xFFFFFFFFFFFFFFFFFFFFFFFFFFFFFFFFFFFFFFFFFFFFFFFFC7634D81F4372DDF581A0DB248B0A77AECEC196ACCC52973
def p384B : Nat :=
  0xB3312FA7E23EE7E4988E056BE3F82D19181D9C6EFE8141120314088F5013875AC656398D8A2ED19D2A85C8EDD3EC2AEF

/-- A point: none is the point at infinity. -/
abbrev Point := Option (Nat × Nat)

def p384G : Point := some
  (0xAA87CA22BE8B05378EB1C71EF320AD746E1D3B628BA79B9859F741E082542A385502F25DBF55296C3A545E3872760AB7,
   0x3617DE4A96262C6F5D9E98BF9292DC29F8F41DBD289A147CE9DA3113B5F0B8C00A60B1CE1D7E819D7A431D7C90EA0E5F)

/-- base^e modulo m over the low `n` bits of e. -/
def powMod (m base e : Nat) : Nat → Nat
  | 0 => 1 % m
  | n + 1 => let r := powMod m base (e / 2) n
             let sq := r * r % m
             if e % 2 = 1 then sq * base % m else sq

/-- The inverse modulo a prime of at most 384 bits. -/
def invMod (m a : Nat) : Nat := powMod m a (m - 2) 384

def subMod (m a b : Nat) : Nat := (a + m - b % m) % m

/-- Addition on the curve y² = x³ − 3x + b. -/
def pointAdd : Point → Point → Point
  | none, q => q
  | p, none => p
  | some (x1, y1), some (x2, y2) =>
    if x1 = x2 && (y1 + y2) % p384 = 0 then none else
    let l := if x1 = x2 then (3 * x1 * x1 + p384 - 3) % p384 * invMod p384 (2 * y1 % p384) % p384
      else subMod p384 y2 y1 * invMod p384 (subMod p384 x2 x1) % p384
    let x3 := subMod p384 (l * l) (x1 + x2)
    some (x3, subMod p384 (l * subMod p384 x1 x3) y1)

/-- A point as X / Z², Y / Z³; Z is 0 at infinity. -/
structure Jac where
  x : Nat
  y : Nat
  z : Nat

/-- The same with its coordinates reduced. -/
def jac (x y z : Nat) : Jac := eager (x % p384) fun x => eager (y % p384) fun y => eager (z % p384) fun z => ⟨x, y, z⟩

/-- Twice a point. -/
def Jac.double : Jac → Jac
  | ⟨x, y, z⟩ =>
    eager (y * y % p384) fun yy => eager (4 * x * yy % p384) fun s =>
    eager (3 * (x + z * z) * subMod p384 x (z * z) % p384) fun m => eager (subMod p384 (m * m) (2 * s)) fun x3 =>
    jac x3 (subMod p384 (m * subMod p384 s x3) (8 * yy * yy)) (2 * y * z)

/-- The sum with an affine point. -/
def Jac.add (p : Jac) (x2 y2 : Nat) : Jac := match p with
  | ⟨x, y, z⟩ =>
    if z = 0 then jac x2 y2 1 else
    eager (z * z % p384) fun zz => eager (subMod p384 (x2 * zz) x) fun h =>
    eager (subMod p384 (y2 * zz * z) y) fun r =>
    if h = 0 then (if r = 0 then Jac.double p else ⟨1, 1, 0⟩) else
    eager (h * h % p384) fun hh => eager (x * hh % p384) fun v =>
    eager (subMod p384 (r * r) (h * hh + 2 * v)) fun x3 =>
    jac x3 (subMod p384 (r * subMod p384 v x3) (y * h * hh)) (z * h)

/-- Its affine coordinates. -/
def Jac.affine : Jac → Point
  | ⟨x, y, z⟩ => if z = 0 then none else eager (invMod p384 z) fun i => some (x * i * i % p384, y * i * i * i % p384)

/-- k times (x, y) over the low `n` bits of k. -/
def jacMul (k x y : Nat) : Nat → Jac
  | 0 => ⟨1, 1, 0⟩
  | n + 1 => let d := (jacMul (k / 2) x y n).double
             if k % 2 = 1 then d.add x y else d

/-- k·p over the low `n` bits of k. -/
def pointMul (k : Nat) (p : Point) (n : Nat) : Point := match p with
  | none => none
  | some (x, y) => (jacMul k x y n).affine

def onCurve (x y : Nat) : Bool :=
  decide (x < p384) && decide (y < p384) && y * y % p384 == (x * x * x + (p384 - 3) * x + p384B) % p384

/-- An uncompressed point of 97 bytes: 0x04, X, Y; none where it is not on the curve. -/
def pointOf (l : List Byte) : Point :=
  let x := beToNat ((l.drop 1).take 48)
  let y := beToNat ((l.drop 49).take 48)
  if l.head? = some 0x04 && onCurve x y then some (x, y) else none

/-- An ECDSA signature (r and s, 48 bytes each, big-endian) over the SHA-384 digest of a message. -/
def ecdsaVerify (pub sig msg : List Byte) : Bool :=
  let r := beToNat (sig.take 48)
  let s := beToNat ((sig.drop 48).take 48)
  match pointOf pub with
  | none => false
  | some q =>
    if r = 0 || p384N ≤ r || s = 0 || p384N ≤ s then false else
    let w := invMod p384N s
    let e := beToNat (sha384 msg)
    match pointAdd (pointMul (e * w % p384N) p384G 384) (pointMul (r * w % p384N) (some q) 384) with
    | none => false
    | some (x, _) => x % p384N == r

end Sys2Proof.Machine
end

