-- ==== Sys2Proof/Config.lean ====
section
/-!
DEFINITION. What the spec leaves open: free values, opaque, so that nothing is provable of them but that they are
functions of their arguments. Each is named in the assumption log.
-/

namespace Sys2Proof

/-- The binary32 of a special function where the model's last precision does not separate the result from a tie
(log 20). -/
opaque Config.sfuNearTie : Word → Word

/-- Byte i of the wrong value to which a miscorrected HBM word is corrected, at the model's n-th free value (log 21). -/
opaque Config.miscorrected (n i : Nat) : Byte

/-- How many bytes of an extent that fails to decode had been written, at the model's n-th free value (log 45). -/
opaque Config.decodedPrefix (n : Nat) : Nat

/-- The cosine of a binary64 where the model's last precision does not separate the result from a tie (log 46). -/
opaque Config.cosNearTie : Dword → Dword

/-- Whether an optimiser pass that meets an uncorrectable word, at the model's n-th free value, had written group g
(log 47). -/
opaque Config.passWrote (n g : Nat) : Bool

/-- Byte i of a register image or of a part of a dump whose layout the spec does not give, at the model's n-th free value
(log 48). -/
opaque Config.imageByte (n i : Nat) : Byte

/-- The word at an offset of a ledger record whose kind gives that field no value, at the model's n-th free value
(log 49). -/
opaque Config.recordWord (n off : Nat) : Word

/-- Whether the MV2 profile's packing rule, which belongs to the firmware version, takes the head entry of the deferred
queue, at the model's n-th free value (log 51). -/
opaque Config.mv2Takes (n : Nat) : Bool

/-- Whether the measured remaining time of a queued invocation fits into the cycles left before the tick, at the model's n-th free
value (R31, log 167). -/
opaque Config.invocationFits (n cyclesLeft : Nat) : Bool

/-- Whether another chip of the board has BM_CAND = 1, which its registration does not say (log 198). -/
opaque Config.bmCand (chip : Nat) : Bool

/-- The job state in the last copy that a standby took from the domain manager before it took over, at the model's n-th free value:
JOB, mode, STEP_FRAMES, the launch count if it was sent, the workers registered (R330, log 197). -/
opaque Config.lastCopy (n : Nat) : List (Word × Bool × Word × Option Dword × List Nat)

/-- Whether that copy holds the pending requests of this chip (R330, log 197). -/
opaque Config.copyHolds (n : Nat) : Bool

/-- RESULT of a LAUNCH whose job, from a start step, closed no step (log 52). -/
opaque Config.noStepResult : BitVec 40 → Dword

/-- The credits that a switch advertises for a lane of VL1-VL7 when a link comes up, at the model's n-th free value (log 61). -/
opaque Config.switchCredits (n vl : Nat) : Nat

/-- Whether the value of a CONFIG item passes its check, and the fields of the value: the layouts of the items are the ewemus
tool's (log 67). Fields of LINKS: 4l to 4l + 3, the personality (1 Ethernet), bundle, bundle kind and far slot or partner of link
l; of PARTITION and SHARING: 0, START or the mode bits; of TENANCY: 9v to 9v + 8, the allotment of tenant v in the order of
Table 11.3; of POWER: 0 the envelope, 1 + p the TCLK of partition p; of REGISTERS: 2i whether it holds the i-th register of Table
16.5, 2i + 1 its value; of CONSOLE: 0, BAUD. -/
opaque Config.itemOk (id : Nat) (value : List Byte) : Bool
opaque Config.itemField (id : Nat) (value : List Byte) (i : Nat) : Nat

/-- Whether the built-in self-test of a logical tile fails at a start-up (log 66). -/
opaque Config.bistFails (n t : Nat) : Bool

/-- The characters by which the boot ROM writes its failure codes to the console (log 68). -/
opaque Config.bootText (codeA codeB : Nat) : List Byte

/-- Whether the check of a fuse slot holds whose programming was interrupted (log 63). -/
opaque Config.fuseIntact (n : Nat) : Bool

/-- Whether element i of a block add in flight across a reset had been added (R235, log 69). -/
opaque Config.elementDone (n i : Nat) : Bool

/-- The chips that are the workers of a job, as the domain manager knows them (log 65). -/
opaque Config.jobWorkers (jobId : Word) : List Nat

/-- What the reports of the other chips have shown the domain manager: that no partition of theirs runs frames (R37, log 64); that
an abandoned step can only be followed by a restart from the checkpoint (Table 15.7, log 164). -/
opaque Config.domainIdle (n : Nat) : Bool
opaque Config.passBegun (n : Nat) : Bool

/-- Whether a write of Prism or Kaleidoscope into the spill tier meets a PCIe error (R142, R150, log 184). -/
opaque Config.pcieError (n : Nat) : Bool

/-- The status of a launch that the domain manager refuses because its workers' modes differ (R19, log 166). -/
opaque Config.mixedModes : BitVec 8

/-- How far beyond the least lead of R10 a launch count, and beyond that of R37 a reform count, lies (log 64). -/
opaque Config.launchLead (n : Nat) : Nat

/-- The answers to GETMWL and GETMRL, and the bits of GETSTATUS that the spec gives no meaning (log 70). -/
opaque Config.i3cMwl : BitVec 16
opaque Config.i3cMrl : BitVec 24
opaque Config.i3cStatus (n : Nat) : BitVec 8

/-- SOURCE of the record of a reset for which Table 15.3 names none (log 73): 0 an HBM controller that answers nothing, 1 the
replays of one flit, 2 LNK_CTRL, 3 an escalation, 4 a whole-device reset that the chip starts, 5 REFCLK, 6 a critical
temperature, 7 a control-domain reset that no watchdog or register ordered. -/
opaque Config.resetSource (cause : Nat) : BitVec 8

/-- Measured by the package at the model's n-th free value (log 74): power in W, mean over 1 ms; energy in mJ and highest 1 ms
power in W since whole-device reset. -/
opaque Config.packagePower (n : Nat) : BitVec 16
opaque Config.packageEnergy (n : Nat) : Dword
opaque Config.packagePeak (n : Nat) : BitVec 16

/-- The idle field of DTMCS, which the RISC-V standard leaves to the part (log 75). -/
opaque Config.dtmIdle : BitVec 3

/-- A read, at the model's n-th free value, of what the spec maps and gives no read value: the doorbell page, a semaphore set
word (log 76). -/
opaque Config.openRead (n : Nat) : Word

/-- What a message of an engine is behind its packets' headers (R306, log 193). -/
opaque Config.messageBytes (n : Nat) : List Byte

/-- The hash of DST and lane by which a SWITCH bundle places a packet (R310, log 193). -/
opaque Config.switchHash (dst vl : Nat) : Nat

/-- Whether a context swap outlasts the frames that it was given (R265, log 190). -/
opaque Config.swapLate (n : Nat) : Bool

/-- Bytes that an extent cut off by a reset had written into its copy, at most its own (R279, R295, log 191). -/
opaque Config.abortedBytes (n : Nat) : Nat

/-- Translation-cache misses since the last read of APT_TC_MISS (R226, R242, log 188): the spec names no replacement order. -/
opaque Config.cacheMisses (n : Nat) : Nat

/-- What the firmware-managed parts of the device reserve hold, as the debug path reads them (Table 10.2, log 187). -/
opaque Config.reserveByte (n i : Nat) : Byte

/-- What a read of a register of a control core by an abstract command answers (log 71). -/
opaque Config.hartReg (n hart reg : Nat) : Dword

end Sys2Proof
end

