-- ==== Sys2Proof/Machine/RegTable.lean ====
section
/-!
DEFINITION. The register tables of the spec as data (02 R39, 03 R67, 06 R145, 07 R163, 08 R185, 10 R241-R242, 11 R276-R277,
12 R294, 13 R319, 14 R336, 15 R360, 16 R379, 17 R398-R399, 18 R411-R412): each register's place, reset value, domain and
fields with their access codes (Table 0.4). A place is a BAR0 offset of the PF; the window of VF v, which is no part of
the PF's BAR0, is placed at 0x2000_0000 + v x 0x10_0000.
-/

namespace Sys2Proof.Machine

/-- The register access codes (Table 0.4). -/
inductive Acc where
  | rw | ro | rc | w1s | wo | rws | rsvl
deriving DecidableEq, Repr

/-- The domain of a register's opening line (R384, Table 17.2). -/
inductive Dom where
  | host | whole | compute | fabric | memory
deriving DecidableEq, Repr

/-- A register of the tables: `n` copies `stride` apart; `perPart` when copy p belongs to tile partition p. -/
structure RegRow where
  name : String
  off : Nat
  n : Nat
  stride : Nat
  perPart : Bool
  reset : Word
  dom : Dom
  fields : List (Nat × Nat × Acc)
deriving DecidableEq, Repr

/-- A block of Table 17.1: its BAR0 offset, its size, its registers and the ranges (first, last, copies, stride) of
offsets that read as zero. -/
structure RegBlock where
  name : String
  base : Nat
  size : Nat
  rows : List RegRow
  zeros : List (Nat × Nat × Nat × Nat)
deriving DecidableEq, Repr

/-- The registers of block GLB (17 R398). -/
def regsGlb : List RegRow :=
  [
    ⟨"GLB_ID", 0x0, 1, 4, false, 0x00034D56, .whole,
      [(15, 0, .ro), (23, 16, .ro), (31, 24, .ro)]⟩,
    ⟨"GLB_CTRL", 0x4, 1, 4, false, 0x00000001, .whole,
      [(0, 0, .rw), (31, 1, .rsvl)]⟩,
    ⟨"GLB_STATUS", 0x8, 1, 4, false, 0x00000001, .whole,
      [(0, 0, .ro), (1, 1, .ro), (2, 2, .ro), (31, 3, .rsvl)]⟩,
    ⟨"GLB_BLK_EN", 0xC, 1, 4, false, 0x0002081F, .whole,
      [(17, 0, .rw), (31, 18, .rsvl)]⟩,
    ⟨"GLB_STROBE", 0x10, 1, 4, false, 0x00000000, .whole,
      [(17, 0, .wo), (31, 18, .rsvl)]⟩,
    ⟨"GLB_PENDING", 0x14, 1, 4, false, 0x00000000, .whole,
      [(17, 0, .ro), (31, 18, .rsvl)]⟩,
    ⟨"GLB_TEST", 0x18, 1, 4, false, 0x00000000, .whole,
      [(17, 0, .ro), (31, 18, .rsvl)]⟩,
    ⟨"GLB_ERR", 0x1C, 1, 4, false, 0x00000000, .whole,
      [(0, 0, .rc), (1, 1, .rc), (2, 2, .rc), (3, 3, .rc), (4, 4, .rc), (5, 5, .rc), (6, 6, .rc), (7, 7, .rc), (8, 8, .rc), (31, 9, .rsvl)]⟩,
    ⟨"GLB_ERR_OFF", 0x20, 1, 4, false, 0x00000000, .whole,
      [(28, 0, .ro), (30, 29, .rsvl), (31, 31, .rc)]⟩,
    ⟨"GLB_ERR_SRC", 0x24, 1, 4, false, 0x00000000, .whole,
      [(3, 0, .ro), (5, 4, .ro), (7, 6, .rsvl), (17, 8, .ro), (31, 18, .rsvl)]⟩,
    ⟨"GLB_SCRATCH", 0x28, 1, 4, false, 0x00000000, .whole,
      [(31, 0, .rw)]⟩,
    ⟨"GLB_MBX_REQ", 0x40, 1, 4, false, 0x00000000, .whole,
      [(15, 0, .wo), (16, 16, .wo), (31, 17, .rsvl)]⟩,
    ⟨"GLB_MBX_STATUS", 0x44, 1, 4, false, 0x00000000, .whole,
      [(0, 0, .ro), (1, 1, .ro), (3, 2, .ro), (15, 4, .rsvl), (31, 16, .ro)]⟩,
    ⟨"GLB_MBX_DATA_LO", 0x48, 1, 4, false, 0x00000000, .whole,
      [(31, 0, .ro)]⟩,
    ⟨"GLB_MBX_DATA_HI", 0x4C, 1, 4, false, 0x00000000, .whole,
      [(31, 0, .ro)]⟩]

/-- The registers of block PWR (17 R399). -/
def regsPwr : List RegRow :=
  [
    ⟨"PWR_CAPS", 0x0, 1, 4, false, 0x00000000, .whole,
      [(4, 0, .ro), (9, 5, .ro), (31, 10, .rsvl)]⟩,
    ⟨"PWR_CFG", 0x4, 1, 4, false, 0x0000001E, .whole,
      [(4, 0, .rws), (7, 5, .rsvl), (8, 8, .rw), (31, 9, .rsvl)]⟩,
    ⟨"PWR_CMD", 0x8, 1, 4, false, 0x00000000, .whole,
      [(0, 0, .w1s), (31, 1, .rsvl)]⟩,
    ⟨"PWR_STATUS", 0xC, 1, 4, false, 0x0000011E, .whole,
      [(4, 0, .ro), (7, 5, .rsvl), (8, 8, .ro), (9, 9, .rc), (10, 10, .ro), (31, 11, .rsvl)]⟩,
    ⟨"PWR_TELEM", 0x10, 1, 4, false, 0x00000000, .whole,
      [(15, 0, .ro), (23, 16, .ro), (31, 24, .rsvl)]⟩,
    ⟨"PWR_TCLK", 0x100, 8, 16, true, 0x000007D0, .compute,
      [(11, 0, .rws), (31, 12, .rsvl)]⟩,
    ⟨"PWR_TCLK_ACT", 0x104, 8, 16, true, 0x0001E7D0, .compute,
      [(11, 0, .ro), (16, 12, .ro), (17, 17, .ro), (31, 18, .rsvl)]⟩,
    ⟨"PWR_ALLOW", 0x108, 8, 16, true, 0x00000000, .compute,
      [(31, 0, .ro)]⟩]

/-- The registers of block MGT (14 R336). -/
def regsMgt : List RegRow :=
  [
    ⟨"MGT_CAPS", 0x0, 1, 4, false, 0x00000E4A, .whole,
      [(3, 0, .ro), (7, 4, .ro), (12, 8, .ro), (31, 13, .rsvl)]⟩,
    ⟨"MGT_COORD", 0x4, 1, 4, false, 0x00000000, .whole,
      [(9, 0, .rw), (11, 10, .rsvl), (15, 12, .rw), (16, 16, .rw), (17, 17, .rw), (31, 18, .rsvl)]⟩,
    ⟨"MGT_DOMAIN", 0x8, 1, 4, false, 0x00000000, .whole,
      [(31, 0, .rw)]⟩,
    ⟨"MGT_DM", 0xC, 1, 4, false, 0x00000000, .whole,
      [(13, 0, .rw), (15, 14, .rsvl), (29, 16, .rw), (30, 30, .rw), (31, 31, .rsvl)]⟩,
    ⟨"MGT_CMD", 0x10, 1, 4, false, 0x00000000, .whole,
      [(0, 0, .w1s), (1, 1, .w1s), (31, 2, .rsvl)]⟩,
    ⟨"MGT_STATUS", 0x14, 1, 4, false, 0x00000000, .whole,
      [(13, 0, .ro), (15, 14, .rsvl), (16, 16, .ro), (17, 17, .ro), (18, 18, .ro), (19, 19, .ro), (20, 20, .ro), (21, 21, .ro), (31, 22, .rsvl)]⟩,
    ⟨"MGT_PARENT", 0x18, 1, 4, false, 0x00000000, .whole,
      [(13, 0, .ro), (15, 14, .rsvl), (16, 16, .ro), (31, 17, .rsvl)]⟩,
    ⟨"MGT_EVENT", 0x1C, 1, 4, false, 0x00000000, .whole,
      [(0, 0, .rc), (1, 1, .rc), (2, 2, .rc), (3, 3, .rc), (4, 4, .rc), (5, 5, .rc), (6, 6, .rc), (7, 7, .rc), (31, 8, .rsvl)]⟩,
    ⟨"MGT_HALT_CFG", 0x20, 1, 4, false, 0x00006400, .whole,
      [(7, 0, .rsvl), (15, 8, .rw), (31, 16, .rsvl)]⟩,
    ⟨"MGT_HB_CFG", 0x24, 1, 4, false, 0x0000000A, .whole,
      [(7, 0, .rw), (31, 8, .rsvl)]⟩]

/-- The registers of block OTP (16 R379). -/
def regsOtp : List RegRow :=
  [
    ⟨"OTP_CAPS", 0x0, 1, 4, false, 0x00000046, .whole,
      [(3, 0, .ro), (6, 4, .ro), (31, 7, .rsvl)]⟩,
    ⟨"OTP_BOOT_STATUS", 0x4, 1, 4, false, 0x00000000, .whole,
      [(0, 0, .ro), (1, 1, .ro), (2, 2, .ro), (3, 3, .ro), (7, 4, .ro), (11, 8, .ro), (12, 12, .ro), (15, 13, .rsvl), (31, 16, .ro)]⟩,
    ⟨"OTP_FUSE_SEL", 0x8, 1, 4, false, 0x00000000, .whole,
      [(2, 0, .rw), (31, 3, .rsvl)]⟩,
    ⟨"OTP_FUSE_ARM", 0xC, 1, 4, false, 0x00000000, .whole,
      [(15, 0, .wo), (31, 16, .rsvl)]⟩,
    ⟨"OTP_FUSE_CMD", 0x10, 1, 4, false, 0x00000000, .whole,
      [(1, 0, .wo), (31, 2, .rsvl)]⟩,
    ⟨"OTP_FUSE_STATUS", 0x14, 1, 4, false, 0x00000000, .whole,
      [(0, 0, .ro), (3, 1, .rsvl), (7, 4, .ro), (11, 8, .ro), (15, 12, .ro), (18, 16, .ro), (31, 19, .rsvl)]⟩,
    ⟨"OTP_IMG_LO", 0x18, 1, 4, false, 0x00000000, .whole,
      [(11, 0, .rsvl), (31, 12, .rw)]⟩,
    ⟨"OTP_IMG_HI", 0x1C, 1, 4, false, 0x00000000, .whole,
      [(15, 0, .rw), (31, 16, .rsvl)]⟩,
    ⟨"OTP_IMG_CMD", 0x20, 1, 4, false, 0x00000000, .whole,
      [(1, 0, .wo), (31, 2, .rsvl)]⟩,
    ⟨"OTP_IMG_STATUS", 0x24, 1, 4, false, 0x00000000, .whole,
      [(0, 0, .ro), (1, 1, .ro), (2, 2, .ro), (3, 3, .ro), (7, 4, .ro), (31, 8, .rsvl)]⟩,
    ⟨"OTP_EVENT", 0x28, 1, 4, false, 0x00000000, .whole,
      [(0, 0, .rc), (1, 1, .rc), (2, 2, .rc), (3, 3, .rc), (4, 4, .rc), (31, 5, .rsvl)]⟩,
    ⟨"OTP_STAGE", 0x80, 32, 4, false, 0x00000000, .whole,
      [(31, 0, .rw)]⟩]

/-- The registers of block FLT (15 R360). -/
def regsFlt : List RegRow :=
  [
    ⟨"FLT_CAPS", 0x0, 1, 4, false, 0x00080500, .whole,
      [(8, 0, .ro), (11, 9, .ro), (19, 12, .ro), (31, 20, .rsvl)]⟩,
    ⟨"FLT_WD_CFG", 0x4, 1, 4, false, 0x64006440, .whole,
      [(7, 0, .rw), (19, 8, .rw), (23, 20, .rsvl), (31, 24, .rw)]⟩,
    ⟨"FLT_WARN_CFG", 0x8, 1, 4, false, 0x003C0064, .whole,
      [(15, 0, .rw), (23, 16, .rw), (31, 24, .rsvl)]⟩,
    ⟨"FLT_RECOV_CFG", 0xC, 1, 4, false, 0x0000001E, .whole,
      [(7, 0, .rw), (31, 8, .rsvl)]⟩,
    ⟨"FLT_CTRL", 0x10, 1, 4, false, 0x00000000, .whole,
      [(0, 0, .w1s), (1, 1, .w1s), (2, 2, .w1s), (3, 3, .w1s), (31, 4, .rsvl)]⟩,
    ⟨"FLT_STATUS", 0x14, 1, 4, false, 0x00000000, .whole,
      [(2, 0, .ro), (7, 3, .rsvl), (10, 8, .ro), (31, 11, .rsvl)]⟩,
    ⟨"FLT_EVENT", 0x18, 1, 4, false, 0x00000000, .whole,
      [(0, 0, .rc), (1, 1, .rc), (2, 2, .rc), (3, 3, .rc), (4, 4, .rc), (5, 5, .rc), (6, 6, .rc), (7, 7, .rc), (8, 8, .rc), (9, 9, .rc), (31, 10, .rsvl)]⟩,
    ⟨"FLT_FAULT_CNT", 0x1C, 1, 4, false, 0x00000000, .whole,
      [(31, 0, .ro)]⟩,
    ⟨"FLT_RESET_CNT", 0x20, 1, 4, false, 0x00000000, .whole,
      [(15, 0, .ro), (23, 16, .ro), (31, 24, .ro)]⟩,
    ⟨"FLT_WARN_SRC", 0x24, 1, 4, false, 0x00000000, .whole,
      [(4, 0, .rc), (31, 5, .rsvl)]⟩,
    ⟨"FLT_REC_IDX", 0x28, 1, 4, false, 0x00000000, .whole,
      [(7, 0, .rw), (31, 8, .rsvl)]⟩,
    ⟨"FLT_DUMP", 0x2C, 1, 4, false, 0x00000000, .whole,
      [(0, 0, .ro), (1, 1, .ro), (2, 2, .ro), (31, 3, .rsvl)]⟩,
    ⟨"FLT_REC_DATA", 0x80, 32, 4, false, 0x00000000, .whole,
      [(31, 0, .ro)]⟩,
    ⟨"FLT_CKPT_LO", 0x100, 8, 16, true, 0x00000000, .compute,
      [(5, 0, .rsvl), (31, 6, .rw)]⟩,
    ⟨"FLT_CKPT_HI", 0x104, 8, 16, true, 0x00000000, .compute,
      [(15, 0, .rw), (31, 16, .rsvl)]⟩,
    ⟨"FLT_CKPT_STAT", 0x108, 8, 16, true, 0x00000000, .compute,
      [(2, 0, .ro), (4, 3, .ro), (15, 5, .rsvl), (27, 16, .ro), (31, 28, .rsvl)]⟩]

/-- The registers of block SHT (02 R39). -/
def regsSht : List RegRow :=
  [
    ⟨"SHT_SYNC_CFG", 0x0, 1, 4, false, 0x00000A41, .whole,
      [(0, 0, .rw), (3, 1, .rsvl), (7, 4, .rw), (15, 8, .rw), (31, 16, .rsvl)]⟩,
    ⟨"SHT_SYNC_STATUS", 0x4, 1, 4, false, 0x00000030, .whole,
      [(0, 0, .ro), (1, 1, .ro), (2, 2, .rc), (3, 3, .rc), (5, 4, .ro), (15, 6, .rsvl), (31, 16, .ro)]⟩,
    ⟨"SHT_PCTRL", 0x100, 8, 64, true, 0x00000010, .compute,
      [(10, 0, .rw), (15, 11, .rsvl), (16, 16, .ro), (17, 17, .ro), (31, 18, .rsvl)]⟩,
    ⟨"SHT_PSTATE", 0x104, 8, 64, true, 0x00000000, .compute,
      [(0, 0, .ro), (1, 1, .ro), (2, 2, .ro), (3, 3, .ro), (15, 4, .rsvl), (31, 16, .ro)]⟩,
    ⟨"SHT_PEVENT", 0x108, 8, 64, true, 0x00000000, .compute,
      [(0, 0, .rc), (1, 1, .rc), (2, 2, .rc), (3, 3, .rc), (4, 4, .rc), (5, 5, .rc), (6, 6, .rc), (31, 7, .rsvl)]⟩,
    ⟨"SHT_OVERRUN_CNT", 0x10C, 8, 64, true, 0x00000000, .compute,
      [(31, 0, .ro)]⟩,
    ⟨"SHT_SLIP_CNT", 0x110, 8, 64, true, 0x00000000, .compute,
      [(31, 0, .ro)]⟩,
    ⟨"SHT_LAST_CAUSE", 0x114, 8, 64, true, 0x00000000, .compute,
      [(3, 0, .ro), (9, 4, .ro), (11, 10, .rsvl), (31, 12, .ro)]⟩,
    ⟨"SHT_FRAMECYC", 0x118, 8, 64, true, 0x00008000, .compute,
      [(21, 0, .ro), (31, 22, .rsvl)]⟩]

/-- The registers of block TIL (03 R67). -/
def regsTil : List RegRow :=
  [
    ⟨"TIL_CAPS", 0x0, 1, 4, false, 0x01844840, .whole,
      [(7, 0, .ro), (15, 8, .ro), (19, 16, .ro), (27, 20, .ro), (31, 28, .rsvl)]⟩,
    ⟨"TIL_PART_CFG", 0x4, 1, 4, false, 0x00000001, .compute,
      [(7, 0, .rws), (31, 8, .rsvl)]⟩,
    ⟨"TIL_PART_STATUS", 0x8, 1, 4, false, 0x00000001, .compute,
      [(7, 0, .ro), (8, 8, .rc), (9, 9, .rc), (31, 10, .rsvl)]⟩,
    ⟨"TIL_MAP", 0x10, 16, 4, false, 0x00000000, .whole,
      [(6, 0, .ro), (7, 7, .ro), (14, 8, .ro), (15, 15, .ro), (22, 16, .ro), (23, 23, .ro), (30, 24, .ro), (31, 31, .ro)]⟩,
    ⟨"TIL_PHYS_ROLE", 0x80, 9, 4, false, 0x00000000, .whole,
      [(31, 28, .ro), (27, 24, .ro), (23, 20, .ro), (19, 16, .ro), (15, 12, .ro), (11, 8, .ro), (7, 4, .ro), (3, 0, .ro)]⟩,
    ⟨"TIL_TSTAT", 0x1000, 64, 64, false, 0x00000000, .compute,
      [(2, 0, .ro), (5, 3, .ro), (7, 6, .rsvl), (13, 8, .ro), (15, 14, .rsvl), (16, 16, .rc), (17, 17, .rc), (31, 18, .rsvl)]⟩,
    ⟨"TIL_LS_CE", 0x1004, 64, 64, false, 0x00000000, .whole,
      [(31, 0, .ro)]⟩,
    ⟨"TIL_LS_UE_ADDR", 0x1008, 64, 64, false, 0x00000000, .whole,
      [(24, 0, .ro), (30, 25, .rsvl), (31, 31, .rc)]⟩]

/-- The registers of block PRM (06 R145). -/
def regsPrm : List RegRow :=
  [
    ⟨"PRM_CAPS", 0x0, 1, 4, false, 0x04141000, .whole,
      [(15, 0, .ro), (19, 16, .ro), (26, 20, .ro), (31, 27, .rsvl)]⟩,
    ⟨"PRM_PART_CFG", 0x4, 1, 4, false, 0x00000000, .compute,
      [(7, 0, .rws), (31, 8, .rsvl)]⟩,
    ⟨"PRM_PART_STATUS", 0x8, 1, 4, false, 0x00000000, .compute,
      [(7, 0, .ro), (8, 8, .rc), (15, 9, .rsvl), (23, 16, .ro), (31, 24, .rsvl)]⟩,
    ⟨"PRM_GTW_IDX", 0x10, 1, 4, false, 0x00000000, .compute,
      [(11, 0, .rw), (31, 12, .rsvl)]⟩,
    ⟨"PRM_GTW_CMD", 0x14, 1, 4, false, 0x00000000, .compute,
      [(1, 0, .wo), (31, 2, .rsvl)]⟩,
    ⟨"PRM_GTW_STATUS", 0x18, 1, 4, false, 0x00000000, .compute,
      [(0, 0, .ro), (3, 1, .rsvl), (7, 4, .ro), (14, 8, .ro), (31, 15, .rsvl)]⟩,
    ⟨"PRM_EVENT", 0x20, 1, 4, false, 0x00000000, .compute,
      [(0, 0, .rc), (1, 1, .rc), (2, 2, .rc), (3, 3, .rc), (4, 4, .rc), (5, 5, .rc), (6, 6, .rc), (7, 7, .rc), (8, 8, .rc), (31, 9, .rsvl)]⟩,
    ⟨"PRM_LATE_CNT", 0x24, 1, 4, false, 0x00000000, .whole,
      [(31, 0, .ro)]⟩,
    ⟨"PRM_FAIL_CNT", 0x28, 1, 4, false, 0x00000000, .whole,
      [(31, 0, .ro)]⟩,
    ⟨"PRM_CLAMP_CNT", 0x2C, 1, 4, false, 0x00000000, .whole,
      [(31, 0, .ro)]⟩,
    ⟨"PRM_INFLIGHT", 0x30, 1, 4, false, 0x00000000, .compute,
      [(15, 0, .ro), (31, 16, .rsvl)]⟩,
    ⟨"PRM_GTW_DATA", 0x80, 32, 4, false, 0x00000000, .compute,
      [(31, 0, .rw)]⟩]

/-- The registers of block KAL (07 R163). -/
def regsKal : List RegRow :=
  [
    ⟨"KAL_CAPS", 0x0, 1, 4, false, 0x00310010, .whole,
      [(7, 0, .ro), (16, 8, .ro), (21, 17, .ro), (31, 22, .rsvl)]⟩,
    ⟨"KAL_RTW_IDX", 0x4, 1, 4, false, 0x00000000, .compute,
      [(3, 0, .rw), (31, 4, .rsvl)]⟩,
    ⟨"KAL_RTW_CMD", 0x8, 1, 4, false, 0x00000000, .compute,
      [(1, 0, .wo), (31, 2, .rsvl)]⟩,
    ⟨"KAL_RTW_STATUS", 0xC, 1, 4, false, 0x00000000, .compute,
      [(0, 0, .ro), (3, 1, .rsvl), (7, 4, .ro), (12, 8, .ro), (31, 13, .rsvl)]⟩,
    ⟨"KAL_EVENT", 0x10, 1, 4, false, 0x00000000, .compute,
      [(0, 0, .rc), (1, 1, .rc), (2, 2, .rc), (3, 3, .rc), (31, 4, .rsvl)]⟩,
    ⟨"KAL_HOP_CNT", 0x14, 1, 4, false, 0x00000000, .whole,
      [(31, 0, .ro)]⟩,
    ⟨"KAL_INFLIGHT", 0x18, 1, 4, false, 0x00000000, .compute,
      [(7, 0, .ro), (31, 8, .rsvl)]⟩,
    ⟨"KAL_RTW_DATA", 0x40, 8, 4, false, 0x00000000, .compute,
      [(31, 0, .rw)]⟩]

/-- The registers of block OUU (08 R185). -/
def regsOuu : List RegRow :=
  [
    ⟨"OUU_CAPS", 0x0, 1, 4, false, 0x00101010, .whole,
      [(4, 0, .ro), (7, 5, .rsvl), (12, 8, .ro), (15, 13, .rsvl), (20, 16, .ro), (31, 21, .rsvl)]⟩,
    ⟨"OUU_STATUS", 0x4, 1, 4, false, 0x00000000, .compute,
      [(0, 0, .ro), (3, 1, .ro), (7, 4, .rsvl), (15, 8, .ro), (31, 16, .rsvl)]⟩,
    ⟨"OUU_TBL_LO", 0x100, 8, 32, true, 0x00000000, .compute,
      [(7, 0, .rsvl), (31, 8, .rw)]⟩,
    ⟨"OUU_TBL_HI", 0x104, 8, 32, true, 0x00000000, .compute,
      [(15, 0, .rw), (31, 16, .rsvl)]⟩,
    ⟨"OUU_CTRL", 0x108, 8, 32, true, 0x00000000, .compute,
      [(0, 0, .w1s), (31, 1, .rsvl)]⟩,
    ⟨"OUU_PSTAT", 0x10C, 8, 32, true, 0x00000000, .compute,
      [(1, 0, .ro), (2, 2, .ro), (3, 3, .rc), (4, 4, .rc), (5, 5, .rc), (6, 6, .rc), (7, 7, .rsvl), (31, 8, .ro)]⟩,
    ⟨"OUU_SKIP_CNT", 0x110, 8, 32, true, 0x00000000, .compute,
      [(31, 0, .ro)]⟩,
    ⟨"OUU_CLIP_CNT", 0x114, 8, 32, true, 0x00000000, .compute,
      [(31, 0, .ro)]⟩,
    ⟨"OUU_LR", 0x118, 8, 32, true, 0x00000000, .compute,
      [(31, 0, .ro)]⟩,
    ⟨"OUU_NORM", 0x11C, 8, 32, true, 0x00000000, .compute,
      [(31, 0, .ro)]⟩]

/-- The registers of block MEM (10 R241). -/
def regsMem : List RegRow :=
  [
    ⟨"MEM_CAPS", 0x0, 1, 4, false, 0x0000C40C, .whole,
      [(3, 0, .ro), (11, 4, .ro), (15, 12, .ro), (31, 16, .rsvl)]⟩,
    ⟨"MEM_SCRUB_CFG", 0x4, 1, 4, false, 0x00001801, .memory,
      [(0, 0, .rw), (7, 1, .rsvl), (15, 8, .rw), (31, 16, .rsvl)]⟩,
    ⟨"MEM_CE_THRESH", 0x8, 1, 4, false, 0x003C03E8, .memory,
      [(15, 0, .rw), (23, 16, .rw), (31, 24, .rsvl)]⟩,
    ⟨"MEM_EVENT", 0xC, 1, 4, false, 0x00000000, .memory,
      [(0, 0, .rc), (1, 1, .rc), (2, 2, .rc), (3, 3, .rc), (4, 4, .rc), (5, 5, .rc), (31, 6, .rsvl)]⟩,
    ⟨"MEM_STATUS", 0x10, 1, 4, false, 0x00000000, .memory,
      [(0, 0, .ro), (1, 1, .ro), (2, 2, .ro), (31, 3, .rsvl)]⟩,
    ⟨"MEM_CE_CNT", 0x100, 12, 16, false, 0x00000000, .whole,
      [(31, 0, .ro)]⟩,
    ⟨"MEM_UE_CNT", 0x104, 12, 16, false, 0x00000000, .whole,
      [(31, 0, .ro)]⟩,
    ⟨"MEM_SCRUB_CNT", 0x108, 12, 16, false, 0x00000000, .whole,
      [(31, 0, .ro)]⟩,
    ⟨"MEM_AOW_MIS_CNT", 0x10C, 12, 16, false, 0x00000000, .whole,
      [(31, 0, .ro)]⟩]

/-- The registers of block APT (10 R242). -/
def regsApt : List RegRow :=
  [
    ⟨"APT_CAPS", 0x0, 1, 4, false, 0x000E0040, .whole,
      [(7, 0, .ro), (17, 8, .ro), (18, 18, .ro), (19, 19, .ro), (31, 20, .rsvl)]⟩,
    ⟨"APT_W_SEL", 0x4, 1, 4, false, 0x00000000, .compute,
      [(5, 0, .rw), (7, 6, .rsvl), (16, 8, .rw), (31, 17, .rsvl)]⟩,
    ⟨"APT_W_CMD", 0x8, 1, 4, false, 0x00000000, .compute,
      [(1, 0, .wo), (2, 2, .wo), (31, 3, .rsvl)]⟩,
    ⟨"APT_W_STATUS", 0xC, 1, 4, false, 0x00000000, .compute,
      [(0, 0, .ro), (3, 1, .rsvl), (7, 4, .ro), (13, 8, .ro), (31, 14, .rsvl)]⟩,
    ⟨"APT_STORE", 0x10, 1, 4, false, 0x00000000, .compute,
      [(23, 0, .ro), (31, 24, .rsvl)]⟩,
    ⟨"APT_TC_MISS", 0x14, 1, 4, false, 0x00000000, .whole,
      [(31, 0, .ro)]⟩,
    ⟨"APT_EVENT", 0x18, 1, 4, false, 0x00000000, .compute,
      [(0, 0, .rc), (1, 1, .rc), (2, 2, .rc), (31, 3, .rsvl)]⟩,
    ⟨"APT_W_DATA", 0x40, 16, 4, false, 0x00000000, .compute,
      [(31, 0, .rw)]⟩]

/-- The registers of block CHN (11 R276). -/
def regsChn : List RegRow :=
  [
    ⟨"CHN_CAPS", 0x0, 1, 4, false, 0x10010D12, .whole,
      [(4, 0, .ro), (7, 5, .rsvl), (12, 8, .ro), (15, 13, .rsvl), (19, 16, .ro), (23, 20, .rsvl), (28, 24, .ro), (31, 29, .rsvl)]⟩,
    ⟨"CHN_T_SEL", 0x4, 1, 4, false, 0x00000000, .compute,
      [(8, 0, .rw), (31, 9, .rsvl)]⟩,
    ⟨"CHN_T_CHBASE", 0x8, 1, 4, false, 0x00000000, .compute,
      [(17, 0, .rw), (31, 18, .rsvl)]⟩,
    ⟨"CHN_T_CHCNT", 0xC, 1, 4, false, 0x00000000, .compute,
      [(16, 0, .rw), (31, 17, .rsvl)]⟩,
    ⟨"CHN_T_SEM", 0x10, 1, 4, false, 0x00000000, .compute,
      [(12, 0, .rw), (15, 13, .rsvl), (29, 16, .rw), (31, 30, .rsvl)]⟩,
    ⟨"CHN_T_GRP", 0x14, 1, 4, false, 0x00000000, .compute,
      [(11, 0, .rw), (15, 12, .rsvl), (28, 16, .rw), (31, 29, .rsvl)]⟩,
    ⟨"CHN_T_SCHED", 0x18, 1, 4, false, 0x00000001, .compute,
      [(7, 0, .rw), (15, 8, .rw), (18, 16, .rw), (31, 19, .rsvl)]⟩,
    ⟨"CHN_T_CMD", 0x1C, 1, 4, false, 0x00000000, .compute,
      [(1, 0, .wo), (31, 2, .rsvl)]⟩,
    ⟨"CHN_T_STATUS", 0x20, 1, 4, false, 0x00000000, .compute,
      [(0, 0, .ro), (3, 1, .rsvl), (7, 4, .ro), (31, 8, .rsvl)]⟩,
    ⟨"CHN_EVENT", 0x24, 1, 4, false, 0x00000000, .compute,
      [(0, 0, .rc), (1, 1, .rc), (2, 2, .rc), (3, 3, .rc), (4, 4, .rc), (31, 5, .rsvl)]⟩,
    ⟨"CHN_SEMR_DROP_CNT", 0x28, 1, 4, false, 0x00000000, .whole,
      [(31, 0, .ro)]⟩,
    ⟨"CHN_CACHE_MISS", 0x2C, 1, 4, false, 0x00000000, .whole,
      [(31, 0, .ro)]⟩,
    ⟨"CHN_PSCHED", 0x40, 8, 4, true, 0x00000004, .compute,
      [(7, 0, .rw), (31, 8, .rsvl)]⟩]

/-- The registers of block IGE (12 R294). -/
def regsIge : List RegRow :=
  [
    ⟨"IGE_CAPS", 0x0, 1, 4, false, 0x00021400, .whole,
      [(10, 0, .ro), (13, 11, .ro), (17, 14, .ro), (31, 18, .rsvl)]⟩,
    ⟨"IGE_STATUS", 0x4, 1, 4, false, 0x00000000, .compute,
      [(3, 0, .ro), (15, 4, .ro), (22, 16, .ro), (31, 23, .rsvl)]⟩,
    ⟨"IGE_EVENT", 0x8, 1, 4, false, 0x00000000, .compute,
      [(0, 0, .rc), (1, 1, .rc), (2, 2, .rc), (3, 3, .rc), (4, 4, .rc), (31, 5, .rsvl)]⟩,
    ⟨"IGE_FAIL_CNT", 0xC, 1, 4, false, 0x00000000, .whole,
      [(31, 0, .ro)]⟩,
    ⟨"IGE_AUTH_CNT", 0x10, 1, 4, false, 0x00000000, .whole,
      [(31, 0, .ro)]⟩,
    ⟨"IGE_SAT_CNT", 0x14, 1, 4, false, 0x00000000, .whole,
      [(31, 0, .ro)]⟩]

/-- The registers of block LNK (13 R319). -/
def regsLnk : List RegRow :=
  [
    ⟨"LNK_CAPS", 0x0, 1, 4, false, 0x003222A4, .whole,
      [(5, 0, .ro), (9, 6, .ro), (13, 10, .ro), (17, 14, .ro), (22, 18, .ro), (31, 23, .rsvl)]⟩,
    ⟨"LNK_CREDIT_CFG", 0x4, 1, 4, false, 0x00000310, .fabric,
      [(5, 0, .rws), (7, 6, .rsvl), (10, 8, .rws), (31, 11, .rsvl)]⟩,
    ⟨"LNK_WARN_CFG", 0x8, 1, 4, false, 0x12580800, .fabric,
      [(11, 0, .rw), (15, 12, .rsvl), (27, 16, .rw), (29, 28, .rw), (31, 30, .rsvl)]⟩,
    ⟨"LNK_EVENT", 0xC, 1, 4, false, 0x00000000, .fabric,
      [(0, 0, .rc), (1, 1, .rc), (2, 2, .rc), (3, 3, .rc), (4, 4, .rc), (5, 5, .rc), (6, 6, .rc), (7, 7, .rc), (8, 8, .rc), (9, 9, .rc), (10, 10, .rc), (31, 11, .rsvl)]⟩,
    ⟨"LNK_RLM_STATUS", 0x10, 1, 4, false, 0x00000000, .whole,
      [(0, 0, .ro), (1, 1, .ro), (2, 2, .ro), (12, 3, .ro), (15, 13, .rsvl), (23, 16, .ro), (31, 24, .rsvl)]⟩,
    ⟨"LNK_RLM_CTRL", 0x14, 1, 4, false, 0x00000000, .whole,
      [(0, 0, .rw), (31, 1, .rsvl)]⟩,
    ⟨"LNK_QP_IDX", 0x20, 1, 4, false, 0x00000000, .fabric,
      [(11, 0, .rw), (31, 12, .rsvl)]⟩,
    ⟨"LNK_QP_CMD", 0x24, 1, 4, false, 0x00000000, .fabric,
      [(1, 0, .wo), (31, 2, .rsvl)]⟩,
    ⟨"LNK_QP_STATUS", 0x28, 1, 4, false, 0x00000000, .fabric,
      [(0, 0, .ro), (3, 1, .rsvl), (7, 4, .ro), (13, 8, .ro), (31, 14, .rsvl)]⟩,
    ⟨"LNK_QP_DATA", 0x40, 16, 4, false, 0x00000000, .fabric,
      [(31, 0, .rw)]⟩,
    ⟨"LNK_STATE", 0x1000, 36, 64, false, 0x00003F00, .fabric,
      [(2, 0, .ro), (3, 3, .ro), (7, 4, .ro), (13, 8, .ro), (15, 14, .rsvl), (25, 16, .ro), (31, 26, .rsvl)]⟩,
    ⟨"LNK_LANE", 0x1004, 36, 64, false, 0x00000000, .fabric,
      [(9, 0, .ro), (15, 10, .rsvl), (25, 16, .ro), (31, 26, .rsvl)]⟩,
    ⟨"LNK_CTRL", 0x1008, 36, 64, false, 0x00000000, .fabric,
      [(0, 0, .w1s), (1, 1, .rw), (2, 2, .w1s), (31, 3, .rsvl)]⟩,
    ⟨"LNK_PEER", 0x100C, 36, 64, false, 0x00000000, .fabric,
      [(13, 0, .ro), (15, 14, .rsvl), (21, 16, .ro), (22, 22, .ro), (31, 23, .rsvl)]⟩,
    ⟨"LNK_FEC_CE", 0x1010, 36, 64, false, 0x00000000, .whole,
      [(31, 0, .ro)]⟩,
    ⟨"LNK_FEC_UE", 0x1014, 36, 64, false, 0x00000000, .whole,
      [(31, 0, .ro)]⟩,
    ⟨"LNK_REPLAY", 0x1018, 36, 64, false, 0x00000000, .whole,
      [(31, 0, .ro)]⟩,
    ⟨"LNK_RETRAIN_CNT", 0x101C, 36, 64, false, 0x00000000, .whole,
      [(15, 0, .ro), (31, 16, .ro)]⟩]

/-- The registers of block PMC (18 R411). -/
def regsPmc : List RegRow :=
  [
    ⟨"PMC_CAPS", 0x0, 1, 4, false, 0x00308448, .whole,
      [(3, 0, .ro), (7, 4, .ro), (11, 8, .ro), (15, 12, .ro), (21, 16, .ro), (31, 22, .rsvl)]⟩,
    ⟨"PMC_CTRL", 0x4, 1, 4, false, 0x00000000, .whole,
      [(0, 0, .rw), (31, 1, .rsvl)]⟩,
    ⟨"PMC_EVENT", 0x8, 1, 4, false, 0x00000000, .whole,
      [(0, 0, .rc), (1, 1, .rc), (2, 2, .rc), (31, 3, .rsvl)]⟩,
    ⟨"PMC_CFG_TILE", 0x1000, 512, 4, false, 0x00000000, .whole,
      [(7, 0, .rw), (8, 8, .rw), (9, 9, .rw), (12, 10, .rw), (13, 13, .w1s), (15, 14, .rsvl), (31, 16, .rw)]⟩,
    ⟨"PMC_CFG_HBM", 0x2000, 48, 4, false, 0x00000000, .whole,
      [(7, 0, .rw), (8, 8, .rw), (9, 9, .rw), (12, 10, .rw), (13, 13, .w1s), (15, 14, .rsvl), (31, 16, .rw)]⟩,
    ⟨"PMC_CFG_LINK", 0x3000, 144, 4, false, 0x00000000, .whole,
      [(7, 0, .rw), (8, 8, .rw), (9, 9, .rw), (12, 10, .rw), (13, 13, .w1s), (15, 14, .rsvl), (31, 16, .rw)]⟩,
    ⟨"PMC_CFG_PRM", 0x4000, 8, 4, false, 0x00000000, .whole,
      [(7, 0, .rw), (8, 8, .rw), (9, 9, .rw), (12, 10, .rw), (13, 13, .w1s), (15, 14, .rsvl), (31, 16, .rw)]⟩,
    ⟨"PMC_TDBG", 0x5000, 64, 4, false, 0x00000000, .compute,
      [(0, 0, .rw), (1, 1, .w1s), (2, 2, .w1s), (3, 3, .w1s), (4, 4, .ro), (31, 5, .rsvl)]⟩,
    ⟨"PMC_TPC", 0x5100, 64, 4, false, 0x00000000, .compute,
      [(31, 0, .ro)]⟩]

/-- The registers of block UAR (18 R412). -/
def regsUar : List RegRow :=
  [
    ⟨"UAR_CFG", 0x0, 1, 4, false, 0x00000480, .whole,
      [(14, 0, .rw), (31, 15, .rsvl)]⟩,
    ⟨"UAR_STATUS", 0x4, 1, 4, false, 0x00000000, .whole,
      [(6, 0, .ro), (7, 7, .rsvl), (14, 8, .ro), (31, 15, .rsvl)]⟩,
    ⟨"UAR_ERR", 0x8, 1, 4, false, 0x00000000, .whole,
      [(0, 0, .rc), (1, 1, .rc), (2, 2, .rc), (31, 3, .rsvl)]⟩,
    ⟨"UAR_FE_CNT", 0xC, 1, 4, false, 0x00000000, .whole,
      [(31, 0, .ro)]⟩,
    ⟨"UAR_TX", 0x10, 1, 4, false, 0x00000000, .whole,
      [(7, 0, .wo), (31, 8, .rsvl)]⟩,
    ⟨"UAR_RX", 0x14, 1, 4, false, 0x00000000, .whole,
      [(7, 0, .ro), (8, 8, .ro), (31, 9, .rsvl)]⟩]

/-- The registers of block TEN (11 R277, 17 R398). -/
def regsTen : List RegRow :=
  [
    ⟨"TEN_ID", 0x1000, 1, 4, false, 0x00000000, .host,
      [(8, 0, .ro), (11, 9, .rsvl), (23, 12, .ro), (31, 24, .rsvl)]⟩,
    ⟨"TEN_RANGE", 0x1004, 1, 4, false, 0x00000000, .compute,
      [(17, 0, .ro), (31, 18, .rsvl)]⟩,
    ⟨"TEN_ALLOT", 0x1008, 1, 4, false, 0x00000000, .compute,
      [(16, 0, .ro), (31, 17, .rsvl)]⟩,
    ⟨"TEN_ALLOT2", 0x100C, 1, 4, false, 0x00000000, .compute,
      [(13, 0, .ro), (15, 14, .rsvl), (28, 16, .ro), (31, 29, .rsvl)]⟩,
    ⟨"TEN_EVENT", 0x1010, 1, 4, false, 0x00000000, .compute,
      [(0, 0, .rc), (1, 1, .rc), (2, 2, .rc), (3, 3, .rc), (4, 4, .rc), (5, 5, .rc), (6, 6, .rc), (7, 7, .rc), (8, 8, .rc), (9, 9, .rc), (10, 10, .rc), (31, 11, .rsvl)]⟩,
    ⟨"TEN_DB_DROP_CNT", 0x1014, 1, 4, false, 0x00000000, .compute,
      [(31, 0, .ro)]⟩,
    ⟨"TEN_STATUS", 0x1018, 1, 4, false, 0x00000010, .compute,
      [(0, 0, .ro), (1, 1, .ro), (3, 2, .rsvl), (7, 4, .ro), (31, 8, .rsvl)]⟩,
    ⟨"TEN_CW_IDX", 0x1020, 1, 4, false, 0x00000000, .compute,
      [(15, 0, .rw), (24, 16, .rw), (31, 25, .rsvl)]⟩,
    ⟨"TEN_CW_CMD", 0x1024, 1, 4, false, 0x00000000, .compute,
      [(2, 0, .wo), (31, 3, .rsvl)]⟩,
    ⟨"TEN_CW_STATUS", 0x1028, 1, 4, false, 0x00000000, .compute,
      [(0, 0, .ro), (3, 1, .rsvl), (7, 4, .ro), (14, 8, .ro), (15, 15, .rsvl), (31, 16, .ro)]⟩,
    ⟨"TEN_CW_DATA", 0x1040, 12, 4, false, 0x00000000, .compute,
      [(31, 0, .rw)]⟩,
    ⟨"TEN_ERR", 0x1090, 1, 4, false, 0x00000000, .host,
      [(0, 0, .rc), (1, 1, .rc), (2, 2, .rc), (3, 3, .rc), (4, 4, .rc), (5, 5, .rc), (31, 6, .rsvl)]⟩,
    ⟨"TEN_MBX_REQ", 0x1080, 1, 4, false, 0x00000000, .host,
      [(15, 0, .wo), (16, 16, .wo), (31, 17, .rsvl)]⟩,
    ⟨"TEN_MBX_STATUS", 0x1084, 1, 4, false, 0x00000000, .host,
      [(0, 0, .ro), (1, 1, .ro), (3, 2, .ro), (15, 4, .rsvl), (31, 16, .ro)]⟩,
    ⟨"TEN_MBX_DATA_LO", 0x1088, 1, 4, false, 0x00000000, .host,
      [(31, 0, .ro)]⟩,
    ⟨"TEN_MBX_DATA_HI", 0x108C, 1, 4, false, 0x00000000, .host,
      [(31, 0, .ro)]⟩]

/-- The blocks of Table 17.1, by index. -/
def regBlocks : List RegBlock :=
  [
    ⟨"GLB", 0x0, 0x10000, regsGlb, [(0x2C, 0x3F, 1, 4), (0x50, 0xFFFF, 1, 4)]⟩,
    ⟨"PWR", 0x10000, 0x1000, regsPwr, [(0x14, 0xFF, 1, 4), (0x10C, 0x10F, 8, 16), (0x180, 0xFFF, 1, 4)]⟩,
    ⟨"MGT", 0x20000, 0x1000, regsMgt, [(0x28, 0xFF, 1, 4)]⟩,
    ⟨"OTP", 0x30000, 0x1000, regsOtp, [(0x2C, 0x7F, 1, 4), (0x100, 0x1FF, 1, 4)]⟩,
    ⟨"FLT", 0x40000, 0x1000, regsFlt, [(0x30, 0x7F, 1, 4), (0x10C, 0x10F, 8, 16), (0x180, 0x1FF, 1, 4)]⟩,
    ⟨"SHT", 0x50000, 0x1000, regsSht, []⟩,
    ⟨"TIL", 0x60000, 0x2000, regsTil, [(0x100C, 0x103F, 64, 64)]⟩,
    ⟨"PRM", 0x70000, 0x1000, regsPrm, [(0x34, 0x7F, 1, 4)]⟩,
    ⟨"KAL", 0x80000, 0x1000, regsKal, [(0x1C, 0x3F, 1, 4)]⟩,
    ⟨"OUU", 0x90000, 0x1000, regsOuu, [(0x8, 0xFF, 1, 4)]⟩,
    ⟨"MEM", 0xA0000, 0x1000, regsMem, [(0x14, 0xFF, 1, 4), (0x1C0, 0x1FF, 1, 4)]⟩,
    ⟨"APT", 0xB0000, 0x1000, regsApt, [(0x1C, 0x3F, 1, 4)]⟩,
    ⟨"CHN", 0xC0000, 0x1000, regsChn, [(0x30, 0x3F, 1, 4), (0x60, 0xFF, 1, 4)]⟩,
    ⟨"IGE", 0xD0000, 0x1000, regsIge, [(0x18, 0xFF, 1, 4)]⟩,
    ⟨"LNK", 0xE0000, 0x2000, regsLnk, [(0x18, 0x1F, 1, 4), (0x2C, 0x3F, 1, 4), (0x80, 0xFFF, 1, 4), (0x1020, 0x103F, 36, 64)]⟩,
    ⟨"PMC", 0xF0000, 0x10000, regsPmc, [(0x0, 0xFFFF, 1, 4)]⟩,
    ⟨"UAR", 0x100000, 0x1000, regsUar, [(0x18, 0xFFF, 1, 4)]⟩,
    ⟨"TEN", 0x200000, 0x100000, regsTen, [(0x101C, 0x101F, 1, 4), (0x102C, 0x103F, 1, 4), (0x1070, 0x1FFF, 1, 4)]⟩]

/-- Where the window of tenant v starts (R246, R381). -/
def Reg.window (v : Nat) : Nat := if v = 0 then 0x200000 else 0x20000000 + v * 0x100000

/-- GLB_ID. -/
def Reg.glbId : Nat := 0x0
/-- GLB_CTRL. -/
def Reg.glbCtrl : Nat := 0x4
/-- GLB_STATUS. -/
def Reg.glbStatus : Nat := 0x8
/-- GLB_BLK_EN. -/
def Reg.glbBlkEn : Nat := 0xC
/-- GLB_STROBE. -/
def Reg.glbStrobe : Nat := 0x10
/-- GLB_PENDING. -/
def Reg.glbPending : Nat := 0x14
/-- GLB_TEST. -/
def Reg.glbTest : Nat := 0x18
/-- GLB_ERR. -/
def Reg.glbErr : Nat := 0x1C
/-- GLB_ERR_OFF. -/
def Reg.glbErrOff : Nat := 0x20
/-- GLB_ERR_SRC. -/
def Reg.glbErrSrc : Nat := 0x24
/-- GLB_SCRATCH. -/
def Reg.glbScratch : Nat := 0x28
/-- GLB_MBX_REQ. -/
def Reg.glbMbxReq : Nat := 0x40
/-- GLB_MBX_STATUS. -/
def Reg.glbMbxStatus : Nat := 0x44
/-- GLB_MBX_DATA_LO. -/
def Reg.glbMbxDataLo : Nat := 0x48
/-- GLB_MBX_DATA_HI. -/
def Reg.glbMbxDataHi : Nat := 0x4C
/-- PWR_CAPS. -/
def Reg.pwrCaps : Nat := 0x10000
/-- PWR_CFG. -/
def Reg.pwrCfg : Nat := 0x10004
/-- PWR_CMD. -/
def Reg.pwrCmd : Nat := 0x10008
/-- PWR_STATUS. -/
def Reg.pwrStatus : Nat := 0x1000C
/-- PWR_TELEM. -/
def Reg.pwrTelem : Nat := 0x10010
/-- PWR_TCLK. -/
def Reg.pwrTclk (i : Nat) : Nat := 0x10100 + 0x10 * i
/-- PWR_TCLK_ACT. -/
def Reg.pwrTclkAct (i : Nat) : Nat := 0x10104 + 0x10 * i
/-- PWR_ALLOW. -/
def Reg.pwrAllow (i : Nat) : Nat := 0x10108 + 0x10 * i
/-- MGT_CAPS. -/
def Reg.mgtCaps : Nat := 0x20000
/-- MGT_COORD. -/
def Reg.mgtCoord : Nat := 0x20004
/-- MGT_DOMAIN. -/
def Reg.mgtDomain : Nat := 0x20008
/-- MGT_DM. -/
def Reg.mgtDm : Nat := 0x2000C
/-- MGT_CMD. -/
def Reg.mgtCmd : Nat := 0x20010
/-- MGT_STATUS. -/
def Reg.mgtStatus : Nat := 0x20014
/-- MGT_PARENT. -/
def Reg.mgtParent : Nat := 0x20018
/-- MGT_EVENT. -/
def Reg.mgtEvent : Nat := 0x2001C
/-- MGT_HALT_CFG. -/
def Reg.mgtHaltCfg : Nat := 0x20020
/-- MGT_HB_CFG. -/
def Reg.mgtHbCfg : Nat := 0x20024
/-- OTP_CAPS. -/
def Reg.otpCaps : Nat := 0x30000
/-- OTP_BOOT_STATUS. -/
def Reg.otpBootStatus : Nat := 0x30004
/-- OTP_FUSE_SEL. -/
def Reg.otpFuseSel : Nat := 0x30008
/-- OTP_FUSE_ARM. -/
def Reg.otpFuseArm : Nat := 0x3000C
/-- OTP_FUSE_CMD. -/
def Reg.otpFuseCmd : Nat := 0x30010
/-- OTP_FUSE_STATUS. -/
def Reg.otpFuseStatus : Nat := 0x30014
/-- OTP_IMG_LO. -/
def Reg.otpImgLo : Nat := 0x30018
/-- OTP_IMG_HI. -/
def Reg.otpImgHi : Nat := 0x3001C
/-- OTP_IMG_CMD. -/
def Reg.otpImgCmd : Nat := 0x30020
/-- OTP_IMG_STATUS. -/
def Reg.otpImgStatus : Nat := 0x30024
/-- OTP_EVENT. -/
def Reg.otpEvent : Nat := 0x30028
/-- OTP_STAGE. -/
def Reg.otpStage (i : Nat) : Nat := 0x30080 + 0x4 * i
/-- FLT_CAPS. -/
def Reg.fltCaps : Nat := 0x40000
/-- FLT_WD_CFG. -/
def Reg.fltWdCfg : Nat := 0x40004
/-- FLT_WARN_CFG. -/
def Reg.fltWarnCfg : Nat := 0x40008
/-- FLT_RECOV_CFG. -/
def Reg.fltRecovCfg : Nat := 0x4000C
/-- FLT_CTRL. -/
def Reg.fltCtrl : Nat := 0x40010
/-- FLT_STATUS. -/
def Reg.fltStatus : Nat := 0x40014
/-- FLT_EVENT. -/
def Reg.fltEvent : Nat := 0x40018
/-- FLT_FAULT_CNT. -/
def Reg.fltFaultCnt : Nat := 0x4001C
/-- FLT_RESET_CNT. -/
def Reg.fltResetCnt : Nat := 0x40020
/-- FLT_WARN_SRC. -/
def Reg.fltWarnSrc : Nat := 0x40024
/-- FLT_REC_IDX. -/
def Reg.fltRecIdx : Nat := 0x40028
/-- FLT_DUMP. -/
def Reg.fltDump : Nat := 0x4002C
/-- FLT_REC_DATA. -/
def Reg.fltRecData (i : Nat) : Nat := 0x40080 + 0x4 * i
/-- FLT_CKPT_LO. -/
def Reg.fltCkptLo (i : Nat) : Nat := 0x40100 + 0x10 * i
/-- FLT_CKPT_HI. -/
def Reg.fltCkptHi (i : Nat) : Nat := 0x40104 + 0x10 * i
/-- FLT_CKPT_STAT. -/
def Reg.fltCkptStat (i : Nat) : Nat := 0x40108 + 0x10 * i
/-- SHT_SYNC_CFG. -/
def Reg.shtSyncCfg : Nat := 0x50000
/-- SHT_SYNC_STATUS. -/
def Reg.shtSyncStatus : Nat := 0x50004
/-- SHT_PCTRL. -/
def Reg.shtPctrl (i : Nat) : Nat := 0x50100 + 0x40 * i
/-- SHT_PSTATE. -/
def Reg.shtPstate (i : Nat) : Nat := 0x50104 + 0x40 * i
/-- SHT_PEVENT. -/
def Reg.shtPevent (i : Nat) : Nat := 0x50108 + 0x40 * i
/-- SHT_OVERRUN_CNT. -/
def Reg.shtOverrunCnt (i : Nat) : Nat := 0x5010C + 0x40 * i
/-- SHT_SLIP_CNT. -/
def Reg.shtSlipCnt (i : Nat) : Nat := 0x50110 + 0x40 * i
/-- SHT_LAST_CAUSE. -/
def Reg.shtLastCause (i : Nat) : Nat := 0x50114 + 0x40 * i
/-- SHT_FRAMECYC. -/
def Reg.shtFramecyc (i : Nat) : Nat := 0x50118 + 0x40 * i
/-- TIL_CAPS. -/
def Reg.tilCaps : Nat := 0x60000
/-- TIL_PART_CFG. -/
def Reg.tilPartCfg : Nat := 0x60004
/-- TIL_PART_STATUS. -/
def Reg.tilPartStatus : Nat := 0x60008
/-- TIL_MAP. -/
def Reg.tilMap (i : Nat) : Nat := 0x60010 + 0x4 * i
/-- TIL_PHYS_ROLE. -/
def Reg.tilPhysRole (i : Nat) : Nat := 0x60080 + 0x4 * i
/-- TIL_TSTAT. -/
def Reg.tilTstat (i : Nat) : Nat := 0x61000 + 0x40 * i
/-- TIL_LS_CE. -/
def Reg.tilLsCe (i : Nat) : Nat := 0x61004 + 0x40 * i
/-- TIL_LS_UE_ADDR. -/
def Reg.tilLsUeAddr (i : Nat) : Nat := 0x61008 + 0x40 * i
/-- PRM_CAPS. -/
def Reg.prmCaps : Nat := 0x70000
/-- PRM_PART_CFG. -/
def Reg.prmPartCfg : Nat := 0x70004
/-- PRM_PART_STATUS. -/
def Reg.prmPartStatus : Nat := 0x70008
/-- PRM_GTW_IDX. -/
def Reg.prmGtwIdx : Nat := 0x70010
/-- PRM_GTW_CMD. -/
def Reg.prmGtwCmd : Nat := 0x70014
/-- PRM_GTW_STATUS. -/
def Reg.prmGtwStatus : Nat := 0x70018
/-- PRM_EVENT. -/
def Reg.prmEvent : Nat := 0x70020
/-- PRM_LATE_CNT. -/
def Reg.prmLateCnt : Nat := 0x70024
/-- PRM_FAIL_CNT. -/
def Reg.prmFailCnt : Nat := 0x70028
/-- PRM_CLAMP_CNT. -/
def Reg.prmClampCnt : Nat := 0x7002C
/-- PRM_INFLIGHT. -/
def Reg.prmInflight : Nat := 0x70030
/-- PRM_GTW_DATA. -/
def Reg.prmGtwData (i : Nat) : Nat := 0x70080 + 0x4 * i
/-- KAL_CAPS. -/
def Reg.kalCaps : Nat := 0x80000
/-- KAL_RTW_IDX. -/
def Reg.kalRtwIdx : Nat := 0x80004
/-- KAL_RTW_CMD. -/
def Reg.kalRtwCmd : Nat := 0x80008
/-- KAL_RTW_STATUS. -/
def Reg.kalRtwStatus : Nat := 0x8000C
/-- KAL_EVENT. -/
def Reg.kalEvent : Nat := 0x80010
/-- KAL_HOP_CNT. -/
def Reg.kalHopCnt : Nat := 0x80014
/-- KAL_INFLIGHT. -/
def Reg.kalInflight : Nat := 0x80018
/-- KAL_RTW_DATA. -/
def Reg.kalRtwData (i : Nat) : Nat := 0x80040 + 0x4 * i
/-- OUU_CAPS. -/
def Reg.ouuCaps : Nat := 0x90000
/-- OUU_STATUS. -/
def Reg.ouuStatus : Nat := 0x90004
/-- OUU_TBL_LO. -/
def Reg.ouuTblLo (i : Nat) : Nat := 0x90100 + 0x20 * i
/-- OUU_TBL_HI. -/
def Reg.ouuTblHi (i : Nat) : Nat := 0x90104 + 0x20 * i
/-- OUU_CTRL. -/
def Reg.ouuCtrl (i : Nat) : Nat := 0x90108 + 0x20 * i
/-- OUU_PSTAT. -/
def Reg.ouuPstat (i : Nat) : Nat := 0x9010C + 0x20 * i
/-- OUU_SKIP_CNT. -/
def Reg.ouuSkipCnt (i : Nat) : Nat := 0x90110 + 0x20 * i
/-- OUU_CLIP_CNT. -/
def Reg.ouuClipCnt (i : Nat) : Nat := 0x90114 + 0x20 * i
/-- OUU_LR. -/
def Reg.ouuLr (i : Nat) : Nat := 0x90118 + 0x20 * i
/-- OUU_NORM. -/
def Reg.ouuNorm (i : Nat) : Nat := 0x9011C + 0x20 * i
/-- MEM_CAPS. -/
def Reg.memCaps : Nat := 0xA0000
/-- MEM_SCRUB_CFG. -/
def Reg.memScrubCfg : Nat := 0xA0004
/-- MEM_CE_THRESH. -/
def Reg.memCeThresh : Nat := 0xA0008
/-- MEM_EVENT. -/
def Reg.memEvent : Nat := 0xA000C
/-- MEM_STATUS. -/
def Reg.memStatus : Nat := 0xA0010
/-- MEM_CE_CNT. -/
def Reg.memCeCnt (i : Nat) : Nat := 0xA0100 + 0x10 * i
/-- MEM_UE_CNT. -/
def Reg.memUeCnt (i : Nat) : Nat := 0xA0104 + 0x10 * i
/-- MEM_SCRUB_CNT. -/
def Reg.memScrubCnt (i : Nat) : Nat := 0xA0108 + 0x10 * i
/-- MEM_AOW_MIS_CNT. -/
def Reg.memAowMisCnt (i : Nat) : Nat := 0xA010C + 0x10 * i
/-- APT_CAPS. -/
def Reg.aptCaps : Nat := 0xB0000
/-- APT_W_SEL. -/
def Reg.aptWSel : Nat := 0xB0004
/-- APT_W_CMD. -/
def Reg.aptWCmd : Nat := 0xB0008
/-- APT_W_STATUS. -/
def Reg.aptWStatus : Nat := 0xB000C
/-- APT_STORE. -/
def Reg.aptStore : Nat := 0xB0010
/-- APT_TC_MISS. -/
def Reg.aptTcMiss : Nat := 0xB0014
/-- APT_EVENT. -/
def Reg.aptEvent : Nat := 0xB0018
/-- APT_W_DATA. -/
def Reg.aptWData (i : Nat) : Nat := 0xB0040 + 0x4 * i
/-- CHN_CAPS. -/
def Reg.chnCaps : Nat := 0xC0000
/-- CHN_T_SEL. -/
def Reg.chnTSel : Nat := 0xC0004
/-- CHN_T_CHBASE. -/
def Reg.chnTChbase : Nat := 0xC0008
/-- CHN_T_CHCNT. -/
def Reg.chnTChcnt : Nat := 0xC000C
/-- CHN_T_SEM. -/
def Reg.chnTSem : Nat := 0xC0010
/-- CHN_T_GRP. -/
def Reg.chnTGrp : Nat := 0xC0014
/-- CHN_T_SCHED. -/
def Reg.chnTSched : Nat := 0xC0018
/-- CHN_T_CMD. -/
def Reg.chnTCmd : Nat := 0xC001C
/-- CHN_T_STATUS. -/
def Reg.chnTStatus : Nat := 0xC0020
/-- CHN_EVENT. -/
def Reg.chnEvent : Nat := 0xC0024
/-- CHN_SEMR_DROP_CNT. -/
def Reg.chnSemrDropCnt : Nat := 0xC0028
/-- CHN_CACHE_MISS. -/
def Reg.chnCacheMiss : Nat := 0xC002C
/-- CHN_PSCHED. -/
def Reg.chnPsched (i : Nat) : Nat := 0xC0040 + 0x4 * i
/-- IGE_CAPS. -/
def Reg.igeCaps : Nat := 0xD0000
/-- IGE_STATUS. -/
def Reg.igeStatus : Nat := 0xD0004
/-- IGE_EVENT. -/
def Reg.igeEvent : Nat := 0xD0008
/-- IGE_FAIL_CNT. -/
def Reg.igeFailCnt : Nat := 0xD000C
/-- IGE_AUTH_CNT. -/
def Reg.igeAuthCnt : Nat := 0xD0010
/-- IGE_SAT_CNT. -/
def Reg.igeSatCnt : Nat := 0xD0014
/-- LNK_CAPS. -/
def Reg.lnkCaps : Nat := 0xE0000
/-- LNK_CREDIT_CFG. -/
def Reg.lnkCreditCfg : Nat := 0xE0004
/-- LNK_WARN_CFG. -/
def Reg.lnkWarnCfg : Nat := 0xE0008
/-- LNK_EVENT. -/
def Reg.lnkEvent : Nat := 0xE000C
/-- LNK_RLM_STATUS. -/
def Reg.lnkRlmStatus : Nat := 0xE0010
/-- LNK_RLM_CTRL. -/
def Reg.lnkRlmCtrl : Nat := 0xE0014
/-- LNK_QP_IDX. -/
def Reg.lnkQpIdx : Nat := 0xE0020
/-- LNK_QP_CMD. -/
def Reg.lnkQpCmd : Nat := 0xE0024
/-- LNK_QP_STATUS. -/
def Reg.lnkQpStatus : Nat := 0xE0028
/-- LNK_QP_DATA. -/
def Reg.lnkQpData (i : Nat) : Nat := 0xE0040 + 0x4 * i
/-- LNK_STATE. -/
def Reg.lnkState (i : Nat) : Nat := 0xE1000 + 0x40 * i
/-- LNK_LANE. -/
def Reg.lnkLane (i : Nat) : Nat := 0xE1004 + 0x40 * i
/-- LNK_CTRL. -/
def Reg.lnkCtrl (i : Nat) : Nat := 0xE1008 + 0x40 * i
/-- LNK_PEER. -/
def Reg.lnkPeer (i : Nat) : Nat := 0xE100C + 0x40 * i
/-- LNK_FEC_CE. -/
def Reg.lnkFecCe (i : Nat) : Nat := 0xE1010 + 0x40 * i
/-- LNK_FEC_UE. -/
def Reg.lnkFecUe (i : Nat) : Nat := 0xE1014 + 0x40 * i
/-- LNK_REPLAY. -/
def Reg.lnkReplay (i : Nat) : Nat := 0xE1018 + 0x40 * i
/-- LNK_RETRAIN_CNT. -/
def Reg.lnkRetrainCnt (i : Nat) : Nat := 0xE101C + 0x40 * i
/-- PMC_CAPS. -/
def Reg.pmcCaps : Nat := 0xF0000
/-- PMC_CTRL. -/
def Reg.pmcCtrl : Nat := 0xF0004
/-- PMC_EVENT. -/
def Reg.pmcEvent : Nat := 0xF0008
/-- PMC_CFG_TILE. -/
def Reg.pmcCfgTile (i : Nat) : Nat := 0xF1000 + 0x4 * i
/-- PMC_CFG_HBM. -/
def Reg.pmcCfgHbm (i : Nat) : Nat := 0xF2000 + 0x4 * i
/-- PMC_CFG_LINK. -/
def Reg.pmcCfgLink (i : Nat) : Nat := 0xF3000 + 0x4 * i
/-- PMC_CFG_PRM. -/
def Reg.pmcCfgPrm (i : Nat) : Nat := 0xF4000 + 0x4 * i
/-- PMC_TDBG. -/
def Reg.pmcTdbg (i : Nat) : Nat := 0xF5000 + 0x4 * i
/-- PMC_TPC. -/
def Reg.pmcTpc (i : Nat) : Nat := 0xF5100 + 0x4 * i
/-- UAR_CFG. -/
def Reg.uarCfg : Nat := 0x100000
/-- UAR_STATUS. -/
def Reg.uarStatus : Nat := 0x100004
/-- UAR_ERR. -/
def Reg.uarErr : Nat := 0x100008
/-- UAR_FE_CNT. -/
def Reg.uarFeCnt : Nat := 0x10000C
/-- UAR_TX. -/
def Reg.uarTx : Nat := 0x100010
/-- UAR_RX. -/
def Reg.uarRx : Nat := 0x100014
/-- TEN_ID of tenant v. -/
def Reg.tenId (v : Nat) : Nat := Reg.window v + 0x1000
/-- TEN_RANGE of tenant v. -/
def Reg.tenRange (v : Nat) : Nat := Reg.window v + 0x1004
/-- TEN_ALLOT of tenant v. -/
def Reg.tenAllot (v : Nat) : Nat := Reg.window v + 0x1008
/-- TEN_ALLOT2 of tenant v. -/
def Reg.tenAllot2 (v : Nat) : Nat := Reg.window v + 0x100C
/-- TEN_EVENT of tenant v. -/
def Reg.tenEvent (v : Nat) : Nat := Reg.window v + 0x1010
/-- TEN_DB_DROP_CNT of tenant v. -/
def Reg.tenDbDropCnt (v : Nat) : Nat := Reg.window v + 0x1014
/-- TEN_STATUS of tenant v. -/
def Reg.tenStatus (v : Nat) : Nat := Reg.window v + 0x1018
/-- TEN_CW_IDX of tenant v. -/
def Reg.tenCwIdx (v : Nat) : Nat := Reg.window v + 0x1020
/-- TEN_CW_CMD of tenant v. -/
def Reg.tenCwCmd (v : Nat) : Nat := Reg.window v + 0x1024
/-- TEN_CW_STATUS of tenant v. -/
def Reg.tenCwStatus (v : Nat) : Nat := Reg.window v + 0x1028
/-- TEN_CW_DATA of tenant v. -/
def Reg.tenCwData (v n : Nat) : Nat := Reg.window v + 0x1040 + 4 * n
/-- TEN_ERR of tenant v. -/
def Reg.tenErr (v : Nat) : Nat := Reg.window v + 0x1090
/-- TEN_MBX_REQ of tenant v. -/
def Reg.tenMbxReq (v : Nat) : Nat := Reg.window v + 0x1080
/-- TEN_MBX_STATUS of tenant v. -/
def Reg.tenMbxStatus (v : Nat) : Nat := Reg.window v + 0x1084
/-- TEN_MBX_DATA_LO of tenant v. -/
def Reg.tenMbxDataLo (v : Nat) : Nat := Reg.window v + 0x1088
/-- TEN_MBX_DATA_HI of tenant v. -/
def Reg.tenMbxDataHi (v : Nat) : Nat := Reg.window v + 0x108C

/-- The block and the offset in it of a place, `none` outside Table 17.1 (R382); a VF window counts as block 17. -/
def Reg.blockAt (p : Nat) : Option (Nat × Nat) :=
  if 0x20000000 ≤ p then some (17, (p - 0x20000000) % 0x100000) else
  (List.range 18).findSome? fun i =>
    match regBlocks[i]? with
    | some b => if b.base ≤ p && p < b.base + b.size then some (i, p - b.base) else none
    | none => none

/-- The register at an offset of a block, and which of its copies. -/
def Reg.rowAt (blk off : Nat) : Option (RegRow × Nat) :=
  match regBlocks[blk]? with
  | some b => b.rows.findSome? fun r =>
      if r.off ≤ off && (off - r.off) % r.stride == 0 && (off - r.off) / r.stride < r.n
      then some (r, (off - r.off) / r.stride) else none
  | none => none

/-- The register at a place. -/
def Reg.find (p : Nat) : Option (Nat × RegRow × Nat) :=
  match Reg.blockAt p with
  | some (b, o) => (Reg.rowAt b o).map fun r => (b, r.1, r.2)
  | none => none

/-- Whether a block's chapter says that an offset reads as zero and ignores writes. -/
def Reg.zeroAt (blk off : Nat) : Bool :=
  match regBlocks[blk]? with
  | some b => b.zeros.any fun (lo, hi, n, st) =>
      lo ≤ off && (off - lo) / st < n && (off - lo) % st ≤ hi - lo || (n == 1 && lo ≤ off && off ≤ hi)
  | none => false

/-- The bits of a field. -/
def fieldMask (hi lo : Nat) : Word := BitVec.ofNat 32 ((2 ^ (hi - lo + 1) - 1) * 2 ^ lo)

/-- The bits of a register that carry an access code. -/
def RegRow.mask (r : RegRow) (a : Acc) : Word :=
  r.fields.foldl (fun m f => if f.2.2 == a then m ||| fieldMask f.1 f.2.1 else m) 0

/-- The value a register has after a whole-device reset (R384). Resets that the tables give as `from the fuse record',
`from the boot ROM' or `from the dump headers' are views of State (Machine/Regs.lean); PWR_ALLOW is 0x0080_0000 for
p = 0 and TEN_ID holds the function and its vectors. -/
def Reg.resetValue (p : Nat) : Word :=
  match Reg.find p with
  | some (b, r, i) => if b == 1 && r.off == 0x108 && i == 0 then 0x00800000 else r.reset
  | none => 0

end Sys2Proof.Machine
end

