-- ==== Sys2Proof/Machine/Sparse.lean ====
section
/-!
DEFINITION. Finite maps on Nat keys as plain data in one canonical form: keys strictly rising, and no entry equal to the
value an unlisted key reads as. Register file, memories, tiles and tables are all held so.
-/

namespace Sys2Proof.Machine

/-- A finite map on Nat keys. -/
abbrev Sparse (α : Type) := List (Nat × α)

/-- The entry listed under a key. -/
def Sparse.find {α : Type} : Sparse α → Nat → Option α
  | [], _ => none
  | (k, v) :: m, i => if i = k then some v else Sparse.find m i

/-- The value at a key; an unlisted key reads as `d`. -/
def Sparse.get {α : Type} (d : α) (m : Sparse α) (i : Nat) : α := (Sparse.find m i).getD d

/-- List a value under a key, at its place. -/
def Sparse.put {α : Type} : Sparse α → Nat → α → Sparse α
  | [], i, v => [(i, v)]
  | (k, w) :: m, i, v =>
    if i < k then (i, v) :: (k, w) :: m else if i = k then (k, v) :: m else (k, w) :: Sparse.put m i v

/-- List nothing under a key. -/
def Sparse.drop {α : Type} (m : Sparse α) (i : Nat) : Sparse α := m.filter fun e => e.1 != i

/-- Write a value at a key; writing what an unlisted key reads as removes the entry. -/
def Sparse.set {α : Type} [DecidableEq α] (d : α) (m : Sparse α) (i : Nat) (v : α) : Sparse α :=
  if v = d then Sparse.drop m i else Sparse.put m i v

/-- Change the value at a key. -/
def Sparse.update {α : Type} [DecidableEq α] (d : α) (m : Sparse α) (i : Nat) (f : α → α) : Sparse α :=
  Sparse.set d m i (f (Sparse.get d m i))

/-- Every key is above `lo`, keys rise strictly, and no entry is what an unlisted key reads as. -/
def Sparse.wfFrom {α : Type} [DecidableEq α] (d : Nat → α) : Option Nat → Sparse α → Bool
  | _, [] => true
  | lo, (k, v) :: m => (match lo with | none => true | some l => decide (l < k)) && !decide (v = d k)
      && Sparse.wfFrom d (some k) m

/-- The canonical form. -/
def Sparse.wf {α : Type} [DecidableEq α] (d : Nat → α) (m : Sparse α) : Bool := Sparse.wfFrom d none m

/-- `n` values from a key on. -/
def Sparse.range {α : Type} (d : α) (m : Sparse α) (i n : Nat) : List α :=
  (List.range n).map fun j => Sparse.get d m (i + j)

/-- Write a list of values from a key on. -/
def Sparse.setRange {α : Type} [DecidableEq α] (d : α) (m : Sparse α) (i : Nat) : List α → Sparse α
  | [] => m
  | v :: vs => Sparse.setRange d (Sparse.set d m i v) (i + 1) vs

/-- List nothing under the keys of a range. -/
def Sparse.clear {α : Type} (m : Sparse α) (i n : Nat) : Sparse α :=
  m.filter fun e => !(decide (i ≤ e.1) && decide (e.1 < i + n))

/-- The `n` keys from `lo` on take the values of `f`. -/
def Sparse.splice {α : Type} [DecidableEq α] (d : α) (m : Sparse α) (lo n : Nat) (f : Nat → α) : Sparse α :=
  m.filter (fun e => decide (e.1 < lo)) ++
  ((List.range n).map fun i => (lo + i, f i)).filter (fun e => !decide (e.2 = d)) ++
  m.filter fun e => decide (lo + n ≤ e.1)

end Sys2Proof.Machine
end

