-- ==== Sys2Proof/Machine/State.lean ====
section
/-!
DEFINITION. The state of the chip as plain data: everything the spec gives the block, the queue of waiting commands, and
the model's own bookkeeping (each such field says so). Registers that the register tables give only as 32-bit words
live in one register file, `State.regs`, keyed by place (Machine/Regs.lean); `State.reset` is the chip in whole-device
reset, before RESET_N rises.
-/

namespace Sys2Proof.Machine

/-- A byte range that an operation reads or writes: space 0 is the local store of `tile`, 1 a tenant address. -/
structure Span where
  space : Nat
  tile : Nat
  lo : Nat
  hi : Nat
deriving DecidableEq, Repr

/-- An add-on-write request that an operation formed (Table 10.7), and the status it completed with. -/
structure AowReq where
  op : BitVec 2
  da : Nat
  side : Nat
  data : List Byte
  sideBytes : List Byte
  status : Option (BitVec 3)
deriving DecidableEq, Repr

/-- The asynchronous operations of a tile (R105, R112, R113). -/
inductive OpKind where
  | mma | mdrain | vst | vcvtMx | dma | krot | pcol | semr | fenceG
deriving DecidableEq, Repr

/-- An operation issued and not yet complete; `owes` is the matrix unit-cycles that the issue limiter still holds back
(17 R396). -/
structure Op where
  id : Nat
  kind : OpKind
  ec : Nat
  span : Bool
  deferred : Bool
  frame : BitVec 48
  reads : List Span
  writes : List Span
  sink : Nat
  spill : Bool
  owes : Nat
  aow : List AowReq
deriving DecidableEq, Repr

/-- A register result of an S2 operation that its latency still holds back (R97, R430). Register numbers are bank keys
(`Tile.x`, `Tile.v`); a vector result is 1,024 lanes. -/
structure PendRes where
  id : Nat
  xd : Option (Nat × Dword)
  vd : Option (Nat × List Word)
  reads : List Span
deriving DecidableEq, Repr

/-- An entry of the deferred weight-gradient queue (R115). -/
structure DefEntry where
  pc : Word
  decl : BitVec 22
  arg : Dword
deriving DecidableEq, Repr

/-- Where a running deferred routine was taken (R115-R117, R105). -/
inductive TakenAt where
  | afterClose
  | atDefd
  | atDefp (push : DefEntry)
  | atStepEndf
deriving DecidableEq, Repr

/-- The running deferred routine (R116); `returning` from its RETD until its operations complete. -/
structure Routine where
  returnPc : Word
  takenAt : TakenAt
  returning : Bool
  run : Nat
deriving DecidableEq, Repr

/-- An ENDF whose frame has not closed yet (R105). -/
structure Closing where
  decl : BitVec 22
  step : Bool
  last : Bool
deriving DecidableEq, Repr

/-- The tag of an accumulator half: the path and Q of the instruction that overwrote it (R79). -/
structure AccTag where
  path : BitVec 2
  q : BitVec 16
deriving DecidableEq, Repr

/-- One part of a frame digest's input stream: the bytes of one operation (R196). -/
structure DigestPart where
  op : Nat
  bytes : List Byte
  done : Bool
deriving DecidableEq, Repr

/-- The digest stream of one frame, or of one deferred routine run (R196). -/
structure DigestStream where
  frame : BitVec 48
  routine : Option Nat
  closed : Bool
  parts : List DigestPart
deriving DecidableEq, Repr

/-- The three fences (R113); FENCE.G joins its barrier, as an operation, once every earlier operation has completed. -/
inductive FenceKind where
  | tile | chip | group (g : Nat) (joined : Option Nat)
deriving DecidableEq, Repr

/-- One tile (03, 05). Register banks are sparse maps with default zero: X and E keys 0-31 name the frame program's
registers and 32 + r the deferred bank's (R98), D likewise with 64 + r, B with 16 + r; V keys name a register's 1,024
lanes; accumulator keys (unit × 256 + row) × 128 + column. -/
structure Tile where
  x : Sparse Dword
  d : Sparse (BitVec 256)
  b : Sparse Bool
  e : Sparse (BitVec 16)
  v : Sparse (List Word)
  pc : Word
  acc : Sparse (BitVec 144)
  tags : Sparse (Option AccTag)
  queue : List DefEntry
  routine : Option Routine
  held : Bool
  fence : Option FenceKind
  ops : List Op
  opSeq : Nat
  pend : List PendRes
  lines : List (Nat × List Byte)
  fetching : List Nat
  frameOpen : Bool
  waiting : Bool
  closing : Option Closing
  frameP : BitVec 48
  frameF : BitVec 48
  frameTick : Dword
  lateCause : Option Cause
  holdCause : Option Cause
  lostWaiting : Nat
  closeDecl : Nat
  takenDecl : Nat
  closedStep : Bool
  closedEnd : Bool
  debugHalted : Bool
  debugStep : Bool
  debugPass : Bool
  faulted : Bool
  scrubbing : Bool
  bistFailed : Bool
  wdTicks : Nat
  streams : List DigestStream
  frameDigests : List (Nat × BitVec 128)
  routineDigests : List (BitVec 128)
  routineSeq : Nat
deriving DecidableEq, Repr

/-- A tile with every register zero and nothing running. -/
def Tile.reset : Tile :=
  { x := [], d := [], b := [], e := [], v := [], pc := 0, acc := [], tags := [], queue := [], routine := none,
    held := false, fence := none, ops := [], opSeq := 0, pend := [], lines := [], fetching := [], frameOpen := false,
    waiting := false, closing := none, frameP := 0, frameF := 0, frameTick := 0, lateCause := none, holdCause := none, lostWaiting := 0,
    closeDecl := 0, takenDecl := 0, closedStep := false, closedEnd := false, debugHalted := false, debugStep := false,
    debugPass := false, faulted := false, scrubbing := false, bistFailed := false, wdTicks := 0, streams := [], frameDigests := [],
    routineDigests := [], routineSeq := 0 }

/-- The registers of a tile that a save holds (R262). Its layout in memory is the firmware's own, so the model keeps them as
data beside the save area (log 48). -/
structure RegImage where
  x : Sparse Dword
  d : Sparse (BitVec 256)
  b : Sparse Bool
  e : Sparse (BitVec 16)
  v : Sparse (List Word)
  queue : List DefEntry
  pc : Word
deriving DecidableEq, Repr

/-- A slip entry (Table 9.8). -/
structure SlipEntry where
  p : BitVec 48
  lateness : Word
  lost : BitVec 16
  cause : Cause
  tile : Nat
  gtc : Dword
deriving DecidableEq, Repr

/-- A decision entry (Table 9.7). -/
structure Decision where
  tag : Word
  sseq : BitVec 24
  launcher : Nat
  member : Nat
  owner : Nat
  kind : BitVec 4
  lateness : Word
  slotStep : BitVec 40
  gtc : Dword
deriving DecidableEq, Repr

/-- A training job as LAUNCH registered it (R260), and how far it is. -/
structure Job where
  jobId : Word
  tenant : Nat
  chan : Nat
  cmdIndex : Word
  image : Nat
  imgLen : Nat
  entries : List Word
  ledger : Nat
  utable : Nat
  save : Nat
  seed : Dword
  startStep : BitVec 40
  repro : Bool
  mv2 : Bool
  launchCount : Option Dword
  lockOk : Bool
  restoring : Bool
  preempted : Bool
  resumes : Bool
  leaving : Bool
  ending : Option (BitVec 8)
  endDetail : Nat
  lastClosed : Option (BitVec 40)
deriving DecidableEq, Repr

/-- The OUU's copy of an update table's header and schedule (R171): 64 + 512 bytes. -/
structure OuuCopy where
  header : BitVec 512
  segments : List (BitVec 256)
deriving DecidableEq, Repr

/-- The ledger of a job on its partition (09): the 128-byte descriptor, the sequence and counts, the item digests and the
items that changed since; under replay the source record of the step and how far the source is read; the dispatched
frames that a Mirror half or a frame compare has yet to compare. -/
structure Ledger where
  desc : BitVec 1024
  descAddr : Nat
  lseq : Word
  lastLseq : Word
  lost : Nat
  discarded : Dword
  wcount : Dword
  items : List (BitVec 256)
  fingerprint : BitVec 256
  changed : List Nat
  mirrorP : BitVec 48
  divergeStep : BitVec 40
  replaying : Bool
  replayOff : Nat
  sourceItems : Option (List Byte)
  source : Option (List Byte)
  sourceNext : Option (List Byte)
  unmirrored : Bool
  frozen : Bool
  uncompared : List Nat
  partnerDigests : List (Nat × BitVec 48 × BitVec 128)
  ownDigests : List (Nat × BitVec 48 × BitVec 128)
  freezing : Option (Nat × Word × List (BitVec 128) × List (BitVec 128))
deriving DecidableEq, Repr

/-- What the mailbox shows of a partition's ledger once its job has ended (Table 9.15). -/
structure LedgerShow where
  lastLseq : Word
  discarded : Dword
  mirrorP : BitVec 48
  divergeStep : BitVec 40
deriving DecidableEq, Repr

/-- A partition's share of a checkpoint (R352-R358): the step of the cut ordered; of a staged drain, the tenant, the
JOB_ID, the descriptor and the manifest's header as they stood at the cut; whether the release is awaited; the extents that an admission has copied. -/
structure Ckpt where
  cutStep : Option (BitVec 40)
  drain : Option (Nat × Word × List Byte × List Byte)
  releaseWait : Bool
  lastCutStep : BitVec 40
  bytesCut : Dword
  copied : List Nat
deriving DecidableEq, Repr

/-- One tile partition (02, 08, 09, 11, 15). `step` rises when a step closes; `closing` is the step whose boundary runs,
`action` the action of R15 that it is at (0 none, 7 all done), `passTaken` the frames that its OUU pass took. `incoming` marks a job whose tiles still hold the serving
context that it displaced; `onTiles` names the tenant whose context is on them. -/
structure Part where
  running : Bool
  l : Dword
  f : BitVec 48
  p : BitVec 48
  d : BitVec 48
  step : BitVec 40
  closing : BitVec 40
  lastTick : Dword
  ticked : Bool
  stepOpen : Bool
  action : Nat
  boundaryFrame : Nat
  dueCause : Option Cause
  passTaken : Nat
  repro : Bool
  mv2 : Bool
  seed : Dword
  imgTenant : Nat
  imgBase : Nat
  imgLen : Nat
  job : Option Job
  turn : Option Nat
  deficit : Nat
  lastTenant : Nat
  swapLeft : Nat
  swapIn : Bool
  onTiles : Option Nat
  firstP : BitVec 48
  stepTicks : Nat
  stepLost : Nat
  closedTicks : Nat
  closedLost : Nat
  cyc : Nat
  slips : List SlipEntry
  decisions : List Decision
  byCause : Sparse Nat
  slipOvf : Bool
  decOvf : Bool
  allowLeft : Nat
  heldBack : Dword
  setMhz : Nat
  ouu : Option OuuCopy
  loupes : List (BitVec 512)
  normPart : Word
  norm : Option Word
  normTick : Dword
  ouuBytes : Dword
  ouuGtc : Dword
  ouuStep : BitVec 40
  lastStepDefer : Bool
  led : Option Ledger
  ledShow : LedgerShow
  ckpt : Ckpt
  held : Bool
  holdActivation : Bool
  abandoned : Bool
  startAt : Option Dword
  incoming : Bool
  jobHalted : Bool
deriving DecidableEq, Repr

/-- What the mailbox shows of the ledger of a partition. -/
def Part.showLedger (x : Part) : LedgerShow := match x.led with
  | some l => { lastLseq := l.lastLseq, discarded := l.discarded, mirrorP := l.mirrorP, divergeStep := l.divergeStep }
  | none => x.ledShow

/-- The job is past its launch count, and its frames, not a serving context's, are on the tiles. -/
def Part.jobActive (x : Part) : Bool := x.job.any fun j => j.launchCount.isNone && j.lockOk && !j.preempted
def Part.jobOn (x : Part) : Bool := x.jobActive && !x.incoming

/-- A partition with no frames running and the SHT defaults (R64). -/
def Part.reset : Part :=
  { running := false, l := 0, f := 0, p := 0, d := 0, step := 0, closing := 0, lastTick := 0, ticked := false, stepOpen := false,
    action := 0, boundaryFrame := 0, dueCause := none, passTaken := 0, repro := false, mv2 := false, seed := 0, imgTenant := 0, imgBase := 0, imgLen := 0,
    job := none, turn := none, deficit := 0, lastTenant := 0, swapLeft := 0, swapIn := false, onTiles := none, firstP := 0,
    stepTicks := 0, stepLost := 0, closedTicks := 0, closedLost := 0, cyc := 0, slips := [], decisions := [], byCause := [], slipOvf := false, decOvf := false,
    allowLeft := 0, heldBack := 0, setMhz := 2000, ouu := none, loupes := [], normPart := 0, norm := none, normTick := 0, ouuBytes := 0,
    ouuGtc := 0, ouuStep := 0, lastStepDefer := false, led := none,
    ledShow := { lastLseq := 0, discarded := 0, mirrorP := BitVec.allOnes 48, divergeStep := BitVec.allOnes 40 },
    ckpt := { cutStep := none, drain := none, releaseWait := false, lastCutStep := 0, bytesCut := 0, copied := [] },
    held := false, holdActivation := false, abandoned := false, startAt := none, incoming := false, jobHalted := false }

/-- What Loupe has formed for one tensor in one reporting unit (R200, R201): the binary64 partial sum of squares, the
largest finite magnitude as binary32, the counts. -/
structure Loupe where
  ssq : Dword
  maxMag : Word
  elems : Nat
  nans : Nat
  pinfs : Nat
  ninfs : Nat
  zeros : Nat
  sats : Nat
deriving DecidableEq, Repr

/-- A contribution that an owner holds, in arrival order (R127, R128). -/
structure Contrib where
  rank : Nat
  data : List Byte
  side : List Byte
deriving DecidableEq, Repr

/-- A member record (R120): chip, bundle, and whether the route leaves through a switch. -/
structure Member where
  chip : ChipId
  bundle : BitVec 6
  sw : Bool
deriving DecidableEq, Repr

/-- A member list that Prism holds for a phase of a step (R122). -/
structure MemberList where
  group : Nat
  phase : Nat
  step : BitVec 40
  valid : Bool
  members : List Member
  slots : List Dword
  order : List Nat
deriving DecidableEq, Repr

/-- A collective outstanding on this chip (R123-R142), or finished with late contributions still to come (R138): `words` is the
group entry of its launch, `members`, `slots` and `order` its launch phase's list, `forcedAs` what a replayed record says of each
rank, `superseded` that the next step's matched collective has been launched. The source bytes are those of a fused sink or of the
optimiser; `written` is what Prism wrote into the destination. -/
structure Coll where
  id : CollId
  group : Nat
  part : Nat
  tile : Nat
  op : Nat
  ec : Nat
  fused : Bool
  pop : BitVec 4
  xl : Nat
  ds : BitVec 256
  dt : BitVec 256
  sfmt : BitVec 4
  dfmt : BitVec 4
  width : Nat
  fixedAnchor : Bool
  rows : Nat
  cols : Nat
  sseq : BitVec 24
  step : BitVec 40
  frameF : BitVec 48
  words : BitVec 1024
  phase : Nat
  rank : Nat
  members : List Member
  slots : List Dword
  order : List Nat
  forcedAs : List (Nat × Nat)
  superseded : Bool
  source : List Byte
  sourceSide : List Byte
  headers : List Nat
  ecs : List (Nat × Nat × BitVec 16)
  anchors : List (Nat × BitVec 16)
  replies : List (Nat × Nat × BitVec 16)
  contribs : List Contrib
  late : List Nat
  lateDone : List Nat
  failed : List Nat
  deadlinePassed : Bool
  shardDone : Bool
  results : List (Nat × List Nat)
  counts : List (Nat × Word)
  code : BitVec 8
  clampRank : Option Nat
  clamped : Bool
  deferredFlag : Bool
  droppedFlag : Bool
  lateCount : Nat
  finished : Bool
  written : List (Nat × List Byte)
deriving DecidableEq, Repr

/-- A launch (R123): its counters are taken when it issues, `rel` is its step-relative frame; the source bytes come with
it from a fused sink or the optimiser. -/
structure LaunchReq where
  part : Nat
  tile : Nat
  launcher : Fin 65
  group : Nat
  pop : BitVec 4
  xl : Nat
  ds : BitVec 256
  dt : BitVec 256
  sfmt : BitVec 4
  dfmt : BitVec 4
  op : Nat
  ec : Nat
  fused : Bool := false
  fixedAnchor : Bool := false
  rows : Nat := 0
  cols : Nat := 0
  source : List Byte := []
  sourceSide : List Byte := []
  rel : Nat
  frameF : BitVec 48
  words : BitVec 1024 := 0
  seq : Word := 0
  sseq : BitVec 24 := 0
  step : BitVec 40 := 0
deriving DecidableEq, Repr

/-- A ring rotation outstanding on this chip (R149-R156). -/
structure Krot where
  ring : Nat
  hop : Word
  tile : Nat
  op : Nat
  ds : BitVec 256
  dt : BitVec 256
  xl : Nat
  frameF : BitVec 48
  granted : Bool
  acked : Nat
  received : Nat
  first : Bool
  origin : BitVec 8
  bytes : List Byte
  status : BitVec 8
deriving DecidableEq, Repr

/-- An Aperture invalidate or replacement in progress (R229). -/
structure AptDrain where
  key : Nat
  old : BitVec 512
  oldEntries : List Dword
  new : Option (BitVec 512 × List Dword)
  keep : Bool
  lines : List (Nat × Nat)
  since : Dword
deriving DecidableEq, Repr

/-- A wide-sum block being initialised by an add-on-write, with the data pieces outstanding (R233). -/
structure InitBlock where
  side : Nat
  left : Nat
deriving DecidableEq, Repr

/-- A data piece of a block add on its way to its stack (R233). -/
structure AowPiece where
  tile : Nat
  op : Nat
  req : Nat
  side : Nat
  da : Nat
  width : Nat
  init : Bool
  data : List Byte
  ue : Bool
deriving DecidableEq, Repr

/-- A completion of an add-on-write request on its way to the issuing operation (Table 10.7). -/
structure AowDone where
  tile : Nat
  op : Nat
  req : Nat
  status : BitVec 3
deriving DecidableEq, Repr

/-- A command fetched from a channel and in execution (R257): `rung` is the GTC of its doorbell, `status` the outcome
(STATUS, DETAIL, RESULT) whose record waits for room in the completion ring; `acct` is what its work adds to the first
five totals of the accounting record (R273). -/
structure ExecCmd where
  chan : Nat
  index : Word
  gen : BitVec 16
  words : BitVec 512
  started : Bool
  rung : Dword
  status : Option (BitVec 8 × Word × Dword)
  acct : List Nat
deriving DecidableEq, Repr

/-- A tenant's allotments (Table 11.3), doorbell latches (R253) and accounting totals (Table 11.11). -/
structure Tenant where
  chBase : Nat
  chCnt : Nat
  semBase : Nat
  semCnt : Nat
  grpBase : Nat
  grpCnt : Nat
  parts : Byte
  weight : Byte
  maxPrio : BitVec 3
  latchSq : Word
  latchCq : Word
  acct : Sparse Dword
deriving DecidableEq, Repr

/-- A tenant with no allotment and WEIGHT 1 (R276). -/
def Tenant.reset : Tenant :=
  { chBase := 0, chCnt := 0, semBase := 0, semCnt := 0, grpBase := 0, grpCnt := 0, parts := 0, weight := 1,
    maxPrio := 0, latchSq := 0, latchCq := 0, acct := [] }

/-- An INVOKE waiting or running in a serving context (R263). -/
structure Invocation where
  chan : Nat
  index : Word
  arg : Dword
  frames : Nat
  started : Bool
  preempted : Bool
deriving DecidableEq, Repr

/-- A serving context of one tenant on one partition (R261). -/
structure Context where
  jobId : Word
  image : Nat
  imgLen : Nat
  entries : List Word
  save : Nat
  lsKeep : Nat
  seed : Dword
  step : BitVec 40
  queued : List Invocation
  running : Option Invocation
  ending : Option (Nat × Word)
  rrChan : Nat
  rrLeft : Nat
deriving DecidableEq, Repr

/-- The states of a copy of a weight set (Table 12.6). -/
inductive CopyState where
  | empty | loading | partialLoad | eligible | active
deriving DecidableEq, Repr

/-- One copy of a weight set, with its failed ranges (R290). -/
structure WCopy where
  base : Nat
  state : CopyState
  finalSeen : Bool
  failed : List (Nat × Nat)
  overflow : Bool
deriving DecidableEq, Repr

/-- A binding of a weight set (R292). -/
structure Binding where
  tenant : Nat
  parts : Byte
  flipWord : Nat
  flipSeq : Word
  due : Bool
deriving DecidableEq, Repr

/-- A weight set (R289). -/
structure WSet where
  owner : Nat
  shared : Bool
  len : Nat
  copy0 : WCopy
  copy1 : WCopy
  activeCopy : Option Bool
  bindings : List Binding
  flip : Option (Bool × Nat × Word)
deriving DecidableEq, Repr

/-- A key slot (R282, R285). -/
structure KeySlot where
  key : Option (BitVec 256)
  epoch : Word
  gen : BitVec 16
  floor : Word
deriving DecidableEq, Repr

/-- An empty slot whose floor and generation were never written (R377). -/
def KeySlot.reset : KeySlot := { key := none, epoch := 0, gen := 0, floor := 0 }

/-- The key and epoch that an extent began with (R293); `cleared` when its slot was cleared while it ran. -/
structure BegunKey where
  key : Option (BitVec 256)
  epoch : Word
  cleared : Bool
deriving DecidableEq, Repr

/-- A fetch in execution (R278-R281): the copy's first address, the entries, and for the extents that have begun, in list
order, their keys. -/
structure FetchRun where
  chan : Nat
  index : Word
  tenant : Nat
  set : Nat
  copy : Bool
  base : Nat
  final : Bool
  list : List (BitVec 1024)
  keys : List BegunKey
  report : Nat
  ended : List Nat
  failed : Nat
  bytes : Nat
deriving DecidableEq, Repr

/-- A data flit as the sender forms it: lane, owning tenant, place in its packet, valid payload in whole units of 16 bytes (R305). -/
structure DataFlit where
  vl : Nat
  tenant : Nat
  semr : Bool
  coll : Option CollId
  sop : Bool
  eop : Bool
  data : List Byte
deriving DecidableEq, Repr

/-- A data flit kept for replay (R305). -/
structure SentFlit where
  seq : BitVec 12
  flit : DataFlit
deriving DecidableEq, Repr

/-- A tenant's reserve on a link (R308): when its last VL3-VL7 flit left there, the credits left. -/
structure Reserve where
  tenant : Nat
  last : Dword
  left : Nat
deriving DecidableEq, Repr

/-- A packet of which flits have arrived (R306). -/
structure RxPacket where
  vl : Nat
  flits : Nat
  bytes : List Byte
deriving DecidableEq, Repr

/-- A packet that waits for an earlier PSEQ of its lane, and the link that brought it (R310). -/
structure HeldPacket where
  link : Nat
  h : PacketHeader
  payload : List Byte
deriving DecidableEq, Repr

/-- The merge of one lane of a NEIGHBOUR bundle: the next PSEQ, the packets beyond it. -/
structure Merge where
  next : BitVec 16
  held : List HeldPacket
deriving DecidableEq, Repr

/-- A lane of which no packet has arrived; PSEQ starts at 0 (DESIGN CHOICE, log 194). -/
def Merge.reset : Merge := { next := 0, held := [] }

/-- The states of a link (LNK_STATE). -/
inductive LinkState where
  | down | training | up | retrain | miswired | disabled | refused
deriving DecidableEq, Repr

/-- One optical link (13). -/
structure Link where
  state : LinkState
  ethernet : Bool
  bundle : BitVec 6
  activeMap : BitVec 10
  failed : BitVec 10
  spared : Nat
  trainFailedAt : Option Dword
  firstTry : Bool
  replay : List SentFlit
  txSeq : BitVec 12
  rxSeq : BitVec 12
  naked : Bool
  replayRow : Nat
  replayMinute : Nat
  minuteStart : Dword
  credits : Sparse Nat
  creditsLast : Sparse Dword
  waiting : List DataFlit
  window : List Nat
  turn : Nat × Nat
  reserves : List Reserve
  owed : List (Nat × Nat × Bool)
  vl0Adv : Nat
  laneCe : Sparse Nat
  laneStart : Dword
  sent : Dword
  received : Dword
  delayPs : Word
  asymPs : Word
  rx : List RxPacket
deriving DecidableEq, Repr

/-- A link that has never trained and belongs to no bundle. -/
def Link.reset : Link :=
  { state := .down, ethernet := false, bundle := 0x3F, activeMap := 0, failed := 0, spared := 0,
    trainFailedAt := none, firstTry := false, replay := [], txSeq := 0, rxSeq := 0, naked := false, replayRow := 0,
    replayMinute := 0, minuteStart := 0, credits := [], creditsLast := [], waiting := [], window := [], turn := (7, 0), reserves := [], owed := [],
    vl0Adv := 0, laneCe := [], laneStart := 0, sent := 0,
    received := 0, delayPs := 0, asymPs := 0, rx := [] }

/-- A link bundle as the image fixes it (R299): kind 0 NEIGHBOUR, 1 SWITCH, 2 MIRROR, and the far chip's slot or, for
MIRROR, the partner. -/
structure BundleCfg where
  kind : BitVec 2
  far : Nat
deriving DecidableEq, Repr

/-- The running state of a queue pair (R316, R317); its context is `State.qps`. -/
structure QpRun where
  psn : BitVec 24
  retries : Nat
  rnrRetries : Nat
  rateGbps : Nat
  lastCnp : Dword
  lastCnpSent : Dword
deriving DecidableEq, Repr

/-- A job as the domain manager keeps it (R10, R330, R348-R353). -/
structure DmJob where
  jobId : Word
  workers : List ChipId
  registered : List ChipId
  mode : Bool
  stepFrames : Word
  launchSent : Option Dword
  cutStep : Option (BitVec 40)
  cutAgain : Bool
  preemptAfter : Bool
  cutReports : List ChipId
  cutDone : List ChipId
  cutFailed : Option ChipId
  requesters : List (Nat × Word)
  nextReq : List (Nat × Word)
  held : Bool
  abandonedAt : Option Dword
  boundary : List ChipId
deriving DecidableEq, Repr

/-- One written fuse generation slot (R373). -/
structure FuseSlot where
  payload : BitVec 1432
  checkOk : Bool
deriving DecidableEq, Repr

/-- How far start-up is (R363): stage 0 waits for RESET_N and the rails. -/
structure Boot where
  stage : Nat
  firmware : Bool
  slotB : Bool
  trial : Bool
  fallback : Bool
  codeA : BitVec 4
  codeB : BitVec 4
  slowFlash : Bool
  svn : BitVec 16
  fwver : Dword
  rver : BitVec 4
  ownerVerified : Bool
  failed : Bool
  flashReleased : Bool
  skippedId : BitVec 16
  links : Option (List Byte)
  inForce : Sparse (Option Nat)
  journalBad : Bool
deriving DecidableEq, Repr

/-- An image staged or being staged, and an activation (R370-R372). -/
structure Staging where
  busy : Bool
  image : List Byte
  staged : Bool
  slotB : Bool
  pending : Bool
  swapped : Nat
deriving DecidableEq, Repr

/-- A compute-domain reset in progress (R343): phase as FLT_STATUS.PHASE, but 4 from the start of the LS scrub, whose count
`scrubAt` is, on. -/
structure ResetRun where
  since : Dword
  phase : Nat
  scrubAt : Dword
  guilty : Option Nat
  guiltyTenant : Option Nat
  record : BitVec 32
  admin : Bool
  memWaiting : Bool
deriving DecidableEq, Repr

/-- What holds the chip in whole-device reset (R342, R419, R424, R428). -/
inductive HeldBy where
  | resetN | rail | refclk | critical
deriving DecidableEq, Repr

/-- The JTAG port (R407): the instruction, the boundary cells and what drives the pins. -/
structure Jtag where
  ir : Byte
  cells : List Bool
  preload : List Bool
  driven : Bool
  clamped : Bool
  highz : Bool
deriving DecidableEq, Repr

/-- The debug module (R408, RISC-V External Debug Support 0.13.2). -/
structure DebugModule where
  dmcontrol : Word
  halted : List Nat
  resumeAck : List Nat
  haveReset : List Nat
  data0 : Word
  data1 : Word
  command : Word
  cmderr : BitVec 3
  progbuf : Sparse Word
  sbcs : Word
  sbaddr : Dword
  sbdata0 : Word
  sbdata1 : Word
  readback : Word
deriving DecidableEq, Repr

/-- The thermal state (R425-R428): the last readings, since when every sensor is below release, the trips. -/
structure Thermal where
  die : List (BitVec 8)
  iod : List (BitVec 8)
  hbm : List (BitVec 8)
  oe : List (BitVec 8)
  belowSince : Option Dword
  trips : Word
  returning : List Nat
deriving DecidableEq, Repr

/-- A pending mailbox request (R391); `sample` is taken at acceptance for selector 0x0001. -/
structure MbxReq where
  sel : BitVec 16
  write : Bool
  sample : Dword
deriving DecidableEq, Repr

/-- What the chip sends out: the model's record of its outputs, oldest first (its own field, no register). Of the messages
between chips, `toChip` goes on VL0, `payload` (Prism's payload and anchor messages) on VL1 (R119). -/
inductive Out where
  | report (r : Report) (jobId : Word) (detail : Nat)
  | toChip (dst : ChipId) (kind : String) (args : List Nat)
  | payload (dst : ChipId) (bundle : Nat) (id : CollId) (kind : String) (args : List Nat) (data side : List Byte)
  | ring (dst : ChipId) (bundle : Nat) (tag hop : Word) (kind : String) (args : List Nat) (data : List Byte)
  | semr (dst : ChipId) (tenant : Nat) (jobId : Word) (k count : Nat)
  | ibi (cause : Byte)
  | msix (fn vector : Nat)
  | readData (path : Path) (value : Word)
  | i3cData (bytes : List Byte)
  | i3cNack
  | flit (l : Nat) (kind : Nat) (ack : BitVec 12) (cvl credits : Nat)
  | resend (l : Nat) (fromSeq : BitVec 12)
  | dataFlit (l : Nat) (bytes : List Byte)
  | identity (l : Nat) (domain : Word) (chip : ChipId) (kind grid : Nat)
  | spi (frame : Word)
  | packetTo (engine : Nat) (h : PacketHeader) (payload : List Byte)
  | rdma (qp : Nat) (remote rkey len : Nat) (write : Bool)
  | qpEvent (qp : Nat) (kind : String)
  | console (b : Byte)
  | jtag (bits : List Bool)
  | dmi (data : Word)
  | poisoned (addr : Nat)
deriving DecidableEq, Repr

/-- Reasons the model stops with a fault. No rule of the spec stops the block, so the model raises none: every fault
of the hardware is an effect on State. -/
inductive Fault where
  /-- Raised by nothing; safe. -/
  | none
deriving DecidableEq, Repr

/-- Reasons a command has no meaning in the model. -/
inductive Refusal where
  /-- Answered by an arm of exec whose command has no meaning yet; safe (the run stops). -/
  | notModelled (mnemonic : String)
deriving DecidableEq, Repr

/-- Domain time (02): the GTC, the offset still to be slewed away and the counts since its last nanosecond went (the
model's own), joining, the reform near the wrap, the wrapped-seed list. -/
structure Clock where
  gtc : Dword
  slewLeft : Int
  slewAcc : Nat
  joined : Bool
  largeOffsets : Nat
  lastExchange : Dword
  reformHold : Bool
  reformAt : Option Dword
  wrappedSeeds : List Dword
deriving DecidableEq, Repr

/-- Clock at reset. -/
def Clock.reset : Clock :=
  { gtc := 0,
    slewLeft := 0,
    slewAcc := 0,
    joined := false,
    largeOffsets := 0,
    lastExchange := 0,
    reformHold := false,
    reformAt := none,
    wrappedSeeds := [] }

/-- The register file: every plain register by place with its reset value for the unlisted ones (RegTable), the staged and the strobed values of RWS fields (R392). -/
structure RegFile where
  file : Sparse Word
  staged : Sparse (Option Word)
  strobed : Sparse (Option Word)
  strobeAt : Dword
  strobedNow : List Nat
deriving DecidableEq, Repr

/-- RegFile at reset. -/
def RegFile.reset : RegFile :=
  { file := [],
    staged := [],
    strobed := [],
    strobeAt := 0,
    strobedNow := [] }

/-- Memories (03, 10): local stores by tile × 2^25 + address (zero where unlisted, R54), HBM and the host window by device address (R219; HBM zero where unlisted, R230), the words with errors, the add-on-write units, scrub and thresholds. -/
structure Store where
  ls : List Host.Cell
  lsBad : List Nat
  lsSoft : List Nat
  accBad : List Nat
  dram : List Host.Cell
  memBad : List Nat
  memSoft : List Nat
  initBlocks : List InitBlock
  heldAow : List (Nat × Nat × Nat)
  pieces : List AowPiece
  aowDone : List AowDone
  aowBytes : Dword
  ueAddr : Sparse (BitVec 40)
  mismatchAddr : Sparse (BitVec 40)
  scrubPos : BitVec 40
  ceTimes : Sparse (List Dword)
  lsCeTimes : Sparse (List Dword)
  held : List (List Nat)
deriving DecidableEq, Repr

/-- Store at reset. -/
def Store.reset : Store :=
  { ls := [],
    lsBad := [],
    lsSoft := [],
    accBad := [],
    dram := [],
    memBad := [],
    memSoft := [],
    initBlocks := [],
    heldAow := [],
    pieces := [],
    aowDone := [],
    aowBytes := 0,
    ueAddr := [],
    mismatchAddr := [],
    scrubPos := 0,
    ceTimes := [],
    lsCeTimes := [],
    held := [] }

/-- Prism (06): the group table, accepted commits that wait for a frame boundary (R121), the sequence counters of each (group, launcher), the member lists read, the collectives outstanding, the launches that wait in the queue of Table 5.3, and arrivals for collectives not yet launched here. -/
structure Prism where
  groups : Sparse (BitVec 1024)
  next : List (Nat × BitVec 1024)
  seqs : Sparse Word
  sseqs : Sparse (BitVec 24)
  users : Sparse Nat
  lists : List MemberList
  colls : List Coll
  queue : List LaunchReq
  early : List Instr
deriving DecidableEq, Repr

/-- Prism at reset. -/
def Prism.reset : Prism :=
  { groups := [],
    next := [],
    seqs := [],
    sseqs := [],
    users := [],
    lists := [],
    colls := [],
    queue := [],
    early := [] }

/-- Kaleidoscope (07). -/
structure Kal where
  rings : Sparse (BitVec 256)
  hops : Sparse Word
  krots : List Krot
  grants : List (Nat × Word)
  sent : Dword
  received : Dword
deriving DecidableEq, Repr

/-- Kal at reset. -/
def Kal.reset : Kal :=
  { rings := [],
    hops := [],
    krots := [],
    grants := [],
    sent := 0,
    received := 0 }

/-- Apertures (10): descriptors and translation entries by tenant × 64 + number, the granule map, drains and zeroing in progress. -/
structure AptUnit where
  desc : Sparse (BitVec 512)
  entries : Sparse (List Dword)
  granules : Sparse (BitVec 16)
  granuleClass : Sparse Bool
  drain : Option AptDrain
  zeroing : List Nat
  zeroTenant : Nat
  waiting : Option (BitVec 512 × List Dword × Nat)
  badEntry : BitVec 24
deriving DecidableEq, Repr

/-- AptUnit at reset. -/
def AptUnit.reset : AptUnit :=
  { desc := [],
    entries := [],
    granules := [],
    granuleClass := [],
    drain := none,
    zeroing := [],
    zeroTenant := 0,
    waiting := none,
    badEntry := 0 }

/-- Channels and tenants (11): the channel table, when each channel last fetched, the accepted tails with the GTC of their
doorbells, doorbells held for a cache entry, the cached entries (oldest use first), the commands in execution, the saved
register images by tenant × 2^48 + address. -/
structure ChanUnit where
  tenants : Sparse Tenant
  chans : Sparse (BitVec 1024)
  lastFetch : Sparse Dword
  bells : Sparse (List (Word × Dword))
  bellsHeld : List Instr
  cache : List Nat
  cmds : List ExecCmd
  sems : Sparse Word
  contexts : Sparse (Option Context)
  images : Sparse (Option RegImage)
  credit : List (Nat × Nat × Nat)
  msixAddr : Sparse Dword
  msixData : Sparse Word
  msixMask : Sparse Bool
  msixPend : Sparse Bool
deriving DecidableEq, Repr

/-- ChanUnit at reset. -/
def ChanUnit.reset : ChanUnit :=
  { tenants := [],
    chans := [],
    lastFetch := [],
    bells := [],
    bellsHeld := [],
    cache := [],
    cmds := [],
    sems := [],
    contexts := [],
    images := [],
    credit := [],
    msixAddr := [],
    msixData := [],
    msixMask := [],
    msixPend := [] }

/-- Weight ingress (12). -/
structure Ingress where
  wsets : Sparse (Option WSet)
  keys : Sparse KeySlot
  fetches : List FetchRun
  wireBytes : Dword
  copyBytes : Dword
deriving DecidableEq, Repr

/-- Ingress at reset. -/
def Ingress.reset : Ingress :=
  { wsets := [],
    keys := [],
    fetches := [],
    wireBytes := 0,
    copyBytes := 0 }

/-- Optical links (13). -/
structure Net where
  links : Sparse Link
  bundles : Sparse (Option BundleCfg)
  laserLow : Sparse Nat
  laserFailed : BitVec 10
  laserPower : Sparse (BitVec 16)
  qps : Sparse (BitVec 512)
  qpRun : Sparse QpRun
  ethDrops : Dword
  taken : Nat
  pseq : Sparse (BitVec 16)
  merge : Sparse Merge
deriving DecidableEq, Repr

/-- Net at reset. -/
def Net.reset : Net :=
  { links := [],
    bundles := [],
    laserLow := [],
    laserFailed := 0,
    laserPower := [],
    qps := [],
    qpRun := [],
    ethDrops := 0,
    taken := 0,
    pseq := [],
    merge := [] }

/-- The I3C sideband, the manager roles and HALT_N (14). -/
structure Mgt where
  i3cAddr : Option (BitVec 7)
  ibiEnabled : Bool
  ibiHeld : List Byte
  rstactArm : Byte
  haltN : Bool
  haltDrive : Bool
  haltHighSince : Dword
  haltWait : Bool
  ready : List ChipId
  jobs : List DmJob
  standby : List DmJob
  noDm : Bool
  refuse : Bool
  dmIsStandby : Bool
deriving DecidableEq, Repr

/-- Mgt at reset. -/
def Mgt.reset : Mgt :=
  { i3cAddr := none,
    ibiEnabled := false,
    ibiHeld := [],
    rstactArm := 0,
    haltN := true,
    haltDrive := false,
    haltHighSince := 0,
    haltWait := false,
    ready := [],
    jobs := [],
    standby := [],
    noDm := false,
    refuse := false,
    dmIsStandby := false }

/-- Faults and resets (15). -/
structure Flt where
  events : List (BitVec 1024)
  eventSeq : Word
  dumpB : Bool
  dumpRegs : Sparse (Option RegImage)
  run : Option ResetRun
  memReset : Bool
  ctlReset : Bool
  ctlHeld : List (Nat × BitVec 1024)
  lastCtl : Option Dword
  lastReset : Dword
  warnLast : Sparse (Option Dword)
  companionHeld : List Nat
  admissionUe : BitVec 40
deriving DecidableEq, Repr

/-- Flt at reset. -/
def Flt.reset : Flt :=
  { events := [],
    eventSeq := 0,
    dumpB := false,
    dumpRegs := [],
    run := none,
    memReset := false,
    ctlReset := false,
    ctlHeld := [],
    lastCtl := none,
    lastReset := 0,
    warnLast := [],
    companionHeld := [],
    admissionUe := BitVec.allOnes 40 }

/-- Start-up, boot flash and fuses (16). -/
structure Start where
  boot : Boot
  flash : List Host.Cell
  octal : Bool
  sfdp : Bool
  fuses : Sparse (Option FuseSlot)
  burn : Option (Nat × Nat × BitVec 1432)
  armed : Option Dword
  image : Staging
deriving DecidableEq, Repr

/-- Start at reset. -/
def Start.reset : Start :=
  { boot := { stage := 0, firmware := false, slotB := false, trial := false, fallback := false, codeA := 0, codeB := 0,
              slowFlash := false, svn := 0, fwver := 0, rver := 1, ownerVerified := false, failed := false,
              flashReleased := false, skippedId := 0, links := none, inForce := [], journalBad := false },
    flash := [],
    octal := true,
    sfdp := true,
    fuses := [],
    burn := none,
    armed := none,
    image := { busy := false, image := [], staged := false, slotB := false, pending := false, swapped := 0 } }

/-- The register interface and power (17). -/
structure Port where
  mbx : Sparse (Option MbxReq)
  stalls : Word
  testHold : Bool
deriving DecidableEq, Repr

/-- Port at reset. -/
def Port.reset : Port :=
  { mbx := [],
    stalls := 0,
    testHold := false }

/-- Counters, console and debug access (18). -/
structure Dbg where
  pmc : Sparse (BitVec 48)
  pmcSnap : Sparse (BitVec 48)
  snapF : Sparse (BitVec 48)
  rxFifo : List Byte
  txFifo : List Byte
  jtag : Jtag
  dm : DebugModule
deriving DecidableEq, Repr

/-- Dbg at reset. -/
def Dbg.reset : Dbg :=
  { pmc := [],
    pmcSnap := [],
    snapF := [],
    rxFifo := [],
    txFifo := [],
    jtag := { ir := 0x01, cells := [], preload := [], driven := false, clamped := false, highz := false },
    dm := { dmcontrol := 0, halted := [], resumeAck := [], haveReset := [], data0 := 0, data1 := 0, command := 0,
              cmderr := 0, progbuf := [], sbcs := 0, sbaddr := 0, sbdata0 := 0, sbdata1 := 0, readback := 0 } }

/-- Package, power and signals (19). -/
structure Pkg where
  heldBy : Option HeldBy
  thermN : Bool
  perstN : Bool
  thermal : Thermal
deriving DecidableEq, Repr

/-- Pkg at reset. -/
def Pkg.reset : Pkg :=
  { heldBy := some .resetN,
    thermN := true,
    perstN := false,
    thermal := { die := [], iod := [], hbm := [], oe := [], belowSince := none, trips := 0, returning := [] } }

/-- The whole chip. -/
structure State where
  /-- The waiting commands, first in, first out. -/
  pending : List Instr
  clock : Clock
  rf : RegFile
  tiles : Sparse Tile
  parts : Sparse Part
  mem : Store
  /-- Loupe partials by reporting unit × 2^16 + tensor (R200, R201). -/
  loupe : Sparse (Option Loupe)
  prism : Prism
  kal : Kal
  apt : AptUnit
  chan : ChanUnit
  ing : Ingress
  net : Net
  mgt : Mgt
  flt : Flt
  start : Start
  port : Port
  dbg : Dbg
  pkg : Pkg
  /-- The model's own counter of fresh free values (Config). -/
  freeCount : Nat
  /-- The model's own record of what left the chip, oldest first. -/
  out : List Out
deriving DecidableEq, Repr

/-- The chip in whole-device reset, before RESET_N rises: every register at the reset value of its table (an empty
register file), memory with nothing listed, nothing running. -/
def State.reset : State :=
  { pending := [], clock := Clock.reset, rf := RegFile.reset, tiles := [], parts := [], mem := Store.reset, loupe := [],
    prism := Prism.reset, kal := Kal.reset, apt := AptUnit.reset, chan := ChanUnit.reset, ing := Ingress.reset,
    net := Net.reset, mgt := Mgt.reset, flt := Flt.reset, start := Start.reset, port := Port.reset, dbg := Dbg.reset,
    pkg := Pkg.reset, freeCount := 0, out := [] }

end Sys2Proof.Machine
end

