-- ==== Sys2Proof/Machine/Ops.lean ====
section
/-!
DEFINITION. The named operations over State: registers and their fields, tiles and partitions, the active layout, counters
and flags, the outputs.
-/

namespace Sys2Proof.Machine

/-! ### Fields of words -/

/-- Bits [hi:lo] of a number. -/
def fld (w hi lo : Nat) : Nat := w / 2 ^ lo % 2 ^ (hi - lo + 1)

/-- Bit i of a number. -/
def bitOf (w i : Nat) : Bool := w / 2 ^ i % 2 == 1

/-- A word made of fields (position, width, value), the positions disjoint. -/
def packFields : List (Nat × Nat × Nat) → Nat
  | [] => 0
  | (pos, width, v) :: fs => v % 2 ^ width * 2 ^ pos + packFields fs

/-- Bits [hi:lo] replaced. -/
def setFld (w hi lo v : Nat) : Nat := w - fld w hi lo * 2 ^ lo + v % 2 ^ (hi - lo + 1) * 2 ^ lo

def b2n (b : Bool) : Nat := if b then 1 else 0

/-- Sign extension of a `w`-bit field to 64 bits. -/
def sext64 (w x : Nat) : Dword := (BitVec.ofNat w x).signExtend 64

/-- Serial comparison with a window of 2^(bits − 1): whether a is newer than b (R36, R366). -/
def serialNewer (bits a b : Nat) : Bool :=
  let d := (a + 2 ^ bits - b % 2 ^ bits) % 2 ^ bits
  d != 0 && decide (d < 2 ^ (bits - 1))

/-- Serial comparison: whether a is b or newer (R36). -/
def serialGe (bits a b : Nat) : Bool := decide ((a + 2 ^ bits - b % 2 ^ bits) % 2 ^ bits < 2 ^ (bits - 1))

/-- The elements of a list without repeats, first occurrence kept. -/
def dedup (l : List Nat) : List Nat := l.foldl (fun acc x => if acc.contains x then acc else acc ++ [x]) []

/-- A list in the order of `le`; elements that neither precedes the other keep their order. -/
def insertBy {α : Type} (le : α → α → Bool) (x : α) : List α → List α
  | [] => [x]
  | y :: l => if le x y then x :: y :: l else y :: insertBy le x l
def sortBy {α : Type} (le : α → α → Bool) (l : List α) : List α := l.foldr (insertBy le) []

/-! ### Registers -/

/-- The stored value of a register; registers that show other state are computed in Machine/Regs.lean. -/
def State.rd (s : State) (p : Nat) : Word := (Sparse.find s.rf.file p).getD (Reg.resetValue p)

/-- Set the stored value of a register. -/
def State.wr (s : State) (p : Nat) (v : Word) : State :=
  { s with rf := { s.rf with file := Sparse.set (Reg.resetValue p) s.rf.file p v } }

/-- A field of a register. -/
def State.rdFld (s : State) (p hi lo : Nat) : Nat := fld (s.rd p).toNat hi lo
def State.rdBit (s : State) (p i : Nat) : Bool := (s.rd p).getLsbD i

/-- Set a field of a register. -/
def State.wrFld (s : State) (p hi lo v : Nat) : State := s.wr p (BitVec.ofNat 32 (setFld (s.rd p).toNat hi lo v))

/-- Set or clear one bit of a register. -/
def State.setBit (s : State) (p i : Nat) : State := s.wr p (s.rd p ||| BitVec.ofNat 32 (2 ^ i))
def State.clrBit (s : State) (p i : Nat) : State := s.wr p (s.rd p &&& ~~~BitVec.ofNat 32 (2 ^ i))
def State.putBit (s : State) (p i : Nat) (b : Bool) : State := if b then s.setBit p i else s.clrBit p i

/-- Add to a counter field that saturates at its maximum. -/
def State.bumpFld (s : State) (p hi lo n : Nat) : State :=
  s.wrFld p hi lo (min (s.rdFld p hi lo + n) (2 ^ (hi - lo + 1) - 1))

/-- Add to a 32-bit counter that saturates at 0xFFFF_FFFF. -/
def State.bump (s : State) (p n : Nat) : State := s.bumpFld p 31 0 n

/-! ### Time, outputs, free values -/

def State.now (s : State) : Dword := s.clock.gtc

/-- While n counts pass, one nanosecond in 20,000 of the offset that is being slewed away goes: ±50 ppm, 50 ns per
millisecond (R23; in whole counts, DESIGN CHOICE, log 174). -/
def Clock.slew (c : Clock) (n : Nat) : Clock :=
  let k := min ((c.slewAcc + n) / 20000) c.slewLeft.natAbs
  { c with slewAcc := (c.slewAcc + n) % 20000, slewLeft := if 0 ≤ c.slewLeft then c.slewLeft - k else c.slewLeft + k }

/-- Bring the GTC forward to a count that a command is said to fall at; it never goes back (R21). The counts that pass are
those of the slewed GTC (R38), and slew it. -/
def State.reach (s : State) (g : Nat) : State :=
  if s.clock.gtc.toNat < g then
    { s with clock := { s.clock.slew (g - s.clock.gtc.toNat) with gtc := BitVec.ofNat 64 g } }
  else s

/-- LEVEL of SHT_SYNC_STATUS: 0 at the time root, 3 before the chip has joined. -/
def State.syncLevel (s : State) : Nat := s.rdFld Reg.shtSyncStatus 5 4

/-- Counts from an earlier GTC value to now. -/
def State.since (s : State) (t : Dword) : Nat := s.clock.gtc.toNat - t.toNat

def State.emit (s : State) (o : Out) : State := { s with out := s.out ++ [o] }

/-- Take the number of the next free value. -/
def State.fresh (s : State) : Nat × State := (s.freeCount, { s with freeCount := s.freeCount + 1 })

/-! ### Performance counters (18 R401-R403) -/

/-- The configuration register of counter c: 0-511 tiles, 512-559 HBM, 560-703 links, 704-711 Prism. -/
def pmcCfgPlace (c : Nat) : Nat :=
  if c < 512 then 0xF1000 + 4 * c else if c < 560 then 0xF2000 + 4 * (c - 512)
  else if c < 704 then 0xF3000 + 4 * (c - 560) else 0xF4000 + 4 * (c - 704)

/-- An event of value v at one counter: with threshold 0 it adds v, else 1 when v is above it; it saturates (R401). -/
def State.pmcAt (s : State) (code v c : Nat) : State :=
  let w := (s.rd (pmcCfgPlace c)).toNat
  if !(bitOf w 8 && fld w 7 0 == code && s.rdBit Reg.glbBlkEn 15) then s else
  let add := if fld w 31 16 = 0 then v else if fld w 31 16 < v then 1 else 0
  if add = 0 then s else
  let x := (Sparse.get 0 s.dbg.pmc c).toNat + add
  let s := { s with dbg := { s.dbg with pmc := Sparse.set 0 s.dbg.pmc c (BitVec.ofNat 48 (min x (2 ^ 48 - 1))) } }
  if 2 ^ 48 - 1 ≤ x then s.setBit Reg.pmcEvent 0 else s

def State.pmcRange (s : State) (first n code v : Nat) : State :=
  ((List.range n).map (first + ·)).foldl (fun s c => s.pmcAt code v c) s

def State.pmcTile (s : State) (t code v : Nat) : State := s.pmcRange (8 * t) 8 code v
def State.pmcHbm (s : State) (k code v : Nat) : State := s.pmcRange (512 + 4 * k) 4 code v
def State.pmcLink (s : State) (l code v : Nat) : State := s.pmcRange (560 + 4 * l) 4 code v
/-- Prism's counters are the two of each engine; an event counts at the engine of the launching tile's die (R119). -/
def State.pmcPrism (s : State) (die code v : Nat) : State := s.pmcRange (704 + 2 * die) 2 code v

/-! ### Tiles and partitions -/

def State.tile (s : State) (t : Nat) : Tile := Sparse.get Tile.reset s.tiles t
def State.setTile (s : State) (t : Nat) (x : Tile) : State := { s with tiles := Sparse.set Tile.reset s.tiles t x }
def State.modTile (s : State) (t : Nat) (f : Tile → Tile) : State := s.setTile t (f (s.tile t))

def State.part (s : State) (p : Nat) : Part := Sparse.get Part.reset s.parts p
def State.setPart (s : State) (p : Nat) (x : Part) : State := { s with parts := Sparse.set Part.reset s.parts p x }
def State.modPart (s : State) (p : Nat) (f : Part → Part) : State := s.setPart p (f (s.part p))

/-- A Mirror pair froze: the partition dispatches nothing from frame P + W on, until a compute-domain reset (R212). -/
def Part.frozen (x : Part) : Bool := x.led.any (·.frozen)

/-- The next START bit above i, bit 8 when there is none (R63). -/
def layoutNext (start i : Nat) : Nat := ((List.range 8).find? fun j => decide (i < j) && bitOf start j).getD 8

/-- Tiles of partition p under a layout, in units of eight; 0 where no partition begins (R63). -/
def layoutUnits (start p : Nat) : Nat := if p < 8 && bitOf start p then layoutNext start p - p else 0

/-- The validity rule of R63. -/
def layoutValid (start : Nat) : Bool :=
  bitOf start 0 && (List.range 8).all fun i =>
    !bitOf start i || (let n := layoutNext start i - i
                       (n == 1 || n == 2 || n == 4 || n == 8) && i % n == 0)

/-- The layout in force (TIL_PART_STATUS.ACTIVE). -/
def State.layout (s : State) : Nat := s.rdFld Reg.tilPartStatus 7 0

/-- Tiles of partition p; 0 when it is absent. -/
def State.partSize (s : State) (p : Nat) : Nat := 8 * layoutUnits s.layout p

def State.hasPart (s : State) (p : Nat) : Bool := s.partSize p != 0

/-- The partition that holds logical tile t. -/
def State.partOf (s : State) (t : Nat) : Nat :=
  (((List.range 8).reverse.find? fun i => decide (8 * i ≤ t) && bitOf s.layout i)).getD 0

def State.partTiles (s : State) (p : Nat) : List Nat := (List.range (s.partSize p)).map (8 * p + ·)

/-- The partitions of the active layout. -/
def State.partList (s : State) : List Nat := (List.range 8).filter s.hasPart

/-- The partition-relative number of a tile (R65). -/
def State.relTile (s : State) (t : Nat) : Nat := t - 8 * s.partOf t

/-- The tenant whose frames run on a partition. -/
def State.tenantOfPart (s : State) (p : Nat) : Nat := (s.part p).onTiles.getD 0
def State.tenantOf (s : State) (t : Nat) : Nat := s.tenantOfPart (s.partOf t)

/-- A channel's entry, and its tenant (11 Table 11.4). -/
def State.chEntry (s : State) (ch : Nat) : Nat := (Sparse.get 0 s.chan.chans ch).toNat
def cTenant (e : Nat) : Nat := fld e 24 16

/-- An operand of a command: bits of the word that begins at a byte offset. -/
def ExecCmd.arg (c : ExecCmd) (byte width : Nat) : Nat := fld c.words.toNat (8 * byte + width - 1) (8 * byte)
def ExecCmd.opc (c : ExecCmd) : Nat := c.arg 0 8

def State.tenant (s : State) (v : Nat) : Tenant := Sparse.get Tenant.reset s.chan.tenants v
def State.modTenant (s : State) (v : Nat) (f : Tenant → Tenant) : State :=
  { s with chan := { s.chan with tenants := Sparse.set Tenant.reset s.chan.tenants v (f (s.tenant v)) } }

def State.link (s : State) (l : Nat) : Link := Sparse.get Link.reset s.net.links l
def State.modLink (s : State) (l : Nat) (f : Link → Link) : State :=
  { s with net := { s.net with links := Sparse.set Link.reset s.net.links l (f (s.link l)) } }

/-- The serving context of a tenant on a partition (R261). -/
def State.context (s : State) (v p : Nat) : Option Context := Sparse.get none s.chan.contexts (v * 8 + p)
def State.setContext (s : State) (v p : Nat) (c : Option Context) : State :=
  { s with chan := { s.chan with contexts := Sparse.set none s.chan.contexts (v * 8 + p) c } }

/-- The serving context that is on the tiles of a partition. -/
def State.contextOn (s : State) (p : Nat) : Option Context :=
  if (s.part p).jobOn then none else (s.part p).onTiles.bind fun v => s.context v p

/-- JOB_ID of the job or serving context whose frames run on a partition. -/
def State.jobIdOf (s : State) (p : Nat) : Word :=
  match s.contextOn p, (s.part p).job with
  | some c, _ => c.jobId
  | none, some j => j.jobId
  | none, none => 0

/-- The step number of what runs on a partition: its job's, or its serving context's. -/
def State.stepOf (s : State) (p : Nat) : BitVec 40 := match s.contextOn p with
  | some c => c.step
  | none => (s.part p).step

/-- The channel and command of what runs on a partition. -/
def State.cmdOn (s : State) (p : Nat) : Option (Nat × Word) := match s.contextOn p, (s.part p).job with
  | some c, _ => c.running.map fun i => (i.chan, i.index)
  | none, some j => some (j.chan, j.cmdIndex)
  | none, none => none

/-- Whether partition p runs in reproducible mode. -/
def State.repro (s : State) (p : Nat) : Bool := (s.part p).repro

/-- TCLK in force on a partition in MHz, and its envelope in 100 W (PWR_TCLK_ACT). -/
def State.tclk (s : State) (p : Nat) : Nat := s.rdFld (Reg.pwrTclkAct p) 11 0
def State.envAct (s : State) (p : Nat) : Nat := s.rdFld (Reg.pwrTclkAct p) 16 12

/-- The frame period in counts (R26). -/
def State.period (s : State) (p : Nat) : Nat := 1024 * s.rdFld (Reg.shtPctrl p) 10 0

/-- The GTC of tick F of a partition, from its last tick: F counts modulo 2^48 (R25, R36). -/
def State.tickAt (s : State) (p F : Nat) : Nat :=
  let x := s.part p
  if !x.ticked then x.l.toNat + F % 2 ^ 48 * s.period p
  else ((x.lastTick.toNat : Int) + (BitVec.ofNat 48 F - x.f).toInt * (s.period p : Int)).toNat

/-- The frame budget C at a clock (R27). -/
def frameBudget (period mhz : Nat) : Nat := period * mhz / 1000
def State.budget (s : State) (p : Nat) : Nat := frameBudget (s.period p) (s.tclk p)

/-- C in force: recomputed at every tick while frames run (R35, R426). -/
def State.cycles (s : State) (p : Nat) : Nat := if (s.part p).running then (s.part p).cyc else s.budget p

/-- Whether a block is enabled (R394). -/
def State.blockOn (s : State) (b : Nat) : Bool := s.rdBit Reg.glbBlkEn b

/-- HALT_N, or a test control off its value, has stopped the chip (R334, R388). -/
def State.halted (s : State) : Bool := s.rdBit Reg.mgtStatus 20 || s.port.testHold

/-! ### This chip and its managers (R326, R329) -/

/-- Chip identity: BOARD × 16 + SLOT. -/
def State.self (s : State) : ChipId :=
  BitVec.ofNat 14 (s.rdFld Reg.mgtCoord 9 0 * 16 + s.rdFld Reg.mgtCoord 15 12)

end Sys2Proof.Machine
end

