-- ==== Sys2Proof/Machine/FuseView.lean ====
section
/-!
DEFINITION. What the fuse records in force say (16 R373-R376): the identity, the tile map, the fused wavelengths, the
power bounds and the boot policy.
-/

namespace Sys2Proof.Machine

/-- The payload of a record as the last start-up read it (R373); `none` without a valid generation. -/
def State.fuseInForce (s : State) (r : Nat) : Option Nat :=
  match Sparse.get none s.start.boot.inForce r with
  | some g => (Sparse.get none s.start.fuses (r * 4 + g)).map fun x => x.payload.toNat
  | none => none

/-- IDENTITY fields (Table 16.6); zero before the fuses are read. -/
def State.identity (s : State) : Nat := (s.fuseInForce 0).getD 0
def State.mfrId (s : State) : Nat := fld s.identity 14 0
def State.serial (s : State) : Nat := fld s.identity 78 15
def State.macBase (s : State) : Nat := fld s.identity 126 79
def State.rev (s : State) : Nat := fld s.identity 134 127
def State.secret (s : State) : Nat := fld s.identity 390 135

/-- The first 16 usable physical tiles of a die, ascending (R59). -/
def dieTiles (unusable d : Nat) : List Nat :=
  (((List.range 18).map (18 * d + ·)).filter fun i => !bitOf unusable i).take 16

/-- The physical tile of logical tile t under a list of unusable tiles; `none` when its die lacks it. -/
def physUnder (unusable t : Nat) : Option Nat := (dieTiles unusable (t / 16))[t % 16]?

/-- Unusable tiles in force; with no valid TILE_MAP record every tile is unusable (R375). -/
def State.unusable (s : State) : Nat := match s.fuseInForce 1 with
  | some w => fld w 71 0
  | none => 2 ^ 72 - 1

def State.physTile (s : State) (t : Nat) : Option Nat := physUnder s.unusable t

/-- UNUSABLE of generation G0 of the tile map, as Neroux tested the part. -/
def State.unusableG0 (s : State) : Nat := match Sparse.get none s.start.fuses 4 with
  | some x => fld x.payload.toNat 71 0
  | none => 2 ^ 72 - 1

/-- TIL_MAP_n (R67). -/
def State.tileMapReg (s : State) (n : Nat) : Word :=
  BitVec.ofNat 32 (packFields ((List.range 4).flatMap fun j =>
    let t := 4 * n + j
    let now := s.physTile t
    [(8 * j, 7, now.getD 0), (8 * j + 7, 1, b2n (now != physUnder s.unusableG0 t))]))

/-- Role of a physical tile: 0 enabled, 1 spare, 2 failed at test, 3 retired in the field (R67, R373). -/
def State.physRole (s : State) (i : Nat) : Nat :=
  if bitOf s.unusable i then (if bitOf s.unusableG0 i then 2 else 3)
  else if (dieTiles s.unusable (i / 18)).contains i then 0 else 1

/-- TIL_PHYS_ROLE_k. -/
def State.physRoleReg (s : State) (k : Nat) : Word :=
  BitVec.ofNat 32 (packFields ((List.range 8).map fun j => (4 * j, 4, s.physRole (8 * k + j))))

/-- Fused-out wavelengths of a link (LANE_REPAIR). -/
def State.fusedLanes (s : State) (l : Nat) : Nat := fld ((s.fuseInForce 2).getD 0) (10 * l + 9) (10 * l)

/-- Fused power bounds in 100 W units (R375: 18 and 30 without a record). -/
def State.envMin (s : State) : Nat := match s.fuseInForce 4 with
  | some w => fld w 4 0
  | none => 18
def State.envMax (s : State) : Nat := match s.fuseInForce 4 with
  | some w => fld w 9 5
  | none => 30

/-- BOOT_POLICY: MIN_SVN and DEBUG_LOCK (R375: 0 and 1 without a record). -/
def State.minSvn (s : State) : Nat := match s.fuseInForce 5 with
  | some w => fld w 15 0
  | none => 0
def State.debugLock (s : State) : Bool := match s.fuseInForce 5 with
  | some w => bitOf w 16
  | none => true

end Sys2Proof.Machine
end

