-- ==== Sys2Proof/Machine/Rand.lean ====
section
/-!
DEFINITION. The random number unit (07 R157-R160) and the digest CRCs (09 R197, Table 9.10).
-/

namespace Sys2Proof.Machine

/-! ### Philox-4x32-10 -/

/-- The counter words c0-c3 or the output words. -/
structure Quad where
  c0 : Nat
  c1 : Nat
  c2 : Nat
  c3 : Nat
deriving DecidableEq, Repr

/-- One round under the round key (R157). -/
def philoxRound (k0 k1 : Nat) (c : Quad) : Quad :=
  let p0 := 0xD2511F53 * c.c0
  let p1 := 0xCD9E8D57 * c.c2
  ⟨(p1 / 2 ^ 32) ^^^ c.c1 ^^^ k0, p1 % 2 ^ 32, (p0 / 2 ^ 32) ^^^ c.c3 ^^^ k1, p0 % 2 ^ 32⟩

/-- `n` rounds; the key rises after each. -/
def philoxGo : Nat → Nat → Nat → Quad → Quad
  | 0, _, _, c => c
  | n + 1, k0, k1, c =>
    philoxGo n ((k0 + 0x9E3779B9) % 2 ^ 32) ((k1 + 0xBB67AE85) % 2 ^ 32) (philoxRound k0 k1 c)

/-- The 128-bit output for group g of element indices (R157). -/
def philox (seed step stream g : Nat) : Nat :=
  let c := philoxGo 10 (seed % 2 ^ 32) (seed / 2 ^ 32 % 2 ^ 32)
    ⟨g % 2 ^ 32, g / 2 ^ 32 % 2 ^ 32, stream % 2 ^ 24 + step % 256 * 2 ^ 24, step / 256 % 2 ^ 32⟩
  c.c0 + c.c1 * 2 ^ 32 + c.c2 * 2 ^ 64 + c.c3 * 2 ^ 96

/-- The 16-bit draw of an element index (R158). -/
def draw16 (seed step stream e : Nat) : Nat :=
  let e := e % 2 ^ 64
  philox seed step stream (e / 8) / 2 ^ (16 * (e % 8)) % 65536

/-- The 32-bit draw of an element index (R158). -/
def draw32 (seed step stream e : Nat) : Nat :=
  draw16 seed step stream (2 * e) + draw16 seed step stream (2 * e + 1) * 65536

/-! ### The digest CRCs -/

/-- Eight shifts of CRC-A: most significant bit first. -/
def crcAShift (r : Nat) : Nat :=
  if r / 2 ^ 63 % 2 = 1 then (r * 2 % 2 ^ 64) ^^^ 0x42F0E1EBA9EA3693 else r * 2 % 2 ^ 64

/-- Eight shifts of CRC-B: least significant bit first. -/
def crcBShift (r : Nat) : Nat := if r % 2 = 1 then (r / 2) ^^^ 0xC96C5795D7870F42 else r / 2

def shift8 (f : Nat → Nat) (r : Nat) : Nat := f (f (f (f (f (f (f (f r)))))))

def crcAByte (r : Nat) (b : Byte) : Nat := shift8 crcAShift (r ^^^ (b.toNat * 2 ^ 56))
def crcBByte (r : Nat) (b : Byte) : Nat := shift8 crcBShift (r ^^^ b.toNat)

/-- CRC-A and CRC-B of a stream (Table 9.10); both are zero of an empty stream (R197). -/
def crcA (l : List Byte) : Nat := (l.foldl crcAByte 0xFFFFFFFFFFFFFFFF) ^^^ 0xFFFFFFFFFFFFFFFF
def crcB (l : List Byte) : Nat := l.foldl crcBByte 0

/-- The digest of a stream: CRC-A, then CRC-B, each little-endian (R197). -/
def digestOf (l : List Byte) : BitVec 128 := BitVec.ofNat 128 (crcA l + crcB l * 2 ^ 64)

/-- One part of a stream: its byte count, then its bytes (R196). -/
def digestPart (l : List Byte) : List Byte := natToBytes 8 l.length ++ l

end Sys2Proof.Machine
end

