-- ==== Sys2Proof/Machine/Flash.lean ====
section
/-!
DEFINITION. The boot flash (16 R362, R366, R377): its bytes, the boot control block and the epoch journal; the attestation
key (R376).
-/

namespace Sys2Proof.Machine

/-! ### Bytes (Table 16.1) -/

def slotBase (b : Bool) : Nat := if b then 0x1E00000 else 0
def bcbBase (i : Nat) : Nat := 0x3C00000 + i * 0x10000
def journalBase (i : Nat) : Nat := 0x3C20000 + i * 0x100000
def journalSize : Nat := 0x100000

/-- Flash bytes from an address; an erased byte is 0xFF. -/
def State.flashRead (s : State) (a n : Nat) : List Byte := (List.range n).map fun i => Sparse.get 0xFF s.start.flash (a + i)

def State.flashWrite (s : State) (a : Nat) (l : List Byte) : State :=
  { s with start := { s.start with flash := Sparse.setRange 0xFF s.start.flash a l } }

def State.flashErase (s : State) (a n : Nat) : State :=
  { s with start := { s.start with flash := Sparse.clear s.start.flash a n } }

/-- A little-endian field of a string. -/
def leAt (l : List Byte) (a n : Nat) : Nat := bytesToNat ((l.drop a).take n)

/-- The check that headers and entries carry: the low 32 bits of CRC-A. -/
def check32 (l : List Byte) : Nat := crcA l % 2 ^ 32

/-! ### The boot control block (R366) -/

structure Bcb where
  copy : Nat
  seq : Nat
  pref : Bool
  trial : Bool
  tries : Nat
deriving DecidableEq, Repr

/-- One copy, where its check holds. -/
def State.bcbCopy (s : State) (i : Nat) : Option Bcb :=
  let l := s.flashRead (bcbBase i) 64
  if leAt l 0 2 = 0x4243 && leAt l 60 4 = check32 (l.take 60) then
    let b := leAt l 8 1
    some { copy := i, seq := leAt l 4 4, pref := bitOf b 0, trial := bitOf b 1, tries := fld b 5 2 }
  else none

/-- The copy in force: the newer one that holds; without one, PREF and TRIAL are 0. -/
def State.bcb (s : State) : Bcb :=
  match s.bcbCopy 0, s.bcbCopy 1 with
  | some a, some b => if serialNewer 32 b.seq a.seq then b else a
  | some a, none => a
  | none, some b => b
  | none, none => { copy := 1, seq := 0, pref := false, trial := false, tries := 0 }

/-- Write the other copy with SEQ + 1. -/
def State.writeBcb (s : State) (pref trial : Bool) (tries : Nat) : State :=
  let b := s.bcb
  let l := natToBytes 60 (packFields [(0, 16, 0x4243), (32, 32, b.seq + 1), (64, 1, b2n pref), (65, 1, b2n trial), (66, 4, tries)])
  let s := s.flashErase (bcbBase (1 - b.copy)) 0x10000
  s.flashWrite (bcbBase (1 - b.copy)) (l ++ natToBytes 4 (check32 l))

/-! ### The epoch journal (R377) -/

/-- SEQ of a half whose header holds. -/
def State.journalSeq (s : State) (i : Nat) : Option Nat :=
  let l := s.flashRead (journalBase i) 64
  if leAt l 0 2 = 0x4A48 && leAt l 60 4 = check32 (l.take 60) then some (leAt l 4 4) else none

/-- The half in force; none when neither can be read. -/
def State.journalHalf (s : State) : Option Nat :=
  match s.journalSeq 0, s.journalSeq 1 with
  | some a, some b => some (if serialNewer 32 b a then 1 else 0)
  | some _, none => some 0
  | none, some _ => some 1
  | none, none => none

/-- An entry: slot, generation, floor. -/
def journalEntry (slot gen floor : Nat) : List Byte :=
  let l := natToBytes 2 0x4A45 ++ natToBytes 2 slot ++ natToBytes 2 gen ++ natToBytes 2 0 ++ natToBytes 4 floor
  l ++ natToBytes 4 (check32 l)

/-- Entries from an address on, in order, up to the first whose check fails. -/
def State.journalFrom (s : State) (a : Nat) : Nat → List (Nat × Nat × Nat)
  | 0 => []
  | n + 1 =>
    let l := s.flashRead a 16
    if leAt l 0 2 = 0x4A45 && leAt l 12 4 = check32 (l.take 12) then
      (leAt l 2 2, leAt l 4 2, leAt l 8 4) :: State.journalFrom s (a + 16) n
    else []

/-- Entries that fit in a half. -/
def journalRoom : Nat := (journalSize - 64) / 16

def State.journalEntries (s : State) (i : Nat) : List (Nat × Nat × Nat) := s.journalFrom (journalBase i + 64) journalRoom

/-- Read the journal: each entry replaces GEN and FLOOR of its slot; with neither half readable every floor is
0xFFFF_FFFF and JOURNAL_ERR is set. -/
def State.replayJournal (s : State) : State :=
  match s.journalHalf with
  | some i =>
    let keys := (s.journalEntries i).foldl (fun (m : Sparse KeySlot) e =>
      Sparse.set KeySlot.reset m (e.1 % 1024) { KeySlot.reset with gen := BitVec.ofNat 16 e.2.1, floor := BitVec.ofNat 32 e.2.2 }) []
    { s with ing := { s.ing with keys := keys } }
  | none =>
    let keys := (List.range 1024).map fun k => (k, { KeySlot.reset with floor := 0xFFFFFFFF })
    { s.setBit Reg.otpEvent 2 with ing := { (s.setBit Reg.otpEvent 2).ing with keys := keys },
                                   start := { s.start with boot := { s.start.boot with journalBad := true } } }

/-- Move the current entries to the other half, its header last. -/
def State.compactJournal (s : State) (i : Nat) : State :=
  let o := journalBase (1 - i)
  let key := Sparse.get KeySlot.reset s.ing.keys
  let l := (List.range 1024).flatMap fun k => journalEntry k (key k).gen.toNat (key k).floor.toNat
  let h := natToBytes 60 (packFields [(0, 16, 0x4A48), (32, 32, (s.journalSeq i).getD 0 + 1), (64, 32, 1024)])
  ((s.flashErase o journalSize).flashWrite (o + 64) l).flashWrite o (h ++ natToBytes 4 (check32 h))

/-- Append an entry; a full half is compacted first. A journal that cannot be read takes none. -/
def State.appendJournal (s : State) (slot gen floor : Nat) : Bool × State :=
  match s.journalHalf with
  | none => (false, s)
  | some i =>
    let full := decide (journalRoom ≤ (s.journalEntries i).length)
    let s := if full then s.compactJournal i else s
    let i := if full then 1 - i else i
    (true, s.flashWrite (journalBase i + 64 + 16 * (s.journalEntries i).length) (journalEntry slot gen floor))

/-! ### The attestation key (R376) -/

def State.attestD (s : State) : Nat := beToNat (sha384 (natToBytes 32 s.secret ++ natToBytes 2 0x4154)) % (p384N - 1) + 1
def State.attestQ (s : State) : Point := pointMul s.attestD p384G 384

end Sys2Proof.Machine
end

