-- ==== Sys2Proof/Machine/Elementary.lean ====
section
/-!
DEFINITION. The special functions (03 R47, Table 3.4), correctly rounded to binary32 by RNE: each result is enclosed by
two dyadic bounds at rising precision until both round to the same bits. Where the last precision does not separate the
result from a tie, the value is the free value of Config (log 20).
-/

namespace Sys2Proof.Machine

/-- A real between two naturals scaled by 2^-p. -/
structure Enc where
  lo : Nat
  hi : Nat
deriving DecidableEq, Repr

/-- ceil(a / b). -/
def ceilDiv (a b : Nat) : Nat := (a + b - 1) / b

/-- The terms z^(2k+1)/(2k+1) of the inverse hyperbolic tangent, bounds scaled by 2^p; `zl`, `zh` bound z^(2k+1). -/
def atanhTerms (p : Nat) (z2l z2h : Nat) : Nat → Nat → Nat → Nat → Nat × Nat
  | 0, _, _, zh => (0, 2 * zh + 2)
  | n + 1, k, zl, zh =>
    let r := atanhTerms p z2l z2h n (k + 1) (zl * z2l / 2 ^ p) (ceilDiv (zh * z2h) (2 ^ p))
    (r.1 + zl / (2 * k + 1), r.2 + ceilDiv zh (2 * k + 1))

/-- ln(a / b) for b ≤ a ≤ 2b, scaled by 2^p: 2 atanh((a − b)/(a + b)), whose argument is at most 1/3. -/
def lnRatio (p a b : Nat) : Enc :=
  let zl := (a - b) * 2 ^ p / (a + b)
  let zh := ceilDiv ((a - b) * 2 ^ p) (a + b)
  let r := atanhTerms p (zl * zl / 2 ^ p) (ceilDiv (zh * zh) (2 ^ p)) (p / 3 + 2) 0 zl zh
  ⟨2 * r.1, 2 * r.2⟩

/-- ln 2, scaled by 2^p. -/
def ln2 (p : Nat) : Enc := lnRatio p 2 1

/-- The terms t^k/k! of the exponential, bounds scaled by 2^p. -/
def expTerms (p t : Nat) (up : Bool) : Nat → Nat → Nat → Nat
  | 0, _, term => if up then 2 * term + 2 else 0
  | n + 1, k, term =>
    let next := if up then ceilDiv (term * t) (2 ^ p * (k + 1)) else term * t / (2 ^ p * (k + 1))
    term + expTerms p t up n (k + 1) next

/-- e^t for 0 ≤ t < 1, scaled by 2^p. -/
def expFrac (p : Nat) (t : Enc) : Enc :=
  ⟨expTerms p t.lo false (p / 2 + 4) 0 (2 ^ p), expTerms p t.hi true (p / 2 + 4) 0 (2 ^ p)⟩

/-- |d| scaled by 2^p, from below and from above. -/
def Dy.enc (p : Nat) (d : Dy) : Enc :=
  let q : Int := -(p : Int)
  let lo := d.roundAt .rtz q
  ⟨lo, if d.exp ≥ q then lo else lo + 1⟩

/-- e^d as a power of two and a fraction: the exponent n and bounds of e^d / 2^n scaled by 2^p. -/
def expParts (p : Nat) (d : Dy) : Int × Enc :=
  let l := ln2 p
  let x := d.enc p
  if d.neg then
    let n := x.hi / l.lo + 1
    (-(n : Int), expFrac p ⟨n * l.lo - x.hi, n * l.hi - x.lo⟩)
  else
    let n := x.lo / l.hi
    (n, expFrac p ⟨x.lo - n * l.hi, x.hi - n * l.lo⟩)

/-- Both bounds rounded; `none` where they differ. -/
def agree (lo hi : Dy) : Option Word :=
  let a := toF32 .rne (.fin lo)
  let b := toF32 .rne (.fin hi)
  if a = b then some a else none

/-- 2^x at precision p: x = n + f. -/
def exp2At (p : Nat) (d : Dy) : Option Word :=
  let x := d.enc (p + 160)
  let one := 2 ^ (p + 160)
  let nf : Int × Nat := if d.neg then
      (let n := ceilDiv x.lo one; (-(n : Int), n * one - x.lo))
    else (((x.lo / one : Nat) : Int), x.lo % one)
  if nf.2 = 0 then agree ⟨false, 1, nf.1⟩ ⟨false, 1, nf.1⟩ else
  let l := ln2 p
  let e := expFrac p ⟨nf.2 * l.lo / one, ceilDiv (nf.2 * l.hi) one⟩
  agree ⟨false, e.lo, nf.1 - p⟩ ⟨false, e.hi, nf.1 - p⟩

/-- log2 x at precision p, x positive: the exponent plus ln(m)/ln 2. -/
def log2At (p : Nat) (d : Dy) : Option Word :=
  let k := Nat.log2 d.man
  let e : Int := d.log2
  if d.man = 2 ^ k then some (toF32 .rne (.fin (Dy.ofInt e 0))) else
  let l := ln2 p
  let m := lnRatio p d.man (2 ^ k)
  let lo : Int := e * ((2 ^ p : Nat) : Int) + (m.lo * 2 ^ p / l.hi : Nat)
  let hi : Int := e * ((2 ^ p : Nat) : Int) + (ceilDiv (m.hi * 2 ^ p) l.lo : Nat)
  agree (Dy.ofInt lo (-(p : Int))) (Dy.ofInt hi (-(p : Int)))

/-- Bounds of a ratio with `k` extra bits, at exponent `e`. -/
def ratio (num den : Enc) (k : Nat) (e : Int) : Dy × Dy :=
  (⟨false, num.lo * 2 ^ k / den.hi, e - k⟩, ⟨false, ceilDiv (num.hi * 2 ^ k) den.lo, e - k⟩)

/-- tanh at precision p for 2^-13 ≤ |x| < 10: (E − 1)/(E + 1) with E = e^2|x|. -/
def tanhAt (p : Nat) (d : Dy) : Option Word :=
  let ne := expParts p { d with neg := false, exp := d.exp + 1 }
  let s := 2 ^ ne.1.toNat
  let e : Enc := ⟨ne.2.lo * s, ne.2.hi * s⟩
  let r := ratio ⟨e.lo - 2 ^ p, e.hi - 2 ^ p⟩ ⟨e.lo + 2 ^ p, e.hi + 2 ^ p⟩ p 0
  (agree r.1 r.2).map fun w => if d.neg then w ||| 0x80000000 else w

/-- sigmoid at precision p for |x| below 128: E/(1 + E) with E = e^x; for x above zero 1/(1 + e^-x). -/
def sigmoidAt (p : Nat) (d : Dy) : Option Word :=
  let ne := expParts (p + 200) { d with neg := true }
  let p' := p + 200
  let sh := (-ne.1).toNat
  let den : Enc := ⟨2 ^ p' + ne.2.lo / 2 ^ sh, 2 ^ p' + ceilDiv ne.2.hi (2 ^ sh)⟩
  let r := if d.neg then ratio ne.2 den p' ne.1 else ratio ⟨2 ^ p', 2 ^ p'⟩ den p' 0
  agree r.1 r.2

/-- The reciprocal: the quotient with a sticky bit decides every rounding. -/
def recipExact (d : Dy) : Word :=
  let k := 2 * Nat.log2 d.man + 80
  let q := 2 ^ k / d.man
  let st := if q * d.man = 2 ^ k then 0 else 1
  toF32 .rne (.fin ⟨d.neg, 2 * q + st, -(k : Int) - d.exp - 1⟩)

/-- The integer square root, by bits from the highest down. -/
def isqrtGo (x : Nat) : Nat → Nat → Nat
  | 0, r => r
  | n + 1, r => let c := r + 2 ^ n; isqrtGo x n (if c * c ≤ x then c else r)
def isqrt (x : Nat) : Nat := isqrtGo x (Nat.log2 x / 2 + 1) 0

/-- The reciprocal square root: sqrt(2^k / (m 2^e)) with a sticky bit. -/
def rsqrtExact (d : Dy) : Word :=
  let odd := d.exp % 2
  let m := d.man * 2 ^ odd.toNat
  let e := d.exp - odd
  let k := 2 * (Nat.log2 m + 80)
  let q := 2 ^ k / m
  let r := isqrt q
  let st := if r * r * m = 2 ^ k then 0 else 1
  toF32 .rne (.fin ⟨false, 2 * r + st, -((k / 2 : Nat) : Int) - e / 2 - 1⟩)

/-- The first precision that decides. -/
def firstDecided (f : Nat → Option Word) : List Nat → Option Word
  | [] => none
  | p :: ps => match f p with
    | some w => some w
    | none => firstDecided f ps

/-- The precisions tried. -/
def sfuPrecisions : List Nat := [64, 128, 256, 512]

/-- The functions of Table 3.4. -/
inductive Sfu where
  | exp2 | log2 | recip | rsqrt | tanh | sigmoid
deriving DecidableEq, Repr

/-- The function code of VSFU (Table 5.11). -/
def Sfu.ofCode : Nat → Option Sfu
  | 0 => some .exp2 | 1 => some .log2 | 2 => some .recip | 3 => some .rsqrt | 4 => some .tanh | 5 => some .sigmoid
  | _ => none

/-- Latency of Table 3.4, in cycles. -/
def Sfu.latency : Sfu → Nat
  | .exp2 => 14 | .log2 => 14 | .recip => 10 | .rsqrt => 12 | .tanh => 18 | .sigmoid => 18

/-- The result at a finite non-zero input. -/
def Sfu.finite (f : Sfu) (w : Word) (d : Dy) : Word :=
  let dec : (Nat → Option Word) → Word := fun g => (firstDecided g sfuPrecisions).getD (Config.sfuNearTie w)
  match f with
  | .exp2 => if !d.neg && !d.absBelow 7 then 0x7F800000
             else if d.neg && !d.absBelow 8 then 0 else dec fun p => exp2At p d
  | .log2 => if d.neg then 0x7FC00000 else dec fun p => log2At p d
  | .recip => recipExact d
  | .rsqrt => if d.neg then 0x7FC00000 else rsqrtExact d
  | .tanh => if d.absBelow (-12) then w
             else if !d.absBelow 4 then (if d.neg then 0xBF800000 else 0x3F800000) else dec fun p => tanhAt p d
  | .sigmoid => if !d.absBelow 7 then (if d.neg then 0 else 0x3F800000) else dec fun p => sigmoidAt p d

/-- The SFU (R47, Table 3.4). -/
def Sfu.eval (f : Sfu) (w : Word) : Word :=
  match f32 w with
  | .nan => 0x7FC00000
  | .inf neg => match f with
    | .exp2 => if neg then 0 else 0x7F800000
    | .log2 => if neg then 0x7FC00000 else 0x7F800000
    | .recip => if neg then 0x80000000 else 0
    | .rsqrt => if neg then 0x7FC00000 else 0
    | .tanh => if neg then 0xBF800000 else 0x3F800000
    | .sigmoid => if neg then 0 else 0x3F800000
  | .fin d =>
    if d.man = 0 then match f with
      | .exp2 => 0x3F800000
      | .log2 => 0xFF800000
      | .recip => if d.neg then 0xFF800000 else 0x7F800000
      | .rsqrt => if d.neg then 0xFF800000 else 0x7F800000
      | .tanh => w
      | .sigmoid => 0x3F000000
    else f.finite w d

end Sys2Proof.Machine
end

