-- ==== Sys2Proof/Machine/OuuMath.lean ====
section
/-!
DEFINITION. The arithmetic of the optimiser update unit (08 R175-R180): correctly rounded division, square root and cosine,
the learning rate, and the update of one group in its two forms.
-/

namespace Sys2Proof.Machine

/-! ### Division, square root, cosine -/

/-- The quotient of two values, with a sticky bit below every place that a rounding looks at. -/
def Val.div : Val → Val → Val
  | .nan, _ => .nan
  | _, .nan => .nan
  | .inf _, .inf _ => .nan
  | .inf a, .fin b => .inf (a != b.neg)
  | .fin a, .inf b => .fin (Dy.zero (a.neg != b))
  | .fin a, .fin b =>
    if b.man = 0 then (if a.man = 0 then .nan else .inf (a.neg != b.neg))
    else if a.man = 0 then .fin (Dy.zero (a.neg != b.neg))
    else
      let k := Nat.log2 b.man + 120
      let q := a.man * 2 ^ k / b.man
      let st := if q * b.man = a.man * 2 ^ k then 0 else 1
      .fin ⟨a.neg != b.neg, 2 * q + st, a.exp - b.exp - k - 1⟩

/-- The square root, with a sticky bit. -/
def Val.sqrt : Val → Val
  | .nan => .nan
  | .inf n => if n then .nan else .inf false
  | .fin d =>
    if d.man = 0 then .fin d else if d.neg then .nan else
    let odd := d.exp % 2
    let m := d.man * 2 ^ odd.toNat * 2 ^ 200
    let r := isqrt m
    let st := if r * r = m then 0 else 1
    .fin ⟨false, 2 * r + st, (d.exp - odd) / 2 - 101⟩

def Val.sub (a b : Val) : Val := a.add b.neg

/-- Terms of the cosine series at precision p: the k-th term is `term`, x² is `x2`, both scaled by 2^p. -/
def cosTerms (p x2 : Nat) : Nat → Nat → Nat → Int
  | 0, _, _ => 0
  | n + 1, k, term => (term : Int) - cosTerms p x2 n (k + 2) (term * x2 / (2 ^ p * ((k + 1) * (k + 2))))

/-- cos at precision p for 0 ≤ x < 4: both ends of an interval that holds it, when they round alike. Every truncated term
is less than 8 units low, and there are fewer than p of them. -/
def cosAt (p : Nat) (d : Dy) : Option Dword :=
  let x2 := (d.mul d).roundAt .rtz (-(p : Int))
  let c := cosTerms p x2 (p / 4 + 20) 0 (2 ^ p)
  let slack : Int := 16 * p + 64
  let lo := toF64 .rne (.fin (Dy.ofInt (c - slack) (-(p : Int))))
  let hi := toF64 .rne (.fin (Dy.ofInt (c + slack) (-(p : Int))))
  if lo = hi then some lo else none

/-- cos of a binary64, correctly rounded (R177). -/
def cosF64 (w : Dword) : Dword :=
  match f64 w with
  | .fin d =>
    match cosAt 256 d with
    | some c => c
    | none => (cosAt 512 d).getD (Config.cosNearTie w)
  | _ => 0x7FF8000000000000

/-! ### binary64 and binary32 operations, each rounded once -/

def r64 (v : Val) : Val := f64 (toF64 .rne v)
def add64 (a b : Val) : Val := r64 (a.add b)
def sub64 (a b : Val) : Val := r64 (a.sub b)
def mul64 (a b : Val) : Val := r64 (a.mul b)
def div64 (a b : Val) : Val := r64 (a.div b)

def subF32 (a b : Word) : Word := toF32 .rne ((f32 a).sub (f32 b))
def divF32 (a b : Word) : Word := toF32 .rne ((f32 a).div (f32 b))
def sqrtF32 (a : Word) : Word := toF32 .rne (f32 a).sqrt
def negF32 (a : Word) : Word := a ^^^ 0x80000000
def absF32 (a : Word) : Word := a &&& 0x7FFFFFFF
def oneF32 : Word := 0x3F800000

/-- A count as binary32. -/
def natF32 (n : Nat) : Word := toF32 .rne (.fin (Dy.ofInt n 0))

/-! ### The schedule (R177) -/

/-- A schedule segment (Table 8.3). -/
def segStart (g : BitVec 256) : Nat := (g.extractLsb' 0 40).toNat
def segKind (g : BitVec 256) : Nat := (g.extractLsb' 40 2).toNat
def segLen (g : BitVec 256) : Nat := (g.extractLsb' 64 32).toNat
def segLr0 (g : BitVec 256) : Word := g.extractLsb' 96 32
def segLr1 (g : BitVec 256) : Word := g.extractLsb' 128 32

/-- The binary64 nearest π. -/
def pi64 : Val := f64 0x400921FB54442D18

/-- The rate of a segment at step s. -/
def segRate (g : BitVec 256) (s : Nat) : Word :=
  let lr0 := f32 (segLr0 g)
  let lr1 := f32 (segLr1 g)
  let nat := fun (n : Nat) => (.fin (Dy.ofInt n 0) : Val)
  let t := div64 (nat (min (s - segStart g) (segLen g))) (nat (segLen g))
  let one := nat 1
  toF32 .rne (match segKind g with
    | 0 => lr0
    | 1 => add64 lr0 (mul64 (sub64 lr1 lr0) t)
    | _ => add64 lr1 (mul64 (mul64 (sub64 lr0 lr1) (.fin ⟨false, 1, -1⟩)) (add64 one (f64 (cosF64 (toF64 .rne (mul64 pi64 t)))))))

/-- The rate for step s: the last segment that has begun. -/
def scheduleRate (segs : List (BitVec 256)) (s : Nat) : Word :=
  match (segs.filter fun g => decide (segStart g ≤ s)).getLast? with
  | some g => segRate g s
  | none => 0

/-! ### The norm and the decision (R175, R176) -/

/-- N = |GSCALE| × sqrt(G2). -/
def normOf (gscale g2 : Word) : Word := mulF32 (absF32 gscale) (sqrtF32 g2)

/-- What the OUU decides. -/
inductive PassKind where
  | skipNonFinite
  | skipCeiling
  | clip (f : Word)
  | apply
deriving DecidableEq, Repr

def decidePass (n ceil : Word) (onCeil : Bool) : PassKind :=
  if !(f32 n).isFin then .skipNonFinite
  else if (f32 ceil).lt (f32 n) then (if onCeil then .skipCeiling else .clip (divF32 ceil n))
  else .apply

/-- LAST and REASON. -/
def PassKind.last : PassKind → Nat
  | .apply => 1
  | .clip _ => 2
  | _ => 3
def PassKind.reason : PassKind → Nat
  | .skipCeiling => 1
  | _ => 0
def PassKind.skips (k : PassKind) : Bool := k.last == 3

/-- The scaled gradient of an element. -/
def PassKind.scale (k : PassKind) (gscale grad : Word) : Word :=
  let g := mulF32 grad gscale
  match k with
  | .clip f => mulF32 g f
  | _ => g

/-! ### One group (R178, R179) -/

/-- The scalars of a descriptor, and lrw. -/
structure GroupScalars where
  nest : Bool
  first : Bool
  decay : Bool
  lrw : Word
  beta1 : Word
  beta2 : Word
  eps : Word
  wd : Word
  damp : Word

/-- k = 1 − lrw × λ. -/
def GroupScalars.k (c : GroupScalars) : Word := if c.decay then subF32 oneF32 (mulF32 c.lrw c.wd) else oneF32

/-- The decayed master. -/
def GroupScalars.decayed (c : GroupScalars) (w : Word) : Word := if c.decay then mulF32 w c.k else w

/-- One element of the one-moment form: master and moment after it. -/
def GroupScalars.oneMoment (c : GroupScalars) (w m g : Word) : Word × Word :=
  let m := fmaF32 c.beta1 m (mulF32 c.damp g)
  let u := if c.nest then fmaF32 c.beta1 m g else m
  (fmaF32 (negF32 c.lrw) u (c.decayed w), m)

/-- Sums in ascending order, each addition rounded. -/
def sumAsc (l : List Word) : Word := match l with
  | [] => 0
  | a :: r => r.foldl addF32 a

/-- What a group holds, row-major. -/
structure GroupData where
  w : List Word
  m : List Word
  rowf : List Word
  colf : List Word
deriving DecidableEq, Repr

def GroupScalars.oneMomentAll (c : GroupScalars) (gs : List Word) (x : GroupData) : GroupData :=
  let r := List.zipWith (fun (wm : Word × Word) g => c.oneMoment wm.1 wm.2 g) (x.w.zip x.m) gs
  { x with w := r.map (·.1), m := r.map (·.2) }

/-- One element of the factored form. -/
def GroupScalars.factored (c : GroupScalars) (r cj rbar : Word) (w m g : Word) : Word × Word :=
  let v := divF32 (mulF32 r cj) rbar
  let u := mulF32 g (Sfu.eval .rsqrt v)
  let m' := if c.first then fmaF32 c.beta1 m (mulF32 (subF32 oneF32 c.beta1) u) else m
  let u := if c.first then m' else u
  (fmaF32 (negF32 c.lrw) u (c.decayed w), m')

def GroupScalars.factoredAll (c : GroupScalars) (rows cols : Nat) (gs : List Word) (x : GroupData) : GroupData :=
  let b2 := subF32 oneF32 c.beta2
  let sq := gs.map fun g => addF32 (mulF32 g g) c.eps
  let rowsOf := (List.range rows).map fun i => (sq.drop (i * cols)).take cols
  let ss := rowsOf.map sumAsc
  let ts := (List.range cols).map fun j => sumAsc (rowsOf.map fun r => r.getD j 0)
  let rf := List.zipWith (fun r s => fmaF32 c.beta2 r (mulF32 b2 (divF32 s (natF32 cols)))) x.rowf ss
  let cf := List.zipWith (fun q t => fmaF32 c.beta2 q (mulF32 b2 (divF32 t (natF32 rows)))) x.colf ts
  let rbar := divF32 (sumAsc rf) (natF32 rows)
  let out := (gs.zip (x.w.zip x.m)).zipIdx.map fun (e, i) =>
    c.factored (rf.getD (i / cols) 0) (cf.getD (i % cols) 0) rbar e.2.1 e.2.2 e.1
  { w := out.map (·.1), m := out.map (·.2), rowf := rf, colf := cf }

end Sys2Proof.Machine
end

