-- ==== Sys2Proof/Machine/Exact.lean ====
section
/-!
DEFINITION. Exact sums (04 R75-R90, 08 R166): the 144-bit accumulator of the matrix units and the wide-sum blocks.
-/

namespace Sys2Proof.Machine

/-! ### Accumulator entries (R75-R82) -/

abbrev AccEntry := BitVec 144

/-- X, a 139-bit two's-complement integer. -/
def AccEntry.x (e : AccEntry) : Int := (e.extractLsb' 0 139).toInt
/-- The sticky status bits (R75). -/
def AccEntry.trunc (e : AccEntry) : Bool := e.getLsbD 139
def AccEntry.ovf (e : AccEntry) : Bool := e.getLsbD 140
def AccEntry.ninf (e : AccEntry) : Bool := e.getLsbD 141
def AccEntry.pinf (e : AccEntry) : Bool := e.getLsbD 142
def AccEntry.nan (e : AccEntry) : Bool := e.getLsbD 143

/-- Set one status bit. -/
def AccEntry.flag (e : AccEntry) (i : Nat) : AccEntry := e ||| BitVec.ofNat 144 (2 ^ i)

/-- Add an integer to X modulo 2^139. -/
def AccEntry.addX (e : AccEntry) (k : Int) : AccEntry :=
  (e.extractLsb' 139 5) ++ (e.extractLsb' 0 139 + BitVec.ofInt 139 k)

/-- One product of MX elements into an entry (R76): the element codes with their scale bytes, and Q. -/
def AccEntry.mulAdd (fa fb : Fmt) (q : Int) (a sa b sb : Nat) (e : AccEntry) : AccEntry :=
  let isZero : Val → Bool := fun v => match v with
    | .fin d => d.man == 0
    | _ => false
  let isInf : Val → Bool := fun v => match v with
    | .inf _ => true
    | _ => false
  let va := fa.toVal a
  let vb := fb.toVal b
  if va == .nan || vb == .nan || sa % 256 == 255 || sb % 256 == 255 || (isZero va && isInf vb) || (isInf va && isZero vb)
  then e.flag 143
  else if isInf va || isInf vb then (if va.signNeg != vb.signNeg then e.flag 141 else e.flag 142)
  else match va, vb with
    | .fin x, .fin y =>
      let s : Int := (sa % 256 : Nat) + (sb % 256 : Nat) - 254
      let p := x.mul y
      let p := { p with exp := p.exp + s }
      if p.man = 0 then e
      else if s + fa.top + fb.top > q + 107 then e.flag 140
      else
        let k := p.roundAt .rtz q
        let exact := if p.exp ≥ q then true else k * 2 ^ (q - p.exp).toNat == p.man
        let e := if exact then e else e.flag 139
        e.addX (if p.neg then -(k : Int) else k)
    | _, _ => e

/-- The value of an exact entry that a drain rounds (R80). -/
def AccEntry.val (e : AccEntry) (q : Int) : Val :=
  if e.nan || e.ovf || (e.pinf && e.ninf) then .nan
  else if e.pinf then .inf false
  else if e.ninf then .inf true
  else .fin (Dy.ofInt e.x q)

/-- The binary32 of an entry of the binary paths (R44). -/
def AccEntry.f32 (e : AccEntry) : Word := e.extractLsb' 0 32

/-- An entry holding a binary32. -/
def AccEntry.ofF32 (w : Word) : AccEntry := w.zeroExtend 144

/-- The two bfloat16 halves of a binary32 operand, each widened to binary32 (R82). -/
def splitHi (w : Word) : Word :=
  match f32 w with
  | .nan => 0x7FC00000
  | _ => w &&& 0xFFFF0000
def splitLo (w : Word) : Word :=
  match f32 w, f32 (splitHi w) with
  | .fin a, .fin b => BitVec.ofNat 32 (Fmt.bf16.ofVal .rne (.fin (a.add b.neg')) * 65536)
  | _, _ => 0

/-- The sum of one stationary block's 128 products (R81), before it joins the entry. -/
def blockSum (mul : Word → Word → Word) (as bs : List Word) : Word :=
  match treeSum addF32 7 (List.zipWith mul as bs) with
  | s :: _ => s
  | [] => 0

/-- A pass over one stationary block, summed and added to the entry (R81). -/
def AccEntry.addPass (mul : Word → Word → Word) (as bs : List Word) (e : AccEntry) : AccEntry :=
  AccEntry.ofF32 (addF32 e.f32 (blockSum mul as bs))

/-- One stationary block of bfloat16 or binary16 operands, widened to binary32, into an entry (R81). -/
def AccEntry.addBlock16 (as bs : List Word) (e : AccEntry) : AccEntry := e.addPass mulF32 as bs

/-- A product of a low half: a zero low half adds nothing to an infinity, so that an infinity times a non-zero finite value
is an infinity (R82; DEDUCED, log 78). -/
def mulLow (lo hi : Word) : Word :=
  match f32 lo, f32 hi with
  | .fin d, .inf _ => if d.man = 0 then 0 else mulF32 lo hi
  | _, _ => mulF32 lo hi

/-- The product of two high halves. With an infinity it is that of the whole operands, since the high half of a small non-zero
value can be zero (R82; DEDUCED, log 78). -/
def mulHigh (a b : Word) : Word :=
  match f32 a, f32 b with
  | .inf _, _ | _, .inf _ => mulF32 a b
  | _, _ => mulF32 (splitHi a) (splitHi b)

/-- One stationary block of binary32 operands into an entry: three passes (R82). -/
def AccEntry.addBlock32 (as bs : List Word) (e : AccEntry) : AccEntry :=
  let e := e.addPass mulLow (as.map splitLo) (bs.map splitHi)
  let e := e.addPass (fun hi lo => mulLow lo hi) (as.map splitHi) (bs.map splitLo)
  e.addPass mulHigh as bs

/-! ### Wide sums (R84-R90) -/

/-- A wide-sum block: its width W, its integers modulo 2^W, and its side entry (Table 4.6). -/
structure WsBlock where
  w : Nat
  xs : List Nat
  side : BitVec 128
deriving DecidableEq, Repr

/-- The anchor field that stands for EMPTY (Table 4.6). -/
def wsEmpty : BitVec 16 := 0x8000

def sideAnchor (s : BitVec 128) : BitVec 16 := s.extractLsb' 0 16
def sideNan (s : BitVec 128) : Bool := s.getLsbD 16
def sidePinf (s : BitVec 128) : Bool := s.getLsbD 17
def sideNinf (s : BitVec 128) : Bool := s.getLsbD 18
def sideClamp (s : BitVec 128) : Bool := s.getLsbD 19

/-- A side entry from its fields; the reserved bits are written zero (Table 4.6). -/
def mkSide (anchor : BitVec 16) (nan pinf ninf clamp : Bool) (nfmask : BitVec 64) : BitVec 128 :=
  nfmask ++ (0 : BitVec 44) ++ BitVec.ofBool clamp ++ BitVec.ofBool ninf ++ BitVec.ofBool pinf ++ BitVec.ofBool nan
    ++ anchor

/-- e(v) of R85: |v| < 2^e(v). -/
def eOf (d : Dy) : Int := d.log2 + 1

/-- ec of R85: the largest e(v) over the finite non-zero values, EMPTY when there is none. -/
def ecOf (vs : List Val) : BitVec 16 :=
  match amaxLog vs with
  | none => wsEmpty
  | some l => BitVec.ofInt 16 (l + 1)

/-- The larger of two exponents, EMPTY below every number. -/
def maxEc (a b : BitVec 16) : BitVec 16 :=
  if a = wsEmpty then b else if b = wsEmpty then a else if a.toInt < b.toInt then b else a

/-- ceil(log2 n) + 1 (R85). -/
def headroom (n : Nat) : Nat := (if n ≤ 1 then 0 else Nat.log2 (n - 1) + 1) + 1

/-- The agreed anchor A = E + h (R85). -/
def anchorOf (n : Nat) (ecs : List (BitVec 16)) : BitVec 16 :=
  let e := ecs.foldl maxEc wsEmpty
  if e = wsEmpty then wsEmpty else BitVec.ofInt 16 (e.toInt + headroom n)

/-- A signed integer as a W-bit one. -/
def wrapW (w : Nat) (x : Int) : Nat := (x % ((2 ^ w : Nat) : Int)).toNat

/-- One value against an anchor: the integer and whether it clamps. `bound` is the exponent of the bound (E of R86, or A
itself against a fixed anchor, R166), `lim` the clamped magnitude. -/
def wsElem (w : Nat) (a : BitVec 16) (bound : Int) (lim : Nat) (v : Val) : Int × Bool :=
  match v with
  | .fin d =>
    if d.man = 0 then (0, false)
    else if a = wsEmpty then (0, true)
    else
      let sgn : Int := if d.neg then -1 else 1
      if d.log2 ≥ bound then (sgn * lim, true)
      else (sgn * d.roundAt .rtz (a.toInt - ((w : Int) - 1)), false)
  | _ => (0, false)

/-- Up to 64 values into a block (R86 with a headroom, R166 against a fixed anchor). -/
def wsConvert (w : Nat) (a : BitVec 16) (h : Option Nat) (vs : List Val) : WsBlock :=
  let bound : Int := a.toInt - (h.getD 0 : Nat)
  let lim : Nat := 2 ^ (w - 1 - h.getD 0) - 1
  let es := vs.map (wsElem w a bound lim)
  let nf : Nat := (vs.zipIdx.foldl (fun m (v, i) => if v.isFin then m else m + 2 ^ i) 0)
  ⟨w, es.map fun e => wrapW w e.1,
   mkSide a (vs.any (· == .nan)) (vs.any (· == .inf false)) (vs.any (· == .inf true)) (es.any (·.2)) (BitVec.ofNat 64 nf)⟩

/-- Exported accumulator entries (R80): X against the fixed anchor Q + W − 1, clamped where it does not fit. An anchor above 32,767
is stored modulo 2^16 (DESIGN CHOICE, log 168). -/
def wsExport (w : Nat) (q : Int) (es : List AccEntry) : WsBlock :=
  let lim : Int := ((2 ^ (w - 1) : Nat) : Int) - 1
  let bad : AccEntry → Bool := fun e => e.nan || e.ovf || e.pinf || e.ninf
  let clamps : AccEntry → Bool := fun e => !bad e && decide (lim < e.x.natAbs)
  let nf : Nat := es.zipIdx.foldl (fun m (e, i) => if bad e then m + 2 ^ i else m) 0
  ⟨w, es.map fun e => if bad e then 0 else wrapW w (if clamps e then (if e.x < 0 then -lim else lim) else e.x),
   mkSide (BitVec.ofInt 16 (q + w - 1)) (es.any fun e => e.nan || e.ovf) (es.any (·.pinf)) (es.any (·.ninf))
     (es.any clamps) (BitVec.ofNat 64 nf)⟩

/-- Flags and mask combined by OR; the anchor of the first unless it is EMPTY (R87). The reserved bits are zero. -/
def sideJoin (s t : BitVec 128) : BitVec 128 :=
  mkSide (if sideAnchor s = wsEmpty then sideAnchor t else sideAnchor s) (sideNan s || sideNan t)
    (sidePinf s || sidePinf t) (sideNinf s || sideNinf t) (sideClamp s || sideClamp t)
    (s.extractLsb' 64 64 ||| t.extractLsb' 64 64)

/-- The integers of a block: zeros where its anchor is EMPTY, whatever its bytes hold (R87, R167). -/
def WsBlock.ints (b : WsBlock) : List Nat := if sideAnchor b.side = wsEmpty then b.xs.map fun _ => 0 else b.xs

/-- Two blocks combined element by element (R87). -/
def WsBlock.join (a b : WsBlock) : WsBlock :=
  ⟨a.w, List.zipWith (fun x y => (x + y) % 2 ^ a.w) a.ints b.ints, sideJoin a.side b.side⟩

/-- An integer modulo 2^W as a signed one. -/
def signedW (w x : Nat) : Int := if x < 2 ^ (w - 1) then x else (x : Int) - ((2 ^ w : Nat) : Int)

/-- The value of element i before it is rounded (R89, R90). -/
def WsBlock.val (b : WsBlock) (i : Nat) : Val :=
  let s := b.side
  if s.getLsbD (64 + i) then
    (if sideNan s || (sidePinf s && sideNinf s) then .nan
     else if sidePinf s then .inf false else if sideNinf s then .inf true else .nan)
  else if sideAnchor s = wsEmpty then .fin (Dy.zero false)
  else
    .fin (Dy.ofInt (signedW b.w (b.xs.getD i 0)) ((sideAnchor s).toInt - b.w + 1))

/-- A wide-sum source block against the agreed anchor (R86, R129, R130): shifted, an element that has grown past 2^E clamped; its
flags and its mask stay. -/
def WsBlock.convertTo (b : WsBlock) (a : BitVec 16) (h : Nat) : WsBlock :=
  let k := wsConvert b.w a (some h) (b.ints.map fun x =>
    .fin (Dy.ofInt (signedW b.w x) ((sideAnchor b.side).toInt - b.w + 1)))
  { k with side := mkSide a (sideNan b.side) (sidePinf b.side) (sideNinf b.side) (sideClamp b.side || sideClamp k.side)
             (b.side.extractLsb' 64 64) }

/-- A block from its data bytes and its side entry, and the data bytes of a block. -/
def WsBlock.ofBytes (w : Nat) (data : List Byte) (side : BitVec 128) : WsBlock :=
  ⟨w, (List.range 64).map fun i => bytesToNat ((data.drop (i * (w / 8))).take (w / 8)), side⟩
def WsBlock.bytes (b : WsBlock) : List Byte := b.xs.flatMap (natToBytes (b.w / 8))

end Sys2Proof.Machine
end

