-- ==== Sys2Proof/Machine/Loupe.lean ====
section
/-!
DEFINITION. Loupe statistics (04 R92, 09 R200-R201): what each reporting unit forms per designated tensor, and the entry
that a step's close combines from them.
-/

namespace Sys2Proof.Machine

/-- The reporting units: tile t is t, the Prism engine of die d is 64 + d, Kaleidoscope is 68, the OUU is 69. -/
def unitPrism (d : Nat) : Nat := 64 + d
def unitKal : Nat := 68
def unitOuu : Nat := 69

/-- The key of a unit's statistics on a partition's tensor. -/
def loupeKey (unit p tensor : Nat) : Nat := unit * 2 ^ 16 + p * 64 + tensor

def Loupe.zero : Loupe :=
  { ssq := 0, maxMag := 0, elems := 0, nans := 0, pinfs := 0, ninfs := 0, zeros := 0, sats := 0 }

/-- A magnitude as binary32, rounded toward +Infinity (Table 9.11). -/
def magUp (d : Dy) : Word :=
  let d := { d with neg := false }
  let w := toF32 .rtz (.fin d)
  match f32 w with
  | .fin x => if x.lt d then w + 1 else w
  | _ => w

/-- One element reported: its value, and whether its cast saturated (R201). -/
def Loupe.add (u : Loupe) (e : Val × Bool) : Loupe :=
  let u := { u with elems := u.elems + 1, sats := u.sats + b2n e.2 }
  match e.1 with
  | .nan => { u with nans := u.nans + 1 }
  | .inf n => if n then { u with ninfs := u.ninfs + 1 } else { u with pinfs := u.pinfs + 1 }
  | .fin d =>
    if d.man = 0 then { u with zeros := u.zeros + 1 } else
    let v := f64 (toF64 .rne (.fin d))
    let sq := f64 (toF64 .rne (v.mul v))
    let m := magUp d
    { u with ssq := toF64 .rne ((f64 u.ssq).add sq),
             maxMag := if u.maxMag.toNat < m.toNat then m else u.maxMag }

/-- A unit reports elements in order. -/
def State.report (s : State) (unit p tensor : Nat) (es : List (Val × Bool)) : State :=
  if es.isEmpty then s else
  let k := loupeKey unit p tensor
  let u := (Sparse.get none s.loupe k).getD Loupe.zero
  { s with loupe := Sparse.set none s.loupe k (some (es.foldl Loupe.add u)) }

/-- The units that reported a tensor of a partition, ascending. -/
def State.reports (s : State) (p tensor : Nat) : List Loupe :=
  (List.range 70).filterMap fun u => Sparse.get none s.loupe (loupeKey u p tensor)

/-- The value that a unit brings to the WS64 sum of squares: its finite partial. -/
def Loupe.finiteSsq (u : Loupe) : Val := match f64 u.ssq with
  | .fin d => .fin d
  | _ => .fin (Dy.zero false)

/-- The combined sum of squares as one WS64 element with its flags (R85-R89, R201). -/
def loupeSum (us : List Loupe) : WsBlock :=
  let vs := us.map Loupe.finiteSsq
  let a := anchorOf us.length (vs.map fun v => ecOf [v])
  let blocks := vs.map fun v => wsConvert 64 a (some (headroom us.length)) [v]
  let sum := blocks.foldl (fun acc b => (acc + b.xs.headD 0) % 2 ^ 64) 0
  let nan := us.any fun u => decide (0 < u.nans) || f64 u.ssq == .nan
  let pinf := us.any fun u => decide (0 < u.pinfs + u.ninfs) || f64 u.ssq == .inf false
  let clamp := blocks.any fun b => sideClamp b.side
  ⟨64, [sum], mkSide a nan pinf false clamp (if nan || pinf then 1 else 0)⟩

/-- SSQ32 of the entry: the sum converted by R89 in RNE. -/
def loupeSsq32 (us : List Loupe) : Word := toF32 .rne ((loupeSum us).val 0)

/-- The 64-byte entry of a tensor (Table 9.11). -/
def loupeEntry (tensor : Nat) (us : List Loupe) : BitVec 512 :=
  let sum := loupeSum us
  let total := fun (f : Loupe → Nat) => us.foldl (fun n u => n + f u) 0
  BitVec.ofNat 512 (packFields [(0, 6, tensor), (8, 1, b2n us.isEmpty), (9, 1, b2n (sideNan sum.side)),
    (10, 1, b2n (sidePinf sum.side || sideNinf sum.side)), (11, 1, b2n (sideClamp sum.side)),
    (16, 16, (sideAnchor sum.side).toNat), (32, 32, us.foldl (fun m u => max m u.maxMag.toNat) 0),
    (64, 64, sum.xs.headD 0), (128, 64, total (·.elems)), (192, 64, total (·.nans)),
    (256, 64, total (fun u => u.pinfs + u.ninfs)), (320, 64, total (·.zeros)), (384, 64, total (·.sats)),
    (448, 32, (loupeSsq32 us).toNat)])

/-- A partition's statistics start afresh. -/
def State.clearLoupe (s : State) (p : Nat) : State :=
  { s with loupe := s.loupe.filter fun e => e.1 % 2 ^ 16 / 64 != p }

/-! ### Values of arrays as they stand -/

/-- The values of `n` elements: MX elements under their scale bytes, wide sums under their side entries. -/
def arrayVals (f : Fmt) (n : Nat) (data aux : List Byte) : List Val :=
  if f.isWs then
    let w := f.bits
    ((List.range ((n + 63) / 64)).flatMap fun b =>
      let side := BitVec.ofNat 128 (bytesToNat ((aux.drop (16 * b)).take 16))
      let blk := WsBlock.ofBytes w ((data.drop (b * 8 * w)).take (8 * w)) side
      (List.range 64).map blk.val).take n
  else
    let es := (unpackElems f n data).map f.toVal
    if f.isMx then
      ((chunks 32 es).zipIdx.flatMap fun (l, i) => l.map fun v => v.scaled (aux.getD i 0x7F).toNat)
    else es

end Sys2Proof.Machine
end

