-- ==== Sys2Proof/Machine/Faults.lean ====
section
/-!
DEFINITION. Event records, failure warnings, in-band interrupts and the start of a compute-domain reset (14 R324, 15
R340-R343, R351): the shared operation by which a tile, a memory unit or a watchdog reports a fault.
-/

namespace Sys2Proof.Machine

/-! ### Messages -/

/-- The chip that is domain manager now (R329, R330). -/
def State.dmChip (s : State) : ChipId :=
  BitVec.ofNat 14 (if s.mgt.dmIsStandby then s.rdFld Reg.mgtDm 29 16 else s.rdFld Reg.mgtDm 13 0)

/-- A message to the domain manager on VL0. -/
def State.tellDm (s : State) (kind : String) (args : List Nat) : State := s.emit (.toChip s.dmChip kind args)

/-- An in-band interrupt: raised when ENEC has enabled it, else held once (R324). -/
def State.ibi (s : State) (cause : Byte) : State :=
  if s.mgt.ibiEnabled then s.emit (.ibi cause)
  else if s.mgt.ibiHeld.contains cause then s
  else { s with mgt := { s.mgt with ibiHeld := s.mgt.ibiHeld ++ [cause] } }

/-! ### Event records (R340, Table 15.2) -/

/-- The fields of an event record; unlisted ones are zero. -/
structure EvRec where
  kind : Nat
  source : Nat := 0
  code : Nat := 0
  action : Nat := 0
  deferred : Bool := false
  tenant : Nat := 0
  part : Nat := 0
  tile : Option Nat := none
  chan : Option Nat := none
  rtile : Nat := 0
  pc : Nat := 0
  f : Nat := 0
  step : Nat := 0
  p : Nat := 0
  addr : Option (Nat × Nat) := none
  jobId : Nat := 0
  link : Nat := 0
  vl : Nat := 0
  peer : Nat := 0
  bundle : Nat := 0
  low : Option Nat := none
deriving DecidableEq, Repr

/-- The 128 bytes of a record. `low` replaces bytes 0x08-0x0F, for the KIND 4 records of closed steps. -/
def EvRec.encode (r : EvRec) (seq gtc phys : Nat) : BitVec 1024 :=
  let head := match r.low with
    | some x => [(64, 64, x)]
    | none => [(64, 8, r.source), (72, 8, r.code), (80, 3, r.action), (83, 1, b2n r.deferred), (84, 1, b2n r.tile.isSome),
        (85, 1, b2n r.chan.isSome), (86, 1, b2n r.addr.isSome), (96, 9, r.tenant), (108, 3, r.part),
        (112, 6, r.tile.getD 0), (120, 7, phys)]
  BitVec.ofNat 1024 (packFields ([(0, 16, 0x4654), (16, 8, r.kind), (24, 8, 1), (32, 32, seq)] ++ head ++
    [(128, 18, r.chan.getD 0), (152, 6, r.rtile), (160, 32, r.pc), (192, 48, r.f), (256, 40, r.step), (320, 48, r.p),
     (384, 64, gtc), (448, 48, (r.addr.map (·.2)).getD 0), (496, 4, (r.addr.map (·.1)).getD 0), (512, 32, r.jobId),
     (544, 6, r.link), (552, 3, r.vl), (560, 14, r.peer), (768, 256, r.bundle)]))

/-- The event log keeps the newest 256 records. -/
def newest256 (l : List (BitVec 1024)) : List (BitVec 1024) := l.drop (l.length - 256)

/-- Write one record: it takes the next SEQ; while the control complex is away it is held until its return (R359). -/
def State.logEvent (s : State) (r : EvRec) : State :=
  let phys := match r.tile with
    | some t => (s.physTile t).getD 0
    | none => 0
  let s := if r.kind = 1 then (s.bump Reg.fltFaultCnt 1).setBit Reg.fltEvent 0 else s
  if s.flt.ctlReset then
    { s with flt := { s.flt with ctlHeld := s.flt.ctlHeld ++ [(r.kind, r.encode 0 s.now.toNat phys)] } }
  else
    { s with flt := { s.flt with
        events := newest256 (s.flt.events ++ [r.encode s.flt.eventSeq.toNat s.now.toNat phys]),
        eventSeq := s.flt.eventSeq + 1 } }

/-! ### Failure warnings (R351, Table 15.8) -/

/-- A failure warning of a source; within HOLDOFF_MIN minutes of the last one sent it only sets the bits. -/
def State.warn (s : State) (source : Nat) : State :=
  let s := (s.setBit Reg.fltEvent 5).setBit Reg.fltWarnSrc source
  let quiet := match Sparse.get none s.flt.warnLast source with
    | some t => decide (s.since t < s.rdFld Reg.fltWarnCfg 23 16 * 60000000000)
    | none => false
  if quiet then s else
  let s := { s with flt := { s.flt with warnLast := Sparse.set none s.flt.warnLast source (some s.now) } }
  let s := s.tellDm "WARN" [source]
  let s := s.ibi 0x02
  s.logEvent { kind := 3, source := 0x0D, code := source }

/-! ### MSI-X (R271) -/

def msixKey (fn vec : Nat) : Nat := fn * 2048 + vec

/-- A message: sent, or pending while its vector is masked. -/
def State.sendMsix (s : State) (fn vec : Nat) : State :=
  if Sparse.get true s.chan.msixMask (msixKey fn vec) then
    { s with chan := { s.chan with msixPend := Sparse.set false s.chan.msixPend (msixKey fn vec) true } }
  else s.emit (.msix fn vec)

/-- Vector 0 of every tenant with a channel: FENCED is set, or cleared. -/
def State.fenceVectors (s : State) : State :=
  (dedup ((s.chan.chans.filter fun e => fld e.2.toNat 2 0 != 0).map fun e => fld e.2.toNat 24 16)).foldl
    (fun s v => s.sendMsix v 0) s

/-! ### The start of a compute-domain reset (R343, Table 15.5) -/

/-- R + 0 of Table 15.5; the domain manager hears of it (R348). A fault during a reset starts no second one; of two tiles
that fault in one count the lower is guilty (R359). -/
def State.startReset (s : State) (guilty : Option Nat) (tenant : Option Nat) (admin : Bool) : State :=
  match s.flt.run with
  | some r =>
    let lower := match guilty, r.guilty with
      | some t, some g => s.now == r.since && decide (t < g)
      | _, _ => false
    if lower then { s with flt := { s.flt with run := some { r with
      guilty := guilty, guiltyTenant := tenant, record := s.flt.eventSeq - 1 } } } else s
  | none =>
    let s := (s.wrFld Reg.fltStatus 2 0 1).wrFld Reg.fltStatus 10 8 1
    let s := s.bumpFld Reg.fltResetCnt 15 0 1
    let s := s.fenceVectors
    let s := if (List.range 8).any fun p => (s.part p).job.isSome then s.tellDm "WORKER_RESET" [s.self.toNat] else s
    { s with flt := { s.flt with
        lastReset := s.now,
        run := some { since := s.now, phase := 1, scrubAt := 0, guilty := guilty, guiltyTenant := tenant, record := s.flt.eventSeq - 1,
                      admin := admin, memWaiting := false } } }

/-- The fields that a fault of tile t names: its context, its place, its frame. -/
def State.tileRec (s : State) (t source code : Nat) : EvRec :=
  let p := s.partOf t
  let x := s.tile t
  { kind := 1, source := source, code := code, action := if s.flt.run.isSome then 0 else 1, deferred := x.routine.isSome, tenant := s.tenantOf t,
    part := p, tile := some t, chan := (s.cmdOn p).map (·.1), rtile := s.relTile t, pc := x.pc.toNat,
    f := x.frameF.toNat, step := (s.stepOf p).toNat, p := x.frameP.toNat, jobId := (s.jobIdOf p).toNat }

/-- A tile faults: it stops, a fault record is written, and the compute domain resets (R118, Table 10.3). -/
def State.faultTile (s : State) (t : Nat) (r : EvRec) : State :=
  let s := s.logEvent r
  let s := s.modTile t fun x => { x with faulted := true }
  s.startReset (some t) (some (s.tenantOf t)) false

/-- A tile faults on an address (space as ASPACE of Table 15.2). -/
def State.faultTileAt (s : State) (t source space addr : Nat) : State :=
  s.faultTile t { s.tileRec t source 0 with addr := some (space, addr) }

end Sys2Proof.Machine
end

