-- ==== Sys2Proof/Machine/Memory.lean ====
section
/-!
DEFINITION. Access to the memories (03 R49-R53, 10 R218-R231): local stores with their SECDED words, HBM with its 64-byte
ECC words, the host window, and tenant addresses through the Apertures.
-/

namespace Sys2Proof.Machine

/-- The canonical form of the memories: keys strictly rising, and no byte listed that reads as an unlisted one does. -/
def Memory.wf (m : Store) : Bool := Sparse.wf (fun _ => 0) m.ls && Sparse.wf (fun _ => 0) m.dram

/-! ### Correctable errors and their thresholds -/

/-- The times within the window before now, and how many they are. -/
def recent (times : List Dword) (now window : Nat) : List Dword := times.filter fun t => decide (now < t.toNat + window)

/-- One corrected word of a tile's LS: TIL_LS_CE rises, and the warning of R351 bit 3 follows LS_CE_MAX in one hour. -/
def State.noteLsCe (s : State) (t : Nat) : State :=
  let s := s.bump (Reg.tilLsCe t) 1
  let l := recent (Sparse.get [] s.mem.lsCeTimes t ++ [s.now]) s.now.toNat 3600000000000
  let s := { s with mem := { s.mem with lsCeTimes := Sparse.set [] s.mem.lsCeTimes t l } }
  let n := s.rdFld Reg.fltWarnCfg 15 0
  if n != 0 && decide (n ≤ l.length) then s.warn 3 else s

/-- The stack of a device address (R218). -/
def stackOf (da : Nat) : Nat := da / 4096 % 12

/-- One corrected HBM word: MEM_CE_CNT rises, and CE_WARN follows THRESH within WINDOW_MIN minutes (R224). -/
def State.noteHbmCe (s : State) (k : Nat) : State :=
  let s := (s.bump (Reg.memCeCnt k) 1).pmcHbm k 0x45 1
  let window := max 1 (s.rdFld Reg.memCeThresh 23 16) * 60000000000
  let l := recent (Sparse.get [] s.mem.ceTimes k ++ [s.now]) s.now.toNat window
  let s := { s with mem := { s.mem with ceTimes := Sparse.set [] s.mem.ceTimes k l } }
  let n := s.rdFld Reg.memCeThresh 15 0
  if n != 0 && decide (n ≤ l.length) then (s.setBit Reg.memEvent 0).warn 0 else s

/-- An uncorrectable word met by a reader (R223): counted, its address captured, UE set. -/
def State.noteHbmUe (s : State) (da : Nat) : State :=
  let k := stackOf da
  let s := (s.bump (Reg.memUeCnt k) 1).setBit Reg.memEvent 1
  { s with mem := { s.mem with ueAddr := Sparse.set 0 s.mem.ueAddr k (BitVec.ofNat 40 da) } }

/-! ### The local store -/

/-- LS addresses run below 0x0180_0000 (R49). -/
def lsSize : Nat := 0x1800000

/-- The key of an LS byte in State. -/
def lsKey (t a : Nat) : Nat := t * 2 ^ 25 + a

def State.lsByte (s : State) (t a : Nat) : Byte := Sparse.get 0 s.mem.ls (lsKey t a)

/-- What a read brought: the bytes, or the address of an uncorrectable word, and the state after it. -/
structure ReadOut where
  bytes : List Byte
  bad : Option Nat
  st : State

/-- Read LS bytes; an uncorrectable word delivers nothing, correctable ones are corrected and counted (R53). -/
def State.readLs (s : State) (t : Nat) (as : List Nat) : ReadOut :=
  match as.find? fun a => s.mem.lsBad.contains (lsKey t a / 8) with
  | some a => ⟨[], some (a / 8 * 8), s⟩
  | none =>
    let hit := s.mem.lsSoft.filter fun w => as.any fun a => lsKey t a / 8 == w
    let s' := if hit.isEmpty then s else
      hit.foldl (fun s _ => s.noteLsCe t) { s with mem := { s.mem with lsSoft := s.mem.lsSoft.filter (!hit.contains ·) } }
    ⟨as.map (s.lsByte t), none, s'⟩

/-- Store LS bytes, the key of each given by its address. -/
def State.pokeLs (s : State) (t : Nat) (l : List (Nat × Byte)) : State :=
  { s with mem := { s.mem with ls := l.foldl (fun m e => Sparse.set 0 m (lsKey t e.1) e.2) s.mem.ls } }

/-- Whether the addresses cover every byte of a word of `n` bytes. -/
def coversWord (as : List Nat) (n w : Nat) : Bool := (List.range n).all fun i => as.contains (w * n + i)

/-- Write LS bytes (R52, R53): a whole-word write removes an error, a partial write of an uncorrectable word writes
nothing and answers its address. -/
def State.writeLs (s : State) (t : Nat) (l : List (Nat × Byte)) : Option Nat × State :=
  let ws := (s.mem.lsBad ++ s.mem.lsSoft).filter fun w => l.any fun e => lsKey t e.1 / 8 == w
  if ws.isEmpty then (none, s.pokeLs t l) else
  let keys := l.map fun e => lsKey t e.1
  let whole := ws.filter (coversWord keys 8)
  let part := ws.filter (!whole.contains ·)
  match part.find? s.mem.lsBad.contains with
  | some w => (some (w * 8 - lsKey t 0), s)
  | none =>
    let s := { s with mem := { s.mem with lsBad := s.mem.lsBad.filter (!ws.contains ·),
                                          lsSoft := s.mem.lsSoft.filter (!ws.contains ·) } }
    (none, (part.foldl (fun s _ => s.noteLsCe t) s).pokeLs t l)

/-! ### Device addresses (R219) -/

/-- HBM, device reserve included. -/
def isHbm (da : Nat) : Bool := decide (da < 0xC000000000)

/-- The host window: host bus address h at 0x8000_0000_0000 + h. -/
def hostBase : Nat := 0x800000000000
def isHost (da : Nat) : Bool := decide (hostBase ≤ da)

/-- The holes of Table 10.1 (the register space is reached by control cores and the debug path only). -/
def isHole (da : Nat) : Bool := !isHbm da && !isHost da

def State.devByte (s : State) (da : Nat) : Byte := if isHole da then 0xFF else Sparse.get 0 s.mem.dram da

/-- The correctable words that a read of device addresses meets are corrected, written back and counted (R221). -/
def State.correctDev (s : State) (das : List Nat) : State :=
  let hit := s.mem.memSoft.filter fun w => das.any fun a => a / 64 == w
  if hit.isEmpty then s else
    hit.foldl (fun s w => s.noteHbmCe (stackOf (w * 64)))
      { s with mem := { s.mem with memSoft := s.mem.memSoft.filter (!hit.contains ·) } }

/-- Read device bytes: a hole reads all ones and sets HOLE; an uncorrectable word delivers nothing (R221, R223). -/
def State.readDev (s : State) (das : List Nat) : ReadOut :=
  let s := if das.any isHole then s.setBit Reg.memEvent 4 else s
  match das.find? fun a => s.mem.memBad.contains (a / 64) with
  | some a => ⟨[], some (a / 64 * 64), s.noteHbmUe (a / 64 * 64)⟩
  | none => ⟨das.map s.devByte, none, s.correctDev das⟩

/-- Store device bytes outside holes. -/
def State.pokeDev (s : State) (l : List (Nat × Byte)) : State :=
  { s with mem := { s.mem with
      dram := l.foldl (fun m e => if isHole e.1 then m else Sparse.set 0 m e.1 e.2) s.mem.dram } }

/-- Write device bytes (R219, R221): writes to a hole are dropped; a whole-word write removes an error; a partial write
of an uncorrectable word meets it as a read, leaves that word unchanged, and answers its address. -/
def State.writeDev (s : State) (l : List (Nat × Byte)) : Option Nat × State :=
  let s := if l.any (fun e => isHole e.1) then s.setBit Reg.memEvent 4 else s
  let ws := (s.mem.memBad ++ s.mem.memSoft).filter fun w => l.any fun e => e.1 / 64 == w
  if ws.isEmpty then (none, s.pokeDev l) else
  let whole := ws.filter (coversWord (l.map (·.1)) 64)
  let part := ws.filter (!whole.contains ·)
  let bad := part.filter s.mem.memBad.contains
  let soft := part.filter (!bad.contains ·)
  let s := { s with mem := { s.mem with memBad := s.mem.memBad.filter fun w => !whole.contains w,
                                        memSoft := s.mem.memSoft.filter (!ws.contains ·) } }
  let s := soft.foldl (fun s w => s.noteHbmCe (stackOf (w * 64))) s
  let s := bad.foldl (fun s w => s.noteHbmUe (w * 64)) s
  (bad.head?.map (· * 64), s.pokeDev (l.filter fun e => !bad.contains (e.1 / 64)))

/-- A contiguous range of addresses. -/
def span (a n : Nat) : List Nat := (List.range n).map (a + ·)

/-- Device bytes without the ECC path: for structures of the device that are held exactly. -/
def State.devBytes (s : State) (da n : Nat) : List Byte := (span da n).map s.devByte

/-! ### Errors that a command meets -/

/-- Cell errors that have developed when the command reads (R44, R53, R221). -/
def State.inject (s : State) : List CellError → State
  | [] => s
  | e :: es =>
    let m := s.mem
    let s := match e with
      | .lsCorrectable t a => { s with mem := { m with lsSoft := dedup (m.lsSoft ++ [lsKey t a.toNat / 8]) } }
      | .lsUncorrectable t a => { s with mem := { m with lsBad := dedup (m.lsBad ++ [lsKey t a.toNat / 8]) } }
      | .accParity t mu row col =>
        { s with mem := { m with accBad := dedup (m.accBad ++ [((t.val * 4 + mu.val) * 256 + row.val) * 128 + col.val]) } }
      | .hbmCorrectable da => { s with mem := { m with memSoft := dedup (m.memSoft ++ [da.toNat / 64]) } }
      | .hbmUncorrectable da => { s with mem := { m with memBad := dedup (m.memBad ++ [da.toNat / 64]) } }
      | .hbmMiscorrected da =>
        let n := s.fresh
        let w := da.toNat / 64
        let s := n.2.pokeDev ((List.range 64).map fun i => (w * 64 + i, Config.miscorrected n.1 i))
        { s with mem := { s.mem with memSoft := dedup (s.mem.memSoft ++ [w]) } }
    State.inject s es

/-! ### Apertures (R225, R226) -/

/-- The fields of an Aperture descriptor (Table 10.4). -/
def aptValid (d : Nat) : Bool := bitOf d 0
def aptRetained (d : Nat) : Bool := bitOf d 1
def aptWritable (d : Nat) : Bool := bitOf d 2
def aptGranLog (d : Nat) : Nat := if bitOf d 3 then 30 else 21
def aptSpill (d : Nat) : Bool := bitOf d 4
def aptBase (d : Nat) : Nat := fld d 111 64
def aptCount (d : Nat) : Nat := fld d 159 128
def aptTable (d : Nat) : Nat := fld d 239 192

/-- The descriptor of Aperture i of tenant v; 512 × 64 of them. -/
def aptKey (v i : Nat) : Nat := v * 64 + i
def State.aptDesc (s : State) (v i : Nat) : Nat := (Sparse.get 0 s.apt.desc (aptKey v i)).toNat

/-- The Aperture of a tenant that holds the whole of an extent. -/
def State.aptOf (s : State) (v a n : Nat) : Option Nat :=
  (List.range 64).find? fun i =>
    let d := s.aptDesc v i
    aptValid d && decide (aptBase d ≤ a) && decide (a + n ≤ aptBase d + aptCount d * 2 ^ aptGranLog d)

/-- The target of a tenant address through Aperture i (R226): a device address, or 0x8000_0000_0000 + h for the host
bus address h of a spill-tier granule. -/
def State.xlate (s : State) (v i a : Nat) : Nat :=
  let d := s.aptDesc v i
  let g := aptGranLog d
  let e := ((Sparse.get [] s.apt.entries (aptKey v i)).getD ((a - aptBase d) / 2 ^ g) 0).toNat
  e + (a - aptBase d) % 2 ^ g + (if aptSpill d then hostBase else 0)

/-- Whether an extent lies wholly in one Aperture, with write access where asked, and outside the spill tier unless it
is allowed (R103). -/
def State.aptAllows (s : State) (v a n : Nat) (write spill : Bool) : Bool :=
  match s.aptOf v a n with
  | some i => let d := s.aptDesc v i
              (!write || aptWritable d) && (spill || !aptSpill d)
  | none => false

/-- The device addresses of a tenant extent; none outside one Aperture. -/
def State.tenAddrs (s : State) (v a n : Nat) : Option (List Nat) :=
  match s.aptOf v a n with
  | some i => some ((span a n).map (s.xlate v i))
  | none => none

/-- Read a tenant extent; an extent outside one Aperture reads as an uncorrectable one, `bad` naming its first byte. -/
def State.readTen (s : State) (v a n : Nat) : ReadOut :=
  match s.tenAddrs v a n with
  | some das => s.readDev das
  | none => ⟨[], some a, s⟩

/-- What a read of a tenant extent leaves beside its bytes: its corrected words counted, or its first uncorrectable word counted,
captured and shown (R221, R223). -/
def State.meet (s : State) (v a n : Nat) : State := (s.readTen v a n).st

/-- Write bytes at a tenant address. -/
def State.writeTen (s : State) (v a : Nat) (bytes : List Byte) : Option Nat × State :=
  match s.tenAddrs v a bytes.length with
  | some das => s.writeDev (das.zip bytes)
  | none => (some a, s)

/-- A little-endian number read from a tenant address, without the error path. -/
def State.tenNat (s : State) (v a n : Nat) : Nat :=
  match s.tenAddrs v a n with
  | some das => bytesToNat (das.map s.devByte)
  | none => 0

end Sys2Proof.Machine
end

