-- ==== Sys2Proof/Machine/Tile.lean ====
section
/-!
DEFINITION. The tile's shared operations (05 R97-R103, R113, R118): register banks, address descriptors and their checks,
operations in flight, digest parts, reads and writes through a descriptor.
-/

namespace Sys2Proof.Machine

/-! ### Registers (R97, R98) -/

/-- The key of a register: the deferred bank while a routine runs (R98). -/
def Tile.key (x : Tile) (first shift r : Nat) : Nat := if x.routine.isSome && decide (first ≤ r) then shift + r else r
def Tile.keyX (x : Tile) (r : Nat) : Nat := x.key 24 32 r
def Tile.keyD (x : Tile) (r : Nat) : Nat := x.key 56 64 r
def Tile.keyB (x : Tile) (r : Nat) : Nat := x.key 12 16 r
def Tile.keyE (x : Tile) (r : Nat) : Nat := x.key 12 16 r

/-- X0 reads as zero. -/
def Tile.getX (x : Tile) (r : Nat) : Dword := if r = 0 then 0 else Sparse.get 0 x.x (x.keyX r)
def Tile.getD (x : Tile) (r : Nat) : BitVec 256 := Sparse.get 0 x.d (x.keyD r)
/-- B0 reads as 1. -/
def Tile.getB (x : Tile) (r : Nat) : Bool := r == 0 || Sparse.get false x.b (x.keyB r)
def Tile.getE (x : Tile) (r : Nat) : BitVec 16 := if r = 0 then 0 else Sparse.get 0 x.e (x.keyE r)

/-- A vector register of zeros: 1,024 lanes. -/
def vZero : List Word := List.replicate 1024 0
def Tile.getV (x : Tile) (r : Nat) : List Word := Sparse.get vZero x.v r

/-- A pending result with nothing left to write is gone. -/
def keepPend (l : List PendRes) : List PendRes := l.filter fun p => p.xd.isSome || p.vd.isSome

/-- A write drops the pending result of the register it writes (log 30). -/
def dropPendX (l : List PendRes) (k : Nat) : List PendRes :=
  keepPend (l.map fun p => if p.xd.any (·.1 == k) then { p with xd := none } else p)
def dropPendV (l : List PendRes) (k : Nat) : List PendRes :=
  keepPend (l.map fun p => if p.vd.any (·.1 == k) then { p with vd := none } else p)

/-- Write a scalar register by bank key; a write to X0 is ignored. -/
def Tile.setXKey (x : Tile) (k : Nat) (v : Dword) : Tile := if k = 0 then x else { x with x := Sparse.set 0 x.x k v }
def Tile.setX (x : Tile) (r : Nat) (v : Dword) : Tile :=
  let x := { x with pend := dropPendX x.pend (x.keyX r) }
  x.setXKey (x.keyX r) v
def Tile.setD (x : Tile) (r : Nat) (v : BitVec 256) : Tile := { x with d := Sparse.set 0 x.d (x.keyD r) v }
/-- A write to B0 is ignored. -/
def Tile.setB (x : Tile) (r : Nat) (v : Bool) : Tile :=
  if r = 0 then x else { x with b := Sparse.set false x.b (x.keyB r) v }
def Tile.setV (x : Tile) (k : Nat) (v : List Word) : Tile := { x with v := Sparse.set vZero x.v k v }

/-- A completion counts at an event counter; it saturates, and E0 counts nothing (Table 5.2). -/
def Tile.bumpE (x : Tile) (k : Nat) : Tile :=
  if k = 0 then x else
  let v := Sparse.get 0 x.e k
  { x with e := Sparse.set 0 x.e k (if v = 0xFFFF then v else v + 1) }

/-! ### Address descriptors (R102, Table 5.5) -/

structure Desc where
  base : Nat
  space : Nat
  tile : Nat
  fmt : BitVec 4
  stride : Nat
  cols : Nat
  aux : Nat
  rows : Nat
  group : Nat
  pop : BitVec 4
  loupe : Nat
  le : Bool
deriving DecidableEq, Repr

def Desc.ofBits (d : BitVec 256) : Desc :=
  let n := d.toNat
  let f := fun hi lo => fld n hi lo
  { base := f 47 0, space := f 51 48, tile := f 59 54, fmt := BitVec.ofNat 4 (f 63 60), stride := f 95 64,
    cols := if f 127 96 = 0 then 2 ^ 32 else f 127 96, aux := f 175 128, rows := if f 191 176 = 0 then 65536 else f 191 176,
    group := f 203 192, pop := BitVec.ofNat 4 (f 207 204), loupe := f 213 208, le := bitOf n 214 }

/-- The bytes of `n` elements of a format code; reserved codes have none. -/
def codeBytes (c : BitVec 4) (n : Nat) : Nat := ((Fmt.ofCode c).map (·.bytesFor n)).getD 0

/-- The bytes of the scale or side array of `n` elements (R102). -/
def auxBytes (c : BitVec 4) (n : Nat) : Nat := match Fmt.ofCode c with
  | some f => if f.isMx then (n + 31) / 32 else if f.isWs then (n + 63) / 64 * 16 else 0
  | none => 0

/-- From BASE to the end of the last row. -/
def Desc.extent (d : Desc) : Nat := (d.rows - 1) * d.stride + codeBytes d.fmt d.cols

/-- Extents of a two-dimensional operand: its rows, and its scale or side array. -/
def Desc.extents (d : Desc) : List (Nat × Nat) :=
  let a := auxBytes d.fmt (d.rows * d.cols)
  (d.base, d.extent) :: (if a = 0 then [] else [(d.aux, a)])

/-- The byte ranges that extents of a descriptor name; SPACE 3 destinations are tenant addresses (R132). -/
def State.spans (s : State) (t : Nat) (d : Desc) (ext : List (Nat × Nat)) : List Span :=
  let tile := if d.space = 2 then 8 * s.partOf t + d.tile else if d.space = 0 then t else 0
  ext.map fun e => ⟨if d.space = 0 || d.space = 2 then 0 else 1, tile, e.1, e.1 + e.2⟩

/-- Whether two accesses meet. -/
def Span.meets (a b : Span) : Bool :=
  a.space == b.space && a.tile == b.tile && decide (a.lo < b.hi) && decide (b.lo < a.hi)

/-! ### Exception codes (Table 5.13) -/

def exIllegal : Nat := 1
def exConflict : Nat := 2
def exFetch : Nat := 3
def exLsAddr : Nat := 4
def exAlign : Nat := 5
def exAperture : Nat := 6
def exMatrix : Nat := 7
def exVector : Nat := 8
def exMove : Nat := 9
def exSema : Nat := 10

/-- The first code of a list of checks. -/
def firstCode : List (Bool × Nat) → Option Nat
  | [] => none
  | (bad, c) :: l => if bad then some c else firstCode l

/-- The checks of R103 on one descriptor: the SPACE 2 tile number, the extents, then the alignment of matrix and
vector operands in the LS. An instruction that takes no ROWS and COLS from a descriptor is checked on the bytes that it names
(DEDUCED, log 169). -/
def State.descCheck (s : State) (t : Nat) (d : Desc) (ext : List (Nat × Nat)) (write spill aligned : Bool) : Option Nat :=
  firstCode [
    (d.space == 2 && decide (s.partSize (s.partOf t) ≤ d.tile), exMove),
    ((d.space == 0 || d.space == 2) && ext.any (fun e => decide (lsSize < e.1 + e.2) || decide (lsSize ≤ e.1)), exLsAddr),
    (d.space == 1 && ext.any (fun e => !s.aptAllows (s.tenantOf t) e.1 e.2 write spill), exAperture),
    (aligned && d.space == 0 && (d.base % 128 != 0 || d.aux % 128 != 0 || d.stride % 128 != 0), exAlign)]

/-! ### What reads and writes meet -/

/-- An uncorrectable word or an address that no longer translates. -/
inductive Trouble where
  | ls (t a : Nat)
  | mem (da : Nat)
  | gone (a : Nat)
deriving DecidableEq, Repr

/-- An uncorrectable LS word faults the tile whose store it is (R53). -/
def State.lsUe (s : State) (t a : Nat) : State :=
  let s := s.setBit (Reg.tilTstat t) 16
  let s := if s.rdBit (Reg.tilLsUeAddr t) 31 then s
    else s.wr (Reg.tilLsUeAddr t) (BitVec.ofNat 32 (2 ^ 31 + a % 2 ^ 25))
  s.faultTileAt t 0x01 1 a

/-- The outcome of trouble met by an access of tile t (R53, Table 10.3, R142). -/
def State.trouble (s : State) (t : Nat) : Trouble → State
  | .ls o a => s.lsUe o a
  | .mem da => s.faultTileAt t 0x03 3 da
  | .gone a => s.faultTile t { s.tileRec t 0x00 exAperture with addr := some (2, a) }

structure GetOut where
  bytes : List Byte
  bad : Option Trouble
  st : State

/-- Read bytes at addresses of a descriptor's SPACE. -/
def State.getBytes (s : State) (t : Nat) (d : Desc) (a n : Nat) : GetOut :=
  if d.space = 0 || d.space = 2 then
    let o := if d.space = 2 then 8 * s.partOf t + d.tile else t
    let r := s.readLs o (span a n)
    ⟨r.bytes, r.bad.map (.ls o), r.st⟩
  else match s.tenAddrs (s.tenantOf t) a n with
    | none => ⟨[], some (.gone a), s⟩
    | some das =>
      let r := s.readDev das
      ⟨r.bytes, r.bad.map .mem, r.st⟩

/-- Bytes as they stand, met by no access: for a scale or side array that a write leaves alone (R201). -/
def State.standing (s : State) (t : Nat) (d : Desc) (a n : Nat) : List Byte :=
  if d.space = 0 || d.space = 2 then (span a n).map (s.lsByte (if d.space = 2 then 8 * s.partOf t + d.tile else t))
  else ((s.tenAddrs (s.tenantOf t) a n).getD []).map s.devByte

/-- Read several ranges in order; the first trouble ends the read. -/
def State.getAll (s : State) (t : Nat) (d : Desc) : List (Nat × Nat) → GetOut
  | [] => ⟨[], none, s⟩
  | (a, n) :: l =>
    let r := s.getBytes t d a n
    match r.bad with
    | some _ => r
    | none =>
      let q := State.getAll r.st t d l
      ⟨r.bytes ++ q.bytes, q.bad, q.st⟩

/-- Write bytes at an address of a descriptor's SPACE; in SPACE 1 a read-write mapping must stand there (R142). -/
def State.putBytes (s : State) (t : Nat) (d : Desc) (a : Nat) (bytes : List Byte) : Option Trouble × State :=
  if bytes.isEmpty then (none, s) else
  if d.space = 0 || d.space = 2 then
    let o := if d.space = 2 then 8 * s.partOf t + d.tile else t
    let r := s.writeLs o ((span a bytes.length).zip bytes)
    (r.1.map (.ls o), r.2)
  else if !s.aptAllows (s.tenantOf t) a bytes.length true true then (some (.gone a), s)
  else match s.tenAddrs (s.tenantOf t) a bytes.length with
    | none => (some (.gone a), s)
    | some das =>
      let r := s.writeDev (das.zip bytes)
      (r.1.map .mem, r.2)

/-- Write segments in order; the first trouble ends the writing. -/
def State.putAll (s : State) (t : Nat) (d : Desc) : List (Nat × List Byte) → Option Trouble × State
  | [] => (none, s)
  | (a, b) :: l =>
    match s.putBytes t d a b with
    | (some x, s) => (some x, s)
    | (none, s) => State.putAll s t d l

/-- Whether one of a descriptor's extents lies in the spill tier. -/
def State.inSpill (s : State) (t : Nat) (d : Desc) (ext : List (Nat × Nat)) : Bool :=
  d.space == 1 && ext.any fun e => match s.aptOf (s.tenantOf t) e.1 e.2 with
    | some i => aptSpill (s.aptDesc (s.tenantOf t) i)
    | none => false

/-- Writes of Prism or Kaleidoscope: in the spill tier one may meet a PCIe error, a free value (R142, R150, log 184). -/
def State.unitPut (s : State) (t : Nat) (d : Desc) (l : List (Nat × List Byte)) : Option Trouble × State :=
  match l.find? fun e => s.inSpill t d [(e.1, e.2.length)] with
  | some e => if Config.pcieError s.fresh.1 then (some (.gone e.1), s.fresh.2) else s.fresh.2.putAll t d l
  | none => s.putAll t d l

/-- Nothing of a frame or a routine runs on the tile. -/
def Tile.isFree (x : Tile) : Bool := !x.frameOpen && x.routine.isNone && !x.faulted && !x.scrubbing && !x.bistFailed

/-! ### Operations in flight (R105, R112, R113) -/

/-- A new operation, its completion counted at E[ec]. -/
structure NewOp where
  kind : OpKind
  ec : Nat
  span : Bool := false
  reads : List Span := []
  writes : List Span := []
  sink : Nat := 0
  spill : Bool := false
  owes : Nat := 0
  aow : List AowReq := []

/-- Record an operation of tile t; it takes the next number. -/
def State.startOp (s : State) (t : Nat) (o : NewOp) : State :=
  s.modTile t fun x =>
    { x with
      opSeq := x.opSeq + 1,
      ops := x.ops ++ [{ id := x.opSeq, kind := o.kind, ec := x.keyE o.ec, span := o.span, deferred := x.routine.isSome,
                         frame := x.frameP, reads := o.reads, writes := o.writes, sink := o.sink, spill := o.spill,
                         owes := o.owes, aow := o.aow }] }

/-- The number that the next operation of tile t takes. -/
def State.nextOp (s : State) (t : Nat) : Nat := (s.tile t).opSeq

def Tile.op (x : Tile) (id : Nat) : Option Op := x.ops.find? (·.id == id)

/-! ### Digest streams (09 R196) -/

/-- The stream that the tile's present frame, or running routine, writes to. -/
def Tile.streamKey (x : Tile) : Option Nat := x.routine.map (·.run)

/-- Open a stream. -/
def Tile.openStream (x : Tile) (frame : BitVec 48) (routine : Option Nat) : Tile :=
  { x with streams := x.streams ++ [{ frame := frame, routine := routine, closed := false, parts := [] }] }

/-- Add the part of an operation to the present stream; `done` when its bytes are known. -/
def State.digest (s : State) (t op : Nat) (bytes : List Byte) (done : Bool) : State :=
  s.modTile t fun x =>
    { x with streams := x.streams.map fun d =>
        if d.routine == x.streamKey && (d.routine.isSome || d.frame == x.frameP) && !d.closed then
          { d with parts := d.parts ++ [{ op := op, bytes := bytes, done := done }] }
        else d }

/-- The bytes of an operation's part become known. -/
def State.digestFill (s : State) (t op : Nat) (bytes : List Byte) : State :=
  s.modTile t fun x =>
    { x with streams := x.streams.map fun d =>
        { d with parts := d.parts.map fun p => if p.op == op then { p with bytes := bytes, done := true } else p } }

/-- A stream's digest. -/
def DigestStream.value (d : DigestStream) : BitVec 128 := digestOf (d.parts.flatMap fun p => digestPart p.bytes)

/-! ### Writes that report (09 R201) -/

/-- The tile reports elements written through a descriptor with LE = 1. -/
def State.reportTile (s : State) (t : Nat) (d : Desc) (es : List (Val × Bool)) : State :=
  if d.le then s.report t (s.partOf t) d.loupe es else s

/-- The random seed and step that the tile's draws use (R111, R161). -/
def State.drawSeed (s : State) (t : Nat) : Nat :=
  let p := s.partOf t
  match s.contextOn p, (s.part p).job with
  | some c, _ => c.seed.toNat
  | none, some j => j.seed.toNat
  | none, none => (s.part p).seed.toNat
def State.drawStep (s : State) (t : Nat) : Nat := (s.stepOf (s.partOf t)).toNat

/-- The exception of a tile (R118): a fault record with the code, the PC and the bundle; no slot takes effect. -/
def State.exception (s : State) (t : Nat) (code : Nat) (b : Bundle) : State :=
  s.faultTile t { s.tileRec t 0x00 code with
    bundle := b.s0.toNat + b.s1.toNat * 2 ^ 64 + b.s2.toNat * 2 ^ 128 + b.s3.toNat * 2 ^ 192 }

end Sys2Proof.Machine
end

