-- ==== Sys2Proof/Machine/Apt.lean ====
section
/-!
DEFINITION. Apertures as the administrator changes them (10 R225-R229): the checks of a commit, the granule map, the drain of
an old descriptor, release zeroing.
-/

namespace Sys2Proof.Machine

/-- Mappable HBM ends here (Table 10.1). -/
def mappable : Nat := 0xBF00000000

/-- Granule entries that valid Apertures hold in the translation store. -/
def State.storeUsed (s : State) : Nat := s.apt.entries.foldl (fun n e => n + e.2.length) 0

/-- The 2 MiB granules of HBM that a descriptor's entries name (R227); none in the spill tier. -/
def granulesOf (d : Nat) (entries : List Dword) : List Nat :=
  if aptSpill d then [] else
  dedup (entries.flatMap fun e => (List.range (2 ^ (aptGranLog d - 21))).map (e.toNat / 2 ^ 21 + ·))

/-- A granule-map entry after a mapping is added or removed. -/
def gmAdd (writable : Bool) (e : BitVec 16) : BitVec 16 := if writable then e ||| 0x8000 else e + 1
def gmSub (writable : Bool) (e : BitVec 16) : BitVec 16 := if writable then e &&& 0x7FFF else e - 1

def State.granule (s : State) (g : Nat) : BitVec 16 := Sparse.get 0 s.apt.granules g

/-- Add or remove the mappings of a descriptor. -/
def State.mapGranules (s : State) (d : Nat) (gs : List Nat) (add : Bool) : State :=
  let f := if add then gmAdd (aptWritable d) else gmSub (aptWritable d)
  { s with apt := { s.apt with
      granules := gs.foldl (fun m g => Sparse.update 0 m g f) s.apt.granules,
      granuleClass := if add then gs.foldl (fun m g => Sparse.set false m g (aptRetained d)) s.apt.granuleClass
        else s.apt.granuleClass } }

/-! ### Commit checks (R227, Table 10.5) -/

/-- RESULT, ERR_OFF and the index of a failing granule-table entry: of TABLE_UE, the first entry with a byte in the word. -/
structure AptCheck where
  result : Nat
  off : Nat
  entry : Nat := 0

def firstFail : List (Bool × AptCheck) → AptCheck
  | [] => { result := 0, off := 0 }
  | (bad, c) :: l => if bad then c else firstFail l

/-- The checks of the descriptor alone, before its granule table is read. -/
def State.aptFieldCheck (s : State) (v i d : Nat) : AptCheck :=
  let n := aptCount d
  let size := n * 2 ^ aptGranLog d
  let meets := fun (j : Nat) =>
    let o := s.aptDesc v j
    j != i && aptValid o && decide (aptBase o < aptBase d + size) &&
      decide (aptBase d < aptBase o + aptCount o * 2 ^ aptGranLog o)
  firstFail [
    (fld d 31 5 != 0 || (aptSpill d && !aptRetained d), { result := 1, off := 0 }),
    (n == 0 || decide (2 ^ 24 < n) || decide (2 ^ 48 < aptBase d + size), { result := 1, off := 0x10 }),
    (fld d 511 256 != 0, { result := 1, off := 0x20 }),
    (aptBase d % 2 ^ aptGranLog d != 0, { result := 4, off := 0x08 }), (aptTable d % 8 != 0, { result := 4, off := 0x18 }),
    (decide (mappable < aptTable d + 8 * n), { result := 3, off := 0x18 }),
    ((List.range 64).any meets, { result := 2, off := 0x08 })]

/-- The checks of the entries in ascending index. -/
def entryChecks (d : Nat) (entries : List Dword) : AptCheck :=
  let g := 2 ^ aptGranLog d
  firstFail (entries.zipIdx.flatMap fun (e, j) =>
    [(e.toNat % g != 0, { result := 4, off := 0x18, entry := j }),
     (!aptSpill d && decide (mappable < e.toNat + g), { result := 3, off := 0x18, entry := j })])

/-- The entry that names a granule first. -/
def entryNaming (d : Nat) (entries : List Dword) (g : Nat) : Nat :=
  (entries.findIdx? fun e => decide (e.toNat / 2 ^ 21 ≤ g) && decide (g < e.toNat / 2 ^ 21 + 2 ^ (aptGranLog d - 21))).getD 0

/-- SHARE_CONFLICT, CLASS_CONFLICT and NO_SPACE, with the old descriptor's share given back (R228). -/
def State.aptMapCheck (s : State) (key d : Nat) (entries : List Dword) : AptCheck :=
  let old := (Sparse.get 0 s.apt.desc key).toNat
  let oldEntries := Sparse.get [] s.apt.entries key
  let oldGs := if aptValid old then granulesOf old oldEntries else []
  let gs := granulesOf d entries
  let base := fun (g : Nat) => if oldGs.contains g then gmSub (aptWritable old) (s.granule g) else s.granule g
  let share := fun (g : Nat) =>
    let e := base g
    if aptWritable d then e != 0 else e.getLsbD 15 || e == 0x7FFF
  match gs.find? share with
  | some g => { result := 5, off := 0x18, entry := entryNaming d entries g }
  | none =>
    match gs.find? fun g => base g != 0 && Sparse.get false s.apt.granuleClass g != aptRetained d with
    | some g => { result := 6, off := 0x18, entry := entryNaming d entries g }
    | none =>
      if 8388608 < s.storeUsed - oldEntries.length + entries.length then { result := 7, off := 0x10 }
      else { result := 0, off := 0 }

/-! ### Install, drain, zeroing (R229) -/

/-- A descriptor with its entries comes into force. -/
def State.installApt (s : State) (key : Nat) (d : BitVec 512) (entries : List Dword) : State :=
  { s with apt := { s.apt with desc := Sparse.set 0 s.apt.desc key d,
                               entries := Sparse.set [] s.apt.entries key entries } }.mapGranules d.toNat
    (granulesOf d.toNat entries) true

def State.aptBusy (s : State) (b : Bool) : State := s.putBit Reg.aptWStatus 0 b

/-- Put the new descriptor in force, or let it wait for the zeroing of a granule it names. -/
def State.installOrWait (s : State) (key : Nat) (new : Option (BitVec 512 × List Dword)) : State :=
  match new with
  | none => s
  | some (d, es) =>
    if (granulesOf d.toNat es).any s.apt.zeroing.contains then { s with apt := { s.apt with waiting := some (d, es, key) } }
    else s.installApt key d es

/-- Whether the tenant addresses lo to hi - 1 meet an Aperture's range. -/
def aptMeets (d lo hi : Nat) : Bool := decide (lo < aptBase d + aptCount d * 2 ^ aptGranLog d) && decide (aptBase d < hi)

/-- Operations of the tenant's tiles already translated through an Aperture; what else a drain waits for is DESIGN CHOICE, log 203. -/
def State.throughApt (s : State) (v : Nat) (d : Nat) : List (Nat × Op) :=
  (List.range 64).flatMap fun t =>
    if s.tenantOf t != v then [] else
    ((s.tile t).ops.filter fun o => (o.reads ++ o.writes).any fun r => r.space == 1 && aptMeets d r.lo r.hi).map fun o => (t, o)

/-- Instruction lines asked for through a descriptor, as tile and line. -/
def State.linesThrough (s : State) (v d : Nat) : List (Nat × Nat) :=
  (List.range 64).flatMap fun t =>
    let p := s.part (s.partOf t)
    if p.imgTenant != v then [] else
    ((s.tile t).fetching.filter fun l => aptMeets d (p.imgBase + 256 * l) (p.imgBase + 256 * l + 256)).map fun l => (t, l)

/-- The lines that a drain still waits for. -/
def State.linesLeft (s : State) (x : AptDrain) : List (Nat × Nat) := x.lines.filter fun e => (s.tile e.1).fetching.contains e.2

/-- The state in which a line asked for before the drain is translated: with the old descriptor in force. -/
def State.lineView (s : State) (t line : Nat) : State := match s.apt.drain with
  | some x => if x.lines.contains (t, line) then { s with apt := { s.apt with
      desc := Sparse.set 0 s.apt.desc x.key x.old, entries := Sparse.set [] s.apt.entries x.key x.oldEntries } } else s
  | none => s

/-- COPY commands in execution through it. The writes of an ingress extent and of the engines are translated as they are made. -/
def State.copiesThrough (s : State) (v d : Nat) : List ExecCmd :=
  s.chan.cmds.filter fun c => c.opc == 0x09 && c.started && c.status.isNone && cTenant (s.chEntry c.chan) == v &&
    (aptMeets d (c.arg 8 48) (c.arg 8 48 + c.arg 0x18 40) || aptMeets d (c.arg 0x10 48) (c.arg 0x10 48 + c.arg 0x18 40))

/-- Steps 3 to 5: the granule map, the new descriptor, the zeroing of what is left unmapped. -/
def State.finishDrain (s : State) (x : AptDrain) : State :=
  let gs := granulesOf x.old.toNat x.oldEntries
  let s := { s with apt := { s.apt with drain := none } }.mapGranules x.old.toNat gs false
  let s := s.installOrWait x.key x.new
  let left := if x.keep then [] else gs.filter fun g => s.granule g == 0
  let s := { s with apt := { s.apt with zeroing := dedup (s.apt.zeroing ++ left), zeroTenant := x.key / 64 } }
  if s.apt.zeroing.isEmpty then s.aptBusy false else s.setBit Reg.memStatus 1

/-- A drain with no request outstanding ends. -/
def State.aptSettle (s : State) : State :=
  match s.apt.drain with
  | none => s
  | some x =>
    let v := x.key / 64
    let d := x.old.toNat
    if (s.throughApt v d).isEmpty && (s.linesLeft x).isEmpty && (s.copiesThrough v d).isEmpty then s.finishDrain x else s

/-- Begin to replace a valid descriptor: no new translation goes through it. -/
def State.beginDrain (s : State) (key : Nat) (new : Option (BitVec 512 × List Dword)) (keep : Bool) : State :=
  let old := Sparse.get 0 s.apt.desc key
  let x : AptDrain := { key := key, old := old, oldEntries := Sparse.get [] s.apt.entries key, new := new, keep := keep,
                        lines := s.linesThrough (key / 64) old.toNat, since := s.now }
  { s with apt := { s.apt with
      desc := Sparse.set 0 s.apt.desc key (BitVec.ofNat 512 (setFld old.toNat 0 0 0)),
      entries := Sparse.set [] s.apt.entries key [], drain := some x } }.aptSettle

/-- Invalidate an Aperture; one that is not valid is left as it is. -/
def State.aptDrop (s : State) (v i : Nat) (keep : Bool) : State :=
  if aptValid (s.aptDesc v i) then (s.aptBusy true).beginDrain (aptKey v i) none (keep && v == 0) else s

/-- Commit a descriptor (R227): RESULT, ERR_OFF, and the state after it. -/
def State.aptCommit (s : State) (v i d : Nat) : AptCheck × State :=
  if !aptValid d then ({ result := 0, off := 0 }, s.aptDrop v i false) else
  let c := s.aptFieldCheck v i d
  if c.result != 0 then (c, s) else
  let das := span (aptTable d) (8 * aptCount d)
  let r := s.readDev das
  match r.bad with
  | some da => ({ result := 8, off := 0x18, entry := (max da (aptTable d) - aptTable d) / 8 }, r.st)
  | none =>
    let entries := (chunks 8 r.bytes).map fun b => BitVec.ofNat 64 (bytesToNat b)
    let s := r.st
    let c := entryChecks d entries
    if c.result != 0 then (c, s) else
    let key := aptKey v i
    let c := s.aptMapCheck key d entries
    if c.result != 0 then (c, s) else
    let new := some (BitVec.ofNat 512 d, entries)
    let s := s.aptBusy true
    if aptValid (s.aptDesc v i) then (c, s.beginDrain key new false)
    else
      let s := s.installOrWait key new
      (c, if s.apt.waiting.isSome then s else s.aptBusy false)

end Sys2Proof.Machine
end

