-- ==== Sys2Proof/Machine/TileS0.lean ====
section
/-!
DEFINITION. Slots and the S0 instructions (05 R99-R106): guards, decode checks, sources and destinations of every slot, and
what each S0 opcode computes.
-/

namespace Sys2Proof.Machine

/-! ### Slots (R99) -/

/-- The word of slot i. -/
def slotOf (b : Bundle) (i : Nat) : Nat :=
  (if i = 0 then b.s0 else if i = 1 then b.s1 else if i = 2 then b.s2 else b.s3).toNat

def opc (w : Nat) : Nat := fld w 5 0

/-- A slot executes when B[GUARD] XOR NEG is 1; NOP does nothing. -/
def Tile.live (x : Tile) (w : Nat) : Bool := opc w != 0 && (x.getB (fld w 10 7) != bitOf w 6)

/-- The S0 fields. -/
def s0Xd (w : Nat) : Nat := fld w 15 11
def s0Xa (w : Nat) : Nat := fld w 20 16
def s0Xb (w : Nat) : Nat := fld w 25 21
def s0Fn (w : Nat) : Nat := fld w 31 26
def s0Imm (w : Nat) : Nat := fld w 63 32
def s0Sext (w : Nat) : Dword := sext64 32 (s0Imm w)

/-- The S1 fields (Table 5.10). -/
def s1Da (w : Nat) : Nat := fld w 16 11
def s1Db (w : Nat) : Nat := fld w 22 17
def s1Dc (w : Nat) : Nat := fld w 28 23
def s1Umask (w : Nat) : Nat := fld w 32 29
def s1Sink (w : Nat) : Nat := fld w 35 33
def s1Acc (w : Nat) : Bool := bitOf w 36
def s1Half (w : Nat) : Nat := fld w 37 37
def s1Rm (w : Nat) : Nat := fld w 39 38
def s1Ec (w : Nat) : Nat := fld w 43 40
def s1Xq (w : Nat) : Nat := fld w 48 44

/-- The S2 fields. -/
def s2Vd (w : Nat) : Nat := fld w 14 11
def s2Va (w : Nat) : Nat := fld w 18 15
def s2Vb (w : Nat) : Nat := fld w 22 19
def s2Vc (w : Nat) : Nat := fld w 26 23
def s2Fmt (w : Nat) : Nat := fld w 30 27
def s2Rm (w : Nat) : Nat := fld w 32 31
def s2Xa (w : Nat) : Nat := fld w 37 33
def s2Xb (w : Nat) : Nat := fld w 42 38
def s2Xd (w : Nat) : Nat := fld w 47 43
def s2Ds (w : Nat) : Nat := fld w 53 48
def s2Fn (w : Nat) : Nat := fld w 57 54
def s2Ec (w : Nat) : Nat := fld w 61 58
def s2Hi (w : Nat) : Nat := fld w 62 62

/-- The S3 fields (R112). -/
def s3Ds (w : Nat) : Nat := fld w 16 11
def s3Dt (w : Nat) : Nat := fld w 22 17
def s3Xl (w : Nat) : Nat := fld w 27 23
def s3Ec (w : Nat) : Nat := fld w 31 28
def s3Span (w : Nat) : Bool := bitOf w 32

/-- The rounding of RM 0 and 1. -/
def rmOf (rm : Nat) : RMode := if rm = 1 then .rtz else .rne

/-- Whether a format code names an MX format, and a packed 16-bit one. -/
def codeMx (c : Nat) : Bool := decide (3 ≤ c) && decide (c ≤ 8)
def codePacked (c : Nat) : Bool := c == 1 || c == 2

/-! ### Decode checks: ILLEGAL_OP (R99, Table 5.7, Table 5.12) -/

def s0Illegal (inRoutine : Bool) (w : Nat) : Bool :=
  let fn := s0Fn w
  let imm := s0Imm w
  match opc w with
  | 0x00 | 0x03 | 0x04 | 0x08 | 0x09 | 0x0A | 0x0B | 0x0D | 0x0F | 0x10 | 0x18 => false
  | 0x01 | 0x02 => decide (14 ≤ fn)
  | 0x05 => bitOf (s0Xd w) 4 || decide (6 ≤ fn % 8) || decide (16 ≤ fn)
  | 0x06 => bitOf (s0Xd w) 4 || bitOf (s0Xa w) 4 || bitOf (s0Xb w) 4 || decide (5 ≤ fn)
  | 0x0C => inRoutine || (bitOf fn 1 && !bitOf fn 0)
  | 0x0E => decide (16 ≤ fn) || decide (65536 ≤ imm)
  | 0x11 => decide (3 ≤ fn)
  | 0x12 | 0x13 => inRoutine
  | 0x14 => !inRoutine
  | 0x15 | 0x16 => decide (4 ≤ imm)
  | 0x17 => decide (9 ≤ imm)
  | _ => true

def s1Illegal (w : Nat) : Bool :=
  match opc w with
  | 0x00 => false
  | 0x01 | 0x02 => fld w 63 49 != 0
  | _ => true

/-- HI is used only by a VCVT that changes the element count (R111). -/
def hiAllowed (w : Nat) : Bool :=
  opc w == 6 && ((s2Fn w == 0 && codePacked (s2Fmt w)) || (codePacked (s2Fn w) && (s2Fmt w == 0 || codeMx (s2Fmt w))))

def s2Illegal (w : Nat) : Bool :=
  let fn := s2Fn w
  let common := bitOf w 63 || (s2Hi w == 1 && !hiAllowed w)
  match opc w with
  | 0x00 => false
  | 0x01 => common || decide (13 ≤ fn)
  | 0x02 | 0x03 | 0x06 | 0x07 | 0x08 => common
  | 0x04 => common || decide (3 ≤ fn)
  | 0x05 => common || decide (6 ≤ fn)
  | 0x09 => common || decide (2 ≤ fn)
  | _ => true

def s3Illegal (w : Nat) : Bool :=
  match opc w with
  | 0x00 => false
  | 0x01 => fld w 63 34 != 0
  | 0x02 => fld w 63 37 != 0
  | 0x03 => fld w 63 49 != 0
  | 0x04 => s3Span w || fld w 63 52 != 0
  | 0x05 | 0x06 => s3Span w || fld w 63 33 != 0
  | 0x07 => s3Span w
  | _ => true

/-- The TSQ decodes every slot whether or not it executes (R99). -/
def bundleIllegal (inRoutine : Bool) (b : Bundle) : Bool :=
  s0Illegal inRoutine (slotOf b 0) || s1Illegal (slotOf b 1) || s2Illegal (slotOf b 2) || s3Illegal (slotOf b 3)

/-! ### Destinations and sources (R97, R100) -/

/-- The register files named as destinations. -/
inductive RegName where
  | x (r : Nat)
  | d (r : Nat)
  | b (r : Nat)
  | v (r : Nat)
deriving DecidableEq, Repr

def slotDest (i w : Nat) : Option RegName :=
  match i, opc w with
  | 0, 0x01 | 0, 0x02 | 0, 0x03 | 0, 0x04 | 0, 0x16 | 0, 0x17 => some (.x (s0Xd w))
  | 0, 0x05 | 0, 0x06 => some (.b (s0Xd w % 16))
  | 0, 0x09 => some (.x (s0Xa w))
  | 0, 0x0A => some (.x 31)
  | 0, 0x15 => some (.d (s0Fn w))
  | 2, 0x04 => some (.x (s2Xd w))
  | 2, 0x06 => if codeMx (s2Fmt w) then some (.x (s2Xd w)) else some (.v (s2Vd w))
  | 2, 0x01 | 2, 0x02 | 2, 0x03 | 2, 0x05 | 2, 0x07 | 2, 0x09 => some (.v (s2Vd w))
  | 3, 0x05 => some (.d (s3Dt w))
  | _, _ => none

/-- Two executing slots of the bundle name one register as a destination (R100). -/
def Tile.slotConflict (x : Tile) (b : Bundle) : Bool :=
  let ds := (List.range 4).filterMap fun i => if x.live (slotOf b i) then slotDest i (slotOf b i) else none
  !decide ds.Nodup

/-- The scalar registers that a slot reads. -/
def slotSrcX (i w : Nat) : List Nat :=
  match i, opc w with
  | 0, 0x01 => [s0Xa w, s0Xb w]
  | 0, 0x02 | 0, 0x04 | 0, 0x09 | 0, 0x0B | 0, 0x0F | 0, 0x10 | 0, 0x15 => [s0Xa w]
  | 0, 0x05 => if bitOf (s0Fn w) 3 then [s0Xa w] else [s0Xa w, s0Xb w]
  | 0, 0x12 => [s0Xa w, s0Xb w]
  | 1, 0x01 => [s1Xq w]
  | 2, 0x03 | 2, 0x07 | 2, 0x08 => [s2Xa w]
  | 2, 0x06 => [s2Xa w, s2Xb w]
  | 2, 0x09 => if s2Fn w = 1 then [s2Xa w, s2Xb w, s2Xd w] else [s2Xa w, s2Xb w]
  | 3, 0x01 | 3, 0x02 | 3, 0x03 | 3, 0x04 | 3, 0x05 | 3, 0x06 | 3, 0x07 => [s3Xl w]
  | _, _ => []

/-- The vector registers that a slot reads; a cast that keeps half of its destination reads it. -/
def slotSrcV (i w : Nat) : List Nat :=
  match i, opc w with
  | 2, 0x01 => if s2Fn w = 5 || s2Fn w = 6 then [s2Va w] else if s2Fn w = 9 then [s2Va w, s2Vb w, s2Vc w]
      else [s2Va w, s2Vb w]
  | 2, 0x02 => [s2Va w, s2Vb w, s2Vc w]
  | 2, 0x04 | 2, 0x05 | 2, 0x08 => [s2Va w]
  | 2, 0x06 => if s2Fn w = 0 && codePacked (s2Fmt w) then [s2Va w, s2Vd w] else [s2Va w]
  | _, _ => []

/-- A source register of an executing slot waits for its result (R97); XQ is read for MX operands only. -/
def Tile.sourcePending (x : Tile) (b : Bundle) : Bool :=
  (List.range 4).any fun i =>
    let w := slotOf b i
    let xs := if i = 1 && !codeMx (Desc.ofBits (x.getD (s1Da w))).fmt.toNat then [] else slotSrcX i w
    x.live w && (xs.any (fun r => r != 0 && x.pend.any fun p => p.xd.any (·.1 == x.keyX r)) ||
      (slotSrcV i w).any fun r => x.pend.any fun p => p.vd.any (·.1 == r))

/-! ### S0 functions (Table 5.8) -/

def aluOp (fn : Nat) (a b : Dword) : Dword :=
  match fn with
  | 0 => a + b
  | 1 => a - b
  | 2 => a &&& b
  | 3 => a ||| b
  | 4 => a ^^^ b
  | 5 => a <<< (b.toNat % 64)
  | 6 => a >>> (b.toNat % 64)
  | 7 => a.sshiftRight (b.toNat % 64)
  | 8 => a * b
  | 9 => BitVec.ofNat 64 (a.toNat * b.toNat / 2 ^ 64)
  | 10 => if a.toInt < b.toInt then a else b
  | 11 => if a.toInt < b.toInt then b else a
  | 12 => if a.toNat < b.toNat then a else b
  | _ => if a.toNat < b.toNat then b else a

def cmpOp (fn : Nat) (a b : Dword) : Bool :=
  match fn % 8 with
  | 0 => a == b
  | 1 => a != b
  | 2 => decide (a.toInt < b.toInt)
  | 3 => decide (b.toInt ≤ a.toInt)
  | 4 => decide (a.toNat < b.toNat)
  | _ => decide (b.toNat ≤ a.toNat)

def plogOp (fn : Nat) (a b : Bool) : Bool :=
  match fn with
  | 0 => a && b
  | 1 => a || b
  | 2 => a != b
  | 3 => a && !b
  | _ => !a

/-- Word i of a descriptor. -/
def dWord (d : BitVec 256) (i : Nat) : Dword := d.extractLsb' (64 * i) 64
def setDWord (d : BitVec 256) (i : Nat) (v : Dword) : BitVec 256 :=
  BitVec.ofNat 256 (setFld d.toNat (64 * i + 63) (64 * i) v.toNat)

/-- The special values of MFS (Table 5.9). In a deferred routine taken after a close MFS 0 gives the closed frame's
P, as its F is that frame's (DESIGN CHOICE, log 178). -/
def State.special (s : State) (t i : Nat) : Dword :=
  let p := s.partOf t
  let x := s.tile t
  match i with
  | 0 => x.frameP.zeroExtend 64
  | 1 => x.frameF.zeroExtend 64
  | 2 => (s.stepOf p).zeroExtend 64
  | 3 => BitVec.ofNat 64 (s.relTile t)
  | 4 => BitVec.ofNat 64 (s.partSize p)
  | 5 => BitVec.ofNat 64 (s.cycles p)
  | 6 => x.frameTick
  | 7 => s.now
  | _ => s.self.zeroExtend 64

/-- PC plus a signed 32-bit offset. -/
def pcPlus (pc : Word) (imm : Nat) : Word := pc + BitVec.ofNat 32 imm

/-- Where a branch in S0 goes, from the registers as they stood before the bundle; `none` when it is not taken. -/
def Tile.branch (x : Tile) (w : Nat) : Option Word :=
  match opc w with
  | 0x08 | 0x0A => some (pcPlus x.pc (s0Imm w))
  | 0x09 => if x.getX (s0Xa w) - 1 = 0 then none else some (pcPlus x.pc (s0Imm w))
  | 0x0B => some ((x.getX (s0Xa w)).truncate 32)
  | _ => none

/-! ### Semaphores (R104, R106) -/

/-- The semaphore that SEMW and SEMS name: k. -/
def Tile.semK (x : Tile) (w : Nat) : Nat := ((x.getX (s0Xa w)).toNat + s0Imm w % 8192) % 8192

/-- The count of a tenant's semaphore k, and its place in the table. -/
def State.semPlace (s : State) (v k : Nat) : Nat := (s.tenant v).semBase + k
def State.semGet (s : State) (v k : Nat) : Word := Sparse.get 0 s.chan.sems (s.semPlace v k)
def State.semPut (s : State) (v k : Nat) (n : Word) : State :=
  { s with chan := { s.chan with sems := Sparse.set 0 s.chan.sems (s.semPlace v k) n } }

/-- Add to a semaphore, saturating at 2^32 − 1 (R104). -/
def State.semAdd (s : State) (v k n : Nat) : State :=
  s.semPut v k (BitVec.ofNat 32 (min ((s.semGet v k).toNat + n) (2 ^ 32 - 1)))

def State.semAllotted (s : State) (v k : Nat) : Bool := decide (k < (s.tenant v).semCnt)

/-- The bundle at a PC, from the lines of the instruction buffer. -/
def Tile.bundleAt (x : Tile) (pc : Word) : Option Bundle :=
  (Sparse.find x.lines (pc.toNat / 8)).map fun l =>
    let n := bytesToNat ((l.drop (pc.toNat % 8 * 32)).take 32)
    let w := fun i => BitVec.ofNat 64 (n / 2 ^ (64 * i))
    { s0 := w 0, s1 := w 1, s2 := w 2, s3 := w 3, errs := [] }

/-- A held SEMW of a tile on a semaphore: the n it waits for. -/
def State.heldSemw (s : State) (t v k : Nat) : Option Nat :=
  let x := s.tile t
  if x.held && s.tenantOf t == v then
    match x.bundleAt x.pc with
    | some b => let w := slotOf b 0
                if x.live w && opc w == 0x0F && x.semK w == k then some (s0Fn w + 1) else none
    | none => none
  else none

/-- SEMW waits: its count is not there, or a lower tile's held SEMW takes it first (R106). -/
def State.semWaits (s : State) (t : Nat) (x : Tile) (w : Nat) : Bool :=
  let v := s.tenantOf t
  let k := x.semK w
  let n := s0Fn w + 1
  let have' := (s.semGet v k).toNat
  decide (have' < n) || (List.range t).any fun u => match s.heldSemw u v k with
    | some m => decide (m ≤ have') && decide (have' < n + m)
    | none => false

/-- An unsatisfied wait in S0 holds the bundle (R100, R106). -/
def State.s0Waits (s : State) (t : Nat) (x : Tile) (w : Nat) : Bool :=
  match opc w with
  | 0x0D => decide (s.now.toNat < x.frameTick.toNat + s0Imm w)
  | 0x0E => decide ((x.getE (s0Fn w)).toNat < s0Imm w % 65536)
  | 0x0F => s.semAllotted (s.tenantOf t) (x.semK w) && s.semWaits t x w
  | _ => false

/-! ### Effects -/

/-- Run the oldest entry of the deferred queue: X30 of the deferred bank receives ARG, X31 zero (R116). -/
def Tile.takeEntry (x : Tile) (at' : TakenAt) (ret : Word) : Tile :=
  match x.queue with
  | [] => x
  | e :: q =>
    let x := { x with queue := q, pc := e.pc, routineSeq := x.routineSeq + 1,
                      routine := some { returnPc := ret, takenAt := at', returning := false, run := x.routineSeq } }
    let x := (x.setXKey 62 e.arg).setXKey 63 0
    x.openStream x.frameP (some (x.routineSeq - 1))

/-- The effect of an executing S0 slot, from the registers `x` as they stood before the bundle; the branch and the
deferred queue act after the bundle. -/
def State.s0Effect (s : State) (t : Nat) (x : Tile) (w : Nat) : State :=
  let a := x.getX (s0Xa w)
  let b := x.getX (s0Xb w)
  let setX := fun v => s.modTile t fun y => y.setX (s0Xd w) v
  match opc w with
  | 0x01 => setX (aluOp (s0Fn w) a b)
  | 0x02 => setX (aluOp (s0Fn w) a (s0Sext w))
  | 0x03 => setX (s0Sext w)
  | 0x04 => setX (BitVec.ofNat 64 (s0Imm w * 2 ^ 32 + a.toNat % 2 ^ 32))
  | 0x05 => s.modTile t fun y => y.setB (s0Xd w % 16) (cmpOp (s0Fn w) a (if bitOf (s0Fn w) 3 then s0Sext w else b))
  | 0x06 => s.modTile t fun y => y.setB (s0Xd w % 16) (plogOp (s0Fn w) (x.getB (s0Xa w % 16)) (x.getB (s0Xb w % 16)))
  | 0x09 => s.modTile t fun y => y.setX (s0Xa w) (a - 1)
  | 0x0A => s.modTile t fun y => y.setX 31 ((x.pc + 1).zeroExtend 64)
  | 0x0C => s.modTile t fun y =>
      { y with closing := some { decl := BitVec.ofNat 22 (s0Imm w), step := bitOf (s0Fn w) 0, last := bitOf (s0Fn w) 1 } }
  | 0x0E => s.modTile t fun y =>
      if s0Fn w = 0 then y else
      { y with e := Sparse.set 0 y.e (x.keyE (s0Fn w)) (x.getE (s0Fn w) - BitVec.ofNat 16 (s0Imm w)) }
  | 0x0F => s.semPut (s.tenantOf t) (x.semK w) (s.semGet (s.tenantOf t) (x.semK w) - BitVec.ofNat 32 (s0Fn w + 1))
  | 0x10 => s.semAdd (s.tenantOf t) (x.semK w) (s0Fn w + 1)
  | 0x11 => s.modTile t fun y =>
      { y with fence := some (match s0Fn w with
          | 0 => .tile
          | 1 => .chip
          | _ => .group (s0Imm w % 4096) none) }
  | 0x15 => s.modTile t fun y => y.setD (s0Fn w) (setDWord (x.getD (s0Fn w)) (s0Imm w % 4) a)
  | 0x16 => setX (dWord (x.getD (s0Fn w)) (s0Imm w % 4))
  | 0x17 => setX (s.special t (s0Imm w))
  | _ => s

/-- What DEFP, DEFD and RETD do to the flow, once the bundle's PC has moved on (R115, R116). -/
def Tile.s0Flow (y : Tile) (x : Tile) (w : Nat) : Tile :=
  match opc w with
  | 0x12 =>
    let e : DefEntry := { pc := pcPlus x.pc (s0Imm w), decl := (x.getX (s0Xa w)).truncate 22, arg := x.getX (s0Xb w) }
    if y.queue.length < 32 then { y with queue := y.queue ++ [e] } else y.takeEntry (.atDefp e) y.pc
  | 0x13 => y.takeEntry .atDefd y.pc
  | 0x14 => { y with routine := y.routine.map fun r => { r with returning := true } }
  | _ => y

end Sys2Proof.Machine
end

