-- ==== Sys2Proof/Machine/TileS1.lean ====
section
/-!
DEFINITION. The matrix instructions of S1 (03 R42-R45, 04 R75-R82, 05 R107-R109, 08 R165): operand checks, products,
drains, and the requests that an add-on-write sink forms (10 R234).
-/

namespace Sys2Proof.Machine

/-- K_blk of an operand format (Table 3.2). -/
def kBlk (f : Fmt) : Nat := match f with
  | .e2m1 => 512
  | .e4m3 | .e5m2 | .e3m2 | .e2m3 | .int8 => 256
  | _ => 128

/-- Bytes of a streamed row and of a stationary block, scales included (Table 3.2). -/
def rowBytes (f : Fmt) (k : Nat) : Nat := match f with
  | .b32 => 256
  | f => f.bytesFor k + (if f.isMx then k / 32 else 0)
def blockBytes (f : Fmt) (k : Nat) : Nat := match f with
  | .b32 => 32768
  | f => 128 * f.bytesFor k + (if f.isMx then 128 * k / 32 else 0)

/-- The reload time R of Table 3.3 for a pair at the slower format's block depth. -/
def reload (fa fb : Fmt) (k : Nat) : Nat :=
  let left := 1024 - rowBytes fa k
  (blockBytes fb k + left - 1) / left

/-- A matrix operation as decoded from its slot and descriptors: M, K, N, the units, the N-blocks. -/
structure MmaOp where
  drainOnly : Bool
  da : Desc
  db : Desc
  dc : Desc
  m : Nat
  k : Nat
  n : Nat
  units : List Nat
  sink : Nat
  acc : Bool
  half : Nat
  rm : Nat
  q : BitVec 16

def MmaOp.of (x : Tile) (w : Nat) : MmaOp :=
  let da := Desc.ofBits (x.getD (s1Da w))
  let db := Desc.ofBits (x.getD (s1Db w))
  let dc := Desc.ofBits (x.getD (s1Dc w))
  let drain := opc w == 2
  { drainOnly := drain, da := da, db := db, dc := dc, m := if drain then dc.rows else da.rows, k := da.cols,
    n := if drain then dc.cols else db.rows, units := (List.range 4).filter (bitOf (s1Umask w)), sink := s1Sink w,
    acc := s1Acc w && !drain, half := s1Half w, rm := s1Rm w, q := (x.getX (s1Xq w)).truncate 16 }

def MmaOp.nBlocks (o : MmaOp) : Nat := o.n / 128

/-- The unit of N-block j, and its halves: both when M > 128 (R107). -/
def MmaOp.unit (o : MmaOp) (j : Nat) : Nat := o.units.getD (j % o.units.length) 0
def MmaOp.halves (o : MmaOp) (j : Nat) : List Nat :=
  if 128 < o.m then [0, 1] else [(o.half + j / o.units.length) % 2]
/-- The first accumulator row that N-block j uses. -/
def MmaOp.row0 (o : MmaOp) (j : Nat) : Nat := if 128 < o.m then 0 else 128 * ((o.half + j / o.units.length) % 2)

/-- The (unit, half) pairs that the operation uses, by N-block. -/
def MmaOp.places (o : MmaOp) : List Nat :=
  (List.range o.nBlocks).flatMap fun j => (o.halves j).map fun h => o.unit j * 2 + h

def isMatrixFmt (c : BitVec 4) : Bool := decide (c.toNat ≤ 8)

/-- The path of an operand pair: 0 exact MX, 1 bfloat16 or binary16, 2 binary32. -/
def pathOf (c : BitVec 4) : BitVec 2 := if codeMx c.toNat then 0 else if c = 0 then 2 else 1

def MmaOp.tag (o : MmaOp) : AccTag := { path := pathOf o.da.fmt, q := if codeMx o.da.fmt.toNat then o.q else 0 }

/-- The extents that a drain writes: nothing for KEEP. -/
def MmaOp.drainExtents (o : MmaOp) : List (Nat × Nat) :=
  if o.sink = 0 then [] else
  let d := { o.dc with rows := o.m, cols := o.n }
  let d := if o.sink = 4 && o.dc.pop = 1 then { d with cols := o.dc.cols } else d
  d.extents

/-- DC as it is checked: a Prism sink's SPACE 3 as SPACE 1 (R132). -/
def MmaOp.dcSpace (o : MmaOp) : Desc := if o.sink = 4 && o.dc.space = 3 then { o.dc with space := 1 } else o.dc

/-- The extents checked for DC: its own (R102), and what the drain writes. -/
def MmaOp.dcExtents (o : MmaOp) : List (Nat × Nat) := o.dc.extents ++ o.drainExtents

/-- Whether a launch from tile t may name group g (R120). -/
def State.groupEntry (s : State) (g : Nat) : Nat := (Sparse.get 0 s.prism.groups g).toNat
def State.groupValid (s : State) (t g : Nat) : Bool :=
  bitOf (s.groupEntry g) 0 && fld (s.groupEntry g) 16 8 == s.tenantOf t

/-- NMEM + 1 of a group (Table 6.1). -/
def State.groupSize (s : State) (g : Nat) : Nat := fld (s.groupEntry g) 45 32 + 1

/-- The next SSEQ of a group and launcher (R123). -/
def launchKey (g launcher : Nat) : Nat := g * 65 + launcher
def State.nextSseq (s : State) (g launcher : Nat) : Nat := (Sparse.get 0 s.prism.sseqs (launchKey g launcher)).toNat

/-- The checks of R103 and R108 in their order. -/
def State.s1Check (s : State) (t : Nat) (x : Tile) (w : Nat) : Option Nat :=
  let o := MmaOp.of x w
  let fa := o.da.fmt
  let fb := o.db.fmt
  let fc := o.dc.fmt
  let mx := codeMx fa.toNat
  let ws := fc = 9 || fc = 10
  let descs := (if o.drainOnly then [] else [s.descCheck t o.da o.da.extents false false true,
      s.descCheck t o.db o.db.extents false false true]) ++ [s.descCheck t o.dcSpace o.dcExtents true false true]
  match descs.findSome? id with
  | some c => some c
  | none =>
    let kb := match Fmt.ofCode fa, Fmt.ofCode fb with
      | some a, some b => min (kBlk a) (kBlk b)
      | _, _ => 128
    let tagAt := fun (i : Nat) => Sparse.get none x.tags i
    let bad := [
      decide (256 < o.m),
      (!o.drainOnly && o.k % kb != 0) || o.n % 128 != 0 || (!o.drainOnly && o.da.cols != o.db.cols),
      o.units.isEmpty,
      !o.drainOnly && (o.da.space != 0 || o.db.space != 0),
      !o.drainOnly && (mx != codeMx fb.toNat || (fa = 1 && fb = 2) || (fa = 2 && fb = 1) || ((fa = 0 || fb = 0) && fa != fb)),
      (!o.drainOnly && (!isMatrixFmt fa || !isMatrixFmt fb)) || !(isMatrixFmt fc || ws) || decide (2 ≤ o.rm),
      match o.sink with
        | 0 | 1 => o.dc.space != 0
        | 2 | 3 => o.dc.space != 1
        | 4 => o.dc.space != 3
        | _ => true,
      o.sink == 3 && !(fc = 0 || ws),
      ws && !o.drainOnly && !mx,
      o.sink == 4 && !s.groupValid t o.dc.group,
      o.sink == 4 && (!(o.dc.pop = 0 || o.dc.pop = 1) || !(fc = 0 || fc = 1 || ws) ||
        (o.dc.pop = 1 && o.n != s.groupSize o.dc.group * o.dc.cols)),
      (o.acc || o.sink == 0) && decide (o.units.length < o.nBlocks),
      (o.acc || o.drainOnly) && o.places.any (fun i => tagAt i == none),
      (o.acc && o.places.any fun i => tagAt i != some o.tag) ||
        (o.drainOnly && ws && o.places.any fun i => match tagAt i with
          | some g => g.path != 0
          | none => true)]
    firstCode [(bad.any id, exMatrix),
      (o.sink == 4 && decide (2 ^ 24 ≤ s.nextSseq o.dc.group (s.relTile t) + 1), exMove)]

/-! ### Products (R107) -/

/-- Rows of an operand: element codes and, for an MX format, scale bytes. -/
structure RowData where
  codes : List Nat
  scales : List Nat

/-- Read the rows of an operand; the first uncorrectable word ends the read. -/
def State.readRows (s : State) (t : Nat) (d : Desc) (f : Fmt) (rows : Nat) : List RowData × Option Trouble × State :=
  let g := s.getAll t d ((List.range rows).map fun i => (d.base + i * d.stride, f.bytesFor d.cols))
  let sc := if f.isMx && g.bad.isNone then g.st.getBytes t d d.aux (rows * d.cols / 32) else ⟨[], none, g.st⟩
  match g.bad, sc.bad with
  | some x, _ => ([], some x, g.st)
  | none, some x => ([], some x, sc.st)
  | none, none =>
    let per := d.cols / 32
    let rowsB := chunks (f.bytesFor d.cols) g.bytes
    (rowsB.zipIdx.map fun (r, i) =>
      ⟨unpackElems f d.cols r, ((sc.bytes.drop (i * per)).take per).map (·.toNat)⟩, none, sc.st)

/-- An element of the binary paths widened to binary32. -/
def widen (f : Fmt) (c : Nat) : Word := toF32 .rne (f.toVal c)

/-- One accumulator entry after the products of a row of A with a row of B (R76, R81, R82). -/
def accProducts (fa fb : Fmt) (q : Int) (a b : RowData) (e : AccEntry) : AccEntry :=
  if fa.isMx then
    let sa := fun (i : Nat) => a.scales.getD (i / 32) 0x7F
    let sb := fun (i : Nat) => b.scales.getD (i / 32) 0x7F
    ((a.codes.zip b.codes).zipIdx).foldl (fun e (c, i) => e.mulAdd fa fb q c.1 (sa i) c.2 (sb i)) e
  else
    let blocks := (chunks 128 (a.codes.map (widen fa))).zip (chunks 128 (b.codes.map (widen fb)))
    blocks.foldl (fun e (x, y) => if fa == .b32 then e.addBlock32 x y else e.addBlock16 x y) e

/-- The key of an accumulator entry, and of its parity in `accBad`. -/
def accKey (u row col : Nat) : Nat := (u * 256 + row) * 128 + col
def accBadKey (t u row col : Nat) : Nat := t * 2 ^ 17 + accKey u row col

/-- A parity error of the tile's accumulators (R44). -/
def State.accPe (s : State) (t : Nat) : State := (s.setBit (Reg.tilTstat t) 17).faultTile t (s.tileRec t 0x02 0)

/-- The products of N-block j: every entry of rows 0 to M − 1; an accumulate-mode read of a faulty entry adds nothing
to it. Answers whether parity failed. -/
def State.mmaBlock (s : State) (t : Nat) (o : MmaOp) (fa fb : Fmt) (as bs : List RowData) (j : Nat) : Bool × State :=
  let u := o.unit j
  let r0 := o.row0 j
  let acc0 := (s.tile t).acc
  let cols := (bs.drop (128 * j)).take 128
  let entries := as.zipIdx.flatMap fun (a, i) => cols.zipIdx.map fun (b, c) =>
    let k := accKey u (r0 + i) c
    let bad := o.acc && s.mem.accBad.contains (accBadKey t u (r0 + i) c)
    let old : AccEntry := if o.acc then Sparse.get 0 acc0 k else 0
    (k, if bad then old else accProducts fa fb o.q.toInt a b old, bad)
  let acc1 := if o.acc then acc0 else (o.halves j).foldl (fun m h => Sparse.clear m (accKey u (128 * h) 0) (128 * 128)) acc0
  let acc2 := entries.foldl (fun m (k, e, _) => Sparse.set 0 m k e) acc1
  let tags := if o.acc then (s.tile t).tags else
    (o.halves j).foldl (fun m h => Sparse.set none m (u * 2 + h) (some o.tag)) (s.tile t).tags
  let s := s.modTile t fun x => { x with acc := acc2, tags := tags }
  let s := if o.acc then s else
    { s with mem := { s.mem with accBad := s.mem.accBad.filter fun b =>
        !((o.halves j).any fun h => decide (accBadKey t u (128 * h) 0 ≤ b) &&
          decide (b < accBadKey t u (128 * h) 0 + 128 * 128)) } }
  (entries.any fun (_, _, b) => b, s)

/-! ### Drains (R80, R71) -/

/-- One drained row of one N-block: its data bytes, its scale or side bytes, its values as written, and how many
entries had TRUNC set. -/
structure DrainRow where
  data : List Byte
  aux : List Byte
  vals : List (Val × Bool)
  trunc : Nat

/-- 128 entries of one row rounded to the output format (R80, R71). -/
def drainRow (fc : Fmt) (md : RMode) (tag : AccTag) (es : List AccEntry) : DrainRow :=
  let q := tag.q.toInt
  let tr := if tag.path = 0 then (es.filter (·.trunc)).length else 0
  if fc.isWs then
    let bs := (chunks 64 es).map (wsExport fc.bits q)
    ⟨bs.flatMap (·.bytes), bs.flatMap fun b => natToBytes 16 b.side.toNat,
     bs.flatMap fun b => (List.range 64).map fun i => (b.val i, false), tr⟩
  else
    let vs := es.map fun e => if tag.path = 0 then e.val q else Sys2Proof.Machine.f32 e.f32
    if fc.isMx then
      let cs := (chunks 32 vs).map (fc.castBlock fun _ => md)
      let codes := cs.flatMap (·.2)
      ⟨packElems fc (codes.map (·.1)), cs.map fun c => BitVec.ofNat 8 c.1,
       cs.flatMap fun c => c.2.map fun e => ((fc.toVal e.1).scaled c.1, e.2), tr⟩
    else
      let ws := vs.map (fc.ofVal md)
      ⟨packElems fc ws, [], ws.map fun x => (fc.toVal x, false), tr⟩

/-- The entries of a drained row, and whether one of them fails parity. -/
def State.drainEntries (s : State) (t : Nat) (o : MmaOp) (j i : Nat) : List AccEntry × Bool :=
  let u := o.unit j
  let r := o.row0 j + i
  (Sparse.range 0 (s.tile t).acc (accKey u r 0) 128,
   (List.range 128).any fun c => s.mem.accBad.contains (accBadKey t u r c))

/-- The rows of the drain in drain order, N-block by N-block; the first that fails parity ends it (R44). -/
def drainGo (s : State) (t : Nat) (o : MmaOp) (fc : Fmt) (md : RMode) :
    List (Nat × Nat) → List ((Nat × Nat) × DrainRow) × Bool
  | [] => ([], false)
  | (j, i) :: l =>
    let e := s.drainEntries t o j i
    if e.2 then ([], true) else
    let tag := (Sparse.get none (s.tile t).tags (o.unit j * 2 + (o.row0 j + i) / 128)).getD o.tag
    let r := drainGo s t o fc md l
    (((j, i), drainRow fc md tag e.1) :: r.1, r.2)

def MmaOp.blockRows (o : MmaOp) (j : Nat) : List (Nat × Nat) := (List.range o.m).map fun i => (j, i)
def MmaOp.drainOrder (o : MmaOp) : List (Nat × Nat) := (List.range o.nBlocks).flatMap o.blockRows

/-- Where a drained row's bytes and its scale or side bytes go. -/
def MmaOp.drainAt (o : MmaOp) (fc : Fmt) (j i : Nat) : Nat × Nat :=
  (o.dc.base + i * o.dc.stride + fc.bytesFor (128 * j),
   o.dc.aux + (if fc.isWs then (i * o.n + 128 * j) / 64 * 16 else (i * o.n + 128 * j) / 32))

/-- The rows in row order, for the digest and the statistics. -/
def rowOrder (m : Nat) (l : List ((Nat × Nat) × DrainRow)) : List DrainRow :=
  (List.range m).flatMap fun i => (l.filter (·.1.2 == i)).map (·.2)

/-- The digested bytes of a drain: row by row, then the scale or side array (R196). -/
def drainBytes (m : Nat) (l : List ((Nat × Nat) × DrainRow)) : List Byte :=
  let rs := rowOrder m l
  rs.flatMap (·.data) ++ rs.flatMap (·.aux)

/-- Add-on-write requests (Table 10.7): binary32 pieces within 256-byte lines (log 31), or one request per wide-sum
block. `fuel` bounds their count. -/
def State.aowPieces (s : State) (v : Nat) : Nat → Nat → List Byte → List AowReq
  | 0, _, _ => []
  | fuel + 1, a, b => if b.isEmpty then [] else
      let n := min b.length (256 - a % 256)
      { op := 0, da := ((s.tenAddrs v a n).getD []).headD 0, side := 0, data := b.take n, sideBytes := [],
        status := none } :: State.aowPieces s v fuel (a + n) (b.drop n)

/-- The block requests of consecutive wide-sum blocks. -/
def State.aowBlocks (s : State) (v w a aux : Nat) (data side : List Byte) : List AowReq :=
  ((chunks (8 * w) data).zip (chunks 16 side)).zipIdx.map fun ((d, x), i) =>
    { op := if w = 64 then 1 else 2, da := ((s.tenAddrs v (a + i * 8 * w) (8 * w)).getD []).headD 0,
      side := ((s.tenAddrs v (aux + 16 * i) 16).getD []).headD 0, data := d, sideBytes := x, status := none }

def MmaOp.aow (s : State) (t : Nat) (o : MmaOp) (fc : Fmt) (l : List ((Nat × Nat) × DrainRow)) : List AowReq :=
  l.flatMap fun ((j, i), r) =>
    let p := o.drainAt fc j i
    if fc.isWs then s.aowBlocks (s.tenantOf t) fc.bits p.1 p.2 r.data r.aux
    else s.aowPieces (s.tenantOf t) r.data.length p.1 r.data

/-! ### The issue limiter (17 R396) -/

/-- The unit-cycles of an operation: fill and reload included; a drain takes M cycles per N-block. -/
def MmaOp.unitCycles (o : MmaOp) : Nat :=
  if o.drainOnly then o.nBlocks * o.m else
  match Fmt.ofCode o.da.fmt, Fmt.ofCode o.db.fmt with
  | some fa, some fb =>
    let kb := min (kBlk fa) (kBlk fb)
    let passes := if fa == .b32 then 3 else 1
    let drain := if 128 < o.m && o.sink != 0 then o.m else 0
    o.nBlocks * (o.k / kb * passes * max o.m (reload fa fb kb) + drain) + 264 * min o.nBlocks o.units.length
  | _, _ => 0

/-- The allowance of a partition per tick interval (R396). -/
def allowance (env100 tiles period mhz : Nat) : Nat := (env100 * 100 - 1400) * tiles * period * 10 / mhz

/-- Draw unit-cycles from the partition's pool: what the pool lacks is held back to later intervals. -/
def State.drawCycles (s : State) (p n : Nat) : Nat × State :=
  let x := s.part p
  let short := n - min n x.allowLeft
  (short, s.modPart p fun x => { x with allowLeft := x.allowLeft - min n x.allowLeft,
                                        heldBack := x.heldBack + BitVec.ofNat 64 short })

/-! ### The whole operation -/

/-- The rows that a matrix operation drained, in drain order, and whether an entry failed parity. -/
abbrev Drained := List ((Nat × Nat) × DrainRow) × Bool

/-- Products and drains of N-blocks in turn, into format fc: a block is drained before a later one reuses its half (R107). -/
def mmaDrain (t : Nat) (o : MmaOp) (fa fb fc : Fmt) (as bs : List RowData) (s : State) : List Nat → Drained × State
  | [] => (([], false), s)
  | j :: js =>
    let q := s.mmaBlock t o fa fb as bs j
    let d := drainGo q.2 t o fc (rmOf o.rm) (o.blockRows j)
    if d.2 then (d, q.2) else
    let r := mmaDrain t o fa fb fc as bs q.2 js
    ((d.1 ++ r.1.1, r.1.2), r.2)

/-- Products of every N-block; whether an entry read in accumulate mode failed parity. -/
def State.mmaKeep (s : State) (t : Nat) (o : MmaOp) (fa fb : Fmt) (as bs : List RowData) : Bool × State :=
  (List.range o.nBlocks).foldl (fun (acc : Bool × State) j =>
    let q := acc.2.mmaBlock t o fa fb as bs j
    (acc.1 || q.1, q.2)) (false, s)

/-- What MMA computes, from operands read at issue: trouble that a read met, whether parity failed in the products, the rows
drained. In accumulate mode no half is used twice (R108), and no row is drained once parity has failed. -/
def State.mmaProducts (s : State) (t : Nat) (o : MmaOp) : Option Trouble × Bool × Drained × State :=
  match Fmt.ofCode o.da.fmt, Fmt.ofCode o.db.fmt with
  | some fa, some fb =>
    let a := s.readRows t o.da fa o.m
    match a.2.1 with
    | some x => (some x, false, ([], false), a.2.2)
    | none =>
      let b := a.2.2.readRows t o.db fb o.n
      match b.2.1, (if o.sink = 0 then none else Fmt.ofCode o.dc.fmt) with
      | some x, _ => (some x, false, ([], false), b.2.2)
      | none, none =>
        let r := b.2.2.mmaKeep t o fa fb a.1 b.1
        (none, r.1, ([], false), r.2)
      | none, some fc =>
        if o.acc then
          let r := b.2.2.mmaKeep t o fa fb a.1 b.1
          (none, r.1, if r.1 then ([], false) else drainGo r.2 t o fc (rmOf o.rm) o.drainOrder, r.2)
        else
          let r := mmaDrain t o fa fb fc a.1 b.1 b.2.2 (List.range o.nBlocks)
          (none, false, r.1, r.2)
  | _, _ => (none, false, ([], false), s)

/-- The rows of an MDRAIN. -/
def State.mdrainRows (s : State) (t : Nat) (o : MmaOp) : Drained :=
  match if o.sink = 0 then none else Fmt.ofCode o.dc.fmt with
  | none => ([], false)
  | some fc => drainGo s t o fc (rmOf o.rm) o.drainOrder

/-- The memory ranges of the operation for the interlock (R113). -/
def State.mmaReads (s : State) (t : Nat) (o : MmaOp) : List Span :=
  if o.drainOnly then [] else s.spans t o.da o.da.extents ++ s.spans t o.db o.db.extents
def State.mmaWrites (s : State) (t : Nat) (o : MmaOp) : List Span :=
  if o.sink = 4 then [] else s.spans t o.dc o.drainExtents

end Sys2Proof.Machine
end

