-- ==== Sys2Proof/Machine/PrismOps.lean ====
section
/-!
DEFINITION. The shared operations of Prism (06): group entries and member lists, the geometry of shards, sources and
destinations, ledger decisions, the anchor exchange, arrivals at an owner and at a member.
-/

namespace Sys2Proof.Machine

/-! ### Group entries and member lists (R120-R122, Tables 6.1 and 6.2) -/

def gPolicy (g : Nat) : Nat := fld g 2 1
def gFailCont (g : Nat) : Bool := bitOf g 3
def gWide (g : Nat) : Bool := bitOf g 4
def gPhases (g : Nat) : Nat := fld g 6 5 + 1
def gTenant (g : Nat) : Nat := fld g 16 8
def gNmem (g : Nat) : Nat := fld g 45 32
def gTag (g : Nat) : Nat := fld g 95 64
def gDeadline (g : Nat) : Nat := fld g 111 96
def gFailTicks (g : Nat) : Nat := fld g 127 112
def gStatusLog (g : Nat) : Nat := fld g 139 136
def gSlots (g : Nat) : Nat := fld g 151 144
def gStride (g : Nat) : Nat := fld g 191 160
def gStatusBase (g : Nat) : Nat := fld g 239 192
def gDeferBase (g : Nat) : Nat := fld g 303 256
def gFrom (g i : Nat) : Nat := fld g (351 + 32 * i) (320 + 32 * i)
def gList (g i : Nat) : Nat := fld g (495 + 64 * i) (448 + 64 * i)

/-- A tenant extent as bytes, when it lies in one Aperture and meets no uncorrectable word. -/
def State.tenBytes (s : State) (v a n : Nat) : Option (List Byte) :=
  match s.tenAddrs v a n with
  | some das => if das.any (fun d => s.mem.memBad.contains (d / 64)) then none else some (das.map s.devByte)
  | none => none

def natsOf (w : Nat) (l : List Byte) : List Nat := (chunks w l).map bytesToNat

/-- A member list as read: NMEM, members, slot rows, reduction order (none with ORDER_OFF = 0). -/
structure ListRead where
  nmem : Nat
  slotLen : Nat
  members : List Member
  slots : List Dword
  order : List Nat
deriving DecidableEq, Repr

/-- Read the list at a tenant address; `none` where a part of it cannot be read. -/
def State.readList (s : State) (v a : Nat) : Option ListRead :=
  match s.tenBytes v a 64 with
  | none => none
  | some h =>
    let hd := bytesToNat h
    let n := fld hd 13 0 + 1
    let slotLen := fld hd 63 32
    let slotOff := fld hd 95 64
    let orderOff := fld hd 127 96
    match s.tenBytes v (a + 0x40) (4 * n),
        (if slotLen = 0 then some [] else s.tenBytes v (a + slotOff) (8 * slotLen)),
        (if orderOff = 0 then some [] else s.tenBytes v (a + orderOff) (2 * n)) with
    | some rs, some sl, some od => some
      { nmem := n - 1, slotLen := slotLen,
        members := (natsOf 4 rs).map fun r =>
          { chip := BitVec.ofNat 14 r, bundle := BitVec.ofNat 6 (r / 2 ^ 16), sw := bitOf r 22 },
        slots := (natsOf 8 sl).map (BitVec.ofNat 64),
        order := natsOf 2 od }
    | _, _, _ => none

/-- Whether a bundle was configured at start-up (R299). -/
def State.bundleOk (s : State) (b : Nat) : Bool := (Sparse.get none s.net.bundles b).isSome

/-- The partitions in scheduled mode that a tenant may use. -/
def State.scheduled (s : State) (p : Nat) : Bool := s.rdBit Reg.prmPartStatus p
def State.scheduledFor (s : State) (v : Nat) : Bool :=
  s.partList.any fun p => s.scheduled p && (s.tenant v).parts.getLsbD p

/-- Whether a list passes the LIST_INVALID checks of R121. -/
def State.listOk (s : State) (g : Nat) (l : ListRead) : Bool :=
  l.nmem == gNmem g && ((l.members.filter (·.chip == s.self)).length == 1) && decide ((l.members.map (·.chip)).Nodup) &&
  (l.members.all fun m => if m.chip == s.self then m.bundle == 0x3F else m.bundle != 0x3F && s.bundleOk m.bundle.toNat) &&
  !(s.scheduledFor (gTenant g) && l.slotLen == 0) &&
  (l.slots.all fun r => !bitOf r.toNat 0 && !bitOf r.toNat 63) &&
  (l.order.isEmpty || (List.range (l.nmem + 1)).all fun i => l.order.contains i)

/-- What the reads of a list leave beside its bytes (R221, R223). -/
def State.meetList (s : State) (v a : Nat) : State :=
  let hd := s.tenNat v a 64
  let s := (s.meet v a 64).meet v (a + 0x40) (4 * (fld hd 13 0 + 1))
  let s := if fld hd 63 32 = 0 then s else s.meet v (a + fld hd 95 64) (8 * fld hd 63 32)
  if fld hd 127 96 = 0 then s else s.meet v (a + fld hd 127 96) (2 * (fld hd 13 0 + 1))

/-- MB of R142. -/
def maskBytes (n : Nat) : Nat := (n + 511) / 512 * 64

/-- RESULT and ERR_OFF of a commit (R121): 0 when it is accepted. With several checks failing the first of this list is named, and
ERR_OFF is 0 for IN_FLIGHT (DESIGN CHOICE, log 179). -/
def State.groupCheck (s : State) (g : Nat) (inFlight : Bool) : Nat × Nat :=
  let phases := List.range (gPhases g)
  let lists := phases.map fun i => s.readList (gTenant g) (gList g i)
  let v := gTenant g
  let n := gNmem g + 1
  let checks : List (Bool × Nat × Nat) :=
    [(inFlight, 1, 0),
     (bitOf g 7 || fld g 31 17 != 0 || gPolicy g == 3, 2, 0), (fld g 1023 704 != 0, 2, 0x58),
     (gTag g == 0, 2, 8),
     (decide (gStatusLog g < 4) || decide (12 < gStatusLog g), 2, 0x10), (gStride g % 4096 != 0, 2, 0x14),
     ((gPolicy g == 1 || gPolicy g == 2) && gDeadline g == 0, 2, 0xC),
     (gFailTicks g != 0 && decide (gFailTicks g ≤ gDeadline g), 2, 0xE),
     (gStatusBase g % 4096 != 0, 2, 0x18), (gDeferBase g % 4096 != 0, 2, 0x20)] ++
    (phases.map fun i => (gList g i % 256 != 0, 2, 0x38 + 8 * i)) ++
    [(gFrom g 0 != 0, 2, 0x28)] ++
    (phases.map fun i => (i != 0 && decide (gFrom g i ≤ gFrom g (i - 1)), 2, 0x28 + 4 * i)) ++
    (lists.mapIdx fun i l => (match l with
      | some r => (!s.listOk g r, 3, 0x38 + 8 * i)
      | none => (true, 5, 0x38 + 8 * i))) ++
    [(!s.aptAllows v (gStatusBase g) (65 * 2 ^ gStatusLog g * (64 + maskBytes n)) true false, 5, 0x18),
     (gSlots g != 0 && !s.aptAllows v (gDeferBase g) (65 * gSlots g * gStride g) true false, 5, 0x20)]
  match checks.find? (·.1) with
  | some c => c.2
  | none => (0, 0)

/-- Whether a collective of a group is in flight (R121). -/
def State.groupBusy (s : State) (g : Nat) : Bool :=
  s.prism.colls.any (fun c => c.group == g && !c.finished) || s.prism.queue.any (·.group == g)

/-- A commit of a group (item 5) or ring (item 6) of tenant v changes that fingerprint item of its jobs (R190). -/
def State.markItems (s : State) (v item : Nat) : State :=
  (List.range 8).foldl (fun s p =>
    if (s.part p).job.any (·.tenant == v) then
      s.modPart p fun x => { x with led := x.led.map fun l => { l with changed := dedup (l.changed ++ [item]) } }
    else s) s

/-- An entry goes into force. -/
def State.putGroup (s : State) (i : Nat) (e : BitVec 1024) : State :=
  { s with prism := { s.prism with groups := Sparse.set 0 s.prism.groups i e } }.markItems (gTenant e.toNat) 5

/-- Write an accepted entry: at once when none of the tenant's partitions runs frames, else at the next frame boundary. -/
def State.setGroup (s : State) (i : Nat) (e : BitVec 1024) : State :=
  let v := gTenant e.toNat
  if s.partList.any fun p => (s.part p).running && (s.part p).onTiles == some v then
    { s with prism := { s.prism with next := s.prism.next.filter (·.1 != i) ++ [(i, e)] } }
  else s.putGroup i e

/-- Commits whose frame boundary has come: those of the tenant whose frames run on partition p. -/
def State.applyGroups (s : State) (p : Nat) : State :=
  let mine := fun (e : Nat × BitVec 1024) => (s.part p).onTiles == some (gTenant e.2.toNat)
  (s.prism.next.filter mine).foldl (fun s e => s.putGroup e.1 e.2)
    { s with prism := { s.prism with next := s.prism.next.filter (!mine ·) } }

/-! ### Collectives -/

def Coll.n (c : Coll) : Nat := c.members.length
/-- The group entry of the launch: a later commit applies to later launches (R121). -/
def Coll.entry (c : Coll) : Nat := c.words.toNat
/-- The operations that reduce: all-reduce and reduce-scatter. -/
def Coll.reduces (c : Coll) : Bool := c.pop = 0 || c.pop = 1
def Coll.ouu (c : Coll) : Bool := c.tile == 64
/-- The die whose engine serves a collective: the launching tile's, die 0 for the optimiser (R119). -/
def Coll.die (c : Coll) : Nat := if c.ouu then 0 else c.tile / 16
/-- The tile whose tenant memory Prism uses for a collective, and that a bad write faults. -/
def Coll.seat (c : Coll) : Nat := if c.ouu then 8 * c.part else c.tile
/-- Whether the source bytes are held in the collective. -/
def Coll.inline (c : Coll) : Bool := c.fused || c.ouu
def Coll.srcFmt (c : Coll) : Fmt := (Fmt.ofCode c.sfmt).getD .bytes
def Coll.dstFmt (c : Coll) : Fmt := (Fmt.ofCode c.dfmt).getD .bytes
/-- Whether shards travel as wide sums (Table 6.4): `width` is 64 or 128 then, and 0 otherwise. -/
def Coll.wide (c : Coll) : Bool := c.width != 0
def Coll.exact (c : Coll) : Bool := c.dstFmt.isWs

def State.findColl (s : State) (id : CollId) : Option Coll := s.prism.colls.find? (·.id == id)
def State.setColl (s : State) (c : Coll) : State :=
  { s with prism := { s.prism with colls := s.prism.colls.map fun d => if d.id == c.id then c else d } }
/-- The collective that a kept arrival belongs to. -/
def earlyId : Instr → Option CollId
  | .contribHeader id _ _ => some id
  | .mismatchNotice id => some id
  | .anchorEc id _ _ _ => some id
  | .contribution id _ _ _ => some id
  | .shardResult id _ _ _ _ => some id
  | .countExchange id _ _ => some id
  | .capacityNotice id => some id
  | _ => none

/-- A collective is forgotten, with the arrivals still kept for it. -/
def State.dropColl (s : State) (id : CollId) : State :=
  { s with prism := { s.prism with colls := s.prism.colls.filter (·.id != id),
                                   early := s.prism.early.filter fun i => earlyId i != some id } }
def State.modColl (s : State) (id : CollId) (f : Coll → Coll) : State :=
  match s.findColl id with
  | some c => s.setColl (f c)
  | none => s

/-! ### Shards (R127, R132) -/

/-- A run of consecutive elements: first source element, first destination element, count. -/
structure Run where
  src : Nat
  dst : Nat
  cnt : Nat
deriving DecidableEq, Repr

/-- The runs of rank j's shard, in its element order; its blocks come in one contribution of each member (DESIGN CHOICE, log 181). -/
def Coll.runs (c : Coll) (j : Nat) : List Run :=
  if c.fused then
    let per := c.cols / 128
    let local' := per / c.n
    let blocks := (List.range per).filter fun b => if c.pop = 0 then b % c.n == j else b / max 1 local' == j
    blocks.flatMap fun b => (List.range c.rows).map fun r =>
      if c.pop = 0 then ⟨r * c.cols + 128 * b, r * c.cols + 128 * b, 128⟩
      else ⟨r * c.cols + 128 * b, r * (c.cols / c.n) + 128 * (b - j * local'), 128⟩
  else if c.pop = 0 then
    let size := (c.xl + 64 * c.n - 1) / (64 * c.n) * 64
    let lo := j * size
    let hi := min ((j + 1) * size) c.xl
    if lo < hi then [⟨lo, lo, hi - lo⟩] else []
  else if c.xl = 0 then [] else [⟨j * c.xl, 0, c.xl⟩]

def Coll.shardLen (c : Coll) (j : Nat) : Nat := (c.runs j).foldl (fun n r => n + r.cnt) 0

/-- The bytes of the collective's source or destination array from an element on. -/
def elemBytes (f : Fmt) (first n : Nat) : Nat × Nat := (first * f.bits / 8, f.bytesFor n)

/-- Raw source bytes of a run, with its scale or side bytes. -/
def State.collRun (s : State) (c : Coll) (r : Run) : GetOut × List Byte :=
  let f := c.srcFmt
  let d := Desc.ofBits c.ds
  let p := elemBytes f r.src r.cnt
  let au := auxBytes c.sfmt r.cnt
  let ao := if f.isMx then r.src / 32 else r.src / 64 * 16
  if c.inline then (⟨(c.source.drop p.1).take p.2, none, s⟩, (c.sourceSide.drop ao).take au)
  else
    let g := s.getBytes c.tile d (d.base + p.1) p.2
    if g.bad.isSome || au = 0 then (g, []) else
    let a := g.st.getBytes c.tile d (d.aux + ao) au
    (⟨g.bytes, a.bad, a.st⟩, a.bytes)

/-- The source of several runs: data and scale or side bytes. -/
def State.collSource (s : State) (c : Coll) : List Run → GetOut × List Byte
  | [] => (⟨[], none, s⟩, [])
  | r :: l =>
    let g := s.collRun c r
    if g.1.bad.isSome then g else
    let q := State.collSource g.1.st c l
    (⟨g.1.bytes ++ q.1.bytes, q.1.bad, q.1.st⟩, g.2 ++ q.2)

/-- The values of a shard's source, in 64-element blocks. -/
def Coll.sourceVals (c : Coll) (n : Nat) (data side : List Byte) : List (List Val) :=
  chunks 64 (arrayVals c.srcFmt n data side)

/-- Wide-sum blocks of a source that already is one. -/
def wsBlocks (w : Nat) (data side : List Byte) : List WsBlock :=
  (chunks (8 * w) data).zipIdx.map fun (d, i) =>
    WsBlock.ofBytes w d (BitVec.ofNat 128 (bytesToNat ((side.drop (16 * i)).take 16)))

/-- The block of a deferred sum shifted to the agreed anchor: truncating to the right, exact to the left (R129). -/
def WsBlock.shiftTo (b : WsBlock) (a : BitVec 16) : WsBlock :=
  if sideAnchor b.side = wsEmpty || a = wsEmpty then
    { b with xs := b.ints, side := mkSide a (sideNan b.side) (sidePinf b.side) (sideNinf b.side) (sideClamp b.side)
               (b.side.extractLsb' 64 64) }
  else
    let k := a.toInt - (sideAnchor b.side).toInt
    let move := fun (x : Nat) =>
      let n := signedW b.w x
      let m := if k ≥ 0 then Int.tdiv n ((2 ^ k.toNat : Nat) : Int) else n * ((2 ^ (-k).toNat : Nat) : Int)
      wrapW b.w m
    ⟨b.w, b.xs.map move, mkSide a (sideNan b.side) (sidePinf b.side) (sideNinf b.side) (sideClamp b.side)
      (b.side.extractLsb' 64 64)⟩

/-- ec of each block of a source (R85). -/
def Coll.ecsOf (c : Coll) (n : Nat) (data side : List Byte) : List (BitVec 16) := (c.sourceVals n data side).map ecOf

/-- A source shard converted against its blocks' anchors (R86, R129). -/
def Coll.convertShard (c : Coll) (n : Nat) (data side : List Byte) (anchors : List (BitVec 16)) : List WsBlock :=
  if c.srcFmt.isWs then (wsBlocks c.width data side).mapIdx fun i b => b.convertTo (anchors.getD i wsEmpty) (headroom c.n)
  else (c.sourceVals n data side).mapIdx fun i vs =>
    wsConvert c.width (anchors.getD i wsEmpty) (some (headroom c.n)) vs

/-- Data and side bytes of blocks; the last block keeps only the shard's elements. -/
def blockData (n : Nat) (bs : List WsBlock) : List Byte × List Byte :=
  let w := (bs.headD ⟨64, [], 0⟩).w
  ((bs.flatMap (·.bytes)).take (n * w / 8), bs.flatMap fun b => natToBytes 16 b.side.toNat)

/-! ### Ledger decisions (R139, R194) -/

/-- Add a decision entry; the excess above 4,096 is not recorded (Table 9.6). -/
def State.decide' (s : State) (p : Nat) (d : Decision) : State :=
  s.modPart p fun x =>
    if x.decisions.length < 4096 then { x with decisions := x.decisions ++ [d] } else { x with decOvf := true }

/-- A decision of this chip, as owner `c.rank`, about a member. -/
def State.decideColl (s : State) (c : Coll) (member : Nat) (kind : BitVec 4) (late : Word) (slot : BitVec 40) : State :=
  s.decide' c.part { tag := c.id.tag, sseq := c.sseq, launcher := c.id.launcher, member := member, owner := c.rank,
                     kind := kind, lateness := late, slotStep := slot, gtc := s.now }

/-- The decision entries of a record (Table 9.4, Table 9.7). -/
def recordDecisions (r : List Byte) : List Nat :=
  let n := bytesToNat ((r.drop 0x64).take 2)
  (List.range n).map fun i => bytesToNat ((r.drop (256 + 32 * i)).take 32)

/-- The source record of a partition's step under ledger replay. -/
def State.replaySource (s : State) (p : Nat) : Option (List Byte) :=
  match (s.part p).led with
  | some l => l.source
  | none => none

/-- The KIND, among some, that a record holds for a member at this owner in this launch. -/
def Coll.recorded (c : Coll) (r : List Byte) (member : Nat) (kinds : List Nat) : Option Nat :=
  ((recordDecisions r).find? fun d =>
    fld d 31 0 == c.id.tag.toNat && fld d 55 32 == c.sseq.toNat && fld d 62 56 == c.id.launcher.val &&
    fld d 77 64 == member && fld d 93 80 == c.rank && kinds.contains (fld d 99 96)).map fun d => fld d 99 96

/-- What the source says of a member at this owner: the KIND, `none` when it was on time (R140). A step's record holds TOO_LATE for
the step before, whose contribution came after this step's launch (R138): that one the record of the step itself calls deferred. -/
def State.forced (s : State) (c : Coll) (member : Nat) : Option Nat :=
  match (s.part c.part).led with
  | none => none
  | some l =>
    match l.source.bind fun r => c.recorded r member [0, 1, 2, 5, 6] with
    | some 0 => if (l.sourceNext.bind fun r => c.recorded r member [3]).isSome then some 3 else some 0
    | k => k

/-- What a replayed launch is forced to, rank by rank. -/
def State.forcedList (s : State) (c : Coll) : List (Nat × Nat) :=
  if !c.reduces then [] else (List.range c.n).filterMap fun r => (s.forced c r).map fun k => (r, k)
def Coll.forcedKind (c : Coll) (r : Nat) : Option Nat := (c.forcedAs.find? (·.1 == r)).map (·.2)

/-- Whether the record has an entry for this launch that cannot belong to it. -/
def State.launchDiverges (s : State) (c : Coll) : Bool :=
  match s.replaySource c.part with
  | none => false
  | some r => (recordDecisions r).any fun d =>
      fld d 31 0 == c.id.tag.toNat && fld d 55 32 == c.sseq.toNat && fld d 62 56 == c.id.launcher.val &&
      (decide (c.n ≤ fld d 93 80) || decide (c.n ≤ fld d 77 64) || (!c.reduces && decide (fld d 99 96 < 5)))

/-! ### Failing a collective -/

/-- A status code other than OK or RESOLVED ends the collective; it completes by COLLECTIVE_COMPLETE (Table 6.6). -/
def State.failColl (s : State) (c : Coll) (code : BitVec 8) : State :=
  if c.code ≠ 0 ∨ c.finished then s else
  let s := s.setColl { c with code := code }
  match code.toNat with
  | 0x14 => s.setBit Reg.prmEvent 5
  | 0x15 => s.setBit Reg.prmEvent 6
  | _ => s

/-- Notify every other member, on VL0 (R119). -/
def State.toMembers (s : State) (c : Coll) (kind : String) (args : List Nat) : State :=
  (c.members.filter (·.chip != s.self)).foldl (fun s m =>
    s.emit (.toChip m.chip kind ([c.id.tag.toNat, c.id.launcher.val, c.id.seq.toNat] ++ args))) s

/-- Payload, an anchor message or a launch header to one member, on VL1 (R119); a halted chip injects none (R334). -/
def State.toRank (s : State) (c : Coll) (r : Nat) (kind : String) (args : List Nat) (data side : List Byte) : State :=
  match c.members[r]? with
  | some m => if s.halted then s else (s.emit (.payload m.chip m.bundle.toNat c.id kind args data side)).pmcPrism c.die 0xC3
      ((data.length + side.length + 63) / 64)
  | none => s

/-! ### Deferred contributions (R138) -/

/-- The address of a defer slot. -/
def Coll.slotAt (c : Coll) (g : Nat) : Nat := gDeferBase g + (c.id.launcher.val * gSlots g + c.sseq.toNat) * gStride g

/-- Bytes of a shard in a slot: binary32 data, or wide-sum data and its side entries. -/
def Coll.slotLen (c : Coll) : Nat × Nat :=
  let n := c.shardLen c.rank
  if c.wide then (n * c.width / 8, (n + 63) / 64 * 16) else (n * 4, 0)

def Coll.noRoom (c : Coll) (g : Nat) : Bool :=
  decide (gSlots g ≤ c.sseq.toNat) || decide (gStride g < 64 + c.slotLen.1 + c.slotLen.2)

/-- The 64-byte header: TAG, formats, XL and STEP; the spec gives no layout (log 32). -/
def Coll.header (c : Coll) (step : Nat) : List Byte :=
  natToBytes 64 (packFields [(0, 32, c.id.tag.toNat), (32, 4, c.sfmt.toNat), (36, 4, c.dfmt.toNat),
    (64, 64, c.xl), (128, 40, step)])

/-- A descriptor that names tenant addresses. -/
def tenDesc (a : Nat) : Desc := { Desc.ofBits (BitVec.ofNat 256 (2 ^ 48)) with base := a }

/-- The slot's header: its bytes, as a number. -/
def State.slotHeader (s : State) (c : Coll) : Nat :=
  let g := c.entry
  if c.noRoom g then 0 else s.tenNat (gTenant g) (c.slotAt g) 64

def headerTag (h : Nat) : Nat := fld h 31 0
def headerStep (h : Nat) : Nat := fld h 167 128

/-- Whether a header names a step with this collective's TAG, XL and formats. -/
def Coll.headerMatches (c : Coll) (h step : Nat) : Bool := natToBytes 64 h == c.header step

/-- The deferred sum that a slot holds for this collective: of the step before, with equal TAG, XL and formats. -/
def State.slotSum (s : State) (c : Coll) : Option (List Byte × List Byte) :=
  let g := c.entry
  if gPolicy g == 1 && !c.noRoom g && c.headerMatches (s.slotHeader c) (c.step.toNat - 1) && c.step != 0 then
    match s.tenBytes (gTenant g) (c.slotAt g + 64) c.slotLen.1,
        s.tenBytes (gTenant g) (c.slotAt g + 64 + c.slotLen.1) c.slotLen.2 with
    | some d, some x => some (d, x)
    | _, _ => none
  else none

/-- Words of binary32 data. -/
def words32 (l : List Byte) : List Word := (natsOf 4 l).map (BitVec.ofNat 32)
def bytes32 (l : List Word) : List Byte := l.flatMap fun w => natToBytes 4 w.toNat

/-- A contribution in the binary path widened to binary32. -/
def Coll.asF32 (c : Coll) (n : Nat) (data : List Byte) : List Word :=
  (unpackElems c.srcFmt n data).map fun x => toF32 .rne (c.srcFmt.toVal x)

/-- The owner reads the slot, its header and, where that names the step, its sum: what it meets there (R223). -/
def State.slotMeet (s : State) (c : Coll) (step : Nat) : Option Trouble × State :=
  let at' := c.slotAt c.entry
  let sum := if c.headerMatches (s.slotHeader c) step then c.slotLen.1 + c.slotLen.2 else 0
  let r := s.getBytes c.seat (tenDesc at') at' (64 + sum)
  (r.bad, r.st)

/-- Store a late contribution in the slot of this step (R138): a fresh header, or added into the slot's sum. A wide sum's side
entries follow its data (DESIGN CHOICE, log 180). -/
def State.slotStore (s : State) (c : Coll) (data side : List Byte) : State :=
  let g := c.entry
  let v := gTenant g
  let m := s.slotMeet c c.step.toNat
  match m.1 with
  | some b => m.2.trouble c.seat b
  | none =>
  let s := m.2
  let h := s.slotHeader c
  let at' := c.slotAt g
  let n := c.shardLen c.rank
  let mine := if c.wide then (data, side) else (bytes32 (c.asF32 n data), [])
  let old := if c.headerMatches h c.step.toNat then
      match s.tenBytes v (at' + 64) c.slotLen.1, s.tenBytes v (at' + 64 + c.slotLen.1) c.slotLen.2 with
      | some d, some x => some (d, x)
      | _, _ => none
    else none
  let s := if headerTag h != 0 && !c.headerMatches h c.step.toNat then
      s.decideColl c c.rank 4 0 (BitVec.ofNat 40 (headerStep h)) else s
  let sum := match old with
    | none => mine
    | some o =>
      if c.wide then blockData n (List.zipWith WsBlock.join (wsBlocks c.width o.1 o.2) (wsBlocks c.width mine.1 mine.2))
      else (bytes32 (List.zipWith addF32 (words32 o.1) (words32 mine.1)), [])
  let d := tenDesc at'
  let r := s.unitPut c.seat d [(at', c.header c.step.toNat), (at' + 64, sum.1), (at' + 64 + c.slotLen.1, sum.2)]
  match r.1 with
  | some b => r.2.trouble c.seat b
  | none => r.2

/-- The check before a shard completes (R138): STALE content is recorded, and the header is cleared. -/
def State.slotCheck (s : State) (c : Coll) : Option Trouble × State :=
  let g := c.entry
  if gPolicy g != 1 || c.noRoom g then (none, s) else
  let h := s.slotHeader c
  let sum := s.slotSum c
  let m := s.slotMeet c (c.step.toNat - 1)
  if m.1.isSome || headerTag h == 0 then m else
  let s := if sum.isSome then m.2 else m.2.decideColl c c.rank 4 0 (BitVec.ofNat 40 (headerStep h))
  s.unitPut c.seat (tenDesc (c.slotAt g)) [(c.slotAt g, List.replicate 64 0)]

/-! ### Anchors (R129) -/

/-- The ranks whose contributions an owner waits for. -/
def Coll.expected (c : Coll) : List Nat := (List.range c.n).filter fun r => !c.late.contains r && !c.failed.contains r

/-- Blocks of the shard that this chip owns. -/
def Coll.blocks (c : Coll) (j : Nat) : Nat := (c.shardLen j + 63) / 64

/-- ec values that an owner holds for a block. A member whose contribution a replayed record calls late gives none (R202). -/
def Coll.ecsAt (c : Coll) (b : Nat) : List (Nat × BitVec 16) :=
  (c.ecs.filter fun e => e.2.1 == b && (c.forcedKind e.1).isNone).map fun e => (e.1, e.2.2)

/-- Whether an owner holds every ec that block b waits for. -/
def Coll.ecReady (c : Coll) (b : Nat) : Bool := c.expected.all fun r => (c.ecsAt b).any (·.1 == r)

/-- ec of the deferred sum's block b. -/
def State.slotEc (s : State) (c : Coll) (b : Nat) : List (BitVec 16) :=
  match s.slotSum c with
  | some (d, x) => match (wsBlocks c.width d x)[b]? with
    | some k => [ecOf ((List.range 64).map k.val)]
    | none => []
  | none => []

/-- Form the anchor of each block that is ready and has none, and reply to its contributors. -/
def State.formAnchors (s : State) (id : CollId) : State :=
  match s.findColl id with
  | none => s
  | some c =>
    if !c.wide || c.fixedAnchor || c.code != 0 then s else
    ((List.range (c.blocks c.rank)).filter fun b => c.ecReady b && !c.anchors.any (·.1 == b)).foldl (fun s b =>
      let a := anchorOf c.n ((c.ecsAt b).map (·.2) ++ s.slotEc c b)
      let s := s.modColl id fun c => { c with anchors := c.anchors ++ [(b, a)] }
      ((c.ecsAt b).filter (·.1 != c.rank)).foldl (fun s e =>
        (s.toRank c e.1 "ANCHOR" [b, a.toNat] [] []).pmcPrism c.die 0xC4 1) s) s

/-! ### Writing results (R127, R142) -/

/-- Write a shard, or a piece, at its runs in the destination; data and scale or side bytes follow the runs' order. -/
def State.writeRuns (s : State) (c : Coll) (rs : List Run) (data side : List Byte) : Option Trouble × State × List (Nat × List Byte) :=
  let f := c.dstFmt
  let d := Desc.ofBits c.dt
  let d := if c.fused then { d with space := 1 } else d
  let width := if c.pop = 0 then c.cols else c.cols / c.n
  let addr := fun (e : Nat) => if c.fused then d.base + e / width * d.stride + (e % width) * f.bits / 8
    else d.base + e * f.bits / 8
  let aux := fun (e : Nat) => d.aux + (if f.isMx then e / 32 else e / 64 * 16)
  let segs := (rs.foldl (fun (acc : List (Nat × List Byte) × List Byte × List Byte) r =>
    let nb := f.bytesFor r.cnt
    let na := auxBytes c.dfmt r.cnt
    (acc.1 ++ [(addr r.dst, acc.2.1.take nb)] ++ (if na = 0 then [] else [(2 ^ 60 + aux r.dst, acc.2.2.take na)]),
     acc.2.1.drop nb, acc.2.2.drop na)) ([], data, side)).1
  let r := s.unitPut c.tile d (segs.map fun e => (e.1 % 2 ^ 60, e.2))
  (r.1, r.2, segs)

/-- Prism writes destination elements: into memory, into the digest part, into the Loupe statistics (R142, R201). -/
def State.deliver (s : State) (c : Coll) (rs : List Run) (data side : List Byte) : State :=
  if c.ouu then s else
  let r := s.writeRuns c rs data side
  match r.1 with
  | some b => r.2.1.trouble c.tile b
  | none =>
    let s := r.2.1.modColl c.id fun c =>
      { c with written := r.2.2.foldl (fun m e => Sparse.put m e.1 e.2) c.written }
    let d := Desc.ofBits c.dt
    let n := rs.foldl (fun n r => n + r.cnt) 0
    if d.le && c.dstFmt != .bytes then
      s.report (unitPrism (c.tile / 16)) c.part d.loupe ((arrayVals c.dstFmt n data side).map (·, false))
    else s

/-- The anchor of block b, where it has been formed. -/
def Coll.anchorFor (c : Coll) (b : Nat) (d : BitVec 16) : BitVec 16 := match c.anchors.find? (·.1 == b) with
  | some e => e.2
  | none => d

/-! ### The owner's arithmetic (Table 6.4) -/

/-- A shard's data, its side bytes, and the anchor conflict of fixed-anchor blocks (R130). -/
structure Reduced where
  data : List Byte
  side : List Byte
  conflict : Bool

/-- The binary32 sums of the binary path: the deferred sum first, then each contribution in order. -/
def sumF32 (deferred : Option (List Word)) (ls : List (List Word)) : List Word :=
  match deferred, ls with
  | some d, ls => ls.foldl (List.zipWith addF32) d
  | none, l :: ls => ls.foldl (List.zipWith addF32) l
  | none, [] => []

/-- Anchors of a block across contributions that are not EMPTY and differ. -/
def anchorsDiffer (bs : List WsBlock) : Bool :=
  let as := (bs.map fun b => sideAnchor b.side).filter (· != wsEmpty)
  as.any (· != as.headD 0)

/-- The shard that this chip owns, reduced (Table 6.4). -/
def State.reduceShard (s : State) (c : Coll) (order : List Nat) : Reduced :=
  let n := c.shardLen c.rank
  let f := c.dstFmt
  let slot := s.slotSum c
  if c.wide then
    let parts := c.contribs.map fun k => wsBlocks c.width k.data k.side
    let parts := match slot with
      | some (d, x) => parts ++ [(wsBlocks c.width d x).mapIdx fun i (b : WsBlock) =>
          b.shiftTo (c.anchorFor i (sideAnchor b.side))]
      | none => parts
    let cols := (List.range (c.blocks c.rank)).map fun i => parts.filterMap (·[i]?)
    let sums := cols.map fun bs => match bs with
      | b :: l => l.foldl WsBlock.join b
      | [] => ⟨c.width, List.replicate 64 0, mkSide wsEmpty false false false false 0⟩
    let bad := c.fixedAnchor && cols.any anchorsDiffer
    if f.isWs then
      let d := blockData n sums
      ⟨d.1, d.2, bad⟩
    else
      let vals := (sums.flatMap fun b => (List.range 64).map b.val).take n
      ⟨packElems f (vals.map (f.ofVal .rne)), [], bad⟩
  else
    let ks := if order.isEmpty then c.contribs else order.filterMap fun r => c.contribs.find? (·.rank == r)
    let sums := sumF32 (slot.map fun d => words32 d.1) (ks.map fun k => c.asF32 n k.data)
    ⟨packElems f (sums.map fun w => f.ofVal .rne (f32 w)), [], false⟩

end Sys2Proof.Machine
end

