-- ==== Sys2Proof/Machine/PrismNet.lean ====
section
/-!
DEFINITION. Arrivals at Prism and the launch of a collective (06 R122-R131, R137-R141): what each message from a member
does, kept when it comes before the local launch and replayed then; the launch itself; the completion of an operation.
-/

namespace Sys2Proof.Machine

/-! ### Arrivals before the launch -/

/-- The group entry of a TAG on this chip. -/
def State.groupByTag (s : State) (tag : Word) : Option Nat :=
  (s.prism.groups.find? fun e => gTag e.2.toNat == tag.toNat && bitOf e.2.toNat 0).map (·.1)

/-- Keep an arrival until it can take effect. -/
def State.hold (s : State) (i : Instr) : State := { s with prism := { s.prism with early := s.prism.early ++ [i] } }

/-- Keep an arrival for a collective that this chip has yet to launch; one of a past collective is dropped. -/
def State.keepEarly (s : State) (id : CollId) (i : Instr) : State :=
  let past := match s.groupByTag id.tag with
    | some g => !serialNewer 32 id.seq.toNat (Sparse.get 0 s.prism.seqs (launchKey g id.launcher.val)).toNat &&
        id.seq != Sparse.get 0 s.prism.seqs (launchKey g id.launcher.val)
    | none => false
  if past then s else s.hold i

/-! ### Member failure (R141) -/

def State.noteLate (s : State) (die n : Nat) : State :=
  if n = 0 then s else ((s.setBit Reg.prmEvent 0).bump Reg.prmLateCnt n).pmcPrism die 0xC2 n

/-- The shards or pieces that this member receives. -/
def Coll.awaits (c : Coll) : List Nat :=
  match c.pop.toNat with
  | 0 => (List.range c.n).filter fun j => c.shardLen j != 0 && !c.failed.contains j
  | 1 => if c.shardLen c.rank = 0 then [] else [c.rank]
  | 3 => [0]
  | 6 => []
  | _ => (List.range c.n).filter fun j => !c.failed.contains j

/-- Whether a collective goes on without a failed member: under FAIL_CONT a reduction, and an all-gather, all-to-all or broadcast
whose root it is not. -/
def Coll.continues (c : Coll) (r : Nat) : Bool :=
  gFailCont c.entry && (c.reduces || c.pop = 2 || c.pop = 4 || (c.pop = 3 && r != 0))

/-- Whether something of a member's is still to come: its contribution to this owner, its shard or its piece. -/
def Coll.owed (c : Coll) (r : Nat) : Bool :=
  (c.reduces && !c.contribs.any (·.rank == r)) || (c.awaits.contains r && !c.results.any (·.1 == r))

def State.noteFailure (s : State) : State := (s.setBit Reg.prmEvent 1).bump Reg.prmFailCnt 1

/-- A late entry and the failure of its member are recorded once, as a failure (R144). -/
def State.decideFailure (s : State) (c : Coll) (r : Nat) (kind : BitVec 4) : State :=
  (s.modPart c.part fun x => { x with decisions := x.decisions.filter fun d =>
    !(d.tag == c.id.tag && d.sseq == c.sseq && d.launcher == c.id.launcher.val && d.member == r) }).decideColl c r kind 0 0

/-- A member is taken as failed for one collective. Where the collective continues, a contribution that has already arrived
stays, and nothing happens when none of the member's is still to come. -/
def State.memberFails (s : State) (c : Coll) (r : Nat) : State :=
  let cont := c.continues r
  if c.code != 0 || c.finished || c.failed.contains r || r == c.rank || (cont && !c.owed r) then s else
  let s := s.noteFailure
  let held := match c.forcedKind r with
    | some k => k == 5 || k == 6
    | none => false
  if (s.replaySource c.part).isSome && !held then s.failColl c 0x15
  else if cont then
    let s := s.setColl { c with failed := c.failed ++ [r], late := c.late.filter (· != r) }
    if c.reduces && c.contribs.any (·.rank == r) then s else (s.decideFailure c r 5).formAnchors c.id
  else
    ((s.decideFailure c r 6).failColl c 0x10).emit (.report .collectiveFailed (s.jobIdOf c.part) c.id.tag.toNat)

/-- A chip fails: every collective outstanding with it as a member, and every KROT with it as a neighbour, learns it. -/
def State.peerFailsPrism (s : State) (chip : ChipId) : State :=
  s.prism.colls.foldl (fun s c =>
    match c.members.findIdx? (·.chip == chip) with
    | some r => match s.findColl c.id with
        | some c => s.memberFails c r
        | none => s
    | none => s) s

/-! ### Late contributions (R137, R138) -/

/-- The GTC of an owner's deadline tick. -/
def State.deadlineAt (s : State) (c : Coll) : Nat := s.tickAt c.part (c.frameF.toNat + gDeadline c.entry)

/-- The KIND of a late contribution at this owner: forced by the record, or by the policy and the slot's room. -/
def Coll.lateKind (c : Coll) (r : Nat) : Nat :=
  match c.forcedKind r with
  | some k => k
  | none => if gPolicy c.entry == 2 then 1 else if c.noRoom c.entry then 2 else 0

/-- The ranks whose contribution to this owner's shard has not arrived. -/
def Coll.missing (c : Coll) : List Nat :=
  c.expected.filter fun r => r != c.rank && !c.contribs.any (·.rank == r)

/-- One member is late at this owner. -/
def State.takeLate (s : State) (id : CollId) (r : Nat) : State :=
  match s.findColl id with
  | none => s
  | some c =>
    let kind := c.lateKind r
    let s := s.setColl { c with late := c.late ++ [r], lateCount := c.lateCount + 1,
                                deferredFlag := c.deferredFlag || kind == 0, droppedFlag := c.droppedFlag || kind != 0 }
    s.decideColl c r (BitVec.ofNat 4 kind) 0xFFFFFFFF 0

/-- Whether an owner still has its deadline before it: a group that waits has none, and a replayed step takes its decisions from the
record (R140). -/
def State.hasDeadline (s : State) (c : Coll) : Bool :=
  c.reduces && (gPolicy c.entry == 1 || gPolicy c.entry == 2) && c.code == 0 && !c.finished && !c.deadlinePassed &&
  (s.replaySource c.part).isNone

/-- The deadline tick of an owner: every missing contribution is late, and the anchors form from the ec values held. -/
def State.passDeadline (s : State) (c : Coll) : State :=
  let s := s.setColl { c with deadlinePassed := true }
  if c.shardDone || c.shardLen c.rank = 0 then s else
  ((c.missing.foldl (fun s r => s.takeLate c.id r) s).noteLate c.die c.missing.length).formAnchors c.id

/-- An arrival in the deadline tick's own count, or after it, comes after the deadline (R137, R144). -/
def State.dueDeadline (s : State) (id : CollId) : State :=
  match s.findColl id with
  | some c => if s.hasDeadline c && decide (s.deadlineAt c ≤ s.now.toNat) then s.passDeadline c else s
  | none => s

/-- A finished collective whose late contributions have all come is forgotten. -/
def State.forget (s : State) (id : CollId) : State :=
  match s.findColl id with
  | some c => if c.finished && c.late.all c.lateDone.contains then s.dropColl id else s
  | none => s

/-- The last byte of a late contribution arrives. -/
def State.lateArrives (s : State) (c : Coll) (r : Nat) (data side : List Byte) : State :=
  if c.lateDone.contains r then s else
  let kind := c.lateKind r
  let late := BitVec.ofNat 32 (s.now.toNat - s.deadlineAt c)
  let s := s.setColl { c with lateDone := c.lateDone ++ [r] }
  let s := s.modPart c.part fun x => { x with decisions := x.decisions.map fun d =>
    if d.tag == c.id.tag && d.sseq == c.sseq && d.launcher == c.id.launcher.val && d.member == r && d.lateness == 0xFFFFFFFF
    then { d with lateness := late } else d }
  let s := if kind = 0 then
      (if c.superseded then (s.decideColl c r 3 late 0).noteLate c.die 1 else s.slotStore c data side)
    else s
  s.forget c.id

/-! ### Messages (R124, R127-R131) -/

def State.onMismatch (s : State) (id : CollId) : State :=
  match s.findColl id with
  | none => s.keepEarly id (.mismatchNotice id)
  | some c => s.failColl c 0x11

/-- An ec value reaches the owner of a block; an anchor already formed is answered at once (R129, R137). -/
def State.onEc (s : State) (id : CollId) (rank : ChipId) (block : Nat) (ec : BitVec 16) : State :=
  let s := s.dueDeadline id
  match s.findColl id with
  | none => s.keepEarly id (.anchorEc id rank block ec)
  | some c =>
    if c.code != 0 || !c.wide || c.fixedAnchor || decide (c.n ≤ rank.toNat) then s else
    match c.anchors.find? (·.1 == block) with
    | some a => (s.toRank c rank.toNat "ANCHOR" [block, a.2.toNat] [] []).pmcPrism c.die 0xC4 1
    | none =>
      (s.setColl { c with ecs := c.ecs.filter (fun e => !(e.1 == rank.toNat && e.2.1 == block)) ++ [(rank.toNat, block, ec)] })
        |>.formAnchors id

/-- An anchor reaches a contributor; with every block of the owner's shard answered, it converts and sends (R129, R130). -/
def State.onReply (s : State) (id : CollId) (owner : ChipId) (block : Nat) (anchor : BitVec 16) : State :=
  match s.findColl id with
  | none => s
  | some c =>
    let o := owner.toNat
    if c.code != 0 || !c.wide || c.fixedAnchor || decide (c.n ≤ o) || decide (c.blocks o ≤ block) ||
        c.replies.any (fun e => e.1 == o && e.2.1 == block) then s else
    let c := { c with replies := c.replies ++ [(o, block, anchor)] }
    let s := s.setColl c
    let got := (List.range (c.blocks o)).filterMap fun b =>
      (c.replies.find? fun e => e.1 == o && e.2.1 == b).map (·.2.2)
    if got.length < c.blocks o then s else
    let src := s.collSource c (c.runs o)
    match src.1.bad with
    | some b => src.1.st.trouble c.tile b
    | none =>
      let d := blockData (c.shardLen o) (c.convertShard (c.shardLen o) src.1.bytes src.2 got)
      src.1.st.toRank c o "CONTRIB" [] d.1 d.2

/-- Where a piece of a data movement from rank r goes (Table 6.3): `none` while its place is not known. -/
def Coll.pieceRuns (c : Coll) (r n : Nat) : Option (List Run) :=
  match c.pop.toNat with
  | 2 | 4 => some [⟨0, r * c.xl, n⟩]
  | 3 => some [⟨0, 0, n⟩]
  | 5 =>
    let before := (List.range r).map fun q => ((c.counts.find? (·.1 == q)).map fun e => e.2.toNat)
    if before.all (·.isSome) then some [⟨0, (before.map fun x => x.getD 0).foldl (· + ·) 0, n⟩] else none
  | _ => none

/-- A contribution's last byte arrives: at its owner for a reduction, at its receiver for a data movement. -/
def State.onContribution (s : State) (id : CollId) (rank : ChipId) (data side : List Byte) : State :=
  let s := s.dueDeadline id
  match s.findColl id with
  | none => s.keepEarly id (.contribution id rank data side)
  | some c =>
    let r := rank.toNat
    if decide (c.n ≤ r) then s else
    if c.late.contains r then s.lateArrives c r data side else
    if c.code != 0 || c.finished || c.failed.contains r then s else
    if c.reduces then
      if c.shardDone || c.contribs.any (·.rank == r) then s else
      s.setColl { c with contribs := c.contribs ++ [⟨r, data, side⟩], headers := dedup (c.headers ++ [r]) }
    else if c.results.any (·.1 == r) then s else
      let n := data.length * 8 / c.srcFmt.bits
      match c.pieceRuns r n with
      | some rs => (s.setColl { c with results := c.results ++ [(r, [r])], headers := dedup (c.headers ++ [r]) })
          |>.deliver c rs data side
      | none => s.hold (.contribution id rank data side)

/-- A reduced shard reaches a member (R127). The norm exchange of the optimiser takes its one element (08 R175). -/
def State.onResult (s : State) (id : CollId) (owner : ChipId) (data side : List Byte) (present : List ChipId) : State :=
  match s.findColl id with
  | none => s.keepEarly id (.shardResult id owner data side present)
  | some c =>
    let o := owner.toNat
    if c.code != 0 || c.finished || decide (c.n ≤ o) || c.results.any (·.1 == o) then s else
    let s := s.setColl { c with results := c.results ++ [(o, present.map (·.toNat))], source := if c.ouu then data else c.source,
                                sourceSide := if c.ouu then side else c.sourceSide }
    s.deliver c (c.runs o) data side

/-! ### Counts of all-to-all-v (R131) -/

/-- The send counts in the array at DS.AUX. -/
def State.sendCounts (s : State) (c : Coll) : GetOut :=
  s.getBytes c.tile (Desc.ofBits c.ds) (Desc.ofBits c.ds).aux (4 * c.n)

/-- The packed send block for rank r, from the counts. -/
def State.sendBlock (s : State) (c : Coll) (counts : List Nat) (r : Nat) : GetOut :=
  let d := Desc.ofBits c.ds
  let first := (counts.take r).foldl (· + ·) 0
  let p := elemBytes c.srcFmt first (counts.getD r 0)
  s.getBytes c.tile d (d.base + p.1) p.2

/-- Send every packed block; this chip's own goes to its destination. -/
def State.sendBlocks (s : State) (c : Coll) (counts : List Nat) : State :=
  (List.range c.n).foldl (fun s r =>
    let g := s.sendBlock c counts r
    match g.bad with
    | some b => g.st.trouble c.tile b
    | none => if r == c.rank then g.st.onContribution c.id (BitVec.ofNat 14 r) g.bytes []
              else g.st.toRank c r "CONTRIB" [] g.bytes []) s

/-- Early contributions whose place has become known. -/
def State.replayContribs (s : State) (id : CollId) : State :=
  let mine := s.prism.early.filter fun i => match i with
    | .contribution j _ _ _ => j == id
    | _ => false
  let s := { s with prism := { s.prism with early := s.prism.early.filter (!mine.contains ·) } }
  mine.foldl (fun s i => match i with
    | .contribution j r d x => s.onContribution j r d x
    | _ => s) s

/-- The launch header of this member (R124), to every other. -/
def State.sendHeader (s : State) (c : Coll) : State :=
  ((List.range c.n).filter (· != c.rank)).foldl (fun s r =>
    s.toRank c r "HEADER" [c.pop.toNat, c.xl, c.sfmt.toNat, c.dfmt.toNat, c.n] [] []) s

/-- The payload of an all-to-all-v moves once every member's header has told that its counts fit (R131, log 182). -/
def State.movePayload (s : State) (id : CollId) : State :=
  match s.findColl id with
  | none => s
  | some c =>
    if c.pop != 5 || c.code != 0 || c.counts.length < c.n || !(List.range c.n).all c.headers.contains ||
        c.results.any (·.1 == c.rank) then s else
    let g := s.sendCounts c
    match g.bad with
    | some b => g.st.trouble c.tile b
    | none => (g.st.sendBlocks c (natsOf 4 g.bytes)).replayContribs id

/-- A launch header reaches this chip; one that differs from its own fails the collective everywhere (R124). -/
def State.onHeader (s : State) (id : CollId) (rank : ChipId) (h : LaunchHeader) : State :=
  match s.findColl id with
  | none => s.keepEarly id (.contribHeader id rank h)
  | some c =>
    if c.code != 0 || c.finished then s else
    if h.pop = c.pop && h.xl.toNat == c.xl && h.sfmt = c.sfmt && h.dfmt = c.dfmt && h.n == c.n then
      (s.setColl { c with headers := dedup (c.headers ++ [rank.toNat]) }).movePayload id
    else (s.failColl c 0x11).toMembers c "MISMATCH" []

/-- A send count reaches this member. With all n in, it writes its count array; a sum above its XL is told, and so is a sum that
fits, by the launch header. -/
def State.onCount (s : State) (id : CollId) (rank : ChipId) (count : Word) : State :=
  match s.findColl id with
  | none => s.keepEarly id (.countExchange id rank count)
  | some c =>
    if c.code != 0 || c.pop != 5 || decide (c.n ≤ rank.toNat) || c.counts.any (·.1 == rank.toNat) then s else
    let c := { c with counts := c.counts ++ [(rank.toNat, count)] }
    let s := s.setColl c
    if c.counts.length < c.n then s else
    let cs := (List.range c.n).map fun r => ((c.counts.find? (·.1 == r)).map (·.2)).getD 0
    let bytes := bytes32 cs
    let d := Desc.ofBits c.dt
    let w := s.putBytes c.tile d d.aux bytes
    match w.1 with
    | some b => w.2.trouble c.tile b
    | none =>
      let s := w.2.modColl id fun c => { c with written := Sparse.put c.written (2 ^ 60 + d.aux) bytes }
      if c.xl < cs.foldl (fun n k => n + k.toNat) 0 then
        match s.findColl id with
        | some c => (s.failColl c 0x13).toMembers c "CAPACITY" []
        | none => s
      else if s.prism.early.contains (.capacityNotice id) then
        match s.findColl id with
        | some c => s.failColl c 0x13
        | none => s
      else (s.sendHeader c).movePayload id

/-- A notice of CAPACITY; the count array is written all the same, so the notice waits for the last count (R131). -/
def State.onCapacity (s : State) (id : CollId) : State :=
  match s.findColl id with
  | none => s.keepEarly id (.capacityNotice id)
  | some c => if c.code = 0 && c.pop = 5 && c.counts.length < c.n then s.hold (.capacityNotice id) else s.failColl c 0x13

/-- A kept arrival takes effect. -/
def State.arrive (s : State) (i : Instr) : State :=
  match i with
  | .contribHeader id r h => s.onHeader id r h
  | .mismatchNotice id => s.onMismatch id
  | .anchorEc id r b e => s.onEc id r b e
  | .contribution id r d x => s.onContribution id r d x
  | .shardResult id o d x p => s.onResult id o d x p
  | .countExchange id r n => s.onCount id r n
  | .capacityNotice id => s.onCapacity id
  | _ => s

/-! ### Launch (R122, R123) -/

/-- The phase of a launch: the highest i with FROM_i at or below the step-relative frame (R122). -/
def phaseOf (g p : Nat) : Nat := ((List.range (gPhases g)).filter fun i => decide (gFrom g i ≤ p)).getLastD 0

/-- The member list of a phase in a step, read at the first launch that needs it (R122). -/
def State.phaseList (s : State) (g group phase : Nat) (step : BitVec 40) : MemberList × State :=
  match s.prism.lists.find? fun l => l.group == group && l.phase == phase && l.step == step with
  | some l => (l, s)
  | none =>
    let l : MemberList := match s.readList (gTenant g) (gList g phase) with
      | some r => { group := group, phase := phase, step := step, valid := s.listOk g r, members := r.members,
                    slots := r.slots, order := r.order }
      | none => { group := group, phase := phase, step := step, valid := false, members := [], slots := [], order := [] }
    let s := s.meetList (gTenant g) (gList g phase)
    (l, { s with prism := { s.prism with lists := s.prism.lists.filter (fun m => m.group != group || m.phase != phase) ++ [l] } })

/-- The reduction order of the MV2 profile: the list's order array, or, with none, the ranks by ascending chip identity (R188).
Elsewhere it is the order of arrival. -/
def State.orderFor (s : State) (p : Nat) (l : MemberList) : List Nat :=
  if !(s.part p).mv2 then [] else
  if l.order.isEmpty then
    let chip := fun (a : Nat) => match l.members[a]? with
      | some m => m.chip.toNat
      | none => 0
    sortBy (fun a b => decide (chip a ≤ chip b)) (List.range l.members.length)
  else l.order

/-- The width of the wide sums that a reduction's shards travel in, 0 for the binary path (Table 6.4). -/
def State.wideWidth (s : State) (p g : Nat) (pop dfmt : BitVec 4) : Nat :=
  if !(pop = 0 || pop = 1) then 0
  else if dfmt = 9 then 64 else if dfmt = 10 then 128
  else if (s.part p).repro && !(s.part p).mv2 then (if gWide g then 128 else 64) else 0

/-- Contribution of a reduction's shard j to its owner, or to this chip's own shard. -/
def State.sendShard (s : State) (c : Coll) (j : Nat) : State :=
  if c.shardLen j = 0 then s else
  let src := s.collSource c (c.runs j)
  match src.1.bad with
  | some b => src.1.st.trouble c.tile b
  | none =>
    let s := src.1.st
    let n := c.shardLen j
    if c.wide && !c.fixedAnchor then
      ((c.ecsOf n src.1.bytes src.2).zipIdx).foldl (fun s (e, b) =>
        if j == c.rank then s.modColl c.id fun c => { c with ecs := c.ecs ++ [(c.rank, b, e)] }
        else s.toRank c j "EC" [b, e.toNat] [] []) s
    else if j == c.rank then
      s.modColl c.id fun d => { d with contribs := d.contribs ++ [⟨c.rank, src.1.bytes, src.2⟩] }
    else s.toRank c j "CONTRIB" [] src.1.bytes src.2

/-- A piece of a data movement: elements from the source to one rank. -/
def State.sendPiece (s : State) (c : Coll) (r first : Nat) : State :=
  let g := s.collRun c ⟨first, 0, c.xl⟩
  match g.1.bad with
  | some b => g.1.st.trouble c.tile b
  | none => if r == c.rank then g.1.st.onContribution c.id (BitVec.ofNat 14 r) g.1.bytes g.2
            else g.1.st.toRank c r "CONTRIB" [] g.1.bytes g.2

/-- What a member sends when it launches. -/
def State.sendAll (s : State) (c : Coll) : State :=
  let s := if c.pop = 5 then s else s.sendHeader c
  match c.pop.toNat with
  | 0 | 1 => ((List.range c.n).foldl (fun s j => s.sendShard c j) s).formAnchors c.id
  | 2 => (List.range c.n).foldl (fun s r => s.sendPiece c r 0) s
  | 3 => if c.rank = 0 then (List.range c.n).foldl (fun s r => s.sendPiece c r 0) s else s
  | 4 => (List.range c.n).foldl (fun s r => s.sendPiece c r (r * c.xl)) s
  | 5 =>
    let g := s.sendCounts c
    match g.bad with
    | some b => g.st.trouble c.tile b
    | none => ((natsOf 4 g.bytes).zipIdx).foldl (fun s (k, r) =>
        if r == c.rank then s.onCount c.id (BitVec.ofNat 14 r) (BitVec.ofNat 32 k)
        else match c.members[r]? with
          | some m => s.emit (.toChip m.chip "COUNT" [c.id.tag.toNat, c.id.launcher.val, c.id.seq.toNat, c.rank, k])
          | none => s) g.st
  | _ => s

/-- The decisions that a replayed launch takes from the record at once (R140): members late, by their KIND, members that failed and
were continued without, and what the record calls TOO_LATE of the step before. -/
def State.forceLate (s : State) (c : Coll) : State :=
  let lates := c.forcedAs.filter fun e => decide (e.2 < 4)
  let gone := (c.forcedAs.filter (·.2 == 5)).map (·.1)
  let tooLate := if !c.reduces then [] else match s.replaySource c.part with
    | some r => (List.range c.n).filter fun m => (c.recorded r m [3]).isSome
    | none => []
  let s := s.modColl c.id fun c => { c with
    late := lates.map (·.1), failed := gone, lateCount := lates.length,
    deferredFlag := lates.any fun e => e.2 == 0 || e.2 == 3, droppedFlag := lates.any fun e => e.2 == 1 || e.2 == 2 }
  let s := lates.foldl (fun s e => s.decideColl c e.1 (if e.2 = 3 then 0 else BitVec.ofNat 4 e.2) 0xFFFFFFFF 0) s
  let s := gone.foldl (fun s r => s.noteFailure.decideColl c r 5 0 0) s
  let s := tooLate.foldl (fun s r => s.decideColl c r 3 0xFFFFFFFF 0) s
  s.noteLate c.die (lates.length + tooLate.length)

/-- The slots that a scheduled partition's collective owns in the frame that runs (R135). -/
def State.ownedSlots (s : State) (c : Coll) : Nat :=
  if !s.scheduled c.part || c.slots.isEmpty then 0 else
  let rel := ((s.part c.part).p - (s.part c.part).firstP).toNat
  (c.slots.getD ((rel - gFrom c.entry c.phase) % c.slots.length) 0).toNat

/-- Whether collectives of two groups use a link in common. -/
def Coll.shares (c d : Coll) : Bool :=
  c.group != d.group && c.members.any fun m => m.bundle != 0x3F && d.members.any (·.bundle == m.bundle)

/-- Two scheduled groups that own one slot on one link contend for it (R135, R145). -/
def State.slotContend (s : State) : State :=
  let live := s.prism.colls.filter (!·.finished)
  if live.any fun c => live.any fun d => c.shares d && (s.ownedSlots c &&& s.ownedSlots d) != 0 then s.setBit Reg.prmEvent 7 else s

/-- A launch leaves its queue (R122-R124): it chooses its phase and members, sends what it has to send, and meets the
arrivals that came before it. -/
def State.launchColl (s : State) (q : LaunchReq) : State :=
  let g := q.words.toNat
  let phase := phaseOf g q.rel
  let l := s.phaseList g q.group phase q.step
  let s := l.2
  let ms := l.1.members
  let id : CollId := { tag := BitVec.ofNat 32 (gTag g), launcher := q.launcher, seq := q.seq }
  let c : Coll :=
    { id := id, group := q.group, part := q.part, tile := q.tile, op := q.op, ec := q.ec, fused := q.fused, pop := q.pop,
      xl := q.xl, ds := q.ds, dt := q.dt, sfmt := q.sfmt, dfmt := q.dfmt,
      width := s.wideWidth q.part g q.pop q.dfmt, fixedAnchor := q.fixedAnchor, rows := q.rows, cols := q.cols,
      sseq := q.sseq, step := q.step, frameF := q.frameF, words := q.words, phase := phase, slots := l.1.slots,
      order := s.orderFor q.part l.1, forcedAs := [], superseded := false, rank := (ms.findIdx? (·.chip == s.self)).getD 0,
      members := ms, source := q.source, sourceSide := q.sourceSide, headers := [(ms.findIdx? (·.chip == s.self)).getD 0],
      ecs := [], anchors := [], replies := [], contribs := [], late := [], lateDone := [], failed := [],
      deadlinePassed := false, shardDone := false, results := [], counts := [], code := 0, clampRank := none,
      clamped := false, deferredFlag := false, droppedFlag := false, lateCount := 0, finished := false, written := [] }
  let c := { c with forcedAs := s.forcedList c }
  let follows := fun (d : Coll) => d.group == c.group && d.id.tag == id.tag && d.id.launcher == id.launcher && d.sseq == c.sseq &&
    d.step + 1 == c.step
  let s := { s with prism := { s.prism with
    colls := s.prism.colls.map (fun d => if follows d then { d with superseded := true } else d) ++ [c] } }.slotContend
  if !l.1.valid then s.failColl c 0x14 else
  if (s.part q.part).repro && !s.scheduled q.part then s.failColl c 0x16 else
  if s.launchDiverges c then s.failColl c 0x15 else
  let s := s.forceLate c
  let s := s.sendAll ((s.findColl id).getD c)
  let mine := s.prism.early.filter fun i => earlyId i == some id
  let s := { s with prism := { s.prism with early := s.prism.early.filter fun i => earlyId i != some id } }
  mine.foldl State.arrive s

/-- Whether a launch waits in the Prism queue: 2^STATUS_LOG2 collectives of its group and launcher are outstanding
(R124), or, under replay, the matched collective of the step before still waits for a deferred contribution (R140). -/
def State.launchWaits (s : State) (q : LaunchReq) : Bool :=
  let mine := s.prism.colls.filter fun c => c.group == q.group && c.id.launcher == q.launcher
  !s.blockOn 7 || s.halted || decide (2 ^ gStatusLog q.words.toNat ≤ (mine.filter (!·.finished)).length) ||
  ((s.replaySource q.part).isSome && mine.any fun c => c.finished && c.sseq == q.sseq &&
    c.late.any fun r => !c.lateDone.contains r && c.lateKind r == 0)

/-- Launches of the queue that wait no longer, in order within a group and launcher. -/
def State.pumpQueue (s : State) : State :=
  let step := fun (acc : List LaunchReq × State) (q : LaunchReq) =>
    if acc.1.any (fun r => r.group == q.group && r.launcher == q.launcher) || acc.2.launchWaits q then
      (acc.1 ++ [q], acc.2)
    else (acc.1, acc.2.launchColl q)
  let r := s.prism.queue.foldl step ([], s)
  { r.2 with prism := { r.2.prism with queue := r.1 } }

/-- A launch issues: it takes the next SEQ and SSEQ (R123) and enters the queue. -/
def State.launch (s : State) (q : LaunchReq) : State :=
  let k := launchKey q.group q.launcher.val
  let q := { q with words := BitVec.ofNat 1024 (s.groupEntry q.group), seq := Sparse.get 0 s.prism.seqs k,
                    sseq := Sparse.get 0 s.prism.sseqs k,
                    step := if q.launcher.val = 64 then (s.part q.part).closing else s.stepOf q.part }
  { s with prism := { s.prism with
      seqs := Sparse.set 0 s.prism.seqs k (q.seq + 1), sseqs := Sparse.set 0 s.prism.sseqs k (q.sseq + 1),
      users := Sparse.set 8 s.prism.users k q.part,
      queue := s.prism.queue ++ [q] } }.pumpQueue

/-- The step-relative frame that tile t's frame is. -/
def State.relFrame (s : State) (t : Nat) : Nat := ((s.tile t).frameP - (s.part (s.partOf t)).firstP).toNat

/-! ### The completion of an operation -/

/-- Join the barrier of a FENCE.G once every earlier operation of the tile has completed (R113, R126). -/
def State.joinBarrier (s : State) (t : Nat) : State :=
  let x := s.tile t
  match x.fence with
  | some (.group g none) =>
    if !(x.ops.isEmpty && x.pend.isEmpty) then s else
    let id := x.opSeq
    let s := s.startOp t { kind := .fenceG, ec := 0 }
    let s := s.modTile t fun y => { y with fence := some (.group g (some id)) }
    s.launch { part := s.partOf t, tile := t, launcher := Fin.ofNat 65 (s.relTile t), group := g, pop := 6, xl := 0,
               ds := 0, dt := 0, sfmt := 0, dfmt := 0, op := id, ec := 0, rel := s.relFrame t, frameF := x.frameF }
  | _ => s

/-- An operation of tile t completes: its counter rises and it leaves the tile; an Aperture may have drained (R229). -/
def State.finishOp (s : State) (t id : Nat) : State :=
  match (s.tile t).op id with
  | none => s
  | some o => (s.modTile t fun x => { x.bumpE o.ec with ops := x.ops.filter (·.id != id) }).aptSettle.joinBarrier t

end Sys2Proof.Machine
end

