-- ==== Sys2Proof/Machine/Regs.lean ====
section
/-!
DEFINITION. The register interface (17 R381-R395): the paths and what each reaches, error flags and their capture, the
registers that show other state, staged and strobed values, and the rule by which a write acts on fields of each access
code.
-/

namespace Sys2Proof

open Sys2Proof.Machine

/-! ### Paths and places (R381, R382, R323) -/

def Path.isVf : Path → Bool
  | .vf v => v.val != 0
  | _ => false

/-- The function of a path that is a PCIe function (VF 0 names the PF's own tenant window). -/
def Path.fn : Path → Nat
  | .vf v => v.val
  | .core n => n.val
  | _ => 0

/-- The place that an offset of a path names; `none` where an I3C offset lies outside its two blocks. -/
def Path.place (p : Path) (off : Nat) : Option Nat :=
  match p with
  | .vf v => if off < 0x100000 then some (Reg.window v.val + off) else none
  | .i3c => if off < 0x100 then some (0x20000 + off)
      else if 0x1000 ≤ off && off < 0x2000 then some (0x10000 + (off - 0x1000)) else none
  | _ => some off

/-- The offset by which a path reaches a place. -/
def Path.offsetOf (p : Path) (place : Nat) : Option Nat :=
  match p with
  | .vf v => if Reg.window v.val ≤ place && place < Reg.window v.val + 0x100000 then some (place - Reg.window v.val) else none
  | .i3c => if 0x20000 ≤ place && place < 0x20100 then some (place - 0x20000)
      else if 0x10000 ≤ place && place < 0x11000 then some (place - 0x10000 + 0x1000) else none
  | _ => if place < 0x20000000 then some place else none

/-- PATH of GLB_ERR_SRC. -/
def Path.code : Path → Nat
  | .pf | .vf _ => 0
  | .i3c => 1
  | .core _ => 2
  | .debug => 3

end Sys2Proof

namespace Sys2Proof.Machine

/-- Whether the accesses of a path reach the registers: the host's not before PERST_N is high and the firmware has started
(R365). -/
def State.busOpen (s : State) (p : Path) : Bool :=
  s.pkg.heldBy.isNone && match p with
    | .pf | .vf _ => s.start.boot.firmware && s.pkg.perstN
    | .core _ => !s.flt.ctlReset
    | .debug => !s.debugLock
    | _ => true

/-! ### Flags (R398) -/

def errStall : Nat := 0
def errNarrowWr : Nat := 1
def errNarrowRc : Nat := 2
def errStagedIgn : Nat := 3
def errRsvl : Nat := 4
def errUnmapped : Nat := 5
def errMbx : Nat := 6
def errMode : Nat := 7
def errPwr : Nat := 8

/-- The TEN_ERR bit of a GLB_ERR bit, where it has one. -/
def tenErrBit (bit : Nat) : Option Nat :=
  if bit < 3 then some bit else if bit = errUnmapped then some 3 else if bit = errRsvl then some 5 else none

/-- Set a GLB_ERR bit, the VF's TEN_ERR bit, and capture the first offset. -/
def State.flagErr (s : State) (p : Path) (off bit : Nat) : State :=
  let s := s.setBit Reg.glbErr bit
  let s := if p.isVf then match tenErrBit bit with
      | some b => s.setBit (Reg.tenErr p.fn) b
      | none => s
    else s
  if s.rdBit Reg.glbErrOff 31 then s else
  let s := (s.wrFld Reg.glbErrOff 28 0 off).setBit Reg.glbErrOff 31
  ((s.wrFld Reg.glbErrSrc 3 0 bit).wrFld Reg.glbErrSrc 5 4 p.code).wrFld Reg.glbErrSrc 17 8 p.fn

/-! ### Modes of the register interface (R388, R393, R394) -/

def State.staging (s : State) : Bool := s.rdBit Reg.glbCtrl 0
/-- Blocks that cannot be disabled. -/
def fixedBlock (b : Nat) : Bool := decide (b < 5) || b == 11 || b == 17

/-- Any partition with frames running. -/
def State.anyRunning (s : State) : Bool := (List.range 8).any fun p => (s.part p).running

/-- The blocks whose RSVL fields are off their reset values (GLB_TEST). -/
def State.testBlocks (s : State) : Nat :=
  s.rf.file.foldl (fun m e => match Reg.find e.1 with
    | some (b, r, _) => if (e.2 ^^^ Reg.resetValue e.1) &&& r.mask .rsvl = 0 then m else m ||| 2 ^ b
    | none => m) 0

/-- GLB_PENDING. -/
def State.pendingBlocks (s : State) : Nat :=
  (s.rf.staged ++ s.rf.strobed).foldl (fun m e => match Reg.blockAt e.1 with
    | some (b, _) => m ||| 2 ^ b
    | none => m) 0

/-! ### Power settings (R395, R396, R399) -/

/-- ENV inside the fused bounds, MHZ as it acts. -/
def State.envActing (s : State) (e : Nat) : Nat := max s.envMin (min s.envMax e)
def mhzActing (m : Nat) : Nat := if m < 1200 then 1200 else if 2000 < m then 2000 else m / 50 * 50

/-- The value of an RWS register last strobed: pending, else active. -/
def State.lastStrobed (s : State) (p : Nat) : Word := (Sparse.get none s.rf.strobed p).getD (s.rd p)

/-- Whether a partition runs under the values last strobed. -/
def State.powerApplied (s : State) (p : Nat) : Bool :=
  s.envAct p == s.envActing (fld (s.lastStrobed Reg.pwrCfg).toNat 4 0) &&
  (s.part p).setMhz == mhzActing (fld (s.lastStrobed (Reg.pwrTclk p)).toNat 11 0)

/-- Put the partition under its PWR settings; a thermal trip keeps TCLK at 1,200 MHz (R426). -/
def State.applyPower (s : State) (p : Nat) : State :=
  let set' := mhzActing (s.rdFld (Reg.pwrTclk p) 11 0)
  let s := s.modPart p fun x => { x with setMhz := set' }
  let s := s.wrFld (Reg.pwrTclkAct p) 16 12 (s.envActing (s.rdFld Reg.pwrCfg 4 0))
  s.wrFld (Reg.pwrTclkAct p) 11 0 (if s.rdBit (Reg.pwrTclkAct p) 17 then min 1200 set' else set')

/-- PWR_ALLOW. -/
def State.allowOf (s : State) (p : Nat) : Nat := allowance (s.envAct p) (s.partSize p) (s.period p) (s.tclk p)

/-! ### Registers that show other state -/

/-- The LS scrub of a compute-domain reset runs, for 1,536 counts (R54). That no command ends it, and the count at any TCLK, are
the model's (DESIGN CHOICE, log 162). -/
def State.lsScrub (s : State) : Bool := s.flt.run.any fun r => r.phase == 4 && decide (s.since r.scrubAt < 1536)

/-- TIL_TSTAT.STATE (R67). -/
def State.tileState (s : State) (t : Nat) : Nat :=
  let x := s.tile t
  if x.bistFailed then 6 else if x.scrubbing && s.lsScrub then 5 else if x.faulted then 4 else if x.debugHalted then 3
  else if x.waiting then 2 else if (s.part (s.partOf t)).running then 1 else 0

/-- LNK_STATE.STATE. -/
def LinkState.code : LinkState → Nat
  | .down => 0
  | .training => 1
  | .up => 2
  | .retrain => 3
  | .miswired => 4
  | .disabled => 5
  | .refused => 6

def popCount (n w : Nat) : Nat := ((List.range n).filter (bitOf w)).length

/-- Dump slots of the crash-dump region (Table 15.6). -/
def dumpAt (b : Bool) : Nat := 0xBF80000000 + (if b then 0x10000000 else 0)
def State.dumpValid (s : State) (b : Bool) : Bool := bitOf (s.devByte (dumpAt b + 24)).toNat 0

/-- The generations of a fuse record that are written, and valid. -/
def State.fuseWritten (s : State) (r : Nat) : Nat :=
  packFields ((List.range 4).map fun g => (g, 1, b2n (Sparse.get none s.start.fuses (r * 4 + g)).isSome))
def State.fuseValid (s : State) (r : Nat) : Nat :=
  packFields ((List.range 4).map fun g => (g, 1, b2n ((Sparse.get none s.start.fuses (r * 4 + g)).any (·.checkOk))))

/-- The index of a word n of the record of age AGE (R340). -/
def State.eventWord (s : State) (age n : Nat) : Nat :=
  let l := s.flt.events
  if l.length ≤ age then 0 else fld (l.getD (l.length - 1 - age) 0).toNat (32 * n + 31) (32 * n)

/-- The vectors of a function (R244). -/
def vectorsOf (v : Nat) : Nat := if v = 0 then 2048 else 64

/-- Whether a compute-domain reset has the channels fenced (R272). -/
def State.fenced (s : State) : Bool := s.flt.run.isSome

/-- A channel entry's STATE (Table 11.4). -/
def chState (e : Nat) : Nat := fld e 2 0

/-- Whether a channel of the tenant is fenced for a version change. -/
def State.verFenced (s : State) (v : Nat) : Bool :=
  s.chan.chans.any fun e => chState e.2.toNat == 3 && fld e.2.toNat 24 16 == v

/-- The partitions whose pass is due, in the order in which the OUU serves them: by their norm frames' ticks, the lower
number first where the ticks are equal (R182); an abandoned step and a frozen half have none due. -/
def State.ouuQueue (s : State) : List Nat :=
  let due := (List.range 8).filter fun p => let x := s.part p
                                            x.action == 3 && decide (2 ≤ x.boundaryFrame) && !x.abandoned && !x.frozen
  sortBy (fun p q => decide ((s.part p).normTick.toNat ≤ (s.part q).normTick.toNat)) due

/-- The fields (hi, lo, value) of the register at block b and offset o, copy i, that are computed from other state. -/
def State.viewFields (s : State) (b o i v : Nat) : List (Nat × Nat × Nat) :=
  match b, o with
  | 0, 0x00 => [(31, 24, s.rev)]
  | 0, 0x08 => [(0, 0, b2n s.staging), (1, 1, b2n s.port.testHold)]
  | 0, 0x14 => [(17, 0, s.pendingBlocks)]
  | 0, 0x18 => [(17, 0, s.testBlocks)]
  | 1, 0x00 => [(4, 0, s.envMin), (9, 5, s.envMax)]
  | 1, 0x0C => [(4, 0, (s.partList.map s.envAct).foldl max 0), (8, 8, b2n (s.partList.all s.powerApplied)),
      (10, 10, b2n (s.partList.any fun p => s.rdBit (Reg.pwrTclkAct p) 17))]
  | 1, 0x108 => [(31, 0, s.allowOf i)]
  | 2, 0x14 => [(21, 21, b2n !s.mgt.haltN)]
  | 3, 0x04 =>
    let u := s.start.boot
    [(0, 0, b2n u.slotB), (1, 1, b2n u.trial), (2, 2, b2n u.fallback), (7, 4, u.codeA.toNat), (11, 8, u.codeB.toNat),
     (12, 12, b2n u.slowFlash), (31, 16, u.svn.toNat)]
  | 3, 0x14 =>
    let r := s.rdFld Reg.otpFuseSel 2 0
    [(0, 0, b2n s.start.burn.isSome), (11, 8, s.fuseWritten r), (15, 12, s.fuseValid r),
     (18, 16, (Sparse.get none s.start.boot.inForce r).getD 4)]
  | 3, 0x24 =>
    let g := s.start.image
    [(0, 0, b2n g.busy), (1, 1, b2n g.pending), (2, 2, b2n g.staged), (3, 3, b2n g.slotB)]
  | 4, 0x14 => if s.lsScrub then [(2, 0, 3)] else []
  | 4, 0x2C => [(0, 0, b2n s.flt.dumpB), (1, 1, b2n (s.dumpValid false)), (2, 2, b2n (s.dumpValid true))]
  | 4, 0x80 => [(31, 0, s.eventWord (s.rdFld Reg.fltRecIdx 7 0) i)]
  | 5, 0x100 => [(16, 16, b2n (s.part i).repro), (17, 17, b2n (s.part i).mv2)]
  | 5, 0x104 =>
    let x := s.part i
    [(0, 0, b2n x.running), (1, 1, b2n x.stepOpen), (2, 2, b2n ((s.partTiles i).any fun t => (s.tile t).waiting)),
     (3, 3, b2n (x.action != 0)), (31, 16, min x.d.toNat 0xFFFF)]
  | 5, 0x118 => [(21, 0, s.cycles i)]
  | 6, 0x10 => [(31, 0, (s.tileMapReg i).toNat)]
  | 6, 0x80 => [(31, 0, (s.physRoleReg i).toNat)]
  | 6, 0x1000 => [(2, 0, s.tileState i), (5, 3, s.partOf i), (13, 8, (s.tile i).queue.length)]
  | 7, 0x08 => [(23, 16, packFields ((List.range 8).map fun p =>
      (p, 1, b2n ((s.part p).led.any fun l => l.source.isSome))))]
  | 7, 0x30 => [(15, 0, min 0xFFFF ((s.prism.colls.filter (!·.finished)).length + s.prism.queue.length))]
  | 8, 0x18 => [(7, 0, min 0xFF s.kal.krots.length)]
  | 9, 0x04 =>
    let q := s.ouuQueue
    [(0, 0, b2n !q.isEmpty), (3, 1, q.headD 0),
     (15, 8, packFields ((List.range 8).map fun p => (p, 1, b2n ((q.drop 1).contains p))))]
  | 11, 0x10 => [(23, 0, s.storeUsed)]
  | 13, 0x04 => [(3, 0, s.ing.fetches.length),
      (15, 4, s.ing.wsets.foldl (fun n e => n + match e.2 with
        | some w => (w.bindings.filter (·.due)).length
        | none => 0) 0),
      (22, 16, s.ing.fetches.foldl (fun n f => n + (f.keys.length - f.ended.length)) 0)]
  | 14, 0x1000 =>
    let l := s.link i
    [(2, 0, l.state.code), (3, 3, b2n l.ethernet), (7, 4, popCount 10 l.activeMap.toNat), (13, 8, l.bundle.toNat),
     (25, 16, l.activeMap.toNat)]
  | 14, 0x1004 => [(9, 0, (s.link i).failed.toNat), (25, 16, s.fusedLanes i)]
  | 15, 0x5000 => [(4, 4, b2n (s.tile i).debugHalted)]
  | 15, 0x5100 => [(31, 0, (s.tile i).pc.toNat)]
  | 16, 0x04 => [(6, 0, s.dbg.rxFifo.length), (14, 8, s.dbg.txFifo.length)]
  | 16, 0x14 => [(7, 0, (s.dbg.rxFifo.headD 0).toNat), (8, 8, b2n !s.dbg.rxFifo.isEmpty)]
  | 17, 0x1000 => [(8, 0, v), (23, 12, vectorsOf v)]
  | 17, 0x1004 => [(17, 0, (s.tenant v).chBase)]
  | 17, 0x1008 => [(16, 0, (s.tenant v).chCnt)]
  | 17, 0x100C => [(13, 0, (s.tenant v).semCnt), (28, 16, (s.tenant v).grpCnt)]
  | 12, 0x00 => [(19, 16, s.start.boot.rver.toNat)]
  | 17, 0x1018 => [(0, 0, b2n s.fenced), (1, 1, b2n (s.verFenced v)), (7, 4, s.start.boot.rver.toNat)]
  | _, _ => []

/-- The tenant whose window holds a place. -/
def windowOf (p : Nat) : Nat := if 0x20000000 ≤ p then (p - 0x20000000) / 0x100000 else 0

/-- A register as it reads: the stored word, its computed fields, and the staged or pending value of RWS fields. -/
def State.view (s : State) (p : Nat) : Word :=
  match Reg.find p with
  | none => 0
  | some (b, r, i) =>
    let w := (s.viewFields b r.off i (windowOf p)).foldl (fun n f => setFld n f.1 f.2.1 f.2.2) (s.rd p).toNat
    let m := r.mask .rws
    let w := BitVec.ofNat 32 w
    let w := match Sparse.get none s.rf.staged p, Sparse.get none s.rf.strobed p with
      | some x, _ => (w &&& ~~~m) ||| (x &&& m)
      | none, some x => (w &&& ~~~m) ||| (x &&& m)
      | none, none => w
    w &&& ~~~(r.mask .wo)

/-- Per-partition registers of SHT and PWR read as zero and ignore writes while their partition is absent (R39, R399). -/
def State.absent (s : State) (b : Nat) (r : RegRow) (i : Nat) : Bool :=
  r.perPart && (b == 1 || b == 5) && !s.hasPart i

/-! ### Staged values and the strobe (R64, R133, R392) -/

/-- The extent of partition p under a layout. -/
def extentOf (start p : Nat) : Nat × Nat := (8 * p, 8 * layoutUnits start p)

/-- Whether a channel bound to partition p has commands queued. -/
def State.queuedOn (s : State) (p : Nat) : Bool :=
  s.chan.chans.any fun e =>
    let w := e.2.toNat
    chState w != 0 && fld w 27 25 == p && fld w 415 384 != fld w 447 416

/-- A partition comes into being or goes: no frames running, and the SHT defaults (R64). A job that waits for its launch count
and a context that waits for its START_COUNT go with it, and their commands never complete (DESIGN CHOICE, log 163). -/
def State.freshPart (s : State) (p : Nat) : State :=
  let s := s.setPart p Part.reset
  let s := [Reg.shtPctrl p, Reg.shtPevent p, Reg.shtOverrunCnt p, Reg.shtSlipCnt p, Reg.shtLastCause p].foldl
    (fun s r => s.wr r (Reg.resetValue r)) s
  s.applyPower p

/-- Judge a layout at the strobe (R64). -/
def State.applyLayout (s : State) (start : Nat) : State :=
  if !layoutValid start then s.setBit Reg.tilPartStatus 9 else
  let changed := (List.range 8).filter fun p =>
    (layoutUnits s.layout p != layoutUnits start p)
  let old := changed.filter s.hasPart
  if old.any fun p => (s.part p).running || s.queuedOn p then s.setBit Reg.tilPartStatus 8 else
  let s := (s.wrFld Reg.tilPartStatus 7 0 start).wrFld Reg.tilPartCfg 7 0 start
  changed.foldl State.freshPart s

/-- Judge the sharing modes at the strobe (R133). -/
def State.applyShare (s : State) (share : Nat) : State :=
  (List.range 8).foldl (fun s p =>
    if bitOf share p == s.rdBit Reg.prmPartStatus p then s
    else if (s.part p).running then s.setBit Reg.prmPartStatus 8
    else (s.putBit Reg.prmPartStatus p (bitOf share p)).putBit Reg.prmPartCfg p (bitOf share p)) s

/-- An RWS value takes effect. TCLK and envelope of a partition with a running job wait for its step boundary (R35). -/
def State.applyRws (s : State) (p : Nat) (m v : Word) : State :=
  if p = Reg.tilPartCfg then s.applyLayout (v &&& m).toNat
  else if p = Reg.prmPartCfg then s.applyShare (v &&& m).toNat
  else
    let s := s.wr p ((s.rd p &&& ~~~m) ||| (v &&& m))
    if p = Reg.pwrCfg then
      (List.range 8).foldl (fun s q => if (s.part q).running && (s.part q).job.isSome then s else s.applyPower q) s
    else (List.range 8).foldl (fun s q =>
      if p = Reg.pwrTclk q && !((s.part q).running && (s.part q).job.isSome) then s.applyPower q else s) s

/-- The RWS bits of a place. -/
def rwsMask (p : Nat) : Word := match Reg.find p with
  | some (_, r, _) => r.mask .rws
  | none => 0

/-- Pending values take effect for which `due` holds. -/
def State.applyPending (s : State) (due : Nat → Bool) : State :=
  let l := s.rf.strobed.filter fun e => due e.1
  let s := { s with rf := { s.rf with strobed := s.rf.strobed.filter fun e => !due e.1 } }
  l.foldl (fun s e => match e.2 with
    | some v => s.applyRws e.1 (rwsMask e.1) v
    | none => s) s

/-- The partition of a per-partition register. -/
def placePart (p : Nat) : Option Nat := match Reg.find p with
  | some (_, r, i) => if r.perPart then some i else none
  | none => none

/-- A strobe of the blocks in a mask (R392): staged values become pending; the layout and the sharing modes are judged
now; with no frames running anywhere, everything pending takes effect. -/
def State.strobe (s : State) (mask : Nat) : State :=
  let named := fun (p : Nat) => match Reg.blockAt p with
    | some (b, _) => bitOf mask b
    | none => false
  let l := s.rf.staged.filter fun e => named e.1
  let s := { s with rf := { s.rf with staged := s.rf.staged.filter (fun e => !named e.1), strobeAt := s.now,
                                      strobedNow := (if s.rf.strobeAt = s.now then s.rf.strobedNow else []) ++ l.map fun (e : Nat × Option Word) => e.1,
                                      strobed := l.foldl (fun (m : Sparse (Option Word)) (e : Nat × Option Word) => Sparse.set none m e.1 e.2) s.rf.strobed } }
  let s := s.applyPending fun p => p == Reg.tilPartCfg || p == Reg.prmPartCfg
  if s.anyRunning then s else s.applyPending fun _ => true

/-- A partition's tick: its own fields, and the chip-wide ones; what was strobed in the count of the tick waits for the next
(R392). -/
def State.tickPending (s : State) (p : Nat) : State :=
  s.applyPending fun q => !(s.rf.strobeAt == s.now && s.rf.strobedNow.contains q) && match placePart q with
    | some i => i == p
    | none => true

/-- Pending values take effect when the last partition stops running frames. -/
def State.settlePending (s : State) : State := if s.anyRunning then s else s.applyPending fun _ => true

/-! ### Writes (R387, R388, R393) -/

/-- Fields of which 0 reads back and acts as 1. -/
def State.zeroIsOne (s : State) : State :=
  ([(Reg.shtSyncCfg, 7, 4), (Reg.shtSyncCfg, 15, 8), (Reg.memScrubCfg, 15, 8), (Reg.memCeThresh, 23, 16),
    (Reg.chnTSched, 7, 0), (Reg.mgtHaltCfg, 15, 8), (Reg.mgtHbCfg, 7, 0), (Reg.fltWdCfg, 7, 0), (Reg.fltWdCfg, 31, 24)] ++
   (List.range 8).map fun p => (Reg.chnPsched p, 7, 0)).foldl
    (fun s (p, hi, lo) => if s.rdFld p hi lo = 0 then s.wrFld p hi lo 1 else s) s

/-- A 32-bit write acts on the fields of the register at a place: RW and RWS by the mode, RSVL by the path; the bits of
`keep` stay as they are, whatever their code. What the write orders besides (W1S, WO) is its caller's. -/
def State.writeFields (s : State) (path : Path) (p : Nat) (v keep : Word) : State :=
  match Reg.find p, path.offsetOf p with
  | some (b, r, i), some off =>
    if s.absent b r i then s else
    let rw := r.mask .rw &&& ~~~keep
    let rws := r.mask .rws &&& ~~~keep
    let rsvl := r.mask .rsvl
    let gated := s.staging && !fixedBlock b && s.blockOn b
    let atOnce := s.staging && !fixedBlock b && !s.blockOn b
    let s := if gated && (r.mask .rw ||| r.mask .rws) != 0 then s.flagErr path off errStagedIgn else s
    let s := if gated then s else (s.wr p ((s.rd p &&& ~~~rw) ||| (v &&& rw))).zeroIsOne
    let s := if gated || rws = 0 then s
      else if atOnce then s.applyRws p rws v
      else { s with rf := { s.rf with staged := Sparse.set none s.rf.staged p (some (v &&& rws)) } }
    if (v ^^^ s.rd p) &&& rsvl = 0 then s else
    let s := s.flagErr path off errRsvl
    if path.isVf then s else
    let s := s.wr p ((s.rd p &&& ~~~rsvl) ||| (v &&& rsvl))
    if s.testBlocks = 0 || s.port.testHold then s else
      { s with port := { s.port with testHold := true } }.tellDm "HALTED" [s.self.toNat]
  | _, _ => s

/-- An access of a path to one register: nothing happens where the path does not reach it (DESIGN CHOICE, log 40). -/
def State.via (s : State) (path : Path) (p : Nat) (f : State → State) : State :=
  if s.busOpen path && (path.offsetOf p).isSome then f s else s

end Sys2Proof.Machine
end

