-- ==== Sys2Proof/Machine/Ouu.lean ====
section
/-!
DEFINITION. The optimiser update unit (08 R170-R186): the update table and its checks, the reload, the norm exchange, the
boundary pass, and the commands that write its registers.
-/

namespace Sys2Proof.Machine

/-! ### The update table (R171, Tables 8.2 to 8.4) -/

def utGroups (h : Nat) : Nat := fld h 15 0 + 1
def utSegs (h : Nat) : Nat := fld h 19 16 + 1
def utOnCeil (h : Nat) : Bool := bitOf h 20
def utLoupe (h : Nat) : Nat := fld h 29 24
def utGroup (h : Nat) : Nat := fld h 43 32
def utCeil (h : Nat) : Word := BitVec.ofNat 32 (fld h 95 64)
def utGscale (h : Nat) : Word := BitVec.ofNat 32 (fld h 127 96)
def utAllot (h : Nat) : Nat := fld h 143 128
def utStepFrames (h : Nat) : Nat := fld h 191 160

/-- The header and schedule that the OUU holds for a partition. -/
def State.ouuHeader (s : State) (p : Nat) : Nat := match (s.part p).ouu with
  | some c => c.header.toNat
  | none => 0

/-- The address of the table of a partition. -/
def State.ouuTable (s : State) (p : Nat) : Nat :=
  fld (s.rd (Reg.ouuTblLo p)).toNat 31 8 * 256 + s.rdFld (Reg.ouuTblHi p) 15 0 * 2 ^ 32

def firstOffset (checks : List (Bool × Nat)) : Option Nat := (checks.find? (·.1)).map (·.2)

/-- The checks of R172 on the header and on the segments in use, by ascending offset: the first failing field. -/
def State.headerCheck (s : State) (v : Nat) (h : Nat) (segs : List (BitVec 256)) : Option Nat :=
  let ceil := f32 (utCeil h)
  let e := s.groupEntry (utGroup h)
  let used := (segs.take (utSegs h)).zipIdx
  firstOffset ([
    (fld h 23 21 != 0 || fld h 31 30 != 0, 0x00),
    (fld h 63 44 != 0 || !bitOf e 0 || gTenant e != v || gPolicy e != 0 || gFailCont e, 0x04),
    (ceil == .nan || ceil.lt (.fin (Dy.zero false)), 0x08), (!(f32 (utGscale h)).isFin, 0x0C), (utAllot h == 0, 0x10),
    (fld h 511 192 != 0, 0x18)] ++
    used.flatMap fun (g, i) =>
      let w := g.toNat
      [(segKind g == 3 || fld w 63 42 != 0 ||
          (if i = 0 then segStart g != 0 else decide (segStart g ≤ segStart (segs.getD (i - 1) 0))), 0x40 + 32 * i),
       (segLen g == 0, 0x48 + 32 * i), (fld w 255 160 != 0, 0x54 + 32 * i)])

/-- Read the header and the schedule of a table. -/
def State.readHeader (s : State) (v a : Nat) : Option (Nat × List (BitVec 256)) :=
  match s.tenBytes v a 0x240 with
  | some bs => some (bytesToNat (bs.take 64), (chunks 32 (bs.drop 64)).map fun l => BitVec.ofNat 256 (bytesToNat l))
  | none => none

/-- The fields of a group descriptor. -/
def gdFactored (d : Nat) : Bool := fld d 1 0 == 1
def gdFirst (d : Nat) : Bool := bitOf d 2
def gdSr (d : Nat) : Bool := bitOf d 5
def gdGfmt (d : Nat) : Nat := fld d 11 8
def gdWfmt (d : Nat) : Nat := fld d 15 12
def gdCols (d : Nat) : Nat := fld d 63 32
def gdRows (d : Nat) : Nat := fld d 95 64
def gdElems (d : Nat) : Nat := gdRows d * gdCols d
def gdHasMom (d : Nat) : Bool := !gdFactored d || gdFirst d
def gdWide (d : Nat) : Bool := gdGfmt d != 0
def gdMx (d : Nat) : Bool := gdWfmt d != 1
def gdAddr (d off : Nat) : Nat := fld d (8 * off + 47) (8 * off)

/-- An array that a descriptor names: its slot's offset, its bytes, whether the OUU reads it and writes it. -/
structure OuuArray where
  off : Nat
  bytes : Nat
  reads : Nat
  writes : Bool

/-- The arrays in use of a descriptor, by ascending slot. -/
def gdArrays (d : Nat) : List OuuArray :=
  let n := gdElems d
  let twice := if gdFactored d then 2 else 1
  let gb := if gdGfmt d = 0 then 4 else if gdGfmt d = 9 then 8 else 16
  [⟨0x28, 4 * n, 1, true⟩, ⟨0x30, gb * n, twice, false⟩, ⟨0x38, if gdMx d then n else 2 * n, 0, true⟩] ++
  (if gdHasMom d then [⟨0x40, 4 * n, 1, true⟩] else []) ++
  (if gdFactored d then [⟨0x48, 4 * gdRows d, 1, true⟩, ⟨0x50, 4 * gdCols d, 1, true⟩] else []) ++
  (if gdWide d then [⟨0x58, n / 64 * 16, twice, false⟩] else []) ++
  (if gdMx d then [⟨0x60, n / 32, 0, true⟩] else [])

/-- The checks of R172 on one descriptor: the offset of its first failing field. -/
def State.groupDescCheck (s : State) (v d : Nat) : Option Nat :=
  let arrays := gdArrays d
  firstOffset ([
    (decide (1 < fld d 1 0) || fld d 7 6 != 0 || fld d 31 16 != 0 || !(gdGfmt d == 0 || gdGfmt d == 9 || gdGfmt d == 10) ||
      !(gdWfmt d == 1 || gdWfmt d == 3 || gdWfmt d == 4), 0x00),
    ((gdMx d && gdCols d % 32 != 0) || (gdFactored d && (gdCols d == 0 || decide (65536 < gdCols d))), 0x04),
    (decide (2 ^ 34 < gdElems d) || (gdWide d && gdElems d % 64 != 0), 0x08)] ++
    ([0x28, 0x30, 0x38, 0x40, 0x48, 0x50, 0x58, 0x60].map fun o =>
      (fld d (8 * o + 63) (8 * o + 48) != 0 || match arrays.find? (·.off == o) with
        | some a => gdAddr d o % 256 != 0 || !s.aptAllows v (gdAddr d o) a.bytes a.writes true
        | none => false, o)) ++
    [(fld d 1023 832 != 0, 0x68)])

/-- Where descriptor g lies in its table. -/
def gdOffset (g : Nat) : Nat := 0x240 + 128 * g

/-- The whole table by R172: the header and schedule where it is valid, else the offset of the first failing field; a
part that cannot be read fails at its first byte. -/
def State.tableCheck (s : State) (v a : Nat) : Except Nat OuuCopy :=
  if a % 256 ≠ 0 then .error 0 else
  match s.readHeader v a with
  | none => .error 0
  | some (h, segs) =>
    match s.headerCheck v h segs with
    | some o => .error o
    | none =>
      let bad := (List.range (utGroups h)).findSome? fun g => match s.tenBytes v (a + gdOffset g) 128 with
        | none => some (gdOffset g)
        | some bs => (s.groupDescCheck v (bytesToNat bs)).map (gdOffset g + ·)
      match bad with
      | some o => .error o
      | none => .ok { header := BitVec.ofNat 512 h, segments := segs }

/-! ### The reload (R173) -/

/-- The reads of a whole table's check: the header and schedule, then the descriptors where those are valid. -/
def State.tableReads (s : State) (v a : Nat) : State :=
  if a % 256 ≠ 0 then s else
  match s.readHeader v a with
  | none => s.meet v a 0x240
  | some (h, segs) =>
    let n := if (s.headerCheck v h segs).isSome then 0 else utGroups h
    (List.range n).foldl (fun s g => s.meet v (a + gdOffset g) 128) (s.meet v a 0x240)

/-- A requested reload is served before the norm exchange: it takes the new header and schedule, or is refused. -/
def State.applyReload (s : State) (p v : Nat) : State :=
  if !s.rdBit (Reg.ouuCtrl p) 0 then s else
  let s := (s.clrBit (Reg.ouuCtrl p) 0).meet v (s.ouuTable p) 0x240
  let refuse := fun (o : Nat) => (s.setBit (Reg.ouuPstat p) 6).wrFld (Reg.ouuPstat p) 31 8 o
  match s.readHeader v (s.ouuTable p) with
  | none => refuse 0
  | some (h, segs) =>
    match s.headerCheck v h segs with
    | some o => refuse o
    | none =>
      if utAllot h != utAllot (s.ouuHeader p) then refuse 0x10
      else if utStepFrames h != utStepFrames (s.ouuHeader p) then refuse 0x14
      else s.modPart p fun x => { x with ouu := some { header := BitVec.ofNat 512 h, segments := segs },
                                         led := x.led.map fun l => { l with changed := dedup (l.changed ++ [7]) } }

/-! ### The norm exchange (R175) -/

/-- Whether a reduction of the partition is still to complete (R15 action 1). -/
def State.reductionsOpen (s : State) (p : Nat) : Bool :=
  s.prism.colls.any (fun c => c.part == p && c.reduces && !c.finished) ||
  s.prism.queue.any fun q => q.part == p && (q.pop == 0 || q.pop == 1)

/-- The Loupe entries of the tensors that the ledger descriptor designates (R200). -/
def State.stepLoupes (s : State) (p : Nat) : List (BitVec 512) :=
  let mask := match (s.part p).led with
    | some l => fld l.desc.toNat 191 128
    | none => 0
  ((List.range 64).filter (bitOf mask)).map fun t => loupeEntry t (s.reports p t)

/-- With every reduction of the step complete: the reload, the step's Loupe entries, and the exchange of the partial sum
of squares (R15 actions 1 and 2, R173, R201, R175). -/
def State.startNorm (s : State) (p : Nat) : State :=
  let x := s.part p
  match x.job with
  | none => s
  | some j =>
    if x.action != 1 || x.abandoned || x.frozen || s.reductionsOpen p then s else
    let s := s.applyReload p j.tenant
    let h := s.ouuHeader p
    let own := loupeSsq32 (s.reports p (utLoupe h))
    let entries := s.stepLoupes p
    let s := s.modPart p fun x => { x with action := 2, loupes := entries, normPart := own, norm := none }
    (s.clearLoupe p).launch
      { part := p, tile := 64, launcher := 64, group := utGroup h, pop := 0, xl := 1, ds := 0, dt := 0, sfmt := 0, dfmt := 9,
        op := 0, ec := 0, rel := x.p.toNat + 1 - x.firstP.toNat, source := natToBytes 4 own.toNat,
        frameF := if x.boundaryFrame = 0 then x.f + 1 else x.f }

/-- The exchange has completed: the pass is due. -/
def State.normDone (s : State) (p : Nat) : State :=
  let x := s.part p
  if x.action = 2 && x.norm.isSome then s.modPart p fun x => { x with action := 3 } else s

/-- What a completed collective lets the boundary of its partition do. -/
def State.afterColl (s : State) (p : Nat) : State := (s.startNorm p).normDone p

/-! ### The pass (R174-R182) -/

/-- The extents of a descriptor's arrays that a pass reads, and all the bytes that it moves. -/
def gdReads (d : Nat) : List (Nat × Nat) := ((gdArrays d).filter (·.reads != 0)).map fun a => (gdAddr d a.off, a.bytes)
def gdMoved (d : Nat) : Nat := (gdArrays d).foldl (fun n a => n + a.bytes * (a.reads + b2n a.writes)) 0

/-- The last words of arrays that a pass only writes, where it writes part of them: a read-modify-write (R221). -/
def gdEdges (d : Nat) : List (Nat × Nat) :=
  ((gdArrays d).filter fun a => a.reads == 0 && a.bytes % 64 != 0).map fun a => (gdAddr d a.off + a.bytes / 64 * 64, a.bytes % 64)

/-- The first uncorrectable word that a pass over a group meets. -/
def State.groupBad (s : State) (v d : Nat) : Option Nat :=
  (gdReads d ++ gdEdges d).findSome? fun (a, n) => ((s.tenAddrs v a n).getD []).find? fun x => s.mem.memBad.contains (x / 64)

def State.tenWords (s : State) (v a n : Nat) : State × List Word :=
  let r := s.readTen v a (4 * n)
  (r.st, words32 r.bytes)

/-- The accumulator as binary32 (R89). -/
def State.gradOf (s : State) (v d : Nat) : State × List Word :=
  let n := gdElems d
  let f : Fmt := if gdGfmt d = 9 then .ws64 else if gdGfmt d = 10 then .ws128 else .b32
  let data := s.readTen v (gdAddr d 0x30) (f.bytesFor n)
  let side := if gdWide d then data.st.readTen v (gdAddr d 0x58) (n / 64 * 16) else ⟨[], none, data.st⟩
  (side.st, (arrayVals f n data.bytes side.bytes).map (toF32 .rne))

/-- The scalars of a descriptor, with its group's rate. -/
def gdScalars (d rate : Nat) : GroupScalars :=
  let w := fun (off : Nat) => BitVec.ofNat 32 (fld d (8 * off + 31) (8 * off))
  { nest := bitOf d 3, first := bitOf d 2, decay := bitOf d 4, lrw := BitVec.ofNat 32 rate, beta1 := w 0x10,
    beta2 := w 0x14, eps := w 0x18, wd := w 0x1C, damp := w 0x20 }

/-- The working copy of updated masters: its bytes and its scale bytes (R180). No descriptor of Table 8.4 names a
tensor of Loupe or a counter of saturations, so the casts are counted in none (DESIGN CHOICE, log 175). -/
def workingCopy (d : Nat) (md : Nat → RMode) (ws : List Word) : List Byte × List Byte :=
  if gdMx d then
    let f : Fmt := if gdWfmt d = 3 then .e4m3 else .e5m2
    let blocks := (chunks 32 ws).mapIdx fun b l => f.castBlock (fun i => md (32 * b + i)) (l.map f32)
    (packElems f (blocks.flatMap fun b => b.2.map (·.1)), blocks.map fun b => BitVec.ofNat 8 b.1)
  else (packElems .bf16 (ws.mapIdx fun i w => Fmt.bf16.ofVal (md i) (f32 w)), [])

/-- The arrays of a group as its pass reads them: the accumulator, the masters, the moment, the factors. -/
def State.readGroup (s : State) (v d : Nat) : State × List Word × GroupData :=
  let n := gdElems d
  let read := fun (s : State) (off cnt : Nat) (used : Bool) => if used then s.tenWords v (gdAddr d off) cnt else (s, [])
  let gr := s.gradOf v d
  let w := read gr.1 0x28 n true
  let m := read w.1 0x40 n (gdHasMom d)
  let rf := read m.1 0x48 (gdRows d) (gdFactored d)
  let cf := read rf.1 0x50 (gdCols d) (gdFactored d)
  (cf.1, gr.2, { w := w.2, m := if gdHasMom d then m.2 else List.replicate n 0, rowf := rf.2, colf := cf.2 })

/-- Write an array of a group where its descriptor uses it. -/
def State.putArray (s : State) (v d off : Nat) (bytes : List Byte) (used : Bool) : State :=
  if used then (s.writeTen v (gdAddr d off) bytes).2 else s

/-- What a pass writes: masters, working copy, moment, factors. -/
def State.writeGroup (s : State) (v d : Nat) (x : GroupData) (wc : List Byte × List Byte) : State :=
  (((((s.putArray v d 0x28 (bytes32 x.w) true).putArray v d 0x38 wc.1 true).putArray v d 0x40 (bytes32 x.m) (gdHasMom d)).putArray
    v d 0x48 (bytes32 x.rowf) (gdFactored d)).putArray v d 0x50 (bytes32 x.colf) (gdFactored d)).putArray v d 0x60 wc.2 (gdMx d)

/-- The group's new data (R176-R180). -/
def updated (d : Nat) (kind : PassKind) (gscale lr : Word) (gr : List Word) (x : GroupData) : GroupData :=
  let sc := gdScalars d (mulF32 lr (BitVec.ofNat 32 (fld d 127 96))).toNat
  let gs := gr.map (kind.scale gscale)
  if gdFactored d then sc.factoredAll (gdRows d) (gdCols d) gs x else sc.oneMomentAll gs x

/-- The pass over group g: read, update, write masters, moment, factors, working copy. A group descriptor carries
no LE and no LOUPE field, so its writes report to no tensor (DESIGN CHOICE, log 175). -/
def State.updateGroup (s : State) (p v step : Nat) (kind : PassKind) (gscale lr : Word) (g d : Nat) : State :=
  let r := s.readGroup v d
  let x := updated d kind gscale lr r.2.1 r.2.2
  let seed := (r.1.part p).seed.toNat
  let md := fun (e : Nat) => if gdSr d then RMode.sr (draw16 seed step (0xFF0000 + g) e) else .rne
  r.1.writeGroup v d x (workingCopy d md x.w)

/-- The pass abandons the step (R18): the boundary goes no further. -/
def State.abandonPass (s : State) (p : Nat) : State := s.modPart p fun x => { x with abandoned := true }

/-- An uncorrectable word met by the pass: a record, the message to the domain manager, the step abandoned (R223). -/
def State.passUe (s : State) (p da : Nat) : State :=
  let x := s.part p
  let s := s.noteHbmUe (da / 64 * 64)
  let s := s.logEvent { kind := 1, source := 3, tenant := s.tenantOfPart p, part := p, f := x.f.toNat,
                        step := x.closing.toNat, p := x.p.toNat, addr := some (1, da / 64 * 64), jobId := (s.jobIdOf p).toNat }
  (s.tellDm "ABANDON" [(s.jobIdOf p).toNat]).abandonPass p

/-- What every pass leaves in the OUU's registers and totals. -/
def State.closePass (s : State) (p : Nat) (kind : PassKind) (norm lr : Word) (moved framesTaken : Nat) : State :=
  let pst := Reg.ouuPstat p
  let s := ((s.wrFld pst 1 0 kind.last).wrFld pst 2 2 kind.reason).wr (Reg.ouuLr p) lr
  let s := s.wr (Reg.ouuNorm p) norm
  let s := match kind with
    | .apply => s
    | .clip _ => s.bump (Reg.ouuClipCnt p) 1
    | _ => s.bump (Reg.ouuSkipCnt p) 1
  let s := if utAllot (s.ouuHeader p) < framesTaken then s.setBit pst 3 else s
  s.modPart p fun x => { x with action := 4, passTaken := framesTaken, ouuBytes := BitVec.ofNat 64 moved, ouuGtc := s.now, ouuStep := x.closing,
                                lastStepDefer := kind.skips && x.decisions.any (·.kind == 0) }

/-- What a pass decides of its step: N, what it does, the rate (R176, R177). -/
structure PassPlan where
  norm : Word
  kind : PassKind
  lr : Word

def State.passPlan (s : State) (p : Nat) (g2 : Word) : PassPlan :=
  let h := s.ouuHeader p
  let norm := normOf (utGscale h) g2
  let segs := match (s.part p).ouu with
    | some c => c.segments.take (utSegs h)
    | none => []
  { norm := norm, kind := decidePass norm (utCeil h) (utOnCeil h), lr := scheduleRate segs (s.part p).closing.toNat }

/-- Groups of the pass are updated: descriptors with their numbers. -/
def State.passOver (s : State) (p v : Nat) (x : PassPlan) (ds : List (Nat × Nat)) : State :=
  let step := (s.part p).closing.toNat
  let gscale := utGscale (s.ouuHeader p)
  ds.foldl (fun s e => s.updateGroup p v step x.kind gscale x.lr e.2 e.1) s

/-- A pass that is cut short had written some of the groups that it can read, whichever (free, log 47). -/
def State.passPart (s : State) (p v : Nat) (x : PassPlan) (ds : List Nat) : State :=
  let n := s.fresh
  n.2.passOver p v x (ds.zipIdx.filter fun e => (s.groupBad v e.1).isNone && Config.passWrote n.1 e.2)

/-- The pass over the descriptors that were read. -/
def State.runPass (s : State) (p v : Nat) (ds : List Nat) (g2 : Word) (framesTaken : Nat) : State :=
  let x := s.passPlan p g2
  let moved := 128 * ds.length + (if x.kind.skips then 0 else ds.foldl (fun n d => n + gdMoved d) 0)
  if x.kind.skips then s.closePass p x.kind x.norm x.lr moved framesTaken else
  match ds.findSome? fun d => s.groupBad v d with
  | none => (s.passOver p v x ds.zipIdx).closePass p x.kind x.norm x.lr moved framesTaken
  | some da => (s.passPart p v x ds).passUe p da

/-- Read and check every descriptor before anything is written (R172). -/
def State.passDescs (s : State) (v a : Nat) (n : Nat) : Except (Sum Nat Nat) (List Nat) :=
  (List.range n).foldl (fun acc g => match acc with
    | .error e => .error e
    | .ok ds =>
      let at' := a + gdOffset g
      match s.tenAddrs v at' 128 with
      | none => .error (.inr (gdOffset g))
      | some das =>
        match das.find? fun x => s.mem.memBad.contains (x / 64) with
        | some da => .error (.inl da)
        | none =>
          let d := bytesToNat (das.map s.devByte)
          match s.groupDescCheck v d with
          | some o => .error (.inr (gdOffset g + o))
          | none => .ok (ds ++ [d])) (.ok [])

/-- Correctable words that the reads of n descriptors meet are corrected and counted (R221). -/
def State.correctDescs (s : State) (v a n : Nat) : State :=
  (List.range n).foldl (fun s g => match s.tenAddrs v (a + gdOffset g) 128 with
    | some das => if das.any fun x => s.mem.memBad.contains (x / 64) then s else s.correctDev das
    | none => s) s

/-- A pass of the partition whose turn it is, once its first allotted frame has begun (R174, R182). -/
def execOuuPass (p : Fin 8) (framesTaken : Nat) (errs : List CellError) (s : State) : Host.Outcome State Fault Refusal :=
  let x := s.part p.val
  match x.job, x.norm with
  | some j, some g2 =>
    if x.abandoned || !s.blockOn 9 || s.halted || s.flt.run.isSome || s.flt.memReset || s.ouuQueue.head? != some p.val then .next s else
    let s := (s.inject errs).correctDescs j.tenant (s.ouuTable p.val) (utGroups (s.ouuHeader p.val))
    match s.passDescs j.tenant (s.ouuTable p.val) (utGroups (s.ouuHeader p.val)) with
    | .error (.inl da) => .next (s.passUe p.val da)
    | .error (.inr o) =>
      let s := (s.setBit (Reg.ouuPstat p.val) 4).wrFld (Reg.ouuPstat p.val) 31 8 o
      .next ((s.emit (.report .ouuTable j.jobId o)).abandonPass p.val)
    | .ok ds => .next (s.runPass p.val j.tenant ds g2 framesTaken)
  | _, _ => .next s

/-- A compute-domain reset cuts the pass that was running (R184): what it had written stays written. -/
def State.cutPass (s : State) (p : Nat) : State :=
  match (s.part p).job, (s.part p).norm with
  | some j, some g2 =>
    if s.ouuQueue.head? != some p then s else
    let x := s.passPlan p g2
    match s.passDescs j.tenant (s.ouuTable p) (utGroups (s.ouuHeader p)) with
    | .ok ds => if x.kind.skips then s else s.passPart p j.tenant x ds
    | .error _ => s
  | _, _ => s

/-! ### Registers (R173, R185) -/

def execOuuReload (path : Path) (p : Fin 8) (s : State) : Host.Outcome State Fault Refusal :=
  .next (s.via path (Reg.ouuCtrl p.val) fun s => s.setBit (Reg.ouuCtrl p.val) 0)

def execOuuTblWrite (path : Path) (p : Fin 8) (high : Bool) (value : Word) (s : State) : Host.Outcome State Fault Refusal :=
  let r := if high then Reg.ouuTblHi p.val else Reg.ouuTblLo p.val
  .next (s.via path r fun s =>
    if (s.part p.val).running then s.setBit (Reg.ouuPstat p.val) 5 else s.writeFields path r value 0)

end Sys2Proof.Machine
end

