-- ==== Sys2Proof/Machine/Prism.lean ====
section
/-!
DEFINITION. The commands of Prism (06 R120-R145): messages, the deadline, a shard's completion, the completion of a
collective and of a barrier, member failure, and the group table window.
-/

namespace Sys2Proof.Machine

/-! ### Messages (R124, R127, R129, R131) -/

def execContribHeader (id : CollId) (rank : ChipId) (h : LaunchHeader) (s : State) : Host.Outcome State Fault Refusal :=
  .next (s.onHeader id rank h)

def execMismatchNotice (id : CollId) (s : State) : Host.Outcome State Fault Refusal := .next (s.onMismatch id)

def execAnchorEc (id : CollId) (rank : ChipId) (block : Nat) (ec : BitVec 16) (s : State) :
    Host.Outcome State Fault Refusal := .next (s.onEc id rank block ec)

def execAnchorReply (id : CollId) (owner : ChipId) (block : Nat) (anchor : BitVec 16) (s : State) :
    Host.Outcome State Fault Refusal := .next (s.onReply id owner block anchor)

def execContribution (id : CollId) (rank : ChipId) (data side : List Byte) (s : State) :
    Host.Outcome State Fault Refusal := .next ((s.onContribution id rank data side).pumpQueue)

def execShardResult (id : CollId) (owner : ChipId) (data side : List Byte) (present : List ChipId) (s : State) :
    Host.Outcome State Fault Refusal := .next (s.onResult id owner data side present)

def execCountExchange (id : CollId) (rank : ChipId) (count : Word) (s : State) : Host.Outcome State Fault Refusal :=
  .next (s.onCount id rank count)

def execCapacityNotice (id : CollId) (s : State) : Host.Outcome State Fault Refusal := .next (s.onCapacity id)

/-! ### The deadline (R137, R139) -/

/-- The deadline tick of an owner comes. -/
def execDeadline (id : CollId) (s : State) : Host.Outcome State Fault Refusal :=
  match s.findColl id with
  | none => .next s
  | some c => .next (if s.hasDeadline c then (s.reach (s.deadlineAt c)).passDeadline c else s)

/-! ### A shard completes at its owner (R127-R130, R138) -/

/-- The owner's own contribution of a wide shard, converted against the anchors it formed. -/
def State.ownContribution (s : State) (c : Coll) : Option Trouble × State :=
  if !c.wide || c.fixedAnchor || c.contribs.any (·.rank == c.rank) || c.shardLen c.rank = 0 then (none, s) else
  let n := c.shardLen c.rank
  let src := s.collSource c (c.runs c.rank)
  match src.1.bad with
  | some b => (some b, src.1.st)
  | none =>
    let anchors := (List.range (c.blocks c.rank)).map fun b => c.anchorFor b wsEmpty
    let d := blockData n (c.convertShard n src.1.bytes src.2 anchors)
    (none, src.1.st.modColl c.id fun c => { c with contribs := c.contribs ++ [⟨c.rank, d.1, d.2⟩] })

/-- Whether every contribution that the owner waits for is in, and every anchor formed. -/
def Coll.shardReady (c : Coll) : Bool :=
  (c.missing.isEmpty) && (!c.wide || c.fixedAnchor || (List.range (c.blocks c.rank)).all fun b => c.anchors.any (·.1 == b))

/-- The lowest rank of which a wide-sum contribution holds a clamp. -/
def Coll.clamping (c : Coll) : Option Nat :=
  if !c.wide then none else
  (List.range c.n).find? fun r => c.contribs.any fun k =>
    k.rank == r && (wsBlocks c.width k.data k.side).any fun b => sideClamp b.side

/-- The owner reduces its shard, records a clamp, checks the defer slot, keeps or sends the result. -/
def State.completeShard (s : State) (id : CollId) : State :=
  match s.findColl id with
  | none => s
  | some c =>
    let red := s.reduceShard c c.order
    let m := s.slotCheck c
    match m.1 with
    | some b => m.2.trouble c.seat b
    | none =>
    let s := m.2
    let s := s.modColl id fun c => { c with shardDone := true }
    if red.conflict then
      match s.findColl id with
      | some c => s.failColl c 0x12
      | none => s
    else
      let present := c.contribs.map (·.rank)
      let s := match c.clamping with
        | some r => (((s.modColl id fun c => { c with clampRank := some r, clamped := true }).setBit Reg.prmEvent 4).bump
            Reg.prmClampCnt 1).decideColl c r 7 0 0
        | none => s
      let s := if c.pop = 0 then
          ((List.range c.n).filter (· != c.rank)).foldl (fun s r => s.toRank c r "RESULT" present red.data red.side) s
        else s
      s.onResult id (BitVec.ofNat 14 c.rank) red.data red.side (present.map (BitVec.ofNat 14))

def execShardComplete (id : CollId) (s : State) : Host.Outcome State Fault Refusal :=
  match s.findColl id with
  | none => .next s
  | some c =>
    if !c.reduces || c.code != 0 || c.finished || c.shardDone || !c.shardReady || c.shardLen c.rank = 0 then .next s else
    match s.ownContribution c with
    | (some b, s) => .next (s.trouble c.seat b)
    | (none, s) => .next (s.completeShard id)

/-! ### Status and completion (R142) -/

/-- Whether everything that this member waits for has come. -/
def Coll.ready (c : Coll) : Bool :=
  if c.pop = 6 then (List.range c.n).all c.headers.contains
  else c.awaits.all fun j => c.results.any (·.1 == j)

/-- The mask of R142: the ranks present in every shard received, and those in some. A collective that failed has
received no whole result: no rank is present (log 33). -/
def Coll.presence (c : Coll) : List Nat × List Nat :=
  let all := List.range c.n
  if c.code.toNat ≥ 0x10 then ([], [])
  else if c.reduces then
    (all.filter fun r => c.results.all fun e => e.2.contains r, all.filter fun r => c.results.any fun e => e.2.contains r)
  else (all.filter fun r => !c.failed.contains r, all.filter fun r => !c.failed.contains r)

/-- The ranks that some owner completed its shard without, failed members apart: they were late there. -/
def Coll.lateRanks (c : Coll) : List Nat :=
  if !c.reduces then [] else
  (List.range c.n).filter fun r => !c.failed.contains r && c.results.any fun e => !e.2.contains r

/-- The 64-byte status entry (Table 6.5). -/
def State.statusEntry (s : State) (c : Coll) : BitVec 512 :=
  let pr := c.presence
  let g := c.entry
  let lates := if c.code.toNat ≥ 0x10 then [] else c.lateRanks
  let bad := decide (c.code.toNat ≥ 0x10)
  let deferred := c.deferredFlag || (!lates.isEmpty && gPolicy g == 1 && !c.noRoom g)
  let dropped := c.droppedFlag || (!lates.isEmpty && (gPolicy g == 2 || c.noRoom g))
  let code := if bad then c.code.toNat else if lates.isEmpty && c.failed.isEmpty then 0 else 1
  let absent := (List.range c.n).find? fun r => !pr.1.contains r
  BitVec.ofNat 512 (packFields [(0, 32, c.id.seq.toNat), (32, 24, c.sseq.toNat), (56, 8, code), (64, 40, c.step.toNat),
    (128, 1, 1), (129, 1, b2n !bad), (130, 1, b2n (!lates.isEmpty || c.lateCount != 0)), (131, 1, b2n deferred),
    (132, 1, b2n dropped), (133, 1, b2n (!c.failed.isEmpty || c.code = 0x10)), (134, 1, b2n c.clampRank.isSome),
    (135, 1, b2n (pr.2.any fun r => !pr.1.contains r)), (136, 4, c.pop.toNat), (160, 16, min 0xFFFF pr.1.length),
    (176, 16, min 0xFFFF c.lateCount), (192, 16, absent.getD 0xFFFF), (208, 16, c.clampRank.getD 0xFFFF),
    (256, 64, s.now.toNat)])

/-- Where the status entry and the mask of a collective lie (R142). -/
def Coll.statusAt (c : Coll) (g : Nat) : Nat × Nat :=
  let k := 2 ^ gStatusLog g
  let mb := maskBytes (gNmem g + 1)
  let area := gStatusBase g + c.id.launcher.val * k * (64 + mb)
  (area + c.id.seq.toNat % k * 64, area + k * 64 + c.id.seq.toNat % k * mb)

/-- The bytes that Prism wrote, in the digest's order: the destination by ascending offset, then the scale, side or count
array (R196). -/
def Coll.writtenBytes (c : Coll) : List Byte := c.written.flatMap (·.2)

/-- The launching operation of a completed collective: its counter rises, or, for a fused sink, the counter after the
drain's (R132); a FENCE.G ends. The exchange of the optimiser gives G2 (08 R175). -/
def State.creditColl (s : State) (c : Coll) : State :=
  if c.ouu then
    if c.code != 0 then s else
    let g2 := match (wsBlocks 64 c.source c.sourceSide).head? with
      | some b => toF32 .rne (b.val 0)
      | none => 0
    s.modPart c.part fun x => { x with norm := some g2 }
  else
    let s := if c.pop = 6 then s else s.digestFill c.tile c.op c.writtenBytes
    if c.fused then s.modTile c.tile fun x => x.bumpE c.ec
    else
      let s := s.modTile c.tile fun x => match x.fence with
        | some (.group _ (some o)) => if o == c.op then { x with fence := none } else x
        | _ => x
      s.finishOp c.tile c.op

/-- Prism writes the status entry and the mask, then counts the completion; a write that finds no read-write mapping
faults the launching tile. -/
def State.completeColl (s : State) (c : Coll) : State :=
  let g := c.entry
  let at' := c.statusAt g
  let mask := c.presence.1.foldl (fun m r => m + 2 ^ r) 0
  let entry := s.statusEntry c
  let w := s.unitPut c.seat (tenDesc at'.1)
    [(at'.2, natToBytes (maskBytes c.n) mask), (at'.1, natToBytes 64 entry.toNat)]
  match w.1 with
  | some b => (w.2.modColl c.id fun c => { c with finished := true }).trouble c.seat b
  | none =>
    let s := w.2
    let s := if c.code = 0x11 then s.setBit Reg.prmEvent 2 else if c.code = 0x12 then s.setBit Reg.prmEvent 3 else s
    (((s.modColl c.id fun c => { c with finished := true }).creditColl c).forget c.id).pumpQueue

/-- Whether every earlier collective of the group and launcher has completed (R124). -/
def State.inTurn (s : State) (c : Coll) : Bool :=
  !((s.prism.colls.takeWhile (·.id != c.id)).any fun d =>
    d.group == c.group && d.id.launcher == c.id.launcher && !d.finished)

def execCollectiveComplete (id : CollId) (s : State) : Host.Outcome State Fault Refusal :=
  match s.findColl id with
  | none => .next s
  | some c =>
    if c.finished || !s.inTurn c || !(c.code != 0 || (c.pop != 6 && c.ready)) then .next s else .next ((s.completeColl c).afterColl c.part)

def execBarrierComplete (id : CollId) (s : State) : Host.Outcome State Fault Refusal :=
  match s.findColl id with
  | none => .next s
  | some c =>
    if c.finished || !s.inTurn c || c.code != 0 || c.pop != 6 || !c.ready then .next s else .next ((s.completeColl c).afterColl c.part)

/-! ### Member failure by timeout (R141) -/

def execMemberFailTimeout (id : CollId) (rank : ChipId) (s : State) : Host.Outcome State Fault Refusal :=
  match s.findColl id with
  | none => .next s
  | some c =>
    let ticks := gFailTicks (c.entry)
    if ticks = 0 || c.finished || c.code != 0 || c.headers.contains rank.toNat || decide (c.n ≤ rank.toNat) then .next s else
    let s := s.reach (s.tickAt c.part (c.frameF.toNat + ticks))
    .next (s.memberFails c rank.toNat)

/-! ### The group table window (R121, R145) -/

/-- RESULT and ERR_OFF of a table window's status register. -/
def State.setResult (s : State) (status result errHi errOff : Nat) : State :=
  (s.wrFld status 7 4 result).wrFld status errHi 8 errOff

/-- The staged words of a window, as one number. -/
def State.staged (s : State) (first n : Nat) : Nat :=
  packFields ((List.range n).map fun i => (32 * i, 32, (s.rd (first + 4 * i)).toNat))

/-- Fill the staged words of a window. -/
def State.stage (s : State) (first n w : Nat) : State :=
  (List.range n).foldl (fun s i => s.wr (first + 4 * i) (BitVec.ofNat 32 (w / 2 ^ (32 * i)))) s

/-- Commit an entry at an index: RESULT, ERR_OFF and the state after it. -/
def State.commitGroup (s : State) (i g : Nat) : (Nat × Nat) × State :=
  let r := s.groupCheck g (s.groupBusy i)
  let s := (List.range (gPhases g)).foldl (fun s i => s.meetList (gTenant g) (gList g i)) s
  if r.1 != 0 then (r, s) else (r, s.setGroup i (BitVec.ofNat 1024 g))

/-- Invalidate an index: IN_FLIGHT while a collective of it is in flight. -/
def State.dropGroup (s : State) (i : Nat) : Nat × State :=
  if s.groupBusy i then (1, s) else
  (0, { s with prism := { s.prism with
    next := s.prism.next.filter (·.1 != i),
    groups := Sparse.update 0 s.prism.groups i fun e => BitVec.ofNat 1024 (setFld e.toNat 0 0 0) } })

def State.gtwIndex (s : State) : Nat := s.rdFld Reg.prmGtwIdx 11 0

/-- A command of the group window, unless one is running. -/
def State.gtw (s : State) (path : Path) (f : State → State) : State :=
  s.via path Reg.prmGtwCmd fun s => if s.rdBit Reg.prmGtwStatus 0 then s.setBit Reg.prmEvent 8 else f s

def execGtwCommit (path : Path) (s : State) : Host.Outcome State Fault Refusal :=
  .next (s.gtw path fun s =>
    let r := s.commitGroup s.gtwIndex (s.staged (Reg.prmGtwData 0) 32)
    r.2.setResult Reg.prmGtwStatus r.1.1 14 r.1.2)

def execGtwInvalidate (path : Path) (s : State) : Host.Outcome State Fault Refusal :=
  .next (s.gtw path fun s =>
    let r := s.dropGroup s.gtwIndex
    r.2.setResult Reg.prmGtwStatus r.1 14 0)

def execGtwRead (path : Path) (s : State) : Host.Outcome State Fault Refusal :=
  .next (s.gtw path fun s =>
    (s.stage (Reg.prmGtwData 0) 32 (s.groupEntry s.gtwIndex)).setResult Reg.prmGtwStatus 0 14 0)

end Sys2Proof.Machine
end

