-- ==== Sys2Proof/Machine/Kal.lean ====
section
/-!
DEFINITION. Kaleidoscope (07 R146-R156, R162-R164): the ring table and its window, the rotation of a block from its KROT to
its hop record, and the failures that end one. Two rows of Prism stand here because a failed chip is a ring neighbour as
well: SOURCE_RESET_NOTICE and FAIL_DECLARATION.
-/

namespace Sys2Proof.Machine

/-! ### Ring entries (R147, R148, Table 7.1) -/

def State.ring (s : State) (r : Nat) : Nat := (Sparse.get 0 s.kal.rings r).toNat

def rCut (e : Nat) : Nat := fld e 2 1
def rTenant (e : Nat) : Nat := fld e 16 8
def rPart (e : Nat) : Nat := fld e 19 17
def rSize (e : Nat) : Nat := fld e 39 32 + 1
def rPos (e : Nat) : Nat := fld e 55 48
def rTag (e : Nat) : Nat := fld e 95 64
def rSeqLen (e : Nat) : Nat := fld e 120 96
def rSucc (e : Nat) : Nat := fld e 141 128
def rSuccBundle (e : Nat) : Nat := fld e 149 144
def rPred (e : Nat) : Nat := fld e 173 160
def rPredBundle (e : Nat) : Nat := fld e 181 176
def rFailTicks (e : Nat) : Nat := fld e 207 192
def rLauncher (e : Nat) : Nat := fld e 213 208

/-- Whether a KROT on the entry is outstanding or queued. -/
def State.ringBusy (s : State) (r : Nat) : Bool := s.kal.krots.any (·.ring == r)

/-- RESULT and ERR_OFF of a commit of entry e at index r. -/
def State.ringCheck (s : State) (r e : Nat) : Nat × Nat :=
  let n := rSize e
  let unit := (if rCut e = 1 then 2 * n else n) * 128
  let checks : List (Bool × Nat × Nat) :=
    [(s.ringBusy r, 1, 0),
     (fld e 7 3 != 0 || fld e 31 20 != 0 || decide (2 ≤ rCut e), 2, 0x00),
     (fld e 47 40 != 0 || fld e 63 56 != 0 || n == 1 || decide (n ≤ rPos e), 2, 0x04),
     (rTag e == 0, 2, 0x08),
     (fld e 127 121 != 0 || rSeqLen e == 0 || decide (16777216 < rSeqLen e) || rSeqLen e % unit != 0, 2, 0x0C),
     (fld e 143 142 != 0 || fld e 159 150 != 0, 2, 0x10),
     (fld e 175 174 != 0 || fld e 191 182 != 0, 2, 0x14),
     (fld e 223 214 != 0 || decide (s.partSize (rPart e) ≤ rLauncher e), 2, 0x18),
     (fld e 255 224 != 0, 2, 0x1C),
     (rSucc e == s.self.toNat || !s.bundleOk (rSuccBundle e), 4, 0x10),
     (rPred e == s.self.toNat || !s.bundleOk (rPredBundle e), 4, 0x14)]
  match checks.find? (·.1) with
  | some c => c.2
  | none => (0, 0)

/-- Commit an entry: an accepted one resets the hop sequence, and changes the fingerprint items of its tenant's jobs. -/
def State.commitRing (s : State) (r e : Nat) : (Nat × Nat) × State :=
  let c := s.ringCheck r e
  if c.1 != 0 then (c, s) else
  (c, { s with kal := { s.kal with
      rings := Sparse.set 0 s.kal.rings r (BitVec.ofNat 256 e),
      hops := Sparse.set 0 s.kal.hops r 0,
      grants := s.kal.grants.filter (·.1 != r) } }.markItems (rTenant e) 6)

/-- Invalidate an index: IN_FLIGHT while a KROT of it is outstanding or queued. -/
def State.dropRing (s : State) (r : Nat) : Nat × State :=
  if s.ringBusy r then (1, s) else
  (0, { s with kal := { s.kal with
    rings := Sparse.update 0 s.kal.rings r fun e => BitVec.ofNat 256 (setFld e.toNat 0 0 0) } })

/-! ### The KROT of a tile (R149) -/

/-- The ring that the slot names. -/
def s3Ring (w : Nat) : Nat := fld w 36 33

/-- The extents of an end of the rotation: the block, and the 64 bytes of its record. -/
def krotExtents (d : Desc) (xl : Nat) : List (Nat × Nat) := [(d.base, xl), (d.aux, 64)]

def State.krotCheck (s : State) (t : Nat) (x : Tile) (w : Nat) : Option Nat :=
  let e := s.ring (s3Ring w)
  let p := s.partOf t
  let xl := (x.getX (s3Xl w)).toNat
  let ds := Desc.ofBits (x.getD (s3Ds w))
  let dt := Desc.ofBits (x.getD (s3Dt w))
  match [s.descCheck t ds (krotExtents ds xl) false false false,
      s.descCheck t dt (krotExtents dt xl) true false false].findSome? id with
  | some c => some c
  | none => firstCode [
      (!bitOf e 0 || rTenant e != s.tenantOfPart p || rPart e != p, exMove),
      (s.relTile t != rLauncher e, exMove),
      (xl == 0 || xl % 256 != 0 || decide (2 ^ 36 < xl), exMove),
      (decide (1 < ds.space) || decide (1 < dt.space), exMove),
      (ds.aux % 64 != 0 || dt.aux % 64 != 0, exMove)]

/-! ### Rotations in flight (R150, R151) -/

/-- The oldest rotation of a ring. -/
def State.krotHead (s : State) (r : Nat) : Option Krot := s.kal.krots.find? (·.ring == r)

def State.setKrot (s : State) (k : Krot) : State :=
  { s with kal := { s.kal with krots := s.kal.krots.map fun j => if j.ring == k.ring && j.hop == k.hop then k else j } }

/-- Send the block of a ring's oldest rotation once its grant is held (steps 2 and 3 of R150), on a chip that is not halted (R334). -/
def State.krotSend (s : State) (r : Nat) : State :=
  match s.krotHead r with
  | none => s
  | some k =>
    if !s.kal.grants.contains (r, k.hop) || k.granted || k.status != 0 || s.halted then s else
    let e := s.ring r
    let d := Desc.ofBits k.ds
    let s := { s with kal := { s.kal with grants := s.kal.grants.filter (· != (r, k.hop)) } }
    let rec' := s.getBytes k.tile d d.aux 64
    let g := if rec'.bad.isNone then rec'.st.getBytes k.tile d d.base k.xl else rec'
    match g.bad with
    | some b => (g.st.setKrot { k with granted := true }).trouble k.tile b
    | none =>
      let h := bytesToNat rec'.bytes
      let origin := if fld h 415 384 = rTag e then fld h 47 40 else rPos e
      let s := g.st.setKrot { k with granted := true }
      let s := { s with kal := { s.kal with sent := s.kal.sent + BitVec.ofNat 64 k.xl } }
      s.emit (.ring (BitVec.ofNat 14 (rSucc e)) (rSuccBundle e) (BitVec.ofNat 32 (rTag e)) k.hop "DATA" [k.xl, origin] g.bytes)

/-- The effect of an executing KROT: it takes the next hop number and grants that hop to the predecessor. -/
def State.krotEffect (s : State) (t : Nat) (x : Tile) (w : Nat) : State :=
  let r := s3Ring w
  let e := s.ring r
  let xl := (x.getX (s3Xl w)).toNat
  let ds := Desc.ofBits (x.getD (s3Ds w))
  let dt := Desc.ofBits (x.getD (s3Dt w))
  let id := s.nextOp t
  let hop := Sparse.get 0 s.kal.hops r
  let s := s.startOp t { kind := .krot, ec := s3Ec w, span := s3Span w, reads := s.spans t ds (krotExtents ds xl),
                         writes := s.spans t dt (krotExtents dt xl) }
  let s := s.digest t id [] false
  let k : Krot := { ring := r, hop := hop, tile := t, op := id, ds := x.getD (s3Ds w), dt := x.getD (s3Dt w),
                    xl := xl, frameF := x.frameF, granted := false, acked := 0, received := 0, first := false, origin := 0,
                    bytes := [], status := 0 }
  let s := { s with kal := { s.kal with hops := Sparse.set 0 s.kal.hops r (hop + 1), krots := s.kal.krots ++ [k] } }
  let s := s.emit (.ring (BitVec.ofNat 14 (rPred e)) (rPredBundle e) (BitVec.ofNat 32 (rTag e)) hop "GRANT" [] [])
  s.krotSend r

/-! ### The hop record (R152, Table 7.2) -/

/-- The class of a query chunk and a key chunk: 1 FULL, 2 DIAG, 0 EMPTY. -/
def maskClass (x y : Nat) : Nat := if y < x then 1 else if y = x then 2 else 0

/-- Tokens per chunk. -/
def chunkOf (e : Nat) : Nat := if rCut e = 1 then rSeqLen e / (2 * rSize e) else rSeqLen e / rSize e

/-- CLASS at position i for a block of origin j. -/
def classOf (e j : Nat) : Nat :=
  let n := rSize e
  let i := rPos e
  if rCut e = 1 then
    let a := i
    let b := 2 * n - 1 - i
    let kb := 2 * n - 1 - j
    packFields [(0, 2, maskClass a j), (2, 2, maskClass a kb), (4, 2, maskClass b j), (6, 2, maskClass b kb)]
  else maskClass i j

/-- The hop record. An origin that is no ring position counts modulo n in all but FROM_POS, so that no start passes 16,777,215 (R154,
log 185). -/
def hopRecord (e : Nat) (k : Krot) (now : Nat) : List Byte :=
  let n := rSize e
  let i := rPos e
  let j := k.origin.toNat % n
  let c := chunkOf e
  let bal := rCut e == 1
  natToBytes 64 (packFields [(0, 32, k.hop.toNat), (32, 8, k.status.toNat), (40, 8, k.origin.toNat), (48, 8, (i + n - j) % n),
    (56, 2, rCut e), (64, 8, classOf e j), (96, 25, c), (128, 32, i * c),
    (160, 32, if bal then (2 * n - 1 - i) * c else 0xFFFFFFFF), (192, 32, j * c),
    (224, 32, if bal then (2 * n - 1 - j) * c else 0xFFFFFFFF), (256, 64, k.received), (320, 64, now), (384, 32, rTag e)])

/-! ### Completion (R150, R156) -/

/-- A rotation is over: all bytes both ways, or a failure. -/
def Krot.over (k : Krot) : Bool := k.status != 0 || (k.acked == k.xl && k.received == k.xl)

/-- The elements received, as R201 reports them: MX scales and side entries as they stand in the array at DT.AUX. -/
def State.krotReport (s : State) (k : Krot) : State :=
  let d := Desc.ofBits k.dt
  match Fmt.ofCode d.fmt with
  | some .bytes => s
  | some f =>
    if !d.le then s else
    let n := k.received * 8 / f.bits
    let au := auxBytes d.fmt n
    let aux := if au = 0 then [] else (s.getBytes k.tile d d.aux au).bytes
    s.report unitKal (s.partOf k.tile) d.loupe ((arrayVals f n k.bytes aux).map (·, false))
  | none => s

/-- The event bit of a status (KAL_EVENT). -/
def krotEventBit (status : Nat) : Option Nat :=
  if status = 0x11 then some 0 else if status = 0x10 then some 1 else if status = 0x12 then some 2 else none

/-- Complete one rotation: the hop record is written, then its counter rises. -/
def State.krotFinish (s : State) (k : Krot) : State :=
  let e := s.ring k.ring
  let d := Desc.ofBits k.dt
  let s := { s with kal := { s.kal with krots := s.kal.krots.filter fun j => !(j.ring == k.ring && j.hop == k.hop),
                                        grants := s.kal.grants.filter (· != (k.ring, k.hop)) } }
  let s := match krotEventBit k.status.toNat with
    | some b => (s.setBit Reg.kalEvent b).tellDm "KROT" [rTag e, k.hop.toNat, k.status.toNat]
    | none => s
  let r := s.unitPut k.tile d [(d.aux, hopRecord e k s.now.toNat)]
  match r.1 with
  | some b => r.2.trouble k.tile b
  | none =>
    ((((r.2.krotReport k).digestFill k.tile k.op k.bytes).bump Reg.kalHopCnt 1).finishOp k.tile k.op)

/-- Complete the rotations of a ring in hop order (R150). `fuel` bounds their count. -/
def State.krotSettle (s : State) (r : Nat) : Nat → State
  | 0 => s
  | fuel + 1 => match s.krotHead r with
    | some k => if k.over then State.krotSettle ((s.krotFinish k).krotSend r) r fuel else s
    | none => s

/-- All rotations of a ring that are over complete. -/
def State.settleRing (s : State) (r : Nat) : State := s.krotSettle r s.kal.krots.length

/-- A rotation of the ring fails; PEER_FAILED replaces MISMATCH (Table 7.3). -/
def State.krotFail (s : State) (k : Krot) (status : BitVec 8) : State :=
  if k.status != 0 && status != 0x10 then s else s.setKrot { k with status := status }

/-- A chip fails: the rotations on rings with it as a neighbour end with PEER_FAILED. -/
def State.peerFailsKal (s : State) (chip : ChipId) : State :=
  let hit := fun (r : Nat) => rSucc (s.ring r) == chip.toNat || rPred (s.ring r) == chip.toNat
  let rs := (List.range 16).filter fun r => s.ringBusy r && hit r
  let s := s.kal.krots.foldl (fun s k => if hit k.ring then s.krotFail k 0x10 else s) s
  rs.foldl (fun s r => s.settleRing r) s

/-- A chip fails, for collectives and rotations alike (R141, R156). -/
def State.peerFails (s : State) (chip : ChipId) : State := (s.peerFailsPrism chip).peerFailsKal chip

/-! ### The commands -/

def execSourceResetNotice (chip : ChipId) (s : State) : Host.Outcome State Fault Refusal := .next (s.peerFails chip)

def execFailDeclaration (chip : ChipId) (s : State) : Host.Outcome State Fault Refusal := .next (s.peerFails chip)

/-- The successor's grant: held until its rotation is the ring's oldest. -/
def execKrotGrant (ring : Fin 16) (hop : Word) (s : State) : Host.Outcome State Fault Refusal :=
  if !bitOf (s.ring ring.val) 0 then .next s else
  .next ({ s with kal := { s.kal with grants := s.kal.grants.filter (· != (ring.val, hop)) ++ [(ring.val, hop)] } }.krotSend
    ring.val)

/-- The rotation that bytes from the predecessor belong to: the oldest with bytes to come. -/
def State.krotIncoming (s : State) (r : Nat) : Option Krot :=
  s.kal.krots.find? fun k => k.ring == r && k.status == 0 && decide (k.received < k.xl)

/-- Bytes arrive: the first flit's header is checked, then the data is written into DT. What passes XL is not part of
the block. -/
def execKrotData (ring : Fin 16) (first : Option BlockHeader) (data : List Byte) (s : State) :
    Host.Outcome State Fault Refusal :=
  match s.krotIncoming ring.val with
  | none => .next s
  | some k =>
    let e := s.ring ring.val
    let bad := match first with
      | some h => h.tag.toNat != rTag e || h.hop != k.hop || h.xl != k.xl
      | none => !k.first
    if bad then
      .next (((s.krotFail k 0x11).emit (.ring (BitVec.ofNat 14 (rPred e)) (rPredBundle e) (BitVec.ofNat 32 (rTag e)) k.hop
        "MISMATCH" [] [])).settleRing ring.val)
    else
      let d := Desc.ofBits k.dt
      let data := data.take (k.xl - k.received)
      let k := match first with
        | some h => { k with first := true, origin := h.origin }
        | none => k
      let r := s.unitPut k.tile d [(d.base + k.received, data)]
      match r.1 with
      | some b => .next (r.2.trouble k.tile b)
      | none =>
        let s := r.2.setKrot { k with received := k.received + data.length, bytes := k.bytes ++ data }
        let s := { s with kal := { s.kal with received := s.kal.received + BitVec.ofNat 64 data.length } }
        .next (s.settleRing ring.val)

/-- The successor's answer: acknowledged bytes, or a MISMATCH (`none`), which ends both ends (R156). -/
def execKrotAck (ring : Fin 16) (bytes : Option Nat) (s : State) : Host.Outcome State Fault Refusal :=
  match s.krotHead ring.val with
  | none => .next s
  | some k =>
    if !k.granted then .next s else
    match bytes with
    | some n => .next ((s.setKrot { k with acked := min k.xl (k.acked + n) }).settleRing ring.val)
    | none => .next ((s.krotFail k 0x11).settleRing ring.val)

/-- The tick F + FAIL_TICKS of the oldest rotation passes. -/
def execKrotTimeout (ring : Fin 16) (s : State) : Host.Outcome State Fault Refusal :=
  match s.krotHead ring.val with
  | none => .next s
  | some k =>
    let ticks := rFailTicks (s.ring ring.val)
    if ticks = 0 then .next s else
    let s := s.reach (s.tickAt (s.partOf k.tile) (k.frameF.toNat + ticks))
    .next ((s.krotFail k 0x12).settleRing ring.val)

def State.rtwIndex (s : State) : Nat := s.rdFld Reg.kalRtwIdx 3 0

/-- A command of the ring window, unless one is running. -/
def State.rtw (s : State) (path : Path) (f : State → State) : State :=
  s.via path Reg.kalRtwCmd fun s => if s.rdBit Reg.kalRtwStatus 0 then s.setBit Reg.kalEvent 3 else f s

def execRtwCommit (path : Path) (s : State) : Host.Outcome State Fault Refusal :=
  .next (s.rtw path fun s =>
    let r := s.commitRing s.rtwIndex (s.staged (Reg.kalRtwData 0) 8)
    r.2.setResult Reg.kalRtwStatus r.1.1 12 r.1.2)

def execRtwInvalidate (path : Path) (s : State) : Host.Outcome State Fault Refusal :=
  .next (s.rtw path fun s =>
    let r := s.dropRing s.rtwIndex
    r.2.setResult Reg.kalRtwStatus r.1 12 0)

def execRtwRead (path : Path) (s : State) : Host.Outcome State Fault Refusal :=
  .next (s.rtw path fun s =>
    (s.stage (Reg.kalRtwData 0) 8 (s.ring s.rtwIndex)).setResult Reg.kalRtwStatus 0 12 0)

end Sys2Proof.Machine
end

