-- ==== Sys2Proof/Machine/Chan.lean ====
section
/-!
DEFINITION. The shared operations of the channel engine (11 R249-R259, R270-R273): channel entries, tenant events and
MSI-X, what a fetched command names, its completion record and accounting.
-/

namespace Sys2Proof.Machine

/-! ### Channel entries (Table 11.4) -/

def State.setCh (s : State) (ch e : Nat) : State :=
  { s with chan := { s.chan with chans := Sparse.set 0 s.chan.chans ch (BitVec.ofNat 1024 e) } }

def cPrio (e : Nat) : Nat := fld e 10 8
def cPart (e : Nat) : Nat := fld e 27 25
def cGen (e : Nat) : Nat := fld e 47 32
def cWeight (e : Nat) : Nat := max 1 (fld e 55 48)
def cVector (e : Nat) : Nat := fld e 74 64
def cSqLog (e : Nat) : Nat := fld e 84 80
def cCqLog (e : Nat) : Nat := fld e 92 88
def cSqBase (e : Nat) : Nat := fld e 175 128
def cCqBase (e : Nat) : Nat := fld e 239 192
def cMask (e : Nat) : Nat := fld e 319 256
def cAcct (e : Nat) : Nat := fld e 367 320
def cSqTail (e : Nat) : Nat := fld e 415 384
def cSqHead (e : Nat) : Nat := fld e 447 416
def cCqTail (e : Nat) : Nat := fld e 479 448
def cCqHead (e : Nat) : Nat := fld e 511 480
def cDrops (e : Nat) : Nat := fld e 607 576

def withState (e st : Nat) : Nat := setFld e 2 0 st
def withSqTail (e v : Nat) : Nat := setFld e 415 384 v
def withSqHead (e v : Nat) : Nat := setFld e 447 416 v
def withCqTail (e v : Nat) : Nat := setFld e 479 448 v
def withCqHead (e v : Nat) : Nat := setFld e 511 480 v

/-- An entry as it shows: from the fence of a compute-domain reset until its end an ACTIVE or STOPPED channel is FENCED (R272). -/
def State.chShown (s : State) (ch : Nat) : Nat :=
  let e := s.chEntry ch
  if s.fenced && (chState e == 1 || chState e == 2) then withState e 3 else e

/-- Distance of free-running indices. -/
def dist32 (a b : Nat) : Nat := (a + 2 ^ 32 - b % 2 ^ 32) % 2 ^ 32

/-! ### Tenant events (R271) -/

/-- A channel enters ERROR (Table 11.6): its tenant's event and vector 0. -/
def State.chError (s : State) (ch code index : Nat) : State :=
  let e := s.chEntry ch
  let s := s.setCh ch (setFld (setFld (withState e 4) 519 512 code) 575 544 index)
  let s := (s.setBit (Reg.tenEvent (cTenant e)) 6).setBit Reg.chnEvent 2
  s.sendMsix (cTenant e) 0

/-! ### Commands in execution -/

def State.cmdsOf (s : State) (ch : Nat) : List ExecCmd := s.chan.cmds.filter (·.chan == ch)
def State.cmd (s : State) (ch : Nat) (index : Word) : Option ExecCmd :=
  s.chan.cmds.find? fun c => c.chan == ch && c.index == index
def State.setCmd (s : State) (c : ExecCmd) : State :=
  { s with chan := { s.chan with cmds := s.chan.cmds.map fun d => if d.chan == c.chan && d.index == c.index then c else d } }
def State.dropCmd (s : State) (ch : Nat) (index : Word) : State :=
  { s with chan := { s.chan with cmds := s.chan.cmds.filter fun c => !(c.chan == ch && c.index == index) } }

def ExecCmd.flags (c : ExecCmd) : Nat := c.arg 1 8

/-! ### Accounting (R273, Table 11.11) -/

/-- Accounting totals by selector offset: 0 waiting, 1 pre-emptions, 2 dispatched, 3 frames, 4 swap frames, 5 dropped. -/
def State.account (s : State) (v k n : Nat) : State :=
  if n = 0 then s else s.modTenant v fun x => { x with acct := Sparse.update 0 x.acct k fun a => a + BitVec.ofNat 64 n }

/-- A count of the work that a command set off: to its tenant's total and to what its record will add. -/
def State.charge (s : State) (ch : Nat) (index : Word) (k n : Nat) : State :=
  let s := s.account (cTenant (s.chEntry ch)) k n
  match s.cmd ch index with
  | some c => s.setCmd { c with acct := (List.range 5).map fun i => c.acct.getD i 0 + (if i = k then n else 0) }
  | none => s

/-- Add a completion's counts to a channel's accounting record; a write that fails is ERROR 0x05. -/
def State.acctRecord (s : State) (ch index : Nat) (acct : List Nat) : State :=
  let e := s.chEntry ch
  let v := cTenant e
  if cAcct e = 0 then s else
  let r := s.readTen v (cAcct e) 64
  match r.bad with
  | some _ => r.st.chError ch 5 index
  | none =>
    let adds := (List.range 5).map (acct.getD · 0) ++ [1, 0, 0]
    let new := (List.zipWith (fun o n => natToBytes 8 ((o + n) % 2 ^ 64)) (natsOf 8 r.bytes) adds).flatten
    let w := r.st.writeTen v (cAcct e) new
    match w.1 with
    | some _ => w.2.chError ch 5 index
    | none => w.2

/-! ### Completion (R256) -/

/-- Whether the completion ring has room for one more record. -/
def cqRoom (e : Nat) : Bool := decide (dist32 (cCqTail e) (cCqHead e) < 2 ^ cCqLog e)

/-- The completion record of Table 11.8. -/
def completionRecord (e : Nat) (c : ExecCmd) (status detail result gtc : Nat) : List Byte :=
  let phase := 1 - cCqTail e / 2 ^ cCqLog e % 2
  natToBytes 32 (packFields [(0, 16, c.arg 2 16), (16, 16, c.gen.toNat), (32, 8, status), (40, 1, phase), (48, 8, c.opc),
    (64, 32, c.index.toNat), (96, 32, detail), (128, 64, result), (192, 64, gtc)])

/-- Write a command's completion: the record whole, then CQ_TAIL, then its MSI-X message; without room it waits. -/
def State.complete (s : State) (ch : Nat) (index : Word) (status detail result : Nat) : State :=
  match s.cmd ch index with
  | none => s
  | some c =>
    let e := s.chEntry ch
    if chState e = 0 || chState e = 4 then s.dropCmd ch index else
    if !cqRoom e then s.setCmd { c with started := true, status := some (BitVec.ofNat 8 status, BitVec.ofNat 32 detail,
      BitVec.ofNat 64 result) } else
    let v := cTenant e
    let at' := cCqBase e + 32 * (cCqTail e % 2 ^ cCqLog e)
    let w := s.writeTen v at' (completionRecord e c status detail result s.now.toNat)
    let s := w.2.dropCmd ch index
    match w.1 with
    | some _ => s.chError ch (if (s.tenAddrs v at' 32).isNone then 2 else 3) (cCqTail e)
    | none =>
      let s := s.setCh ch (withCqTail (s.chEntry ch) (cCqTail e + 1))
      let s := s.acctRecord ch index.toNat c.acct
      if bitOf c.flags 0 then s.sendMsix v (cVector e) else s

/-- Records that wait take the room that CQ_HEAD has made. `fuel` bounds their count. -/
def State.writeWaiting (s : State) (ch : Nat) : Nat → State
  | 0 => s
  | fuel + 1 =>
    match (s.cmdsOf ch).find? (·.status.isSome) with
    | some c => match c.status with
      | some (st, d, r) => if cqRoom (s.chEntry ch) then
          State.writeWaiting (s.complete ch c.index st.toNat d.toNat r.toNat) ch fuel else s
      | none => s
    | none => s

/-- Status names (Table 11.9). -/
def stOk : Nat := 0x00
def stBadOpcode : Nat := 0x01
def stBadOperand : Nat := 0x02
def stAperture : Nat := 0x03
def stNotOwner : Nat := 0x04
def stPartBusy : Nat := 0x05
def stAborted : Nat := 0x06
def stMemUe : Nat := 0x08
def stStopped : Nat := 0x0A

/-! ### Starting a command (R255, R257, R259) -/

/-- Whether an earlier command of the channel is still in execution. -/
def State.earlier (s : State) (c : ExecCmd) : List ExecCmd :=
  (s.cmdsOf c.chan).takeWhile (·.index != c.index)

/-- A command may start: in ring order, past an earlier FLUSH or its own ORDER only with every earlier one complete, on
a channel that is not fenced. -/
def State.mayStart (s : State) (c : ExecCmd) : Bool :=
  let es := s.earlier c
  !c.started && !s.fenced && c.status.isNone && chState (s.chEntry c.chan) != 3 && es.all (·.started) &&
  !(es.any fun d => d.opc == 0x01) && (es.isEmpty || !bitOf c.flags 1)

/-- The bits that a command's operands and header use, as (byte, width), by opcode. -/
def operandFields (opc : Nat) : List (Nat × Nat) :=
  [(0, 8), (1, 2), (2, 16)] ++ match opc with
  | 0x02 => [(4, 32), (8, 48), (0x10, 48), (0x18, 48), (0x20, 64), (0x28, 45), (0x30, 48), (0x38, 48)]
  | 0x03 => [(4, 32), (8, 48), (0x10, 48), (0x18, 25), (0x20, 64), (0x28, 64), (0x30, 3)]
  | 0x04 => [(8, 64)]
  | 0x05 => [(0x30, 3), (0x31, 1)]
  | 0x06 => [(4, 12), (8, 48), (0x10, 2)]
  | 0x07 => [(4, 4), (8, 48), (0x10, 2)]
  | 0x08 => [(4, 13), (8, 32)]
  | 0x09 => [(8, 48), (0x10, 48), (0x18, 40)]
  | 0x0A => [(4, 32), (8, 1)]
  | 0x40 => [(4, 13), (8, 48), (0x10, 13), (0x18, 48)]
  | 0x41 => [(4, 11), (8, 48), (0x10, 48), (0x18, 48)]
  | 0x42 => [(4, 10), (6, 8), (8, 48)]
  | 0x43 | 0x45 => [(4, 10)]
  | 0x44 => [(4, 11)]
  | 0x46 => [(4, 1), (8, 32), (0x10, 48)]
  | 0x47 => [(4, 2), (6, 9)]
  | _ => []

/-- Byte offset of the first reserved byte that is not zero. -/
def reservedByte (fields : List (Nat × Nat)) (words : Nat) : Option Nat :=
  let used := fields.foldl (fun m f => m + (2 ^ f.2 - 1) * 2 ^ (8 * f.1)) 0
  (List.range 64).find? fun i => fld words (8 * i + 7) (8 * i) &&& (0xFF ^^^ fld used (8 * i + 7) (8 * i)) != 0

/-- A tenant extent in an Aperture that the channel's mask names (R255). -/
def State.named (s : State) (ch a n : Nat) (write : Bool) : Bool :=
  let e := s.chEntry ch
  match s.aptOf (cTenant e) a n with
  | some i => bitOf (cMask e) i && (!write || aptWritable (s.aptDesc (cTenant e) i))
  | none => false

/-- Run a fetched command of an opcode: a reserved field that is not zero completes it, else `f` gives its effect. -/
def State.runCmd (s : State) (ch : Nat) (index : Word) (opc : Nat) (f : ExecCmd → State → State) : State :=
  match s.cmd ch index with
  | none => s
  | some c =>
    if c.opc != opc || !s.mayStart c then s else
    let s := s.setCmd { c with started := true }
    match reservedByte (operandFields opc) c.words.toNat with
    | some b => s.complete ch index stBadOperand b 0
    | none => f c s

/-- An entry enters the on-chip cache of 8,192, or becomes its newest used (R249); `none` when every cached entry has commands in
execution. -/
def State.cacheTake (s : State) (ch : Nat) : Option State :=
  let l := s.chan.cache
  if l.contains ch then some { s with chan := { s.chan with cache := l.filter (· != ch) ++ [ch] } } else
  if l.length < 8192 then some { s with chan := { s.chan with cache := l ++ [ch] } } else
  match l.find? fun c => (s.cmdsOf c).isEmpty with
  | some c => some { s with chan := { s.chan with cache := l.filter (· != c) ++ [ch] } }
  | none => none

/-- A doorbell or fetch of an entry that is not cached is counted as a miss, once. -/
def State.noteMiss (s : State) (ch : Nat) : State := if s.chan.cache.contains ch then s else s.bump Reg.chnCacheMiss 1

/-! ### Doorbells (R252-R254) -/

/-- A doorbell is dropped: counted for its tenant, and for its channel where it has one. -/
def State.dropBell (s : State) (v bit : Nat) (ch : Option Nat) : State :=
  let s := ((s.setBit (Reg.tenEvent v) bit).bump (Reg.tenDbDropCnt v) 1).setBit Reg.chnEvent 0
  match ch with
  | some c => let e := s.chEntry c
              s.setCh c (setFld e 607 576 (min (2 ^ 32 - 1) (cDrops e + 1)))
  | none => s

/-- Checks 1 to 3 of R254: the bit of the first that fails. -/
def State.bellCheck (s : State) (v ch gen : Nat) : Option (Nat × Option Nat) :=
  let x := s.tenant v
  let e := s.chShown ch
  if !(decide (x.chBase ≤ ch) && decide (ch < x.chBase + x.chCnt)) then some (0, none)
  else if chState e = 3 then some (5, some ch)
  else if chState e != 1 && chState e != 2 then some (1, some ch)
  else if gen != cGen e % 2 ^ 14 then some (2, some ch)
  else none

/-- A new command tail (step 4), with the GTC of its doorbell. -/
def State.bellSq (s : State) (v ch index : Nat) : State :=
  let e := s.chEntry ch
  if 2 ^ cSqLog e < dist32 index (cSqHead e) || 2 ^ 31 ≤ dist32 index (cSqTail e) then s.dropBell v 3 (some ch) else
  if index = cSqTail e then s else
  let s := if cSqTail e = cSqHead e then
      { s with chan := { s.chan with lastFetch := Sparse.set 0 s.chan.lastFetch ch s.now } } else s
  { s.setCh ch (withSqTail e index) with chan := { (s.setCh ch (withSqTail e index)).chan with
      bells := Sparse.update [] s.chan.bells ch fun l => l ++ [(BitVec.ofNat 32 index, s.now)] } }

/-- A new completion head (step 5): records that waited for room are written. -/
def State.bellCq (s : State) (v ch index : Nat) : State :=
  let e := s.chEntry ch
  if dist32 (cCqTail e) (cCqHead e) < dist32 index (cCqHead e) then s.dropBell v 3 (some ch) else
  let s := s.setCh ch (withCqHead e index)
  s.writeWaiting ch (s.cmdsOf ch).length

/-- A doorbell word acts: `cq` names the completion head. One that finds no cache entry is held. -/
def State.bell (s : State) (v : Nat) (cq : Bool) (high low : Word) : State :=
  let ch := fld low.toNat 17 0
  match s.bellCheck v ch (fld low.toNat 31 18) with
  | some (bit, c) => s.dropBell v bit c
  | none =>
    match s.cacheTake ch with
    | some s => if cq then s.bellCq v ch high.toNat else s.bellSq v ch high.toNat
    | none =>
      let i := if cq then Instr.doorbellCq (Fin.ofNat 512 v) high (some low) else .doorbellSq (Fin.ofNat 512 v) high (some low)
      { s.setBit Reg.chnEvent 4 with chan := { (s.setBit Reg.chnEvent 4).chan with bellsHeld := s.chan.bellsHeld ++ [i] } }

/-- The doorbells held for a cache entry are tried again, in arrival order; not while the channels are fenced, after which they act
(DESIGN CHOICE, log 189). -/
def State.retryBells (s : State) : State :=
  if s.fenced then s else
  let l := s.chan.bellsHeld
  l.foldl (fun s i => match i with
    | .doorbellSq fn high (some low) => s.bell fn.val false high low
    | .doorbellCq fn high (some low) => s.bell fn.val true high low
    | _ => s) { s with chan := { s.chan with bellsHeld := [] } }

end Sys2Proof.Machine
end

