-- ==== Sys2Proof/Machine/ChanCmds.lean ====
section
/-!
DEFINITION. The commands of the channel engine that need no job (11 R247-R259, R270, R276-R277): doorbells, the fetch,
NOP, FLUSH, table writes, SEM_SET, COPY, the channel and allotment windows, semaphore words and arriving SEMRs.
-/

namespace Sys2Proof.Machine

/-! ### Doorbells (R252-R254) -/

/-- A doorbell write of bits [63:32]: with its own low word, which is then the one most recently written at this offset, or with the
one latched there last. -/
def State.bellWrite (s : State) (fn : Fin 512) (cq : Bool) (high : Word) (low : Option Word) : State :=
  if !s.busOpen (.vf fn) then s else
  let x := s.tenant fn.val
  let l := low.getD (if cq then x.latchCq else x.latchSq)
  let s := s.modTenant fn.val fun x => if cq then { x with latchCq := l } else { x with latchSq := l }
  ((s.noteMiss (fld l.toNat 17 0)).bell fn.val cq high l).retryBells

def execDoorbellSq (fn : Fin 512) (high : Word) (low : Option Word) (s : State) : Host.Outcome State Fault Refusal :=
  .next (s.bellWrite fn false high low)

def execDoorbellCq (fn : Fin 512) (high : Word) (low : Option Word) (s : State) : Host.Outcome State Fault Refusal :=
  .next (s.bellWrite fn true high low)

/-- A 32-bit write of the low half only latches it. -/
def execDoorbellLowHalf (fn : Fin 512) (cq : Bool) (low : Word) (s : State) : Host.Outcome State Fault Refusal :=
  .next (if s.busOpen (.vf fn) then
      s.modTenant fn.val fun x => if cq then { x with latchCq := low } else { x with latchSq := low }
    else s)

/-! ### Fetch (R257) -/

def knownOpcode (o : Nat) : Bool := decide (o ≤ 0x0A) || (decide (0x40 ≤ o) && decide (o ≤ 0x47))

/-- The GTC of the doorbell that made command n known. -/
def State.rungAt (s : State) (ch n : Nat) : Dword :=
  match (Sparse.get [] s.chan.bells ch).find? fun b => dist32 b.1.toNat n != 0 && decide (dist32 b.1.toNat n < 2 ^ 31) with
  | some b => b.2
  | none => s.now

/-- Whether the engine may fetch the next command of a channel. -/
def State.mayFetch (s : State) (ch : Nat) : Bool :=
  let e := s.chEntry ch
  let n := (s.cmdsOf ch).length
  !s.fenced && !s.flt.ctlReset && !s.flt.memReset && !(s.start.image.pending && s.start.image.swapped != 0) && s.blockOn 12 &&
    chState e == 1 && cSqHead e != cSqTail e && decide (n < 64) && decide (dist32 (cCqTail e) (cCqHead e) + n < 2 ^ cCqLog e)

def execCommandFetch (ch : Fin 262144) (s : State) : Host.Outcome State Fault Refusal :=
  if !s.mayFetch ch.val then .next s else
  match (s.noteMiss ch.val).cacheTake ch.val with
  | none => .next (s.setBit Reg.chnEvent 4)
  | some s =>
    let e := s.chEntry ch.val
    let n := cSqHead e
    let at' := cSqBase e + 64 * (n % 2 ^ cSqLog e)
    let r := s.readTen (cTenant e) at' 64
    match r.bad with
    | some _ => .next (r.st.chError ch.val (if (s.tenAddrs (cTenant e) at' 64).isNone then 2 else 1) n)
    | none =>
      let c : ExecCmd := { chan := ch.val, index := BitVec.ofNat 32 n, gen := BitVec.ofNat 16 (cGen e),
                           words := BitVec.ofNat 512 (bytesToNat r.bytes), started := false, rung := s.rungAt ch.val n,
                           status := none, acct := [] }
      let s := r.st.setCh ch.val (withSqHead e (n + 1))
      let s := { s with chan := { s.chan with
          cmds := s.chan.cmds ++ [c], lastFetch := Sparse.set 0 s.chan.lastFetch ch.val s.now,
          bells := Sparse.update [] s.chan.bells ch.val fun (l : List (Word × Dword)) => l.filter fun b =>
            dist32 b.1.toNat (n + 1) != 0 && decide (dist32 b.1.toNat (n + 1) < 2 ^ 31) } }
      .next (if !knownOpcode c.opc && s.mayStart c then (s.complete ch.val c.index stBadOpcode 0 0).retryBells else s)

/-! ### NOP and FLUSH -/

/-- NOP completes at once; a reserved opcode that had to wait for a FLUSH completes here with BAD_OPCODE. -/
def execChannelNop (ch : Fin 262144) (index : Word) (s : State) : Host.Outcome State Fault Refusal :=
  match s.cmd ch.val index with
  | none => .next s
  | some c =>
    if !knownOpcode c.opc && s.mayStart c then .next (s.complete ch.val index stBadOpcode 0 0).retryBells
    else .next (s.runCmd ch.val index 0x00 fun c s => s.complete c.chan c.index stOk 0 0).retryBells

/-- A FLUSH starts: it completes by FLUSH_DONE. -/
def execFlush (ch : Fin 262144) (index : Word) (s : State) : Host.Outcome State Fault Refusal :=
  .next (s.runCmd ch.val index 0x01 fun _ s => s)

def execFlushDone (ch : Fin 262144) (index : Word) (s : State) : Host.Outcome State Fault Refusal :=
  match s.cmd ch.val index with
  | none => .next s
  | some c =>
    if c.opc != 0x01 || !c.started || c.status.isSome || !(s.earlier c).isEmpty then .next s
    else .next (s.complete ch.val index stOk 0 0).retryBells

/-! ### Table writes (R120, R147) -/

/-- Completion status and DETAIL of a table's RESULT and ERR_OFF. -/
def tableStatus (bad : Nat) (result off : Nat) : Nat × Nat :=
  match result with
  | 0 => (stOk, 0)
  | 1 => (0x32, off)
  | 2 => (0x30, off)
  | 3 => (if bad = 6 then 0x31 else stNotOwner, off)
  | 4 => (0x33, off)
  | _ => (stAperture, off)

/-- GROUP_WRITE and RING_WRITE by ACTION over an entry of n bytes at ENTRY: commit of an image whose TENANT is the tenant's own,
invalidate or read of an entry that it, or no one, holds. -/
def State.tableWrite (s : State) (c : ExecCmd) (n : Nat) (owner held : Nat → Bool)
    (commit : State → Nat → (Nat × Nat) × State) (drop : State → Nat × State) (entry : Nat) : State :=
  let v := cTenant (s.chEntry c.chan)
  let a := c.arg 8 48
  let fin := fun (s : State) (r : Nat × Nat) => s.complete c.chan c.index r.1 r.2 0
  match c.arg 0x10 2 with
  | 1 =>
    if !s.named c.chan a n false then fin s (stAperture, 8) else
    let r := s.readTen v a n
    match r.bad with
    | some _ => fin r.st (stMemUe, 8)
    | none =>
      let e := bytesToNat r.bytes
      if !owner e then fin r.st (stNotOwner, 4) else
      let q := commit r.st e
      fin q.2 (tableStatus c.opc q.1.1 q.1.2)
  | 2 => if !held entry then fin s (stNotOwner, 4) else
         let q := drop s
         fin q.2 (tableStatus c.opc q.1 0)
  | 3 =>
    if !s.named c.chan a n true then fin s (stAperture, 8)
    else if !held entry then fin s (stNotOwner, 4) else
    let w := s.writeTen v a (natToBytes n entry)
    fin w.2 (if w.1.isSome then (stMemUe, 8) else (stOk, 0))
  | _ => fin s (stBadOperand, 0x10)

def execGroupWrite (ch : Fin 262144) (index : Word) (s : State) : Host.Outcome State Fault Refusal :=
  .next (s.runCmd ch.val index 0x06 fun c s =>
    let v := cTenant (s.chEntry ch.val)
    let k := c.arg 4 12
    let x := s.tenant v
    if x.grpCnt ≤ k then s.complete ch.val index stNotOwner 4 0 else
    let i := x.grpBase + k
    let e := s.groupEntry i
    s.tableWrite c 128 (gTenant · == v) (fun g => g == 0 || gTenant g == v) (fun s g => s.commitGroup i g) (fun s => s.dropGroup i) e).retryBells

def execRingWrite (ch : Fin 262144) (index : Word) (s : State) : Host.Outcome State Fault Refusal :=
  .next (s.runCmd ch.val index 0x07 fun c s =>
    let v := cTenant (s.chEntry ch.val)
    let i := c.arg 4 4
    s.tableWrite c 32 (rTenant · == v) (fun r => r == 0 || rTenant r == v) (fun s r =>
      if bitOf (s.ring i) 0 && rTenant (s.ring i) != v then ((3, 0), s) else s.commitRing i r) (fun s => s.dropRing i)
      (s.ring i)).retryBells

/-! ### SEM_SET and COPY -/

def execSemSet (ch : Fin 262144) (index : Word) (s : State) : Host.Outcome State Fault Refusal :=
  .next (s.runCmd ch.val index 0x08 fun c s =>
    let v := cTenant (s.chEntry ch.val)
    let k := c.arg 4 13
    if !s.semAllotted v k then s.complete ch.val index stBadOperand 4 0
    else (s.semPut v k (BitVec.ofNat 32 (c.arg 8 32))).complete ch.val index stOk 0 0).retryBells

/-- COPY moves its bytes; one that meets an uncorrectable word ends with MEM_UE, and what would have reached the host
leaves as a poisoned write (Table 10.3). -/
def execCopy (ch : Fin 262144) (index : Word) (errs : List CellError) (s : State) : Host.Outcome State Fault Refusal :=
  .next (((s.inject errs).runCmd ch.val index 0x09 fun c s =>
    let v := cTenant (s.chEntry ch.val)
    let src := c.arg 8 48
    let dst := c.arg 0x10 48
    let n := c.arg 0x18 40
    if !s.named ch.val src n false then s.complete ch.val index stAperture 8 0
    else if !s.named ch.val dst n true then s.complete ch.val index stAperture 0x10 0
    else
      let das := (s.tenAddrs v dst n).getD []
      let r := s.readTen v src n
      match r.bad with
      | some _ => (if das.any isHost then r.st.emit (.poisoned dst) else r.st).complete ch.val index stMemUe 0 0
      | none =>
        let w := r.st.writeDev (das.zip r.bytes)
        match w.1 with
        | some _ => w.2.complete ch.val index stMemUe 0 0
        | none => w.2).retryBells)

/-- The last byte of a COPY is written and visible. -/
def execCopyDone (ch : Fin 262144) (index : Word) (s : State) : Host.Outcome State Fault Refusal :=
  match s.cmd ch.val index with
  | none => .next s
  | some c =>
    if c.opc != 0x09 || !c.started || c.status.isSome || s.flt.memReset then .next s
    else .next (s.complete ch.val index stOk 0 (c.arg 0x18 40)).aptSettle.retryBells

/-! ### The channel window (R251, Table 11.5) -/

/-- The tenant whose window a path reaches. -/
def tenWindow : Path → Nat
  | .vf v => v.val
  | _ => 0

/-- The tenant and the channel that a TEN_CW command names. -/
def State.cwTarget (s : State) (path : Path) : Nat × Nat :=
  let w := tenWindow path
  let idx := (s.rd (Reg.tenCwIdx w)).toNat
  (if w = 0 then fld idx 24 16 else w, fld idx 15 0)

/-- RESULT, ERR_OFF and GEN of a channel command. -/
def State.cwResult (s : State) (w result off gen : Nat) : State :=
  ((s.wrFld (Reg.tenCwStatus w) 7 4 result).wrFld (Reg.tenCwStatus w) 14 8 off).wrFld (Reg.tenCwStatus w) 31 16 gen

/-- Run a channel command through a window unless one is running; `f` has the window, the tenant and the channel. Each
ends at once (DESIGN CHOICE, log 183). -/
def State.cw (s : State) (path : Path) (f : Nat → Nat → Nat → State → State) : State :=
  let w := tenWindow path
  s.via path (Reg.tenCwCmd w) fun s =>
    if s.rdBit (Reg.tenCwStatus w) 0 then s.setBit (Reg.tenEvent w) 10 else
    let q := s.cwTarget path
    let x := s.tenant q.1
    if x.chCnt ≤ q.2 then s.cwResult w 1 0 0 else f w q.1 (x.chBase + q.2) s

/-- A ring or record wholly in an Aperture of a mask, with write access where it is written. -/
def State.inMask (s : State) (v mask a n : Nat) (write : Bool) : Bool :=
  match s.aptOf v a n with
  | some i => bitOf mask i && (!write || aptWritable (s.aptDesc v i))
  | none => false

/-- The checks of create on the staged entry bytes 0x00-0x2F: RESULT and ERR_OFF. EXPECT_GEN comes before the state, so that of two
creates with one EXPECT_GEN the second gets STALE_GEN (R275; DEDUCED, log 202). -/
def State.createCheck (s : State) (v ch d : Nat) : Nat × Nat :=
  let e := s.chShown ch
  let gen := fld d 47 32
  let log := fun (k : Nat) => decide (6 ≤ k) && decide (k ≤ 20)
  let checks : List (Bool × Nat × Nat) :=
    [(gen != cGen e, if serialNewer 16 gen (cGen e) then 3 else 2, 4), (chState e != 0, 6, 0),
     (bitOf d 3 || fld d 15 11 != 0 || fld d 31 28 != 0, 3, 0), (fld d 63 56 != 0, 3, 4),
     (fld d 79 75 != 0 || fld d 87 85 != 0 || fld d 95 93 != 0, 3, 8),
     (fld d 7 4 != s.start.boot.rver.toNat, 3, 0),
     (!log (cSqLog d) || !log (cCqLog d) || decide (cCqLog d < cSqLog d), 3, 8),
     (decide (vectorsOf v ≤ cVector d), 3, 8), (!(s.tenant v).parts.getLsbD (cPart d), 3, 0),
     (cSqBase d % 4096 != 0, 3, 0x10), (cCqBase d % 4096 != 0, 3, 0x18), (cAcct d % 64 != 0, 3, 0x28),
     (!s.inMask v (cMask d) (cSqBase d) (64 * 2 ^ cSqLog d) false, 4, 0x10),
     (!s.inMask v (cMask d) (cCqBase d) (32 * 2 ^ cCqLog d) true, 4, 0x18),
     (cAcct d != 0 && !s.inMask v (cMask d) (cAcct d) 64 true, 4, 0x28)]
  match checks.find? (·.1) with
  | some c => c.2
  | none => (0, 0)

def execCwCreate (path : Path) (s : State) : Host.Outcome State Fault Refusal :=
  .next (s.cw path fun w v ch s =>
    let d := s.staged (Reg.tenCwData w 0) 12
    let c := s.createCheck v ch d
    let gen := cGen (s.chEntry ch)
    if c.1 != 0 then s.cwResult w c.1 c.2 gen else
    let e := setFld (setFld (withState d 1) 24 16 v) 47 32 (gen + 1)
    let s := { s.setCh ch e with chan := { (s.setCh ch e).chan with bells := Sparse.set [] s.chan.bells ch [] } }
    s.cwResult w 0 0 ((gen + 1) % 65536))

def execCwDestroy (path : Path) (s : State) : Host.Outcome State Fault Refusal :=
  .next (s.cw path fun w _ ch s =>
    let e := s.chShown ch
    let idle := (s.cmdsOf ch).isEmpty
    match chState e with
    | 0 => s.cwResult w 6 0 (cGen e)
    | 1 => if idle && cSqHead e == cSqTail e then (s.setCh ch (withState e 0)).cwResult w 0 0 (cGen e)
           else s.cwResult w 5 0 (cGen e)
    | _ => if idle then (s.setCh ch (withState e 0)).cwResult w 0 0 (cGen e) else s.cwResult w 5 0 (cGen e))

/-- A state change of an entry from one state only. -/
def State.cwMove (s : State) (path : Path) (source dest : Nat) : State :=
  s.cw path fun w _ ch s =>
    let e := s.chShown ch
    if chState e != source then s.cwResult w 6 0 (cGen e) else (s.setCh ch (withState e dest)).cwResult w 0 0 (cGen e)

def execCwStop (path : Path) (s : State) : Host.Outcome State Fault Refusal := .next (s.cwMove path 1 2)
def execCwResume (path : Path) (s : State) : Host.Outcome State Fault Refusal :=
  .next (s.cw path fun w _ ch s =>
    let e := s.chShown ch
    if chState e != 2 then s.cwResult w 6 0 (cGen e) else
    let s := (s.setCh ch (withState e 1)).cwResult w 0 0 (cGen e)
    { s with chan := { s.chan with lastFetch := Sparse.set 0 s.chan.lastFetch ch s.now } })

def execCwRead (path : Path) (s : State) : Host.Outcome State Fault Refusal :=
  .next (s.cw path fun w _ ch s =>
    let e := s.chShown ch
    (s.stage (Reg.tenCwData w 0) 12 (e % 2 ^ 384)).cwResult w 0 0 (cGen e))

/-! ### Allotments (R248, R276) -/

/-- Two ranges share an element. -/
def rangesMeet (a n b m : Nat) : Bool := decide (a < b + m) && decide (b < a + n) && n != 0 && m != 0

/-- Whether a range leaves out element i of another. -/
def outside (a n i : Nat) : Bool := !(decide (a ≤ i) && decide (i < a + n))

/-- The staged allotment. -/
def State.stagedTenant (s : State) (v : Nat) : Tenant :=
  { s.tenant v with
    chBase := s.rdFld Reg.chnTChbase 17 0, chCnt := s.rdFld Reg.chnTChcnt 16 0, semBase := s.rdFld Reg.chnTSem 12 0,
    semCnt := s.rdFld Reg.chnTSem 29 16, grpBase := s.rdFld Reg.chnTGrp 11 0, grpCnt := s.rdFld Reg.chnTGrp 28 16,
    parts := BitVec.ofNat 8 (s.rdFld Reg.chnTSched 15 8), weight := BitVec.ofNat 8 (s.rdFld Reg.chnTSched 7 0),
    maxPrio := BitVec.ofNat 3 (s.rdFld Reg.chnTSched 18 16) }

/-- RESULT of a commit: OVERLAP, RANGE, IN_USE, in this order. -/
def State.allotCheck (s : State) (v : Nat) (n : Tenant) : Nat :=
  let o := s.tenant v
  let others := (List.range 512).filter (· != v)
  let meets := others.any fun u => let x := s.tenant u
    rangesMeet n.chBase n.chCnt x.chBase x.chCnt || rangesMeet n.semBase n.semCnt x.semBase x.semCnt ||
    rangesMeet n.grpBase n.grpCnt x.grpBase x.grpCnt
  let range := decide (262144 < n.chBase + n.chCnt) || decide (65536 < n.chCnt) || decide (8192 < n.semBase + n.semCnt) ||
    decide (4096 < n.grpBase + n.grpCnt)
  let chUse := s.chan.chans.any fun e => chState e.2.toNat != 0 && cTenant e.2.toNat == v && outside n.chBase n.chCnt e.1
  let semUse := s.chan.sems.any fun e => !outside o.semBase o.semCnt e.1 && outside n.semBase n.semCnt e.1
  let grpUse := s.prism.groups.any fun e => bitOf e.2.toNat 0 && gTenant e.2.toNat == v && outside n.grpBase n.grpCnt e.1
  if meets then 1 else if range then 2 else if chUse || semUse || grpUse then 3 else 0

/-- An allotment command, unless one is running; each ends at once (DESIGN CHOICE, log 183). -/
def State.tCmd (s : State) (path : Path) (f : State → State) : State :=
  s.via path Reg.chnTCmd fun s => if s.rdBit Reg.chnTStatus 0 then s.setBit Reg.chnEvent 3 else f s

def execTCommit (path : Path) (s : State) : Host.Outcome State Fault Refusal :=
  .next (s.tCmd path fun s =>
    let v := s.rdFld Reg.chnTSel 8 0
    let n := s.stagedTenant v
    let r := s.allotCheck v n
    (if r = 0 then s.modTenant v fun _ => n else s).wrFld Reg.chnTStatus 7 4 r)

def execTRead (path : Path) (s : State) : Host.Outcome State Fault Refusal :=
  .next (s.tCmd path fun s =>
    let x := s.tenant (s.rdFld Reg.chnTSel 8 0)
    let s := (s.wrFld Reg.chnTChbase 17 0 x.chBase).wrFld Reg.chnTChcnt 16 0 x.chCnt
    let s := (s.wrFld Reg.chnTSem 12 0 x.semBase).wrFld Reg.chnTSem 29 16 x.semCnt
    let s := (s.wrFld Reg.chnTGrp 11 0 x.grpBase).wrFld Reg.chnTGrp 28 16 x.grpCnt
    (((s.wrFld Reg.chnTSched 7 0 x.weight.toNat).wrFld Reg.chnTSched 15 8 x.parts.toNat).wrFld Reg.chnTSched 18 16
      x.maxPrio.toNat).wrFld Reg.chnTStatus 7 4 0)

/-! ### Semaphores (R270) -/

/-- An access of a function to one of its semaphore words; beyond the allotment it only sets SEM_RANGE. -/
def State.semWord (s : State) (fn : Fin 512) (k : Nat) (f : State → State) : State :=
  if !s.busOpen (.vf fn) then s
  else if s.semAllotted fn.val k then f s else s.setBit (Reg.tenEvent fn.val) 9

def execSemSignalWrite (fn : Fin 512) (k : BitVec 13) (v : Word) (s : State) : Host.Outcome State Fault Refusal :=
  .next (s.semWord fn k.toNat fun s => s.semAdd fn.val k.toNat v.toNat)

def execSemSetWrite (fn : Fin 512) (k : BitVec 13) (v : Word) (s : State) : Host.Outcome State Fault Refusal :=
  .next (s.semWord fn k.toNat fun s => s.semPut fn.val k.toNat v)

/-- Whether a job or serving context of a tenant is in place under a JOB_ID. -/
def State.inPlace (s : State) (v : Nat) (jobId : Word) : Bool :=
  (List.range 8).any fun p =>
    (s.part p).job.any (fun j => j.tenant == v && j.jobId == jobId) || (s.context v p).any (·.jobId == jobId)

def execSemrArrive (tenant : Fin 512) (jobId : Word) (k : BitVec 13) (count : Nat) (s : State) :
    Host.Outcome State Fault Refusal :=
  let v := tenant.val
  if s.inPlace v jobId && s.semAllotted v k.toNat then .next (s.semAdd v k.toNat count) else
  let s := (s.bump Reg.chnSemrDropCnt 1).setBit Reg.chnEvent 1
  .next (if s.semAllotted v k.toNat then s.setBit (Reg.tenEvent v) 8 else s)

end Sys2Proof.Machine
end

