-- ==== Sys2Proof/Machine/TileS2.lean ====
section
/-!
DEFINITION. The vector and special-function instructions of S2 (05 R110-R111, R430; 07 R158): operand checks, results,
latencies and what VST and a cast into an MX format write.
-/

namespace Sys2Proof.Machine

/-! ### Elements of vector registers (R110) -/

/-- The elements of a register: 1,024 words, or 2,048 halves of a packed format. -/
def lanesOf (packed : Bool) (v : List Word) : List Nat :=
  if packed then v.flatMap fun w => [w.toNat % 65536, w.toNat / 65536] else v.map (·.toNat)

/-- Words from elements. -/
def pairUp : List Nat → List Word
  | a :: b :: l => BitVec.ofNat 32 (a % 65536 + b * 65536) :: pairUp l
  | [a] => [BitVec.ofNat 32 a]
  | [] => []
def toLanes (packed : Bool) (es : List Nat) : List Word := if packed then pairUp es else es.map (BitVec.ofNat 32)

/-- The lane format of FMT 0x0-0x2. -/
def laneFmt (c : Nat) : Fmt := if c = 0 then .b32 else if c = 1 then .bf16 else .b16

/-! ### Functions of VARITH (Table 5.11) -/

/-- All ones of an element. -/
def allOnes (f : Fmt) : Nat := 2 ^ f.bits - 1
def signMask (f : Fmt) : Nat := 2 ^ (f.bits - 1)

def varithElem (f : Fmt) (md : RMode) (fn a b c : Nat) : Nat :=
  let va := f.toVal a
  let vb := f.toVal b
  match fn with
  | 0 => f.ofVal md (va.add vb)
  | 1 => f.ofVal md (va.add vb.neg)
  | 2 => f.ofVal md (va.mul vb)
  | 3 => f.ofVal md (va.minimum vb)
  | 4 => f.ofVal md (va.maximum vb)
  | 5 => a % signMask f
  | 6 => a ^^^ signMask f
  | 7 => if va.lt vb then allOnes f else 0
  | 8 => if va.eq vb then allOnes f else 0
  | 9 => if c = 0 then b else a
  | 10 => a &&& b
  | 11 => a ||| b
  | _ => a ^^^ b

/-- Three lists taken element by element. -/
def zip3 (f : Nat → Nat → Nat → Nat) : List Nat → List Nat → List Nat → List Nat
  | a :: as, b :: bs, c :: cs => f a b c :: zip3 f as bs cs
  | _, _, _ => []

/-- VRED over an accumulator of elements widened to binary32. -/
def vredValue (fn : Nat) (packed : Bool) (es : List Word) : Word :=
  match fn with
  | 0 => (treeSum addF32 (if packed then 11 else 10) es).headD 0
  | _ =>
    let op := fun (a b : Word) => toF32 .rne (if fn = 1 then (f32 a).maximum (f32 b) else (f32 a).minimum (f32 b))
    match es with
    | [] => 0
    | e :: l => l.foldl op (toF32 .rne (f32 e))

/-- The latency of an S2 operation's register result (Table 5.14). -/
def s2Latency (w : Nat) : Nat :=
  match opc w with
  | 0x01 => 4
  | 0x02 => 5
  | 0x03 => 2
  | 0x04 => if s2Fmt w = 0 then 14 else 15
  | 0x05 => ((Sfu.ofCode (s2Fn w)).map (·.latency)).getD 0 + 3
  | 0x06 => 6
  | 0x07 => 8
  | _ => if s2Fn w = 1 then 4 else 5

/-! ### Operand checks -/

/-- The byte address, in the LS, of VLD, VST and a cast into an MX format, and its scale bytes (R110, R111). -/
def s2Addr (x : Tile) (w : Nat) : Nat :=
  let d := Desc.ofBits (x.getD (s2Ds w))
  let a := (x.getX (s2Xa w)).toNat
  if opc w = 6 then d.base + a * ((Fmt.ofCode (BitVec.ofNat 4 (s2Fmt w))).map (·.bits)).getD 0 / 8 else d.base + a
def s2Scale (x : Tile) (w : Nat) : Nat := (Desc.ofBits (x.getD (s2Ds w))).aux + (x.getX (s2Xa w)).toNat / 32

/-- The extents in the LS: 4 KiB for VLD and VST, the elements and their 32 scale bytes for a cast into MX. -/
def s2Extents (x : Tile) (w : Nat) : List (Nat × Nat) :=
  match opc w with
  | 0x07 | 0x08 => [(s2Addr x w, 4096)]
  | 0x06 => if codeMx (s2Fmt w) then [(s2Addr x w, codeBytes (BitVec.ofNat 4 (s2Fmt w)) 1024), (s2Scale x w, 32)] else []
  | _ => []

/-- Whether the operation names DS. -/
def s2Names (w : Nat) : Bool := opc w == 7 || opc w == 8 || (opc w == 6 && codeMx (s2Fmt w))

/-- The checks of S2: those of R103 on DS, then its own in the order of R110 and R111. A cast into an MX format ignores STRIDE, and
its spans are checked last (DEDUCED, log 170); RM 3 of a VCVT is refused (DESIGN CHOICE, log 171). -/
def State.s2Check (s : State) (t : Nat) (x : Tile) (w : Nat) : Option Nat :=
  let fmt := s2Fmt w
  let d := Desc.ofBits (x.getD (s2Ds w))
  let a := (x.getX (s2Xa w)).toNat
  let own := match opc w with
    | 0x01 | 0x02 | 0x03 | 0x04 => firstCode [(decide (3 ≤ fmt), exVector), (decide (2 ≤ s2Rm w), exVector)]
    | 0x05 => firstCode [(fmt != 0, exVector), (decide (2 ≤ s2Rm w), exVector)]
    | 0x06 =>
      let okFmt := decide (fmt ≤ 2) || codeMx fmt
      firstCode ([(decide (3 ≤ s2Fn w) || !okFmt || s2Rm w == 3, exVector)] ++
        (if codeMx fmt then [(d.space != 0, exVector), (a % 32 != 0 || d.fmt.toNat != fmt, exVector),
          (s2Addr x w % 128 != 0, exAlign), ((s2Extents x w).any fun e => decide (lsSize < e.1 + e.2), exLsAddr)] else []))
    | 0x07 | 0x08 => firstCode [(decide (3 ≤ fmt), exVector), (decide (2 ≤ s2Rm w), exVector), (d.space != 0, exVector),
        (s2Addr x w % 128 != 0, exAlign)]
    | 0x09 => firstCode [(decide (3 ≤ fmt), exVector)]
    | _ => none
  let named := if opc w = 6 then s.descCheck t { d with stride := 0 } [] true false true
    else s.descCheck t d (s2Extents x w) (opc w != 7) false true
  match if s2Names w then named else none with
  | some c => some c
  | none => own

/-! ### Results -/

/-- Stochastic or deterministic rounding of element i of the operation (R111). -/
def State.s2Round (s : State) (t : Nat) (x : Tile) (w i : Nat) : RMode :=
  if s2Rm w = 2 then .sr (draw16 (s.drawSeed t) (s.drawStep t) ((x.getX (s2Xb w)).toNat % 2 ^ 24)
    ((x.getX (s2Xa w)).toNat + i))
  else rmOf (s2Rm w)

/-- The elements that a cast converts, as values: all of VA, or the half that HI selects. -/
def castSource (x : Tile) (w : Nat) : List Val :=
  let src := laneFmt (s2Fn w)
  let es := lanesOf (codePacked (s2Fn w)) (x.getV (s2Va w))
  let es := if codePacked (s2Fn w) && !codePacked (s2Fmt w) then (es.drop (1024 * s2Hi w)).take 1024 else es
  es.map src.toVal

/-- The vector register result of a cast into binary32, bfloat16 or binary16 (R111). -/
def State.castV (s : State) (t : Nat) (x : Tile) (w : Nat) : List Word :=
  let dst := laneFmt (s2Fmt w)
  let out := (castSource x w).mapIdx fun i v => dst.ofVal (s.s2Round t x w i) v
  if s2Fn w = 0 && codePacked (s2Fmt w) then
    let old := x.getV (s2Vd w)
    let lanes := toLanes true out
    if s2Hi w = 0 then lanes ++ old.drop 512 else old.take 512 ++ lanes
  else toLanes (codePacked (s2Fmt w)) out

/-- A cast into an MX format: element codes with their saturation, and the 32 scale bytes (R71, R111). -/
def State.castMx (s : State) (t : Nat) (x : Tile) (w : Nat) (f : Fmt) : List (Nat × Bool) × List Nat :=
  let blocks := (chunks 32 (castSource x w)).mapIdx fun b vs => f.castBlock (fun i => s.s2Round t x w (32 * b + i)) vs
  (blocks.flatMap (·.2), blocks.map (·.1))

/-- The vector result of the register operations. -/
def State.s2Vector (s : State) (t : Nat) (x : Tile) (w : Nat) : List Word :=
  let f := laneFmt (s2Fmt w)
  let pk := codePacked (s2Fmt w)
  let va := x.getV (s2Va w)
  let vb := x.getV (s2Vb w)
  let vc := x.getV (s2Vc w)
  let xa := x.getX (s2Xa w)
  match opc w with
  | 0x01 => toLanes pk (zip3 (varithElem f (rmOf (s2Rm w)) (s2Fn w)) (lanesOf pk va) (lanesOf pk vb) (lanesOf pk vc))
  | 0x02 => toLanes pk (zip3 (fun a b c => f.ofVal (rmOf (s2Rm w)) (((f.toVal a).mul (f.toVal b)).add (f.toVal c)))
      (lanesOf pk va) (lanesOf pk vb) (lanesOf pk vc))
  | 0x03 => if pk then List.replicate 1024 (BitVec.ofNat 32 (xa.toNat % 65536 * 65537)) else
      List.replicate 1024 (xa.truncate 32)
  | 0x05 => match Sfu.ofCode (s2Fn w) with
    | some g => va.map g.eval
    | none => va
  | 0x06 => s.castV t x w
  | 0x09 =>
    let draw := fun (i : Nat) => (s.drawSeed t, s.drawStep t, (x.getX (s2Xb w)).toNat % 2 ^ 24, xa.toNat + i)
    if s2Fn w = 0 then (List.range 1024).map fun i =>
      let d := draw i
      BitVec.ofNat 32 (draw32 d.1 d.2.1 d.2.2.1 d.2.2.2)
    else toLanes pk ((List.range (if pk then 2048 else 1024)).map fun i =>
      let d := draw i
      if draw16 d.1 d.2.1 d.2.2.1 d.2.2.2 < (x.getX (s2Xd w)).toNat % 65536 then allOnes f else 0)
  | _ => va

/-- VRED's result (Table 5.11). -/
def vredOf (x : Tile) (w : Nat) : Dword :=
  let f := laneFmt (s2Fmt w)
  let pk := codePacked (s2Fmt w)
  let es := (lanesOf pk (x.getV (s2Va w))).map fun e => if pk then toF32 .rne (f.toVal e) else BitVec.ofNat 32 e
  (vredValue (s2Fn w) pk es).zeroExtend 64

/-- The result of an S2 operation, held back by its latency (R97, R430). -/
def State.addPend (s : State) (t : Nat) (xd : Option (Nat × Dword)) (vd : Option (Nat × List Word)) (reads : List Span) :
    State :=
  s.modTile t fun x =>
    let old := match xd with
      | some e => dropPendX x.pend e.1
      | none => x.pend
    let old := match vd with
      | some e => dropPendV old e.1
      | none => old
    { x with opSeq := x.opSeq + 1, pend := old ++ [{ id := x.opSeq, xd := xd, vd := vd, reads := reads }] }

/-- The bytes of a vector register. -/
def vBytes (v : List Word) : List Byte := v.flatMap fun w => natToBytes 4 w.toNat

/-- The effect of an executing S2 slot; `x` holds the registers as they stood before the bundle. -/
def State.s2Effect (s : State) (t : Nat) (x : Tile) (w : Nat) : State :=
  let d := Desc.ofBits (x.getD (s2Ds w))
  let spans := s.spans t d (s2Extents x w)
  match opc w with
  | 0x04 => s.addPend t (some (x.keyX (s2Xd w), vredOf x w)) none []
  | 0x07 =>
    let g := s.getBytes t d (s2Addr x w) 4096
    match g.bad with
    | some b => g.st.trouble t b
    | none => g.st.addPend t none (some (s2Vd w, (peel 32 1024 (bytesToNat g.bytes)).map (BitVec.ofNat 32))) spans
  | 0x08 =>
    let id := s.nextOp t
    let bytes := vBytes (x.getV (s2Va w))
    let s := s.startOp t { kind := .vst, ec := s2Ec w, writes := spans }
    let s := s.digest t id bytes true
    let r := s.putBytes t d (s2Addr x w) bytes
    match r.1 with
    | some b => r.2.trouble t b
    | none =>
      let f := laneFmt (s2Fmt w)
      r.2.reportTile t d ((lanesOf (codePacked (s2Fmt w)) (x.getV (s2Va w))).map fun e => (f.toVal e, false))
  | 0x06 =>
    match Fmt.ofCode (BitVec.ofNat 4 (s2Fmt w)) with
    | some f =>
      if f.isMx then
        let c := s.castMx t x w f
        let data := packElems f (c.1.map (·.1))
        let scales := c.2.map (BitVec.ofNat 8)
        let id := s.nextOp t
        let s := s.startOp t { kind := .vcvtMx, ec := s2Ec w, writes := spans }
        let s := s.digest t id (data ++ scales) true
        let s := s.addPend t (some (x.keyX (s2Xd w), BitVec.ofNat 64 (c.2.foldl max 0))) none []
        let s := s.pmcTile t 0x0B (c.1.filter (·.2)).length
        let r := s.putAll t d [(s2Addr x w, data), (s2Scale x w, scales)]
        match r.1 with
        | some b => r.2.trouble t b
        | none => r.2.reportTile t d (c.1.mapIdx fun i e => ((f.toVal e.1).scaled (c.2.getD (i / 32) 0), e.2))
      else s.addPend t none (some (s2Vd w, s.castV t x w)) []
    | none => s
  | _ => s.addPend t none (some (s2Vd w, s.s2Vector t x w)) []

end Sys2Proof.Machine
end

