-- ==== Sys2Proof/Machine/TileS3.lean ====
section
/-!
DEFINITION. DMA, SEMR, DLD, DSTR and IPF of S3 (05 R112, R433; 08 R166; 10 R231, R234): checks, the bytes that move, the
conversion into wide sums, the add-on-write requests.
-/

namespace Sys2Proof.Machine

/-! ### The shape of a DMA -/

/-- What a DMA moves: source and destination rows, scale or side arrays, and the elements of one row. -/
structure DmaOp where
  ds : Desc
  dt : Desc
  xl : Nat
  aow : Bool

def DmaOp.of (x : Tile) (w : Nat) : DmaOp :=
  { ds := Desc.ofBits (x.getD (s3Ds w)), dt := Desc.ofBits (x.getD (s3Dt w)), xl := (x.getX (s3Xl w)).toNat,
    aow := bitOf w 33 }

/-- binary32 into a wide sum (R433). -/
def DmaOp.conv (o : DmaOp) : Bool := o.ds.fmt = 0 && (o.dt.fmt = 9 || o.dt.fmt = 10)

/-- Whether a scale or side array moves with the elements (R433). -/
def DmaOp.movesAux (o : DmaOp) : Bool := o.ds.fmt = o.dt.fmt && auxBytes o.ds.fmt 64 != 0

/-- Rows, source bytes per row, destination bytes per row. -/
def DmaOp.rows (o : DmaOp) : Nat := if o.xl = 0 then o.ds.rows else 1
def DmaOp.srcRow (o : DmaOp) : Nat := if o.xl = 0 then codeBytes o.ds.fmt o.ds.cols else o.xl
def wsWidth (c : BitVec 4) : Nat := if c = 9 then 64 else 128
def DmaOp.dstRow (o : DmaOp) : Nat := if o.conv then o.srcRow / 4 * (wsWidth o.dt.fmt / 8) else o.srcRow

/-- Elements moved, counted in the destination format. -/
def DmaOp.elems (o : DmaOp) : Nat := match Fmt.ofCode o.dt.fmt with
  | some f => o.rows * (o.dstRow * 8 / f.bits)
  | none => 0

/-- Bytes of the scale or side array at either end. -/
def DmaOp.auxLen (o : DmaOp) : Nat := if o.movesAux || o.conv then auxBytes o.dt.fmt o.elems else 0

def rowSegs (base stride n rows : Nat) : List (Nat × Nat) := (List.range rows).map fun i => (base + i * stride, n)

/-- Source and destination extents, as R103 checks them. -/
def DmaOp.srcExtents (o : DmaOp) : List (Nat × Nat) :=
  (o.ds.base, (o.rows - 1) * o.ds.stride + o.srcRow) :: (if o.auxLen = 0 then [] else [(o.ds.aux, o.auxLen)])
def DmaOp.dstExtents (o : DmaOp) : List (Nat × Nat) :=
  (o.dt.base, (o.rows - 1) * o.dt.stride + o.dstRow) :: (if o.auxLen = 0 then [] else [(o.dt.aux, o.auxLen)])

/-- The pairs of R433. -/
def DmaOp.pairOk (o : DmaOp) : Bool :=
  decide (o.ds.fmt.toNat < 12) && decide (o.dt.fmt.toNat < 12) &&
    (o.ds.fmt = o.dt.fmt || o.ds.fmt = 11 || o.dt.fmt = 11 || o.conv)

/-- Whether wide-sum lengths are whole blocks. -/
def DmaOp.wholeBlocks (o : DmaOp) : Bool :=
  let ws := fun (c : BitVec 4) => c = 9 || c = 10
  if o.conv then o.srcRow % 256 = 0
  else if ws o.ds.fmt && o.ds.fmt = o.dt.fmt then o.srcRow % (8 * wsWidth o.ds.fmt) = 0 else true

def DmaOp.spill (s : State) (t : Nat) (o : DmaOp) : Bool := s.inSpill t o.ds o.srcExtents || s.inSpill t o.dt o.dstExtents

/-! ### Checks (R103, Table 5.12) -/

/-- The bundles that IPF loads: first and count. -/
def ipfRange (x : Tile) (w : Nat) : Int × Nat :=
  ((x.pc.toNat : Int) + (BitVec.ofNat 31 (fld w 63 33)).toInt, (x.getX (s3Xl w)).toNat)

def State.dmaCheck (s : State) (t : Nat) (o : DmaOp) : Option Nat :=
  match [s.descCheck t o.ds o.srcExtents false true false, s.descCheck t o.dt o.dstExtents true true false].findSome? id with
  | some c => some c
  | none => firstCode [
      (decide (2 ^ 32 < o.xl), exMove), (decide (3 ≤ o.ds.space) || decide (3 ≤ o.dt.space), exMove), (!o.pairOk, exMove),
      (o.aow && (!(o.dt.fmt = 0 || o.dt.fmt = 9 || o.dt.fmt = 10) || !(o.ds.fmt = o.dt.fmt || o.conv) || o.dt.space != 1),
        exMove),
      (!o.wholeBlocks, exMove),
      (o.aow && s.inSpill t o.dt o.dstExtents, exMove)]

/-- Checks of SEMR, DLD, DSTR, IPF. -/
def State.s3OwnCheck (s : State) (t : Nat) (x : Tile) (w : Nat) : Option Nat :=
  let xl := (x.getX (s3Xl w)).toNat
  match opc w with
  | 0x04 => firstCode [(!s.semAllotted (s.tenantOf t) (fld w 45 33), exSema)]
  | 0x05 | 0x06 => firstCode [(decide (lsSize < xl + 32), exLsAddr), (xl % 32 != 0, exAlign)]
  | 0x07 =>
    let r := ipfRange x w
    firstCode [(decide (r.1 < 0) || decide (((s.part (s.partOf t)).imgLen : Int) < r.1 + (r.2 : Int)), exFetch)]
  | _ => none

/-! ### Effects -/

/-- One 64-element block converted against the fixed anchor of its side entry (R166). -/
def convBlock (w : Nat) (side : BitVec 128) (words : List Nat) : WsBlock :=
  wsConvert w (sideAnchor side) none (words.map fun x => f32 (BitVec.ofNat 32 x))

/-- The data and side bytes of a conversion. -/
def convData (w : Nat) (data side : List Byte) : List Byte × List Byte :=
  let bs := (chunks 256 data).zipIdx.map fun (d, i) =>
    convBlock w (BitVec.ofNat 128 (bytesToNat ((side.drop (16 * i)).take 16))) (peel 32 64 (bytesToNat d))
  (bs.flatMap (·.bytes), bs.flatMap fun b => natToBytes 16 b.side.toNat)

/-- The add-on-write requests of a DMA (R234). -/
def DmaOp.requests (s : State) (t : Nat) (o : DmaOp) (data side : List Byte) : List AowReq :=
  let v := s.tenantOf t
  let rows := (chunks o.dstRow data).zipIdx
  if o.dt.fmt = 0 then rows.flatMap fun (r, i) => s.aowPieces v r.length (o.dt.base + i * o.dt.stride) r
  else
    let w := wsWidth o.dt.fmt
    let per := o.dstRow / (8 * w)
    rows.flatMap fun (r, i) =>
      s.aowBlocks v w (o.dt.base + i * o.dt.stride) (o.dt.aux + 16 * per * i) r ((side.drop (16 * per * i)).take (16 * per))

/-- A DMA reports the elements of DT.FMT that it writes: an MX or wide-sum element with its scale or side entry as moved, or as it
stands at the destination (R201; where no Aperture maps that array, as with none, log 172). -/
def State.dmaReport (s : State) (t : Nat) (o : DmaOp) (data aux : List Byte) : State :=
  match Fmt.ofCode o.dt.fmt with
  | some .bytes => s
  | some f =>
    if !o.dt.le then s else
    let aux := if o.auxLen = 0 then s.standing t o.dt o.dt.aux (auxBytes o.dt.fmt o.elems) else aux
    s.reportTile t o.dt ((arrayVals f o.elems data aux).map (·, false))
  | none => s

/-- The effect of an executing DMA: data is read and, without add-on-write, written when it issues. -/
def State.dmaEffect (s : State) (t : Nat) (x : Tile) (w : Nat) : State :=
  let o := DmaOp.of x w
  let id := s.nextOp t
  let g := s.getAll t o.ds (rowSegs o.ds.base o.ds.stride o.srcRow o.rows)
  let a := if g.bad.isNone && o.auxLen != 0 then g.st.getBytes t o.ds o.ds.aux o.auxLen else ⟨[], none, g.st⟩
  match g.bad, a.bad with
  | some b, _ => (g.st.startOp t { kind := .dma, ec := s3Ec w, span := s3Span w }).trouble t b
  | none, some b => (a.st.startOp t { kind := .dma, ec := s3Ec w, span := s3Span w }).trouble t b
  | none, none =>
    let s := a.st
    let out := if o.conv then convData (wsWidth o.dt.fmt) g.bytes a.bytes else (g.bytes, a.bytes)
    let reqs := if o.aow then o.requests s t out.1 out.2 else []
    let s := s.startOp t { kind := .dma, ec := s3Ec w, span := s3Span w, reads := s.spans t o.ds o.srcExtents,
                           writes := s.spans t o.dt o.dstExtents, spill := o.spill s t, aow := reqs }
    let s := s.digest t id (out.1 ++ out.2) true
    if o.aow then s.dmaReport t o out.1 out.2 else
    let segs := ((chunks (max 1 o.dstRow) out.1).mapIdx fun i r => (o.dt.base + i * o.dt.stride, r)) ++ [(o.dt.aux, out.2)]
    let r := s.putAll t o.dt segs
    match r.1 with
    | some b => r.2.trouble t b
    | none => r.2.dmaReport t o out.1 out.2

/-- The 32 bytes of a descriptor register in the LS. -/
def lsDesc (a : Nat) : Desc := { Desc.ofBits 0 with base := a }

/-- Lines that a range of bundles covers. -/
def linesOf (first n : Nat) : List Nat :=
  if n = 0 then [] else (List.range ((first + n - 1) / 8 - first / 8 + 1)).map (first / 8 + ·)

/-- Lines asked for that are neither present nor on their way (R96). -/
def Tile.want (x : Tile) (ls : List Nat) : Tile :=
  { x with fetching := dedup (x.fetching ++ ls.filter fun l => (Sparse.find x.lines l).isNone) }

/-- The effect of SEMR: local at once, else a message on VL0 (R112). -/
def State.semrEffect (s : State) (t : Nat) (x : Tile) (w : Nat) : State :=
  let chip := (x.getX (s3Xl w)).truncate 14
  let k := fld w 45 33
  let n := fld w 51 46 + 1
  let v := s.tenantOf t
  let s := s.startOp t { kind := .semr, ec := s3Ec w }
  if chip = s.self then s.semAdd v k n else s.emit (.semr chip v (s.jobIdOf (s.partOf t)) k n)

def State.dldEffect (s : State) (t : Nat) (x : Tile) (w : Nat) : State :=
  let a := (x.getX (s3Xl w)).toNat
  let g := s.getBytes t (lsDesc a) a 32
  match g.bad with
  | some b => g.st.trouble t b
  | none => g.st.modTile t fun y => y.setD (s3Dt w) (BitVec.ofNat 256 (bytesToNat g.bytes))

def State.dstrEffect (s : State) (t : Nat) (x : Tile) (w : Nat) : State :=
  let a := (x.getX (s3Xl w)).toNat
  let r := s.putBytes t (lsDesc a) a (natToBytes 32 (x.getD (s3Ds w)).toNat)
  match r.1 with
  | some b => r.2.trouble t b
  | none => r.2

def State.ipfEffect (s : State) (t : Nat) (x : Tile) (w : Nat) : State :=
  let r := ipfRange x w
  s.modTile t fun y => y.want (linesOf r.1.toNat r.2)

end Sys2Proof.Machine
end

