-- ==== Sys2Proof/Machine/Issue.lean ====
section
/-!
DEFINITION. The issue of one bundle (05 R96-R100, R105-R118): what lets a tile issue, what holds a bundle, the exceptions
in their order, the effects of the four slots from the registers as they stood, and where the PC goes.
-/

namespace Sys2Proof.Machine

/-! ### Whether the tile issues -/

/-- Frames, routines and the tile's state allow a bundle to issue now. -/
def State.canIssue (s : State) (t : Nat) : Bool :=
  let x := s.tile t
  s.pkg.heldBy.isNone && s.flt.run.isNone && !s.halted && !x.faulted && !x.scrubbing && !x.bistFailed && !x.debugHalted &&
  match x.routine with
  | some r => !r.returning
  | none => x.frameOpen && x.closing.isNone

/-- A bundle as its four words; the cell errors a command brings are no part of it. -/
def plainBundle (b : Bundle) : Bundle := { b with errs := [] }

/-! ### What holds a bundle (R100) -/

/-- A fence holds what follows it (R113). -/
def Tile.fenceHolds (x : Tile) : Bool := match x.fence with
  | none => false
  | some (.group _ _) => true
  | some _ => !(x.ops.isEmpty && x.pend.isEmpty)

def Tile.queued (x : Tile) (ks : List OpKind) : Nat := (x.ops.filter fun o => ks.contains o.kind).length

/-- An engine queue that a slot needs is full (Table 5.3). -/
def Tile.queueFull (x : Tile) (b : Bundle) : Bool :=
  let w0 := slotOf b 0
  let w1 := slotOf b 1
  let w3 := slotOf b 3
  (x.live w1 && decide (2 ≤ x.queued [.mma, .mdrain])) ||
  (x.live w3 && (match opc w3 with
    | 0x01 => decide (16 ≤ x.queued [.dma])
    | 0x02 => decide (4 ≤ x.queued [.krot])
    | 0x03 => decide (8 ≤ x.queued [.pcol, .fenceG])
    | 0x04 => decide (16 ≤ x.queued [.semr])
    | _ => false)) ||
  (x.live w0 && opc w0 == 0x11 && s0Fn w0 == 2 && decide (8 ≤ x.queued [.pcol, .fenceG]))

/-! ### PCOL (06 R125, R128, R131) -/

/-- A collective as a PCOL slot names it. -/
structure PcolOp where
  group : Nat
  pop : Nat
  ds : Desc
  dt : Desc
  xl : Nat

def PcolOp.of (x : Tile) (w : Nat) : PcolOp :=
  { group := fld w 44 33, pop := fld w 48 45, ds := Desc.ofBits (x.getD (s3Ds w)), dt := Desc.ofBits (x.getD (s3Dt w)),
    xl := (x.getX (s3Xl w)).toNat }

/-- Send counts of an all-to-all-v as they stand at DS.AUX. -/
def State.pcolCounts (s : State) (t : Nat) (o : PcolOp) (n : Nat) : Nat :=
  (natsOf 4 (s.getBytes t o.ds o.ds.aux (4 * n)).bytes).foldl (· + ·) 0

/-- Elements of the source and of the destination (Table 6.3). -/
def State.pcolElems (s : State) (t : Nat) (o : PcolOp) : Nat × Nat :=
  let n := s.groupSize o.group
  match o.pop with
  | 0 | 3 => (o.xl, o.xl)
  | 1 => (n * o.xl, o.xl)
  | 2 => (o.xl, n * o.xl)
  | 4 => (n * o.xl, n * o.xl)
  | 5 => (s.pcolCounts t o n, o.xl)
  | _ => (0, 0)

/-- The extents of an end: its elements, and its scale, side or count array. -/
def State.pcolExtents (s : State) (o : PcolOp) (d : Desc) (n : Nat) : List (Nat × Nat) :=
  if o.pop = 6 then [] else
  let a := if o.pop = 5 then 4 * s.groupSize o.group else auxBytes d.fmt n
  (d.base, codeBytes d.fmt n) :: (if a = 0 then [] else [(d.aux, a)])

/-- The format pairs of Table 6.3 and R128. -/
def PcolOp.formatsOk (o : PcolOp) : Bool :=
  let a := o.ds.fmt.toNat
  let b := o.dt.fmt.toNat
  match o.pop with
  | 0 | 1 => if b = 9 || b = 10 then a = 0 || a = 1 || a = b else (a = 0 || a = 1) && (b = 0 || b = 1)
  | 2 | 3 | 4 => a = b && decide (a ≤ 11) && a != 9 && a != 10 && (!codeMx a || o.xl % 32 = 0)
  | 5 => a = b && (decide (a ≤ 2) || a = 11)
  | 6 => true
  | _ => false

def State.pcolCheck (s : State) (t : Nat) (o : PcolOp) : Option Nat :=
  let n := s.pcolElems t o
  let descs := if o.pop = 6 then [] else
    [s.descCheck t o.ds (s.pcolExtents o o.ds n.1) false false false,
     s.descCheck t o.dt (s.pcolExtents o o.dt n.2) true false false]
  match descs.findSome? id with
  | some c => some c
  | none => firstCode [
      (!s.groupValid t o.group, exMove), (decide (7 ≤ o.pop), exMove),
      (o.pop != 6 && (decide (1 < o.ds.space) || decide (1 < o.dt.space)), exMove), (!o.formatsOk, exMove),
      (decide (2 ^ 24 ≤ s.nextSseq o.group (s.relTile t) + 1), exMove)]

/-- The effect of an executing PCOL: a launch (R123). -/
def State.pcolEffect (s : State) (t : Nat) (x : Tile) (w : Nat) : State :=
  let o := PcolOp.of x w
  let n := s.pcolElems t o
  let id := s.nextOp t
  let s := s.startOp t { kind := .pcol, ec := s3Ec w, span := s3Span w, reads := s.spans t o.ds (s.pcolExtents o o.ds n.1),
                         writes := s.spans t o.dt (s.pcolExtents o o.dt n.2) }
  let s := if o.pop = 6 then s else s.digest t id [] false
  s.launch { part := s.partOf t, tile := t, launcher := Fin.ofNat 65 (s.relTile t), group := o.group,
             pop := BitVec.ofNat 4 o.pop, xl := o.xl, ds := x.getD (s3Ds w), dt := x.getD (s3Dt w), sfmt := o.ds.fmt,
             dfmt := o.dt.fmt, op := id, ec := x.keyE (s3Ec w), rel := s.relFrame t, frameF := x.frameF }

/-! ### S1 (05 R107-R109) -/

/-- Requests of an operation that its sink formed. -/
def State.setAow (s : State) (t id : Nat) (l : List AowReq) : State :=
  s.modTile t fun x => { x with ops := x.ops.map fun o => if o.id == id then { o with aow := l } else o }

/-- Drained rows go to the sink of a matrix operation (R44, R45, R109, R132). -/
def State.drainEffect (s : State) (t : Nat) (x : Tile) (w : Nat) (o : MmaOp) (id : Nat) (r : Drained) : State :=
  match if o.sink = 0 then none else Fmt.ofCode o.dc.fmt with
  | none => s
  | some fc =>
    let rows := rowOrder o.m r.1
    let vals := rows.flatMap (·.vals)
    let s := s.pmcTile t 0x0A (rows.foldl (fun n r => n + r.trunc) 0)
    let s := s.pmcTile t 0x0B (vals.filter (·.2)).length
    let bytes := drainBytes o.m r.1
    match o.sink with
    | 1 | 2 =>
      let segs := r.1.flatMap fun ((j, i), row) => let a := o.drainAt fc j i
                                                   [(a.1, row.data), (a.2, row.aux)]
      let p := (s.digest t id bytes true).putAll t o.dc segs
      match p.1 with
      | some b => p.2.trouble t b
      | none => let s := p.2.reportTile t o.dc vals
                if r.2 then s.accPe t else s
    | 3 =>
      let s := ((s.digest t id bytes true).setAow t id (o.aow s t fc r.1)).reportTile t o.dc vals
      if r.2 then s.accPe t else s
    | _ =>
      if r.2 then s.accPe t else
      let s := s.digest t id [] false
      s.launch { part := s.partOf t, tile := t, launcher := Fin.ofNat 65 (s.relTile t), group := o.dc.group, pop := o.dc.pop,
                 xl := o.m * o.n, ds := x.getD (s1Dc w), dt := x.getD (s1Dc w), sfmt := o.dc.fmt, dfmt := o.dc.fmt, op := id,
                 ec := x.keyE ((s1Ec w + 1) % 16), fused := true, fixedAnchor := fc.isWs, rows := o.m, cols := o.n,
                 source := rows.flatMap (·.data), sourceSide := rows.flatMap (·.aux), rel := s.relFrame t,
                 frameF := x.frameF }

/-- The effect of an executing S1 slot. -/
def State.s1Effect (s : State) (t : Nat) (x : Tile) (w : Nat) : State :=
  let o := MmaOp.of x w
  let id := s.nextOp t
  let draw := s.drawCycles (s.partOf t) o.unitCycles
  let s := draw.2
  let s := s.startOp t { kind := if o.drainOnly then .mdrain else .mma, ec := s1Ec w, reads := s.mmaReads t o,
                         writes := s.mmaWrites t o, sink := o.sink, owes := draw.1 }
  let p := if o.drainOnly then (none, false, s.mdrainRows t o, s) else s.mmaProducts t o
  match p with
  | (some b, _, _, s) => s.trouble t b
  | (none, true, _, s) => s.accPe t
  | (none, false, r, s) => s.drainEffect t x w o id r

/-! ### The interlock (R113) -/

/-- The memory ranges of a slot: reads and writes. -/
def State.slotSpans (s : State) (t : Nat) (x : Tile) (i w : Nat) : List Span × List Span :=
  if !x.live w then ([], []) else
  match i, opc w with
  | 1, _ => let o := MmaOp.of x w
            (s.mmaReads t o, s.mmaWrites t o)
  | 2, 0x07 => (s.spans t (Desc.ofBits (x.getD (s2Ds w))) (s2Extents x w), [])
  | 2, _ => ([], s.spans t (Desc.ofBits (x.getD (s2Ds w))) (s2Extents x w))
  | 3, 0x01 => let o := DmaOp.of x w
               (s.spans t o.ds o.srcExtents, s.spans t o.dt o.dstExtents)
  | 3, 0x02 => let xl := (x.getX (s3Xl w)).toNat
               let d := fun (r : Nat) => Desc.ofBits (x.getD r)
               (s.spans t (d (s3Ds w)) (krotExtents (d (s3Ds w)) xl), s.spans t (d (s3Dt w)) (krotExtents (d (s3Dt w)) xl))
  | 3, 0x03 => let o := PcolOp.of x w
               let n := s.pcolElems t o
               (s.spans t o.ds (s.pcolExtents o o.ds n.1), s.spans t o.dt (s.pcolExtents o o.dt n.2))
  | 3, 0x05 => let a := (x.getX (s3Xl w)).toNat
               ([⟨0, t, a, a + 32⟩], [])
  | 3, 0x06 => let a := (x.getX (s3Xl w)).toNat
               ([], [⟨0, t, a, a + 32⟩])
  | _, _ => ([], [])

/-- A memory operation of the bundle overlaps an earlier incomplete one, and either writes. -/
def State.interlocked (s : State) (t : Nat) (x : Tile) (b : Bundle) : Bool :=
  (List.range 4).any fun i =>
    let n := s.slotSpans t x i (slotOf b i)
    let reads := x.ops.flatMap (·.reads) ++ x.pend.flatMap (·.reads)
    let writes := x.ops.flatMap (·.writes)
    n.1.any (fun a => writes.any a.meets) || n.2.any fun a => writes.any a.meets || reads.any a.meets

/-- Whether the bundle is held (R100). -/
def State.holds (s : State) (t : Nat) (x : Tile) (b : Bundle) : Bool :=
  x.fenceHolds || (x.live (slotOf b 3) && opc (slotOf b 3) == 2 && !s.blockOn 8) || x.sourcePending b || x.queueFull b || (x.live (slotOf b 0) && s.s0Waits t x (slotOf b 0)) ||
    s.interlocked t x b

/-! ### Exceptions of the slots (R118) -/

def State.s0Check (s : State) (t : Nat) (x : Tile) (w : Nat) : Option Nat :=
  match opc w with
  | 0x0F | 0x10 => if s.semAllotted (s.tenantOf t) (x.semK w) then none else some exSema
  | 0x11 =>
    if s0Fn w = 2 && (!s.groupValid t (s0Imm w % 4096) ||
        decide (2 ^ 24 ≤ s.nextSseq (s0Imm w % 4096) (s.relTile t) + 1)) then some exMove else none
  | _ => none

def State.s3Check (s : State) (t : Nat) (x : Tile) (w : Nat) : Option Nat :=
  match opc w with
  | 0x01 => s.dmaCheck t (DmaOp.of x w)
  | 0x02 => s.krotCheck t x w
  | 0x03 => s.pcolCheck t (PcolOp.of x w)
  | _ => s.s3OwnCheck t x w

/-- The first exception of the executing slots, S0 first. -/
def State.slotsCheck (s : State) (t : Nat) (x : Tile) (b : Bundle) : Option Nat :=
  (List.range 4).findSome? fun i =>
    let w := slotOf b i
    if !x.live w then none else
    match i with
    | 0 => s.s0Check t x w
    | 1 => s.s1Check t x w
    | 2 => s.s2Check t x w
    | _ => s.s3Check t x w

/-! ### Effects -/

def State.s3Effect (s : State) (t : Nat) (x : Tile) (w : Nat) : State :=
  match opc w with
  | 0x01 => s.dmaEffect t x w
  | 0x02 => s.krotEffect t x w
  | 0x03 => s.pcolEffect t x w
  | 0x04 => s.semrEffect t x w
  | 0x05 => s.dldEffect t x w
  | 0x06 => s.dstrEffect t x w
  | 0x07 => s.ipfEffect t x w
  | _ => s

/-- The effect of slot i. -/
def State.slotEffect (s : State) (t : Nat) (x : Tile) (b : Bundle) (i : Nat) : State :=
  let w := slotOf b i
  if !x.live w then s else
  match i with
  | 0 => s.s0Effect t x w
  | 1 => s.s1Effect t x w
  | 2 => s.s2Effect t x w
  | _ => s.s3Effect t x w

/-- The tile's PC has moved: a PC at LENGTH faults, and lines that are not present are asked for, the next one ahead
(R96). The bundle after a closed frame is checked when the next frame dispatches. -/
def State.fetchAt (s : State) (t : Nat) : State :=
  let x := s.tile t
  let len := (s.part (s.partOf t)).imgLen
  if len ≤ x.pc.toNat then
    (if s.canIssue t then s.exception t exFetch { s0 := 0, s1 := 0, s2 := 0, s3 := 0 } else s)
  else
    let l := x.pc.toNat / 8
    s.modTile t fun x => x.want (l :: (if 8 * (l + 1) < len then [l + 1] else []))

/-- The line last issued from is the newest (R96). -/
def Tile.touch (x : Tile) : Tile :=
  let l := x.pc.toNat / 8
  match Sparse.find x.lines l with
  | some d => { x with lines := x.lines.filter (·.1 != l) ++ [(l, d)] }
  | none => x

/-- What follows the effects of a bundle: PC, the deferred queue, the debug step, the fetch, a barrier to join. -/
def State.afterBundle (s : State) (t : Nat) (x : Tile) (b : Bundle) : State :=
  let w := slotOf b 0
  let next := (if x.live w then x.branch w else none).getD (x.pc + 1)
  let s := s.modTile t fun y =>
    let y := { y.touch with pc := next, held := false, debugPass := false, debugHalted := x.debugStep, debugStep := false }
    if x.live w then y.s0Flow x w else y
  let s := s.pmcTile t 0x02 1
  let s := if (s.tile t).routineSeq = x.routineSeq then s else s.pmcTile t 0x09 1
  if (s.tile t).faulted then s else (s.fetchAt t).joinBarrier t

/-- A bundle issues whole or not at all: a debug halt at BRK, the exceptions of R118 in order, the holds of R100, and
then every executing slot's effect from the registers as they stood before the bundle. -/
def State.issue (s : State) (t : Nat) (b : Bundle) : State :=
  let x := s.tile t
  if !s.canIssue t || x.bundleAt x.pc != some (plainBundle b) then s else
  let s := s.inject b.errs
  if opc (slotOf b 0) = 0x18 && x.live (slotOf b 0) && s.rdBit (Reg.pmcTdbg t) 0 && !x.debugPass then
    s.modTile t fun x => { x with debugHalted := true }
  else if bundleIllegal x.routine.isSome b then s.exception t exIllegal b
  else if x.slotConflict b then s.exception t exConflict b
  else if s.holds t x b then s.modTile t fun x => { x with held := true }
  else
    let x := if x.fence.isSome then { x with fence := none } else x
    let s := s.setTile t { s.tile t with fence := none }
    match s.slotsCheck t x b with
    | some c => s.exception t c b
    | none => ((List.range 4).foldl (fun s i => s.slotEffect t x b i) s).afterBundle t x b

/-- A row of the tables: the bundle at the PC whose slot i holds the row's opcode issues. -/
def State.row (s : State) (t : Nat) (b : Bundle) (i op : Nat) : State := if opc (slotOf b i) = op then s.issue t b else s

/-- Whether slot i holds an opcode of the tables. -/
def knownOp (i w : Nat) : Bool :=
  match i with
  | 0 => decide (opc w ≤ 0x18) && opc w != 0x07
  | 1 => decide (opc w ≤ 2)
  | 2 => decide (opc w ≤ 9)
  | _ => decide (opc w ≤ 7)

end Sys2Proof.Machine
end

