-- ==== Sys2Proof/Machine/Save.lean ====
section
/-!
DEFINITION. Saving and restoring tiles (11 R262, R265) and the crash dump (15 R347): the local store by pages, the register
image, the dump slots.
-/

namespace Sys2Proof.Machine

/-! ### Pages -/

/-- The extent from `a` of `n` bytes, cut at multiples of 4,096; `fuel` bounds the pages. -/
def pagesGo : Nat → Nat → Nat → List (Nat × Nat)
  | 0, _, _ => []
  | fuel + 1, a, n =>
    if n = 0 then [] else
    let k := min n (4096 - a % 4096)
    (a, k) :: pagesGo fuel (a + k) (n - k)
def pages (a n : Nat) : List (Nat × Nat) := pagesGo (n / 4096 + 2) a n

/-- The device address of a tenant address, where an Aperture maps it. -/
def State.tenAt (s : State) (v a : Nat) : Option Nat := (s.aptOf v a 1).map fun i => s.xlate v i a

/-- Bytes of an ascending sparse map from a key on, as offsets. -/
def listedIn (m : Sparse Byte) (lo n : Nat) : List (Nat × Byte) :=
  (m.filter fun e => decide (lo ≤ e.1) && decide (e.1 < lo + n)).map fun e => (e.1 - lo, e.2)

/-- Copy bytes of one memory map over those of another. -/
def copyBytes (src : Sparse Byte) (from' : Nat) (dst : Sparse Byte) (to' n : Nat) : Sparse Byte :=
  (listedIn src from' n).foldl (fun m e => Sparse.set 0 m (to' + e.1) e.2) (Sparse.clear dst to' n)

/-! ### The save area (R262) -/

def saveBytes : Nat := 25296896
def lsBytes : Nat := 25165824
def imageBytes : Nat := 131072

/-- Where the save area of partition-relative tile r lies. -/
def saveAt (save r : Nat) : Nat := save + r * saveBytes

/-- Whether an extent lies wholly in read-write HBM Apertures of a tenant, page by page. -/
def State.saveOk (s : State) (v a n : Nat) : Bool := (pages a n).all fun e => s.aptAllows v e.1 e.2 true false

/-- The ECC path of a read of LS bytes 0 to n − 1 of tile t (R53): how many lie below the first uncorrectable word; correctable words
among them are corrected and counted. -/
def State.lsScan (s : State) (t n : Nat) : Nat × State :=
  let off := fun (w : Nat) => w * 8 - lsKey t 0
  let mine := fun (w k : Nat) => decide (lsKey t 0 ≤ w * 8) && decide (w * 8 < lsKey t 0 + k)
  let k := ((s.mem.lsBad.filter fun w => mine w n).map off).foldl min n
  let soft := s.mem.lsSoft.filter fun w => mine w k
  (k, soft.foldl (fun s _ => s.noteLsCe t) { s with mem := { s.mem with lsSoft := s.mem.lsSoft.filter (!soft.contains ·) } })

/-- LS bytes 0 to n − 1 of tile t into tenant memory. -/
def State.lsOut (s : State) (v a t n : Nat) : State :=
  (pages a n).foldl (fun s e => match s.tenAt v e.1 with
    | none => s
    | some da => { s with mem := { s.mem with
        dram := copyBytes s.mem.ls (lsKey t (e.1 - a)) s.mem.dram da e.2,
        memBad := s.mem.memBad.filter fun w => !(decide (da ≤ w * 64) && decide (w * 64 + 64 ≤ da + e.2)),
        memSoft := s.mem.memSoft.filter fun w => !(decide (da ≤ w * 64) && decide (w * 64 + 64 ≤ da + e.2)) } }) s

/-- LS bytes 0 to n − 1 of tile t from tenant memory; an uncorrectable word answers its address. -/
def State.lsIn (s : State) (v a t n : Nat) : Option Nat × State :=
  (pages a n).foldl (fun acc e => match acc.1, acc.2.tenAt v e.1 with
    | none, some da =>
      let s := acc.2
      match s.mem.memBad.find? fun w => decide (da < w * 64 + 64) && decide (w * 64 < da + e.2) with
      | some w => (some (w * 64), s.noteHbmUe (w * 64))
      | none => (none, { s with mem := { s.mem with
          ls := copyBytes s.mem.dram da s.mem.ls (lsKey t (e.1 - a)) e.2,
          lsBad := s.mem.lsBad.filter fun w => !(decide (lsKey t (e.1 - a) ≤ w * 8) && decide (w * 8 < lsKey t (e.1 - a) + e.2)),
          lsSoft := s.mem.lsSoft.filter fun w =>
            !(decide (lsKey t (e.1 - a) ≤ w * 8) && decide (w * 8 < lsKey t (e.1 - a) + e.2)) } })
    | _, _ => acc) (none, s)

def imageKey (v a : Nat) : Nat := v * 2 ^ 48 + a

/-- The registers that an image holds. -/
def Tile.image (x : Tile) : RegImage :=
  { x := x.x, d := x.d, b := x.b, e := x.e, v := x.v, queue := x.queue, pc := x.pc }
def Tile.loadImage (x : Tile) (i : RegImage) : Tile :=
  { x with x := i.x, d := i.d, b := i.b, e := i.e, v := i.v, queue := i.queue, pc := i.pc }

/-- Every accumulator half holds no tag (R79). -/
def Tile.dropTags (x : Tile) : Tile := { x with tags := [] }

/-- Every register zero except the PC; B0 reads as 1 (R97). -/
def Tile.zeroRegs (x : Tile) : Tile :=
  { x with x := [], d := [], b := [], e := [], v := [], pend := [], queue := [] }

/-- Write the free bytes of a layout that the spec does not give. -/
def State.freeBytes (s : State) (da n : Nat) : State :=
  let k := s.fresh
  { k.2 with mem := { k.2.mem with dram := Sparse.splice 0 k.2.mem.dram da n (Config.imageByte k.1) } }

/-- Save one tile: its LS and its register image. An uncorrectable LS word faults the tile (R53). -/
def State.saveTile (s : State) (v save t : Nat) : State :=
  let a := saveAt save (s.relTile t)
  let r := s.lsScan t lsBytes
  let s := r.2.lsOut v a t r.1
  if r.1 < lsBytes then s.lsUe t r.1 else
  let s := (pages (a + lsBytes) imageBytes).foldl (fun s e => match s.tenAt v e.1 with
    | some da => s.freeBytes da e.2
    | none => s) s
  { s with chan := { s.chan with images := Sparse.set none s.chan.images (imageKey v a) (some (s.tile t).image) } }

/-- Restore one tile from its save area. A word that cannot be read faults the tile as a DMA read does (log 50). -/
def State.restoreTile (s : State) (v save t n : Nat) (full : Bool) : State :=
  let a := saveAt save (s.relTile t)
  let r := s.lsIn v a t (if full then lsBytes else n)
  match r.1 with
  | some da => r.2.faultTileAt t 3 3 da
  | none =>
    let s := r.2.modTile t Tile.dropTags
    if !full then s else
    match Sparse.get none s.chan.images (imageKey v a) with
    | some i => s.modTile t fun x => x.loadImage i
    | none => s

def State.saveAll (s : State) (p v save : Nat) : State := (s.partTiles p).foldl (fun s t => s.saveTile v save t) s
def State.restoreAll (s : State) (p v save n : Nat) (full : Bool) : State :=
  (s.partTiles p).foldl (fun s t => s.restoreTile v save t n full) s

/-! ### The crash dump (R347, Table 15.6) -/

/-- The slot that the next dump takes: an empty one, else the older. -/
def State.dumpSlot (s : State) : Bool :=
  if !s.dumpValid false then false else if !s.dumpValid true then true else !s.flt.dumpB

def State.pokeNat (s : State) (da n x : Nat) : State := s.pokeDev ((List.range n).map fun i => (da + i, BitVec.ofNat 8 (x / 256 ^ i)))

/-- A dump begins: its slot is the newest and not valid. -/
def State.openDump (s : State) : State :=
  let b := s.dumpSlot
  ({ s with flt := { s.flt with dumpB := b } }).pokeNat (dumpAt b) 4096 0

/-- The LS of a tile into a dump. An uncorrectable word faults the tile and is not delivered (R53): its place holds free bytes. -/
def State.dumpLs (s : State) (base t : Nat) : State :=
  let r := s.lsScan t lsBytes
  let s := { r.2 with mem := { r.2.mem with dram := copyBytes r.2.mem.ls (lsKey t 0) r.2.mem.dram (base + 0x10000) lsBytes } }
  if r.1 = lsBytes then s else
  let bad := s.mem.lsBad.filter fun w => decide (lsKey t 0 ≤ w * 8) && decide (w * 8 < lsKey t 0 + lsBytes)
  (bad.foldl (fun s w => s.freeBytes (base + 0x10000 + (w * 8 - lsKey t 0)) 8) s).lsUe t r.1

/-- A dump of the newest slot: the event log, the tile's LS and registers, VALID last. `seq` is the SEQ of the record that
set it off. The bytes of the register image are free, and the registers that it holds stand beside the memory, as for a save area
(log 48). -/
def State.writeDump (s : State) (seq : Word) (tile : Option Nat) : State :=
  let base := dumpAt s.flt.dumpB
  let s := s.pokeNat (base + 0x1000) 0x8000 (packFields (s.flt.events.mapIdx fun i r => (1024 * i, 1024, r.toNat)))
  let s := s.freeBytes (base + 0x9000) 0x7000
  let s := { s with mem := { s.mem with dram := Sparse.clear s.mem.dram (base + 0x10000) (0x10000000 - 0x10000) } }
  let s := match tile with
    | some t => (s.dumpLs base t).freeBytes (base + 0x10000 + lsBytes) imageBytes
    | none => s
  let s := { s with flt := { s.flt with
    dumpRegs := Sparse.set none s.flt.dumpRegs (b2n s.flt.dumpB) (tile.map fun t => (s.tile t).image) } }
  let s := s.freeBytes (base + 0x1830000) 0x100000
  s.pokeNat base 4096 (packFields [(0, 32, 0x44554D50), (32, 32, seq.toNat), (64, 64, s.now.toNat),
    (128, 64, s.start.boot.fwver.toNat), (192, 1, 1), (193, 1, b2n tile.isSome)])

end Sys2Proof.Machine
end

