-- ==== Sys2Proof/Machine/Ledger.lean ====
section
/-!
DEFINITION. Reproducibility (09): the run fingerprint, the ledger descriptor and ring, the records, frame digests, ledger
replay and the comparison of frames with a source or a Mirror partner.
-/

namespace Sys2Proof.Machine

/-! ### The ledger descriptor (R191, Table 9.3) -/

def ldBase (d : Nat) : Nat := fld d 47 0
def ldRingLog (d : Nat) : Nat := fld d 69 64
def ldDigestMode (d : Nat) : Bool := bitOf d 72
def ldReplay (d : Nat) : Bool := bitOf d 73
def ldStop (d : Nat) : Bool := bitOf d 74
def ldEndAtLast (d : Nat) : Bool := bitOf d 75
def ldFrameCmp (d : Nat) : Bool := bitOf d 76
def ldMirror (d : Nat) : Bool := bitOf d 77
/-- W. -/
def ldWindow (d : Nat) : Nat := fld d 79 78 + 1
def ldRank (d : Nat) : Nat := fld d 109 96
def ldPartner (d : Nat) : Nat := fld d 125 112
def ldLoupeMask (d : Nat) : Nat := fld d 191 128
def ldLoss (d : Nat) : Nat := fld d 239 192
def ldDigestBase (d : Nat) : Nat := fld d 303 256
def ldDigestLog (d : Nat) : Nat := fld d 324 320
def ldReplayBase (d : Nat) : Nat := fld d 431 384
def ldReplayBytes (d : Nat) : Nat := fld d 487 448
def ldRdigestBase (d : Nat) : Nat := fld d 559 512
def ldDataId (d : Nat) : Nat := fld d 831 576
def ldRdigestFrames (d : Nat) : Nat := fld d 879 832

/-- Bytes of a digest-ring entry of an s-tile partition (R199). -/
def digestEntryBytes (s : Nat) : Nat := 16 + 16 * s

/-- The first failing field of a descriptor at a tenant address (R191), by ascending offset. -/
def State.ledgerCheck (s : State) (p v a d : Nat) : Option Nat :=
  let k := ldRingLog d
  let kOk := decide (18 ≤ k) && decide (k ≤ 34)
  let ring := match s.aptOf v (ldBase d) (2 ^ k) with
    | some i => let e := s.aptDesc v i
                aptWritable e && (aptRetained e || aptSpill e)
    | none => false
  let entry := digestEntryBytes (s.partSize p)
  firstOffset [
    (ldBase d % 4096 != 0 || (kOk && !ring), 0x00),
    (!kOk || fld d 71 70 != 0 || fld d 95 80 != 0, 0x08),
    (ldLoss d != 0 && !s.aptAllows v (ldLoss d) 4 false true, 0x18),
    (ldDigestMode d && (ldDigestBase d % 4096 != 0 || (decide (8 ≤ ldDigestLog d) && decide (ldDigestLog d ≤ 24) &&
        !s.aptAllows v (ldDigestBase d) (2 ^ ldDigestLog d * entry) true true)), 0x20),
    (ldDigestMode d && (decide (ldDigestLog d < 8) || decide (24 < ldDigestLog d)), 0x28),
    (ldReplay d && !s.aptAllows v (ldReplayBase d) (ldReplayBytes d) false true, 0x30),
    (ldReplay d && ldFrameCmp d && !s.aptAllows v (ldRdigestBase d) (ldRdigestFrames d * entry) false true, 0x40),
    (!s.aptAllows v a 128 true true, 0x70)]

/-! ### The fingerprint (R189, R431, Tables 9.2 and 9.16) -/

def hash256 (l : List Byte) : BitVec 256 := BitVec.ofNat 256 (bytesToNat (sha256 l))

/-- Little-endian fields, each with its width in bytes. -/
def canon (fs : List (Nat × Nat)) : List Byte := fs.flatMap fun f => natToBytes f.1 f.2

/-- Entries of a table in ascending TAG. -/
def byTag (tag : Nat → Nat) (es : List Nat) : List Nat := sortBy (fun a b => decide (tag a ≤ tag b)) es

/-- Item 5. -/
def State.groupsItem (s : State) (v : Nat) : List Byte :=
  let es := (s.prism.groups.map fun e => e.2.toNat).filter fun e => bitOf e 0 && gTenant e == v
  (byTag gTag es).flatMap fun e =>
    canon [(4, gTag e), (1, gPolicy e), (1, b2n (gFailCont e)), (1, b2n (gWide e)), (1, gPhases e - 1), (2, gNmem e),
           (2, gDeadline e), (2, gFailTicks e), (1, gSlots e), (4, gStride e), (4, gFrom e 0), (4, gFrom e 1),
           (4, gFrom e 2), (4, gFrom e 3)] ++
    (List.range (gPhases e)).flatMap fun i => match s.readList v (gList e i) with
      | some l => canon [(2, (l.members.findIdx? (·.chip == s.self)).getD 0), (4, l.slotLen)] ++
          l.slots.flatMap (fun x => natToBytes 8 x.toNat) ++
          (if l.order.isEmpty then List.range (l.nmem + 1) else l.order).flatMap (natToBytes 2)
      | none => []

/-- Item 6. -/
def State.ringsItem (s : State) (v : Nat) : List Byte :=
  let es := (s.kal.rings.map fun e => e.2.toNat).filter fun e => bitOf e 0 && rTenant e == v
  (byTag rTag es).flatMap fun e =>
    canon [(4, rTag e), (1, rCut e), (1, rSize e - 1), (1, rPos e), (4, rSeqLen e), (2, rFailTicks e)]

/-- Item 7: the header, the schedule, the descriptors with every address field zero. -/
def State.tableItem (s : State) (p v : Nat) : List Byte :=
  match (s.part p).ouu with
  | none => []
  | some c =>
    let h := c.header.toNat
    natToBytes 64 h ++ c.segments.flatMap (fun g => natToBytes 32 g.toNat) ++
    (List.range (utGroups h)).flatMap fun g =>
      let d := (s.tenBytes v (s.ouuTable p + gdOffset g) 128).getD []
      d.take 0x28 ++ List.replicate 0x40 0 ++ d.drop 0x68

/-- The canonical bytes of an item; `none` for a reserved one. -/
def State.itemBytes (s : State) (p : Nat) (j : Job) (desc i : Nat) : Option (List Byte) :=
  match i with
  | 0 => some (natToBytes 8 0x4D56334100000001)
  | 1 => some (((s.tenAddrs j.tenant j.image (j.imgLen * 32)).getD []).map s.devByte)
  | 2 => some (canon [(2, s.partSize p), (1, b2n j.repro), (1, b2n j.mv2)])
  | 3 => some (natToBytes 8 j.seed.toNat)
  | 4 => some (natToBytes 32 (ldDataId desc))
  | 5 => some (s.groupsItem j.tenant)
  | 6 => some (s.ringsItem j.tenant)
  | 7 => some (s.tableItem p j.tenant)
  | 8 => some (natToBytes 2 (s.rdFld (Reg.shtPctrl p) 10 0))
  | 9 => some (natToBytes 2 (s.tclk p))
  | 10 => some (natToBytes 1 (s.envAct p))
  | 11 => some (natToBytes 8 s.start.boot.fwver.toNat)
  | 12 => some ((List.range 9).flatMap fun k => natToBytes 4 (s.physRoleReg k).toNat)
  | 13 => some (canon [(8, ldLoupeMask desc), (1, b2n (ldDigestMode desc)), (1, ldWindow desc - 1)])
  | _ => none

def State.itemDigest (s : State) (p : Nat) (j : Job) (desc i : Nat) : BitVec 256 :=
  match s.itemBytes p j desc i with
  | some l => hash256 l
  | none => 0

/-- The run fingerprint over sixteen item digests. -/
def fingerprintOf (items : List (BitVec 256)) : BitVec 256 := hash256 (items.flatMap fun x => natToBytes 32 x.toNat)

/-- The items that replay requires equal (column N, or M for the MV2 profile). -/
def requiredItems (mv2 : Bool) : List Nat := [0, 1, 2, 3, 4, 5, 6, 7] ++ (if mv2 then [11, 12] else []) ++ [13]

/-- The item of a record of sixteen item digests. -/
def recordItem (r : List Byte) (i : Nat) : Nat := bytesToNat ((r.drop (256 + 32 * i)).take 32)

/-- The first required item that differs from a source LAUNCH or ITEMS record. -/
def itemsDiffer (mv2 : Bool) (items : List (BitVec 256)) (r : List Byte) : Option Nat :=
  (requiredItems mv2).find? fun i => (items.getD i 0).toNat != recordItem r i

/-! ### Records (R192, R193, Table 9.4) -/

/-- The fields of a record's header that its step gives. -/
structure StepHead where
  loss : Word
  norm : Word
  lr : Word
  last : Nat
  firstP : Nat
  frames : Nat
  lostTicks : Nat
  nDec : Nat
  nSlip : Nat
  nLoupe : Nat
  byCause : List Nat
  divItem : Nat
  divTile : Nat

/-- The header of 256 bytes. A record of another kind than STEP and ABANDONED has free values where the step's stand. -/
def State.recordHead (s : State) (p : Nat) (j : Job) (l : Ledger) (kind len flags step lseq lost : Nat)
    (h : StepHead ⊕ Nat) : List Byte :=
  let stepFields := match h with
    | .inl x => [(512, 32, x.loss.toNat), (544, 32, x.norm.toNat), (576, 32, x.lr.toNat), (608, 3, x.last),
        (640, 48, x.firstP), (704, 32, x.frames), (736, 32, x.lostTicks), (800, 16, x.nDec), (816, 16, x.nSlip),
        (832, 7, x.nLoupe), (1312, 8, x.divItem), (1320, 6, x.divTile)] ++
        (List.range 13).map fun i => (896 + 32 * i, 32, x.byCause.getD i 0)
    | .inr n => ([(512, 32), (544, 32), (576, 32), (608, 3), (640, 32), (672, 16), (704, 32), (736, 32), (1312, 14)] ++
        (List.range 13).map fun i => (896 + 32 * i, 32)).map fun (f : Nat × Nat) => (f.1, f.2, (Config.recordWord n (f.1 / 8)).toNat)
  natToBytes 256 (packFields ([(0, 16, 0x4C47), (16, 8, kind), (24, 8, 1), (32, 32, len), (64, 32, lseq), (96, 32, flags),
    (128, 40, step), (192, 14, ldRank l.desc.toNat), (208, 3, p), (212, 9, j.tenant), (256, 256, l.fingerprint.toNat),
    (768, 16, s.tclk p), (784, 8, s.envAct p), (840, 8, s.partSize p), (864, 32, lost), (1344, 64, s.now.toNat)] ++
    stepFields))

def State.modLed (s : State) (p : Nat) (f : Ledger → Ledger) : State :=
  s.modPart p fun x => { x with led := x.led.map f }

/-- A record is discarded: it keeps its LSEQ and is counted. -/
def State.discard (s : State) (p n : Nat) : State :=
  s.modLed p fun l => { l with lseq := l.lseq + BitVec.ofNat 32 n, lost := l.lost + n, discarded := l.discarded + BitVec.ofNat 64 n }

/-- One record, or PAD, at the end of the ring, then WCOUNT; `false` when a write failed (R432). -/
def State.ringWrite (s : State) (p v : Nat) (l : Ledger) (bytes : List Byte) (isPad : Bool) : Bool × State :=
  let d := l.desc.toNat
  let w := s.writeTen v (ldBase d + l.wcount.toNat % 2 ^ ldRingLog d) bytes
  let count := l.wcount + BitVec.ofNat 64 bytes.length
  match w.1 with
  | some _ => (false, w.2)
  | none =>
    let c := w.2.writeTen v (l.descAddr + 0x70) (natToBytes 8 count.toNat)
    match c.1 with
    | some _ => (false, c.2)
    | none => (true, c.2.modLed p fun l => { l with
        wcount := count, lseq := l.lseq + 1, lastLseq := l.lseq, lost := if isPad then l.lost else 0 })

/-- Write a record of `len` bytes: `mk` gives its bytes from its LSEQ and its LOST, `pad` those of a PAD. -/
def State.writeRecord (s : State) (p v len : Nat) (mk : Nat → Nat → List Byte) (pad : Nat → Nat → List Byte) : State :=
  match (s.part p).led with
  | none => s
  | some l =>
    let size := 2 ^ ldRingLog l.desc.toNat
    let pos := l.wcount.toNat % size
    let padLen := if size < pos + len then size - pos else 0
    let r := s.readTen v (l.descAddr + 0x78) 8
    if r.bad.isSome || decide (size < (l.wcount - BitVec.ofNat 64 (bytesToNat r.bytes)).toNat + len + padLen) then
      r.st.discard p 1
    else
      let w := if padLen = 0 then (true, r.st) else r.st.ringWrite p v l (pad padLen l.lseq.toNat) true
      if !w.1 then w.2.discard p 2 else
      match (w.2.part p).led with
      | none => w.2
      | some l =>
        let u := w.2.ringWrite p v l (mk l.lseq.toNat l.lost) false
        if u.1 then u.2 else u.2.discard p 1

/-- A record with a body on the ring of partition p, filled with zeros to a multiple of 64 bytes (R193). -/
def State.record (s : State) (p kind flags step : Nat) (h : Option StepHead) (body : List Byte) : State :=
  match (s.part p).job, (s.part p).led with
  | some j, some l =>
    let n := s.fresh
    let s := n.2
    let head := match h with
      | some x => .inl x
      | none => .inr n.1
    let body := body ++ List.replicate ((64 - body.length % 64) % 64) 0
    let len := 256 + body.length
    s.writeRecord p j.tenant len (fun lseq lost => s.recordHead p j l kind len flags step lseq lost head ++ body)
      (fun padLen lseq => (s.recordHead p j l 0 padLen flags step lseq 0 (.inr n.1) ++ List.replicate padLen 0).take padLen)
  | _, _ => s

/-- FLAGS that a partition's mode and its Mirror pair give. -/
def State.runFlags (s : State) (p : Nat) : Nat :=
  let x := s.part p
  packFields [(0, 1, b2n (x.job.any (·.repro))), (1, 1, b2n (x.job.any (·.mv2))), (6, 1, b2n (x.led.any (·.unmirrored)))]

/-- A LAUNCH (KIND 1) or ITEMS (KIND 5) record. -/
def State.itemsRecord (s : State) (p kind step : Nat) : State :=
  match (s.part p).led with
  | some l => s.record p kind (s.runFlags p + (if l.replaying then 4 else 0)) step none
      (l.items.flatMap fun x => natToBytes 32 x.toNat)
  | none => s

/-- An END record, and bits 8 to 11 of its FLAGS. -/
def State.endRecord (s : State) (p status detail : Nat) : State :=
  let bit := if status = 0x1B then 8 else if status = 0x20 then 9 else if status = 0x23 then 10
    else if status = 0x21 then 11 else 32
  s.record p 4 (s.runFlags p + (if bit < 32 then 2 ^ bit else 0)) (s.part p).closing.toNat none
    (natToBytes 64 (packFields [(0, 8, status), (32, 32, detail)]))

/-! ### The step's record (R194-R201, R206) -/

def decisionBefore (a b : Decision) : Bool :=
  let key := fun (d : Decision) => (((d.gtc.toNat * 2 ^ 32 + d.tag.toNat) * 128 + d.launcher) * 2 ^ 24 + d.sseq.toNat) * 2 ^ 14 + d.member
  decide (key a ≤ key b)

def Decision.bytes (d : Decision) : List Byte :=
  natToBytes 32 (packFields [(0, 32, d.tag.toNat), (32, 24, d.sseq.toNat), (56, 7, d.launcher), (64, 14, d.member),
    (80, 14, d.owner), (96, 4, d.kind.toNat), (128, 32, d.lateness.toNat), (192, 40, d.slotStep.toNat)])

/-- The code of a cause (Table 2.2). -/
def causeCode : Cause → Nat
  | .own => 0 | .linkRetry => 1 | .prismPeer => 2 | .kalBlock => 3 | .hbmRetry => 4 | .ouu => 5 | .swap => 6 | .power => 7
  | .thermal => 8 | .linkNarrow => 9 | .host => 10 | .debug => 11 | .extWait => 12

def SlipEntry.bytes (e : SlipEntry) (rel : Nat) : List Byte :=
  natToBytes 32 (packFields [(0, 48, e.p.toNat), (64, 32, e.lateness.toNat), (96, 16, e.lost.toNat),
    (112, 4, causeCode e.cause), (120, 6, rel), (128, 64, e.gtc.toNat)])

/-- The step digest of a tile (R198). -/
def Tile.stepDigest (x : Tile) : BitVec 128 :=
  let fs := (sortBy (fun a b => serialGe 48 b.1 a.1) x.frameDigests).map (·.2)
  digestOf ((fs ++ x.routineDigests).flatMap fun d => natToBytes 16 d.toNat)

/-- The body of a STEP record: decisions, slips, step digests, Loupe entries. -/
structure StepBody where
  decisions : List Byte
  slips : List Byte
  digests : List Byte
  loupes : List Byte

def StepBody.bytes (b : StepBody) : List Byte := b.decisions ++ b.slips ++ b.digests ++ b.loupes

def State.stepBody (s : State) (p : Nat) : StepBody :=
  let x := s.part p
  { decisions := (sortBy decisionBefore x.decisions).flatMap Decision.bytes,
    slips := x.slips.flatMap fun e => e.bytes (e.tile - 8 * p),
    digests := (s.partTiles p).flatMap fun t => natToBytes 16 (s.tile t).stepDigest.toNat,
    loupes := x.loupes.flatMap fun e => natToBytes 64 e.toNat }

/-- The loss scalar: its word, and LOSS_UNREAD. -/
def State.readLoss (s : State) (v a : Nat) : Word × Bool × State :=
  if a = 0 then (0x7FC00000, false, s) else
  let r := s.readTen v a 4
  match r.bad with
  | some _ => (0x7FC00000, true, r.st)
  | none => (BitVec.ofNat 32 (bytesToNat r.bytes), false, r.st)

/-- Whether a record of the step in progress is meant, and not of the step whose boundary runs: the step is open, or the closed
step's record is written. -/
def Part.inStep (x : Part) : Bool := x.stepOpen || decide (5 ≤ x.action)

/-- The header fields of the step whose boundary runs, or of the step in progress. -/
def State.stepHead (s : State) (p : Nat) (inStep : Bool) (loss : Word) (b : StepBody) (div : Option (Nat × Nat)) : StepHead :=
  let x := s.part p
  { loss := loss, norm := s.rd (Reg.ouuNorm p), lr := s.rd (Reg.ouuLr p), last := s.rdFld (Reg.ouuPstat p) 2 0,
    firstP := x.firstP.toNat, frames := if inStep then x.stepTicks else x.closedTicks,
    lostTicks := if inStep then x.stepLost else x.closedLost, nDec := b.decisions.length / 32,
    nSlip := b.slips.length / 32, nLoupe := b.loupes.length / 64,
    byCause := (List.range 13).map fun i => min 0xFFFFFFFF (Sparse.get 0 x.byCause i),
    divItem := (div.map (·.1)).getD 0xFF, divTile := (div.map (·.2)).getD 0 }

/-- The header of a record as a number, and its parts. -/
def recHead (r : List Byte) : Nat := bytesToNat (r.take 256)
def recKind (r : List Byte) : Nat := fld (recHead r) 23 16
def recStep (r : List Byte) : Nat := fld (recHead r) 167 128
def recDigests (r : List Byte) (n : Nat) : List Byte :=
  let h := recHead r
  (r.drop (256 + 32 * fld h 815 800 + 32 * fld h 831 816)).take (16 * n)
def recLoupes (r : List Byte) : List Byte :=
  let h := recHead r
  (r.drop (256 + 32 * fld h 815 800 + 32 * fld h 831 816 + 16 * fld h 847 840)).take (64 * fld h 838 832)

/-- Whether the source record's entries name a collective that the step did not use (R207). -/
def State.strayDecision (s : State) (r : List Byte) : Bool :=
  (recordDecisions r).any fun d =>
    match s.groupByTag (BitVec.ofNat 32 (fld d 31 0)) with
    | some g => decide (64 < fld d 62 56) || decide ((Sparse.get 0 s.prism.sseqs (launchKey g (fld d 62 56))).toNat ≤ fld d 55 32)
    | none => true

/-- The comparison of R206: the item that differs first and the tile of a digest. -/
def State.diverges (s : State) (p : Nat) (l : Ledger) (h : StepHead) (b : StepBody) : Option (Nat × Nat) :=
  match l.source with
  | none => none
  | some r =>
    let src := recHead r
    let items := match l.sourceItems with
      | some i => (itemsDiffer (s.part p).mv2 l.items i).map fun k => (16 + k, 0)
      | none => none
    let n := s.partSize p
    let tile := (List.range n).find? fun i => (b.digests.drop (16 * i)).take 16 != ((recDigests r n).drop (16 * i)).take 16
    match items with
    | some d => some d
    | none =>
      if fld src 543 512 != h.loss.toNat then some (0, 0)
      else if fld src 575 544 != h.norm.toNat then some (1, 0)
      else if fld src 610 608 != h.last || s.strayDecision r then some (2, 0)
      else if fld src 607 576 != h.lr.toNat then some (3, 0)
      else match tile with
        | some i => some (4, i)
        | none => if recLoupes r != b.loupes then some (5, 0) else none

/-- FLAGS of the step's record. -/
def State.stepFlags (s : State) (p : Nat) (diverged lossUnread : Bool) : Nat :=
  let x := s.part p
  s.runFlags p + packFields [(2, 1, b2n (x.led.any (·.source.isSome))), (3, 1, b2n x.decOvf), (4, 1, b2n x.slipOvf),
    (5, 1, b2n diverged), (7, 1, b2n x.lastStepDefer), (12, 1, b2n lossUnread)]

/-- A STEP (KIND 2) or ABANDONED (KIND 3) record; whether it diverged, and its LSEQ and FLAGS. -/
def State.stepRecord (s : State) (p kind : Nat) (j : Job) (l : Ledger) : Bool × State :=
  let loss := s.readLoss j.tenant (ldLoss l.desc.toNat)
  let s := loss.2.2
  let b := s.stepBody p
  let inStep := kind = 3 && (s.part p).inStep
  let div := if kind = 2 then s.diverges p l (s.stepHead p inStep loss.1 b none) b else none
  let flags := s.stepFlags p div.isSome loss.2.1
  let lseq := match (s.part p).led with
    | some l => l.lseq.toNat
    | none => 0
  let step := if inStep then (s.part p).step.toNat else (s.part p).closing.toNat
  let s := s.record p kind flags step (some (s.stepHead p inStep loss.1 b div)) b.bytes
  let s := if div.isSome then s.modLed p fun l =>
      { l with divergeStep := if l.divergeStep = BitVec.allOnes 40 then (s.part p).closing else l.divergeStep } else s
  let low := packFields [(0, 32, lseq), (32, 32, flags)]
  (div.isSome, if kind = 2 then s.logEvent { kind := 4, step := step, jobId := j.jobId.toNat, low := some low } else s)

/-- The step's record is written: what it recorded starts afresh. -/
def State.clearStep (s : State) (p : Nat) : State :=
  let s := s.modPart p fun x => { x with slips := [], decisions := [], byCause := [], slipOvf := false, decOvf := false, loupes := [],
                                         lastStepDefer := false }
  (s.partTiles p).foldl (fun s t => s.modTile t fun x => { x with frameDigests := [], routineDigests := [] }) s

/-! ### Items that changed (R190) -/

/-- Recompute the items that changed; an ITEMS record when a digest differs. -/
def State.refreshItems (s : State) (p : Nat) (j : Job) : State :=
  match (s.part p).led with
  | none => s
  | some l =>
    let again := l.changed ++ [8, 9, 10, 11, 12]
    let items := l.items.mapIdx fun i d => if again.contains i then s.itemDigest p j l.desc.toNat i else d
    if items = l.items then s.modLed p fun l => { l with changed := [] } else
    (s.modLed p fun l => { l with items := items, fingerprint := fingerprintOf items, changed := [] }).itemsRecord p 5
      (s.part p).closing.toNat

/-! ### Replay (R202-R205) -/

/-- What the source holds for a step. -/
inductive SourceRead where
  | step (items : Option (List Byte)) (r : List Byte) (next : Nat)
  | incomplete
  | gone

/-- Read source records from an offset up to the STEP record of a step, past ABANDONED ones and keeping an ITEMS one. -/
def State.readSource (s : State) (v base bytes step rank : Nat) : Nat → Nat → Option (List Byte) → SourceRead
  | 0, _, _ => .gone
  | fuel + 1, off, items =>
    if bytes < off + 256 then .gone else
    match s.tenBytes v (base + off) 256 with
    | none => .gone
    | some hb =>
      let h := bytesToNat hb
      let len := fld h 63 32
      if fld h 15 0 != 0x4C47 || len < 256 || bytes < off + len then .gone else
      match s.tenBytes v (base + off) len with
      | none => .gone
      | some r =>
        match fld h 23 16 with
        | 3 => State.readSource s v base bytes step rank fuel (off + len) items
        | 5 => State.readSource s v base bytes step rank fuel (off + len) (some r)
        | 2 =>
          if fld h 167 128 != step || fld h 205 192 != rank then .gone
          else if bitOf h 99 then .incomplete
          else .step items r (off + len)
        | _ => .gone

/-- The source record of a step is read (R204): it forces the step, or forced replay ends, or the job does. -/
def State.loadSource (s : State) (p step : Nat) : State :=
  match (s.part p).job, (s.part p).led with
  | some j, some l =>
    if !l.replaying then s else
    let d := l.desc.toNat
    let ended := s.meet j.tenant (ldReplayBase d + l.replayOff) 256
    let finish := fun (code : Nat) => ended.modPart p fun x => { x with job := x.job.map fun j => { j with ending := some (BitVec.ofNat 8 code) } }
    match s.readSource j.tenant (ldReplayBase d) (ldReplayBytes d) step (ldRank d) (ldReplayBytes d / 256 + 1) l.replayOff none with
    | .step i r n =>
      let s := s.meet j.tenant (ldReplayBase d + l.replayOff) (n - l.replayOff)
      let next := match s.readSource j.tenant (ldReplayBase d) (ldReplayBytes d) (step + 1) (ldRank d) (ldReplayBytes d / 256 + 1) n none with
        | .step _ q _ => some q
        | _ => none
      s.modLed p fun l => { l with source := some r, sourceNext := next, sourceItems := i, replayOff := n }
    | .incomplete => (finish 0x22).modLed p fun l => { l with source := none, sourceNext := none, sourceItems := none }
    | .gone => (if ldEndAtLast d then finish 0x20 else ended).modLed p fun l =>
        { l with source := none, sourceNext := none, sourceItems := none, replaying := false }
  | _, _ => s

/-! ### Frame digests and their comparison (R196, R199, R208, R211, R212) -/

/-- Whether the frames of a partition are compared with a Mirror partner, or with source entries. -/
def Ledger.mirrors (l : Ledger) : Bool := ldMirror l.desc.toNat && !l.unmirrored && !l.frozen
def Ledger.framesCompared (l : Ledger) : Bool := ldReplay l.desc.toNat && ldFrameCmp l.desc.toNat && !l.frozen

/-- The digests of frame P in tile order, once every tile's is final. -/
def frameSet (l : List (Nat × BitVec 48 × BitVec 128)) (tiles : List Nat) (f : Nat) : Option (List (BitVec 128)) :=
  tiles.mapM fun t => (l.find? fun e => e.1 == t && e.2.1.toNat == f).map (·.2.2)

/-- The source's digests of frame P: none beyond its frames or where its entry is absent. -/
def State.sourceDigests (s : State) (p v : Nat) (l : Ledger) (f : Nat) : Option (List (BitVec 128)) :=
  let d := l.desc.toNat
  let n := s.partSize p
  if ldRdigestFrames d ≤ f then none else
  match s.tenBytes v (ldRdigestBase d + f * digestEntryBytes n) (digestEntryBytes n) with
  | none => none
  | some bs => if fld (bytesToNat (bs.take 16)) 47 0 != f then none
      else some ((natsOf 16 (bs.drop 16)).map (BitVec.ofNat 128))

/-- What the read of a source entry leaves beside it (R221, R223). -/
def State.meetSource (s : State) (p v : Nat) (l : Ledger) (f : Nat) : State :=
  let n := digestEntryBytes (s.partSize p)
  if ldRdigestFrames l.desc.toNat ≤ f then s else s.meet v (ldRdigestBase l.desc.toNat + f * n) n

/-- The tiles whose digests differ. -/
def differing (own other : List (BitVec 128)) : List Nat :=
  (List.range own.length).filter fun i => own.getD i 0 != other.getD i 0

/-- Every frame up to P + W − 1 that a frozen partition still runs has closed, and its SPAN operations have completed (R212). At a step
boundary no further frame comes (R215). -/
def State.freezeSettled (s : State) (p f w : Nat) : Bool :=
  let x := s.part p
  (s.partTiles p).all (fun t => (s.tile t).isFree && (s.tile t).ops.isEmpty) && (!x.stepOpen || serialGe 48 x.p.toNat (f + w - 1))

/-- The capture of a frozen partition, once it has settled (R212): the lowest tile that differs is dumped, the report sent, the END
record written, and the job's LAUNCH ends. -/
def State.settleFreeze (s : State) (p : Nat) : State :=
  match (s.part p).led with
  | none => s
  | some l =>
    match l.freezing with
    | none => s
    | some (f, seq, own, other) =>
      if !s.freezeSettled p f (ldWindow l.desc.toNat) then s else
      let bad := differing own other
      let first := bad.headD 0
      let job := s.jobIdOf p
      let s := s.modLed p fun l => { l with freezing := none }
      let s := s.openDump.writeDump seq (some (8 * p + first))
      let mask := bad.foldl (fun m i => m + 2 ^ i) 0
      let s := s.emit (.report .mirrorFreeze job f)
      let s := s.tellDm "MIRROR_FREEZE" [job.toNat, f, mask, (own.getD first 0).toNat, (other.getD first 0).toNat]
      let s := s.endRecord p 0x23 0
      s.modPart p fun x => { x with job := x.job.map fun j => { j with ending := some 0x23 } }

/-- The partition freezes at frame f (R212). -/
def State.freezeAt (s : State) (p f : Nat) (own other : List (BitVec 128)) : State :=
  let t := 8 * p + (differing own other).headD 0
  let x := s.part p
  let seq := s.flt.eventSeq
  let s := s.modLed p fun l => { l with frozen := true, mirrorP := BitVec.ofNat 48 f, uncompared := [],
                                        freezing := some (f, seq, own, other) }
  let s := s.logEvent { (s.tileRec t 0x0B 0) with action := 0, f := x.f.toNat, p := f,
                                                  peer := (x.led.map fun l => ldPartner l.desc.toNat).getD 0 }
  s.settleFreeze p

/-- Compare frames in their order while the lowest one not yet compared has every digest that it waits for. -/
def State.compareFrames (s : State) (p : Nat) : Nat → State
  | 0 => s
  | fuel + 1 =>
    match (s.part p).job, (s.part p).led with
    | some j, some l =>
      match l.uncompared with
      | [] => s
      | f :: rest =>
        match frameSet l.ownDigests (s.partTiles p) f with
        | none => s
        | some own =>
          let src := if l.framesCompared then s.sourceDigests p j.tenant l f else none
          let s := if l.framesCompared then s.meetSource p j.tenant l f else s
          let theirs := if l.mirrors then frameSet l.partnerDigests (s.partTiles p) f else none
          if l.mirrors && theirs.isNone then s else
          match (if src.isSome && src != some own then src else if theirs.isSome && theirs != some own then theirs else none) with
          | some other => s.freezeAt p f own other
          | none =>
            let s := s.modLed p fun l => { l with
              uncompared := rest,
              ownDigests := l.ownDigests.filter fun e => e.2.1.toNat != f,
              partnerDigests := l.partnerDigests.filter fun e => e.2.1.toNat != f }
            State.compareFrames s p fuel
    | _, _ => s

def State.compareAll (s : State) (p : Nat) : State := s.compareFrames p (((s.part p).led.map (·.uncompared.length)).getD 0)

/-- The digest-ring entry of a frame whose s digests are final (R199); a write that fails drops it (R432). -/
def State.writeDigestEntry (s : State) (p f : Nat) : State :=
  match (s.part p).job, (s.part p).led with
  | some j, some l =>
    let d := l.desc.toNat
    if !ldDigestMode d then s else
    let ds := (s.partTiles p).mapM fun t => ((s.tile t).frameDigests.find? (·.1 == f)).map (·.2)
    match ds with
    | none => s
    | some ds =>
      let bytes := natToBytes 16 f ++ ds.flatMap fun x => natToBytes 16 x.toNat
      (s.writeTen j.tenant (ldDigestBase d + f % 2 ^ ldDigestLog d * digestEntryBytes ds.length) bytes).2
  | _, _ => s

/-- Whether a frame's digest stream of tile t is complete. -/
def Tile.streamFinal (x : Tile) (d : DigestStream) : Bool :=
  d.closed && d.parts.all (·.done) && !(x.ops.any fun o => !o.deferred && o.frame == d.frame)

/-- A tile's digest of a frame is final: kept for the step, sent to the Mirror partner, compared. -/
def State.keepDigest (s : State) (t : Nat) (frame : BitVec 48) (v : BitVec 128) : State :=
  let p := s.partOf t
  let s := s.modTile t fun x => { x with
    streams := x.streams.filter fun d => !(d.routine.isNone && d.frame == frame),
    frameDigests := x.frameDigests ++ [(frame.toNat, v)] }
  let s := s.writeDigestEntry p frame.toNat
  match (s.part p).led with
  | none => s
  | some l =>
    let s := if l.mirrors || l.framesCompared then s.modLed p fun l => { l with ownDigests := l.ownDigests ++ [(t, frame, v)] } else s
    let s := if l.mirrors then s.emit (.toChip (BitVec.ofNat 14 (ldPartner l.desc.toNat)) "MIRROR_DIGEST"
        [s.relTile t, frame.toNat, v.toNat]) else s
    s.compareAll p

def execFrameDigestFinal (t : Fin 64) (frame : BitVec 48) (s : State) : Host.Outcome State Fault Refusal :=
  let x := s.tile t.val
  match x.streams.find? fun d => d.routine.isNone && d.frame == frame with
  | some d => .next (if x.streamFinal d then s.keepDigest t.val frame d.value else s)
  | none => .next s

/-! ### The Mirror partner (R211-R213) -/

def execMirrorDigest (t : Fin 64) (frame : BitVec 48) (digest : BitVec 128) (s : State) : Host.Outcome State Fault Refusal :=
  let p := s.partOf t.val
  match (s.part p).led with
  | some l =>
    if !l.mirrors then .next s else
    .next ((s.modLed p fun l => { l with partnerDigests := l.partnerDigests ++ [(t.val, frame, digest)] }).compareAll p)
  | none => .next s

/-- Frames whose digests a source holds, of those not yet compared. -/
def State.sourced (s : State) (p : Nat) (l : Ledger) : List Nat :=
  match (s.part p).job with
  | some j => if l.framesCompared then l.uncompared.filter fun f => (s.sourceDigests p j.tenant l f).isSome else []
  | none => []

/-- The Mirror link is lost, or no digest has come for 2^16 frames: the half goes on without comparison. -/
def State.loseMirror (s : State) (p : Nat) : State :=
  match (s.part p).led with
  | some l =>
    if !l.mirrors then s else
    let left := s.sourced p l
    let s := s.modLed p fun l => { l with unmirrored := true, uncompared := left, partnerDigests := [] }
    (s.emit (.report .mirrorLost (s.jobIdOf p) 0)).compareAll p
  | none => s

def execMirrorTimeout (p : Fin 8) (s : State) : Host.Outcome State Fault Refusal := .next (s.loseMirror p.val)

/-! ### The step's record (R192, R204-R206, R174) -/

/-- Every digest of the step is final. -/
def State.digestsFinal (s : State) (p : Nat) : Bool :=
  (s.partTiles p).all fun t => (s.tile t).streams.all fun d => d.routine.isSome && d.closed && d.parts.all (·.done)

/-- The digests of deferred routine runs, in the order the runs began. -/
def State.closeRoutines (s : State) (p : Nat) : State :=
  (s.partTiles p).foldl (fun s t => s.modTile t fun x => { x with
    routineDigests := x.routineDigests ++ (x.streams.filter (·.routine.isSome)).map DigestStream.value, streams := [] }) s

/-- The domain manager sends its job state to the standby (R330). -/
def State.sendCopy (s : State) : State :=
  if !s.rdBit Reg.mgtDm 30 || s.mgt.dmIsStandby then s else
  { s with mgt := { s.mgt with standby := s.mgt.jobs } }.emit
    (.toChip (BitVec.ofNat 14 (s.rdFld Reg.mgtDm 29 16)) "JOB_STATE" (s.mgt.jobs.map (fun (d : DmJob) => d.jobId.toNat)))

/-- At the domain manager the record of a job's lowest partition here, in boundary frame ALLOT + 1, brings the standby's copy. -/
def State.copyAt (s : State) (p : Nat) (jobId : Word) : State :=
  if s.rdBit Reg.mgtStatus 18 && (List.range 8).find? (fun q => (s.part q).job.any (·.jobId == jobId)) == some p then s.sendCopy
  else s

/-- The ledger record of the closed step, in boundary frame ALLOT + 1: an ITEMS record before it when an item changed, the
record, the event of the closed step; under replay the comparison, and the source of the next step. -/
def execLedgerRecord (p : Fin 8) (s : State) : Host.Outcome State Fault Refusal :=
  let x := s.part p.val
  match x.job, x.led with
  | some j, some l =>
    if x.action != 4 || x.abandoned || l.frozen || s.flt.run.isSome || s.flt.ctlReset || s.flt.memReset ||
        decide (x.boundaryFrame < utAllot (s.ouuHeader p.val) + 2) || !s.digestsFinal p.val then .next s else
    let s := (s.closeRoutines p.val).refreshItems p.val j
    match (s.part p.val).led with
    | none => .next s
    | some l =>
      let r := s.stepRecord p.val 2 j l
      let s := r.2.clearStep p.val
      let s := if r.1 && ldStop l.desc.toNat then
          s.modPart p.val fun x => { x with job := x.job.map fun j => { j with ending := some 0x21 } }
        else s.loadSource p.val (s.part p.val).step.toNat
      .next ((s.copyAt p.val j.jobId).modPart p.val fun x => { x with action := 5 })
  | _, _ => .next s

end Sys2Proof.Machine
end

