-- ==== Sys2Proof/Machine/Frames.lean ====
section
/-!
DEFINITION. Frames (02 R25-R33, 05 R105, R114-R117): what a tick binds, the dispatch of a frame, the log of late dispatches,
lost ticks, the close of a frame, deferred routines, the opening of a step, the hold of the step boundary.
-/

namespace Sys2Proof.Machine

/-! ### What may dispatch -/

/-- Granules that an Aperture of the tenant on a partition released are being zeroed (R229, R230; DEDUCED, log
205). -/
def State.zeroes (s : State) (p : Nat) : Bool := !s.apt.zeroing.isEmpty && (s.part p).imgTenant == s.apt.zeroTenant

/-- Frames may dispatch on a partition (R230, R334, R335, R394); once HALT_N has been low, only 10 µs after it rose. -/
def State.mayDispatch (s : State) (p : Nat) : Bool :=
  (s.mgt.haltHighSince == 0 || decide (10000 ≤ s.since s.mgt.haltHighSince)) && s.pkg.heldBy.isNone && s.flt.run.isNone && !s.halted && !s.mgt.haltWait && s.blockOn 6 && !s.zeroes p &&
  !s.rdBit Reg.memStatus 2

/-- The tile has closed the last frame of its step, of its job or of its invocation. -/
def Tile.ended (x : Tile) : Bool := x.closedStep || x.closedEnd

/-- No frame, routine, operation or result is outstanding on a partition's tiles. -/
def State.quiet (s : State) (p : Nat) : Bool :=
  (s.partTiles p).all fun t => let x := s.tile t
                               x.isFree && x.ops.isEmpty && x.pend.isEmpty

/-- The lowest tile that waits with an undispatched program. -/
def State.waitingTile (s : State) (p : Nat) : Option Nat := (s.partTiles p).find? fun t => (s.tile t).waiting

/-- The program index bound to the present tick: P = F − D (R28). -/
def Part.bound (x : Part) : BitVec 48 := x.f - x.d

/-- The Mirror window, the frame compare or a freeze holds the dispatch of the bound frame (R208, R211, R212). -/
def State.windowHolds (s : State) (p : Nat) : Bool :=
  let x := s.part p
  match x.led with
  | some l =>
    let w := ldWindow l.desc.toNat
    ((l.mirrors || l.framesCompared) && l.uncompared.any fun f => serialGe 48 x.bound.toNat (f + w)) ||
      (l.frozen && serialGe 48 x.bound.toNat (l.mirrorP.toNat + w))
  | none => false

/-- The job dispatches no further frame: its end is decided, its step is abandoned, or the domain manager halted it (R212). -/
def Part.ending (x : Part) : Bool := x.abandoned || x.jobHalted || x.job.any fun j => j.ending.isSome && j.ending != some 0x23

/-! ### Dispatch (R28, R29) -/

/-- Dispatch the bound program on tile t; `cause` is that of a late dispatch. A frame that a Mirror partner or a source entry will be
compared with is not yet compared (R208, R211). -/
def State.dispatchTile (s : State) (p t : Nat) (cause : Option Cause) : State :=
  let x := s.part p
  let job := x.jobOn
  let compared := match x.job, x.led with
    | some j, some l => job && (l.mirrors || (l.framesCompared && (s.sourceDigests p j.tenant l x.bound.toNat).isSome))
    | _, _ => false
  let s := s.modTile t fun y =>
    let y := { y with
      frameOpen := true, waiting := false, closing := none, lateCause := cause, holdCause := none, lostWaiting := 0,
      frameP := x.bound, frameF := x.f, frameTick := x.lastTick, wdTicks := 0, held := false, closeDecl := 0, takenDecl := 0 }
    if job then y.openStream x.bound none else y
  let s := s.modPart p fun y =>
    { y with p := x.bound, led := y.led.map fun l =>
        if compared && !l.uncompared.contains x.bound.toNat then
          { l with uncompared := l.uncompared ++ [x.bound.toNat] }
        else l }
  s.fetchAt t

/-- The entry of a late dispatch: the SHT registers, the step's slips and its counts by cause (R29, R195). -/
def State.logLate (s : State) (p t : Nat) (now : Dword) (cause : Cause) : State :=
  let x := s.part p
  let late := (now - x.lastTick).toNat
  let e : SlipEntry := { p := x.bound, lateness := BitVec.ofNat 32 (min late (2 ^ 32 - 1)),
                         lost := BitVec.ofNat 16 (min (s.tile t).lostWaiting 65535), cause := cause, tile := t, gtc := now }
  let s := if x.jobOn then s.modPart p fun x =>
      { x with slips := if x.slips.length < 1024 then x.slips ++ [e] else x.slips,
               slipOvf := x.slipOvf || decide (1024 ≤ x.slips.length),
               byCause := Sparse.update 0 x.byCause (causeCode cause) (· + 1) }
    else s
  let s := if cause = .own then (s.setBit (Reg.shtPevent p) 0).bump (Reg.shtOverrunCnt p) 1
    else (s.setBit (Reg.shtPevent p) 1).bump (Reg.shtSlipCnt p) 1
  s.wr (Reg.shtLastCause p) (BitVec.ofNat 32 (packFields [(0, 4, causeCode cause), (4, 6, t), (12, 20, min late 1048575)]))

/-- The cause of a late dispatch (R29, R114): the block that delayed it, OWN past the budget (THERMAL where only the
throttled budget is exceeded), the wait that held the predecessor, the predecessor's own cause, EXT_WAIT. -/
def State.lateCauseOf (s : State) (p t own : Nat) (block wait : Option Cause) : Cause :=
  let x := s.part p
  let y := s.tile t
  let low := s.cycles p
  let set' := frameBudget (s.period p) x.setMhz
  let thermal := s.rdBit (Reg.pwrTclkAct p) 17 && decide (low < set')
  match y.holdCause, x.dueCause, block with
  | some c, _, _ => c
  | none, some c, _ => c
  | none, none, some c => c
  | none, none, none =>
    if low < own then (if thermal && decide (own ≤ set') then .thermal else .own)
    else match wait, y.lateCause with
      | some c, _ => c
      | none, some c => c
      | none, none => .extWait

/-- A further tick falls while a program waits: the tick is lost, charged to the lowest waiting tile (R28, R29). -/
def State.lostTick (s : State) (p : Nat) : State :=
  match s.waitingTile p with
  | none => s
  | some t =>
    let s := s.modTile t fun x => { x with lostWaiting := x.lostWaiting + 1 }
    (s.setBit (Reg.shtPevent p) 2).modPart p fun x => { x with d := x.d + 1, stepLost := x.stepLost + 1 }

/-! ### Deferred entries (R31, R115-R117, R188) -/

/-- The head entry of a closed tile's queue, where the rule of the mode takes it. -/
def State.takeDeferred (s : State) (p t cyclesLeft : Nat) : State :=
  let x := s.tile t
  let q := s.part p
  match x.queue with
  | [] => s
  | e :: _ =>
    if !s.mayDispatch p || !x.isFree || x.waiting || x.ended then s else
    let n := s.fresh
    let c := s.cycles p
    let s := if q.mv2 then n.2 else s
    let fits := if q.mv2 then Config.mv2Takes n.1
      else if q.repro then decide (x.closeDecl + x.takenDecl + e.decl.toNat ≤ c)
      else decide (e.decl.toNat ≤ min cyclesLeft c)
    if !fits then s else
    let s := s.modTile t fun x =>
      { x.takeEntry .afterClose x.pc with takenDecl := x.takenDecl + e.decl.toNat, wdTicks := 0 }
    (s.pmcTile t 0x09 1).fetchAt t

/-! ### Closing a frame (R105) -/

/-- Every operation that the close waits for has completed. -/
def Tile.closable (x : Tile) : Bool :=
  x.frameOpen && x.closing.isSome && x.routine.isNone && x.pend.isEmpty && !x.faulted &&
    !(x.ops.any fun o => !o.span && !o.deferred && o.frame == x.frameP)

/-- The frame closes. In a serving context only a frame with STEP and END closes the invocation (R263). -/
def State.closeFrame (s : State) (p t : Nat) (c : Closing) : State :=
  let job := (s.part p).jobOn
  s.modTile t fun x =>
    { x with frameOpen := false, closing := none, closeDecl := c.decl.toNat, takenDecl := 0,
             closedStep := c.step && (job || c.last), closedEnd := c.last,
             streams := x.streams.map fun d => if d.routine.isNone && d.frame == x.frameP then { d with closed := true } else d }

/-- The return of a finished routine: to the frame, or to the idle tile (R105, R115, R116). -/
def Tile.endRoutine (x : Tile) (r : Routine) : Tile :=
  let x := { x with pc := r.returnPc, routine := none,
                    streams := x.streams.map fun d => if d.routine == some r.run then { d with closed := true } else d }
  match r.takenAt with
  | .atDefp e => { x with queue := x.queue ++ [e] }
  | _ => x

/-! ### Steps (R32, R35, R123, R427) -/

/-- A partition returns to its set TCLK once the throttle has been released; it ends with the last one's return. -/
def State.thermalReturn (s : State) (p : Nat) : State :=
  if !s.pkg.thermal.returning.contains p then s else
  let s := { s with pkg := { s.pkg with thermal := { s.pkg.thermal with
      returning := s.pkg.thermal.returning.filter (· != p) } } }
  (s.clrBit (Reg.pwrTclkAct p) 17).applyPower p

/-- The step-relative counters of a partition's launchers start again (R123). -/
def State.clearSseqs (s : State) (p : Nat) : State :=
  { s with prism := { s.prism with sseqs := s.prism.sseqs.filter fun e => Sparse.get 8 s.prism.users e.1 != p } }

/-- The first frame of a step dispatches: power settings that waited for the boundary act (R35), the allowance and C follow
them. -/
def State.openStep (s : State) (p : Nat) : State :=
  let s := (s.thermalReturn p).applyPower p
  let s := s.clearSseqs p
  let c := s.budget p
  let a := s.allowOf p
  s.modPart p fun x => { x with stepOpen := true, firstP := x.bound, action := 0, boundaryFrame := 0, cyc := c, allowLeft := a }

/-! ### The hold of a boundary (R15, R155, R331, R353, R357, R372) -/

/-- The partition's job may not go on past its boundary. -/
def State.boundaryHeld (s : State) (p : Nat) : Bool :=
  let x := s.part p
  x.held || s.mgt.noDm || x.holdActivation || x.ckpt.releaseWait

/-- A partition that no job's frames hold is held for an activation from its acceptance to its release (R372): no new invocation
begins. -/
def State.activationHolds (s : State) (p : Nat) : Bool := s.start.image.pending && !(s.part p).jobActive

/-- Actions 5 and 6 of R15 pass where nothing is requested; a due cut waits for its command, an activation holds. -/
def State.advanceBoundary (s : State) (p : Nat) : State :=
  let x := s.part p
  let cutDue := x.ckpt.cutStep == some x.closing || x.ckpt.releaseWait
  let s := if x.action = 5 && !cutDue then s.modPart p fun x => { x with action := 6 } else s
  if (s.part p).action != 6 then s
  else if s.start.image.pending then s.modPart p fun x => { x with holdActivation := true }
  else s.modPart p fun x => { x with action := 7 }

/-- Whether the first frame of the next step may dispatch. -/
def State.boundaryDone (s : State) (p : Nat) : Bool := (s.part p).action = 7 && !s.boundaryHeld p

/-- The pass outlasted its allotted frames: the first frame of the next step slips (R17, R174). -/
def State.overran (s : State) (p : Nat) : Bool := decide (utAllot (s.ouuHeader p) < (s.part p).passTaken)

/-- The cause that a tick of the boundary finds for the slip of the next step's first frame: the exchange of the norm not
complete at tick 1, or a pass that waits for another partition's (R174, R182). -/
def State.boundaryCause (s : State) (p : Nat) : Option Cause :=
  let x := s.part p
  if x.dueCause.isSome then x.dueCause
  else if x.boundaryFrame = 1 && decide (x.action < 3) then some .prismPeer
  else if decide (2 ≤ x.boundaryFrame) && x.action = 3 && s.ouuQueue.head? != some p then some .ouu
  else none

/-! ### Binding a tick to its program -/

/-- Dispatch the bound program on every free tile; a busy or held tile waits with it. -/
def State.bindFrame (s : State) (p : Nat) (hold : Option Cause) : State :=
  let window := s.windowHolds p
  (s.partTiles p).foldl (fun s t =>
    let x := s.tile t
    if x.ended then s
    else if x.isFree && hold.isNone && !window && s.mayDispatch p then s.dispatchTile p t none
    else s.modTile t fun x =>
      { x with waiting := true,
               holdCause := if x.isFree then (if window && hold.isNone then some .prismPeer else hold) else none }) s

/-- A lost tick; the tiles that have closed take deferred entries for the time to the next tick. -/
def State.loseTick (s : State) (p : Nat) : State :=
  (s.partTiles p).foldl (fun s t => s.takeDeferred p t (s.cycles p)) (s.lostTick p)

/-- A tick of a partition whose job is on it: a lost tick, a boundary frame, or a program frame. -/
def State.jobTick (s : State) (p : Nat) : State :=
  let count := fun (s : State) => s.modPart p fun x => { x with stepTicks := x.stepTicks + 1 }
  if (s.part p).ending then
    if (s.part p).action = 0 then s else s.modPart p fun x => { x with boundaryFrame := x.boundaryFrame + 1 }
  else if (s.waitingTile p).isSome then (count s).loseTick p
  else if (s.part p).action = 0 then
    let s := count (s.modPart p fun x => { x with dueCause := none })
    let s := if (s.part p).stepOpen then s else s.openStep p
    s.bindFrame p none
  else
    let s := s.advanceBoundary p
    let x := s.part p
    let due := s.boundaryCause p
    if x.boundaryFrame < utAllot (s.ouuHeader p) + 2 then
      s.modPart p fun x => { x with boundaryFrame := x.boundaryFrame + 1, dueCause := due }
    else
      let s := count s
      let late := due.isSome || s.overran p
      if s.boundaryDone p && !late then (s.openStep p).bindFrame p none
      else
        let cause := due.getD (if x.action = 3 || s.overran p then .ouu else .prismPeer)
        (s.modPart p fun x => { x with dueCause := some cause }).bindFrame p (some cause)

end Sys2Proof.Machine
end

