-- ==== Sys2Proof/Machine/Serve.lean ====
section
/-!
DEFINITION. Serving (11 R261-R269): the choice of the tenant whose frame a partition runs, invocations, context swaps,
pre-emption, the end of a context.
-/

namespace Sys2Proof.Machine

/-! ### Contexts -/

/-- The tenants with a context on a partition, with it. -/
def State.contextsOn (s : State) (p : Nat) : List (Nat × Context) :=
  s.chan.contexts.filterMap fun e => if e.1 % 8 = p then e.2.map fun c => (e.1 / 8, c) else none

/-- A context has an invocation to run. -/
def Context.ready (c : Context) : Bool := c.running.isSome || !c.queued.isEmpty

/-- Every tile has closed its END frame, and nothing of the invocation is outstanding (R263). -/
def State.invocationOver (s : State) (p : Nat) : Bool :=
  s.quiet p && (s.partTiles p).all fun t => (s.tile t).closedEnd && (s.tile t).closedStep

/-- The wrapped-seed list takes a seed, in place of its oldest entry when it is full (R33). -/
def State.wrapSeed (s : State) (seed : Dword) : State :=
  let l := s.clock.wrappedSeeds ++ [seed]
  { s with clock := { s.clock with wrappedSeeds := l.drop (l.length - 16) } }

/-- Every INVOKE of a context completes with a status. -/
def State.failQueued (s : State) (c : Context) (status : Nat) : State :=
  c.queued.foldl (fun s i => s.complete i.chan i.index status 0 0) s

/-- The commands STOP in execution that name a partition and a kind, of a tenant. -/
def State.stopsOf (s : State) (v p kind : Nat) : List ExecCmd :=
  s.chan.cmds.filter fun c => c.opc == 0x05 && c.started && c.status.isNone && c.arg 0x30 3 == p && c.arg 0x31 1 == kind &&
    (cTenant (s.chEntry c.chan) == v || (kind == 1 && cTenant (s.chEntry c.chan) == 0))

def State.completeStops (s : State) (v p kind : Nat) : State :=
  (s.stopsOf v p kind).foldl (fun s c => s.complete c.chan c.index stOk 0 0) s

/-- Ticks stop when a partition has neither a job nor a serving context; under a pending reform the domain manager hears it
(R37). -/
def State.stopTicks (s : State) (p : Nat) : State :=
  if (s.part p).job.isSome || !(s.contextsOn p).isEmpty then s else
  let was := (s.part p).running
  let s := s.modPart p fun x => { x with running := false, startAt := none, onTiles := none, turn := none, deficit := 0,
                                         swapLeft := 0, swapIn := false, stepOpen := false, ticked := false }
  let s := (s.thermalReturn p).settlePending
  if was && s.clock.reformHold then s.emit (.report .ticksStopped 0 p) else s

/-- The end of a context: its INVOKE commands complete with a status, its STOP with OK, the partition's tiles are free. -/
def State.endContext (s : State) (v p status : Nat) : State :=
  match s.context v p with
  | none => s
  | some c =>
    let s := match c.running with
      | some i => s.complete i.chan i.index status 0 i.frames
      | none => s
    let s := (s.failQueued c status).setContext v p none
    let s := s.modPart p fun x =>
      if x.turn = some v then { x with turn := none, deficit := 0, swapLeft := 0, swapIn := false } else x
    let s := s.modPart p fun x => if x.onTiles = some v && !x.jobOn then { x with onTiles := none, stepOpen := false } else x
    ((s.completeStops v p 0).stopTicks p).retryBells

/-- The end of the running invocation: one step of its context; INVOKE completes with the frames run. At the step limit the
context ends (R33, R263). -/
def State.endInvocation (s : State) (p : Nat) : State :=
  match (s.part p).onTiles, s.contextOn p with
  | some v, some c =>
    match c.running with
    | some i =>
      if i.preempted || !i.started || !s.invocationOver p then s else
      let s := (s.setBit (Reg.shtPevent p) 3).modPart p fun x => { x with stepOpen := false }
      let s := s.thermalReturn p
      if c.step = BitVec.allOnes 40 then
        let s := (s.setBit (Reg.shtPevent p) 5).wrapSeed c.seed
        s.endContext v p 0x1B
      else
        ((s.setContext v p (some { c with running := none, step := c.step + 1 })).complete i.chan i.index stOk 0 i.frames).retryBells
    | none => s
  | _, _ => s

/-! ### Swaps (R265) -/

/-- The running invocation of the context on the tiles is pre-empted: its full state is saved. -/
def State.preemptOut (s : State) (p : Nat) : State :=
  match (s.part p).onTiles with
  | none => s
  | some u =>
    match s.context u p with
    | none => s
    | some c =>
      match c.running with
      | none => s
      | some i =>
        let s := s.saveAll p u c.save
        let s := s.setContext u p (some { c with running := some { i with preempted := true } })
        (s.charge i.chan i.index 1 1).modPart p fun x => { x with stepOpen := false }

/-- A tenant is pre-empted on a partition: the shared link credits that it still holds come due at the second tick (R269). -/
def State.recallCredits (s : State) (p v : Nat) : State :=
  { s with chan := { s.chan with credit := s.chan.credit ++ [(p, v, 2)] } }

/-- Tiles as they stand when a context or job comes onto them: no frame, no lines of another image; a tile that
waits goes on waiting. -/
def Tile.vacant (x : Tile) : Tile :=
  { x with frameOpen := false, closing := none, routine := none, held := false, fence := none, lines := [],
           fetching := [], lateCause := none, holdCause := none, closedStep := false, closedEnd := false,
           streams := [], pend := [] }

def State.mapTiles (s : State) (p : Nat) (f : Tile → Tile) : State := (s.partTiles p).foldl (fun s t => s.modTile t f) s

/-- A context comes onto the tiles, and the lines of the one before it leave the instruction buffer (DESIGN CHOICE, log 173): its kept bytes, or its full state when its invocation was pre-empted. -/
def State.bringIn (s : State) (p v : Nat) (c : Context) : State :=
  let s := s.mapTiles p Tile.vacant
  let s := s.restoreAll p v c.save c.lsKeep (c.running.any (·.preempted))
  let run := c.running.map fun i => { i with preempted := false }
  let s := s.setContext v p (some { c with running := run })
  s.modPart p fun x => { x with onTiles := some v, imgTenant := v, imgBase := c.image, imgLen := c.imgLen,
                                stepOpen := run.any (·.started) }

/-- Whether the partition's context on the tiles has an invocation to save. -/
def State.savesOut (s : State) (p : Nat) : Bool := match (s.part p).onTiles with
  | some u => (s.context u p).any (·.running.isSome)
  | none => false

/-- The frames of a swap: the bytes moved at 30.72 TB/s. -/
def State.swapFrames (s : State) (p : Nat) (c : Context) : Nat :=
  let n := s.partSize p
  let full := n * (lsBytes + imageBytes)
  let bytes := (if s.savesOut p then full else 0) + (if c.running.any (·.preempted) then full else n * c.lsKeep)
  let perFrame := 30720 * s.period p
  (bytes + perFrame - 1) / perFrame

/-! ### The choice (R264) -/

/-- The next tenant with ready work after the one that last ran. -/
def State.nextTenant (s : State) (p : Nat) : Option Nat :=
  let last := (s.part p).lastTenant
  let ready := ((s.contextsOn p).filter fun e => e.2.ready && e.2.ending.isNone).map (·.1)
  (sortBy (fun a b => decide ((a + 511 - last) % 512 ≤ (b + 511 - last) % 512)) ready).head?

/-- A channel's priority, at most its tenant's highest. -/
def State.prioOf (s : State) (ch : Nat) : Nat :=
  let e := s.chEntry ch
  min (cPrio e) (s.tenant (cTenant e)).maxPrio.toNat

/-- The channel whose invocation runs next: the highest priority, equal ones by deficit round robin in WEIGHT. -/
def State.nextChan (s : State) (c : Context) : Option (Nat × Nat) :=
  let top := c.queued.foldl (fun m i => max m (s.prioOf i.chan)) 0
  let chs := dedup ((c.queued.filter fun i => s.prioOf i.chan == top).map (·.chan))
  if c.rrLeft ≠ 0 && chs.contains c.rrChan then some (c.rrChan, c.rrLeft - 1) else
  let order := sortBy (fun a b => decide ((a + 262143 - c.rrChan) % 262144 ≤ (b + 262143 - c.rrChan) % 262144)) chs
  order.head?.map fun ch => (ch, cWeight (s.chEntry ch) - 1)

/-- Frames from the tick at or before a doorbell to the present one (R273). -/
def State.framesSince (s : State) (p : Nat) (rung : Dword) : Nat :=
  let x := s.part p
  let back := (x.lastTick.toNat - rung.toNat + s.period p - 1) / s.period p
  min back x.f.toNat

/-- The next invocation of a context begins, the lines of its image that are in the instruction buffer staying there (R96): registers zero but X1 = ARG and X2 = SQ_INDEX, entry points (R263). -/
def State.startInvocation (s : State) (p v : Nat) (c : Context) : State :=
  match s.nextChan c with
  | none => s
  | some (ch, left) =>
    match c.queued.find? (·.chan == ch) with
    | none => s
    | some i =>
      let run := { i with started := true, preempted := false }
      let s := s.setContext v p (some { c with running := some run, rrChan := ch, rrLeft := left,
                                               queued := c.queued.filter fun q => !(q.chan == i.chan && q.index == i.index) })
      let rung := match s.cmd i.chan i.index with
        | some k => k.rung
        | none => s.now
      let s := (s.charge i.chan i.index 0 (s.framesSince p rung)).charge i.chan i.index 2 1
      let s := (s.partTiles p).foldl (fun s t => s.modTile t fun x =>
        let x := { x.vacant with lines := x.lines, fetching := x.fetching }.zeroRegs
        let x := (x.setXKey 1 i.arg).setXKey 2 (i.index.zeroExtend 64)
        { x with pc := c.entries.getD (s.relTile t) 0 }) s
      s.openStep p

/-- One frame of a turn is charged: to the deficit, and to the invocation's command. -/
def State.chargeFrame (s : State) (p v : Nat) (swap : Bool) : State :=
  let s := s.modPart p fun x => { x with deficit := x.deficit - 1 }
  match s.context v p with
  | none => s
  | some c =>
    match (match c.running with
      | some i => some i
      | none => c.queued.head?) with
    | none => s
    | some i =>
      let s := s.charge i.chan i.index 3 1
      if swap then s.charge i.chan i.index 4 1
      else s.setContext v p ((s.context v p).map fun c =>
        { c with running := c.running.map fun r => { r with frames := r.frames + 1 } })

/-- A program frame of the tenant whose context is on the tiles. Whether a swap before it outlasted its frames is free (R265); the
frame is then late, with cause SWAP. -/
def State.runFrame (s : State) (p v : Nat) : State :=
  match s.context v p with
  | none => s
  | some c =>
    let s := if c.running.isSome then s
      else if s.activationHolds p || c.ending.isSome then s else s.startInvocation p v c
    match (s.context v p).bind (·.running) with
    | none => s
    | some _ =>
      let s := s.chargeFrame p v false
      if !(s.part p).swapIn then s.bindFrame p none else
      let n := s.fresh
      (n.2.modPart p fun x => { x with swapIn := false }).bindFrame p (if Config.swapLate n.1 then some .swap else none)

/-- In throughput mode the next ready invocation of the context on the tiles begins in what is left of the frame in which the last
one ended (R31, R266). Whether its measured remaining time fits before the tick is free; it begins on all tiles together, and the
frame is not charged again (DESIGN CHOICE, log 167). -/
def State.nextInFrame (s : State) (p cyclesLeft : Nat) : State :=
  match (s.part p).turn, s.contextOn p with
  | some v, some c =>
    let x := s.part p
    if x.onTiles != some v || x.repro || s.activationHolds p || x.swapLeft != 0 || c.running.isSome || c.queued.isEmpty ||
        c.ending.isSome || !s.mayDispatch p || !s.invocationOver p then s else
    let n := s.fresh
    if !Config.invocationFits n.1 cyclesLeft then n.2 else
    let s := n.2.startInvocation p v c
    (s.setContext v p ((s.context v p).map fun c =>
      { c with running := c.running.map fun r => { r with frames := r.frames + 1 } })).bindFrame p none
  | _, _ => s

/-- A tenant's turn at this tick: its context comes in when another's is on the tiles, else its frame runs. -/
def State.turnFrame (s : State) (p v : Nat) : State :=
  let x := s.part p
  if (s.part p).onTiles = some v then s.runFrame p v else
  if !s.quiet p then s else
  match s.context v p with
  | none => s
  | some c =>
    let n := s.swapFrames p c
    let s := match x.onTiles with
      | some u => if s.savesOut p then s.recallCredits p u else s
      | none => s
    let s := (s.preemptOut p).bringIn p v c
    if n = 0 then s.runFrame p v
    else (s.modPart p fun x => { x with swapLeft := n - 1, swapIn := true }).chargeFrame p v true

/-- Contexts that a STOP or a Function Level Reset ends at this frame boundary; a running invocation first closes its frames. -/
def State.endStopped (s : State) (p : Nat) : State :=
  (s.contextsOn p).foldl (fun s e =>
    let on := (s.part p).onTiles == some e.1 && !(s.part p).jobOn && e.2.running.any fun i => !i.preempted
    if e.2.ending.isSome && (!on || s.quiet p) then s.endContext e.1 p stStopped else s) s

/-- A tick of a partition that no job holds. -/
def State.serveTick (s : State) (p : Nat) : State :=
  let s := (s.endInvocation p).endStopped p
  let x := s.part p
  if !x.running || x.frozen then s
  else if (s.waitingTile p).isSome then (match x.turn with
    | some v => s.chargeFrame p v false
    | none => s).loseTick p
  else if x.swapLeft != 0 then
    let s := s.modPart p fun x => { x with swapLeft := x.swapLeft - 1 }
    match x.turn with
    | some v => s.chargeFrame p v true
    | none => s
  else
    let cur := x.turn.filter fun v => decide (0 < x.deficit) && (s.context v p).any fun c => c.ready && c.ending.isNone
    match cur with
    | some v => s.turnFrame p v
    | none =>
      match s.nextTenant p with
      | none => s.modPart p fun x => { x with turn := none, deficit := 0 }
      | some v =>
        if x.onTiles != some v && !s.quiet p then s else
        let q := s.rdFld (Reg.chnPsched p) 7 0
        let s := s.modPart p fun x => { x with turn := some v, lastTenant := v, deficit := (s.tenant v).weight.toNat * q }
        s.turnFrame p v

end Sys2Proof.Machine
end

