-- ==== Sys2Proof/Machine/Flips.lean ====
section
/-!
DEFINITION. Weight sets and their flip words (12 R289-R292): the copies of a set, the boundary at which a binding's flip word is
written, the end of a flip.
-/

namespace Sys2Proof.Machine

def State.wset (s : State) (k : Nat) : Option WSet := Sparse.get none s.ing.wsets k
def State.setWset (s : State) (k : Nat) (w : Option WSet) : State :=
  { s with ing := { s.ing with wsets := Sparse.set none s.ing.wsets k w } }

def WSet.copyOf (w : WSet) (b : Bool) : WCopy := if b then w.copy1 else w.copy0
def WSet.setCopy (w : WSet) (b : Bool) (c : WCopy) : WSet := if b then { w with copy1 := c } else { w with copy0 := c }
def State.modCopy (s : State) (k : Nat) (b : Bool) (f : WCopy → WCopy) : State :=
  match s.wset k with
  | some w => s.setWset k (some (w.setCopy b (f (w.copyOf b))))
  | none => s

/-- The flip word of a binding. -/
def flipWord (copy : Bool) (seq : Nat) : List Byte := natToBytes 8 (b2n copy + seq % 2 ^ 32 * 2 ^ 32)

/-- With the last binding written the copy is ACTIVE, the one before ELIGIBLE again, and WSET_FLIP completes. -/
def State.settleFlip (s : State) (k : Nat) : State :=
  match s.wset k with
  | none => s
  | some w => match w.flip with
    | none => s
    | some (copy, ch, index) =>
      if w.bindings.any (·.due) then s else
      let w := match w.activeCopy with
        | some a => w.setCopy a { w.copyOf a with state := .eligible }
        | none => w
      let w := w.setCopy copy { w.copyOf copy with state := .active }
      ((s.setWset k (some { w with activeCopy := some copy, flip := none })).complete ch index stOk 0 0).retryBells

/-- The frame of a boundary from which a flip word may be written: ALLOT + 1 (R174), in which ALLOT + 2 frames have begun. -/
def State.flipFrame (s : State) (p : Nat) : Nat := utAllot (s.ouuHeader p) + 2

/-- A tenant has no invocation running and no training step open on the partitions of a mask; of a job, from boundary frame
ALLOT + 1 on (R292). -/
def State.flipBoundary (s : State) (v : Nat) (parts : Byte) : Bool :=
  (List.range 8).all fun p =>
    let x := s.part p
    !parts.getLsbD p ||
    (!(s.context v p).any (fun c => c.running.isSome || c.queued.any (·.started)) &&
     !(x.jobOn && x.job.any (·.tenant == v) && (x.stepOpen || (x.action != 0 && decide (x.boundaryFrame < s.flipFrame p)))))

/-- The flip word of a tenant's due binding of a set is written, where its boundary has come. -/
def State.writeFlip (s : State) (k v : Nat) : State :=
  match s.wset k with
  | none => s
  | some w =>
    match w.flip, w.bindings.find? fun b => b.tenant == v && b.due with
    | some (copy, _, _), some b =>
      if !s.flipBoundary v b.parts then s else
      let seq := b.flipSeq + 1
      let s := (s.writeTen v b.flipWord (flipWord copy seq.toNat)).2
      (s.setWset k (some { w with bindings := w.bindings.map fun x =>
        if x.tenant == v then { x with flipSeq := seq, due := false } else x })).settleFlip k
    | _, _ => s

/-- The bindings due on a partition, as set and tenant. -/
def State.dueFlips (s : State) (p : Nat) : List (Nat × Nat) :=
  s.ing.wsets.flatMap fun e => match e.2 with
    | some w => (w.bindings.filter fun b => b.due && b.parts.getLsbD p).map fun b => (e.1, b.tenant)
    | none => []

/-- At a tick, before the partition's next frame dispatches: the flip words that are due at this boundary have been written. -/
def State.writeFlips (s : State) (p : Nat) : State := (s.dueFlips p).foldl (fun s e => s.writeFlip e.1 e.2) s

end Sys2Proof.Machine
end

