-- ==== Sys2Proof/Machine/Ingress.lean ====
section
/-!
DEFINITION. Weight ingress (12): the block format, quantising and tile order, fetches and their extents, weight sets and
flips, key slots.
-/

namespace Sys2Proof.Machine

/-! ### The Neroux block format (R286, R287) -/

/-- The bytes that extend a length of 15: up to and with the first that is not 255. -/
def lzMore : List Byte → Option (Nat × List Byte)
  | [] => none
  | b :: l => if b = 255 then (lzMore l).map fun x => (x.1 + 255, x.2) else some (b.toNat, l)

def lzLen (n : Nat) (l : List Byte) : Option (Nat × List Byte) :=
  if n = 15 then (lzMore l).map fun x => (x.1 + 15, x.2) else some (n, l)

/-- Copy n bytes from `off` back, one by one. -/
def lzCopy (off : Nat) : Nat → Array Byte → Array Byte
  | 0, o => o
  | n + 1, o => lzCopy off n (o.push (o.getD (o.size - off) 0))

/-- Decode a payload to `rlen` bytes: what came out, and whether it ended as it must. -/
def lzGo (rlen : Nat) : Nat → List Byte → Array Byte → Array Byte × Bool
  | 0, _, out => (out, false)
  | _ + 1, [], out => (out, false)
  | fuel + 1, t :: l, out =>
    match lzLen (t.toNat / 16) l with
    | none => (out, false)
    | some (lit, l) =>
      if l.length < lit || rlen < out.size + lit then (out, false) else
      let out := out ++ (l.take lit).toArray
      match l.drop lit with
      | [] => (out, out.size == rlen)
      | [_] => (out, false)
      | a :: b :: l =>
        let off := a.toNat + 256 * b.toNat
        if out.size = rlen || off = 0 || out.size < off then (out, false) else
        match lzLen (t.toNat % 16) l with
        | none => (out, false)
        | some (n, l) => if rlen < out.size + n + 3 then (out, false) else lzGo rlen fuel l (lzCopy off (n + 3) out)

/-- Undo the planes of a block. -/
def unplane (w : Nat) (l : List Byte) : List Byte :=
  let a := l.toArray
  (List.range l.length).map fun k => a.getD (k % w * (l.length / w) + k / w) 0

/-- One block at the front of a string: its raw bytes, whether it is good, and the rest. -/
def decodeBlock (l : List Byte) : List Byte × Bool × List Byte :=
  let h := leAt l 0 8
  let clen := if fld h 15 0 = 0 then 65536 else fld h 15 0
  let rlen := fld h 31 16 + 1
  let planes := fld h 35 34
  let w := 2 ^ planes
  let p := (l.drop 8).take clen
  if l.length < 8 + clen || 1 < fld h 33 32 || planes = 3 || fld h 47 36 != 0 || rlen % w != 0 then ([], false, []) else
  let r := if fld h 33 32 = 0 then (p.take rlen, clen == rlen)
    else let r := lzGo rlen (clen + 1) p #[]
         (r.1.toList, r.2)
  let raw := if r.2 && planes != 0 then unplane w r.1 else r.1
  let sum := raw.foldl (fun n b => n + b.toNat) 0 % 65536
  (raw, r.2 && sum == fld h 63 48, l.drop (8 + clen))

/-- A sequence of blocks: the raw bytes up to the first bad block, and whether all are good. -/
def decodeBlocks : Nat → List Byte → List Byte × Bool
  | 0, l => ([], l.isEmpty)
  | n + 1, l =>
    if l.isEmpty then ([], true) else
    let b := decodeBlock l
    if !b.2.1 then (b.1, false) else
    let r := decodeBlocks n b.2.2
    (b.1 ++ r.1, r.2)

/-! ### Extent entries (Table 12.4) -/

def xRemote (e : Nat) : Nat := fld e 63 0
def xRkey (e : Nat) : Nat := fld e 95 64
def xQp (e : Nat) : Nat := fld e 107 96
def xSlot (e : Nat) : Nat := fld e 108 108
def xLen (e : Nat) : Nat := fld e 159 128
def xDec (e : Nat) : Bool := bitOf e 160
def xDcmp (e : Nat) : Bool := bitOf e 161
def xQnt (e : Nat) : Bool := bitOf e 162
def xTile (e : Nat) : Bool := bitOf e 163
def xIfmt (e : Nat) : Nat := fld e 167 164
def xQfmt (e : Nat) : Nat := fld e 171 168
def xRtz (e : Nat) : Bool := bitOf e 172
def xBw (e : Nat) : Nat := 128 * 2 ^ fld e 174 173
def xDst (e : Nat) : Nat := fld e 239 192
def xRows (e : Nat) : Nat := fld e 287 256
def xCols (e : Nat) : Nat := fld e 319 288
def xScaleDst (e : Nat) : Nat := fld e 367 320
def xOut (e : Nat) : Nat := fld e 679 640

def fmtBits (c : Nat) : Nat := ((Fmt.ofCode (BitVec.ofNat 4 c)).map (·.bits)).getD 0
/-- Bits of an element as the extent stores it. -/
def xBits (e : Nat) : Nat := fmtBits (if xQnt e then xQfmt e else xIfmt e)

/-- The destination ranges within the copy. -/
def xRanges (e : Nat) : List (Nat × Nat) :=
  (xDst e, xOut e) :: (if xQnt e then [(xScaleDst e, xRows e * xCols e / 32)] else [])

/-- The rules of R280 on one entry; a reserved IFMT, QFMT or BW breaks them where its stage reads it (DEDUCED, log 44). -/
def xValid (len e : Nat) : Bool :=
  let shaped := xQnt e || xTile e
  fld e 1023 704 == 0 && decide (1 ≤ xLen e) && decide (xLen e ≤ 2 ^ 30) && (xRanges e).all (fun r => decide (r.1 + r.2 ≤ len)) &&
  (!shaped || (decide (xIfmt e < 2) && 8 * xOut e == xRows e * xCols e * xBits e)) &&
  (!xQnt e || (decide (3 ≤ xQfmt e) && decide (xQfmt e ≤ 8) && xCols e % 32 == 0)) &&
  (!xTile e || (fld e 174 173 != 3 && xRows e % 128 == 0 && xCols e % xBw e == 0))

/-- Some two ranges share a byte. -/
def someMeet : List (Nat × Nat) → Bool
  | [] => false
  | r :: l => l.any (fun q => rangesMeet r.1 r.2 q.1 q.2) || someMeet l

/-! ### Quantise and tile order (R288) -/

/-- Rows of `row` bytes in blocks of 128 rows by `piece` bytes. -/
def tileOrder (rows row piece : Nat) (l : List Byte) : List Byte :=
  let rs := (chunks row l).map (chunks piece)
  (List.range (rows / 128)).flatMap fun rb =>
    (List.range (row / piece)).flatMap fun cb =>
      ((rs.drop (128 * rb)).take 128).flatMap fun r => r.getD cb []

/-- What the last stages make of the input rows: bytes at DST, bytes at SCALE_DST, saturated casts. -/
def xStore (e : Nat) (raw : List Byte) : List Byte × List Byte × Nat :=
  let q := match Fmt.ofCode (BitVec.ofNat 4 (xQfmt e)), Fmt.ofCode (BitVec.ofNat 4 (xIfmt e)) with
    | some f, some i =>
      if !xQnt e then (raw, [], 0) else
      let vs := (chunks (i.bits / 8) raw).map fun b => i.toVal (bytesToNat b)
      let bs := (chunks 32 vs).map (f.castBlock fun _ => if xRtz e then .rtz else .rne)
      (packElems f (bs.flatMap fun b => b.2.map (·.1)), bs.map fun b => BitVec.ofNat 8 b.1,
       (bs.flatMap (·.2)).countP (·.2))
    | _, _ => (raw, [], 0)
  if !xTile e then q else
  (tileOrder (xRows e) (xCols e * xBits e / 8) (xBw e * xBits e / 8) q.1,
   tileOrder (xRows e) (xCols e / 32) (xBw e / 32) q.2.1, q.2.2)

/-- Bytes that the stage after decompression requires. -/
def xInput (e : Nat) : Nat := if xQnt e || xTile e then xRows e * xCols e * (fmtBits (xIfmt e) / 8) else xOut e

/-! ### Weight sets (R289, R290) -/

/-- A copy with nothing in it. -/
def WCopy.fresh (base : Nat) : WCopy := { base := base, state := .empty, finalSeen := false, failed := [], overflow := false }

/-- A failed extent joins the list of up to 256 ranges; a copy that was eligible is so no longer (DEDUCED, log 44). -/
def WCopy.fail (c : WCopy) (r : Nat × Nat) : WCopy :=
  let st := if c.state = .eligible then .partialLoad else c.state
  if c.failed.contains r then { c with state := st }
  else if c.failed.length < 256 then { c with failed := c.failed ++ [r], state := st }
  else { c with overflow := true, state := st }

/-- An intact extent clears its range; the last one makes a PARTIAL copy eligible, unless the list overflowed. -/
def WCopy.heal (c : WCopy) (r : Nat × Nat) : WCopy :=
  let l := c.failed.filter (· != r)
  { c with failed := l,
           state := if c.state = .partialLoad && l.isEmpty && !c.failed.isEmpty && !c.overflow then .eligible else c.state }

/-- A fetch with FINAL completes. -/
def WCopy.final (c : WCopy) : WCopy :=
  { c with finalSeen := true, state := if c.failed.isEmpty && !c.overflow then .eligible else .partialLoad }

/-! ### Key slots (R282) -/

def State.keySlot (s : State) (k : Nat) : KeySlot := Sparse.get KeySlot.reset s.ing.keys k
def State.setKey (s : State) (k : Nat) (x : KeySlot) : State :=
  { s with ing := { s.ing with keys := Sparse.set KeySlot.reset s.ing.keys k x } }

/-- The key of a slot is gone; extents that decrypt with it are marked (R293). -/
def State.clearKey (s : State) (k : Nat) : State :=
  let s := s.setKey k { s.keySlot k with key := none }
  { s with ing := { s.ing with fetches := s.ing.fetches.map fun f =>
      { f with keys := f.keys.mapIdx fun i b =>
          let e := (f.list.getD i 0).toNat
          if xDec e && 2 * f.tenant + xSlot e == k && b.key.isSome then { b with key := none, cleared := true } else b } } }

/-! ### Fetches (R278-R281) -/

/-- Whether a tenant's transfer may use a queue pair (R317). -/
def State.qpReady (s : State) (v q : Nat) : Bool :=
  let c := (Sparse.get 0 s.net.qps q).toNat
  bitOf c 0 && fld c 2 1 == 1 && fld c 24 16 == v

/-- Extents in flight, of at most 64. -/
def State.inFlight (s : State) : Nat := s.ing.fetches.foldl (fun n f => n + (f.keys.length - f.ended.length)) 0

/-- Extents begin, in list order, while fewer than 64 are in flight: each takes its slot's key, and its READ goes out. -/
def State.beginExtents (s : State) : State :=
  if !s.blockOn 13 || s.halted then s else
  s.ing.fetches.foldl (fun s f =>
    let n := min (64 - s.inFlight) (f.list.length - f.keys.length)
    let es := ((f.list.drop f.keys.length).take n).map (·.toNat)
    let slot := fun (e : Nat) => s.keySlot (2 * f.tenant + xSlot e)
    let ks : List BegunKey := es.map fun e => { key := (slot e).key, epoch := (slot e).epoch, cleared := false }
    let s := { s with ing := { s.ing with fetches := s.ing.fetches.map fun g =>
      if g.chan == f.chan && g.index == f.index then { g with keys := g.keys ++ ks } else g } }
    es.foldl (fun s e => if s.qpReady f.tenant (xQp e) then s.emit (.rdma (xQp e) (xRemote e) (xRkey e) (xLen e) false) else s) s) s

/-- An ingress command ends in a refusal of Table 12.3. -/
def State.refuse (s : State) (c : ExecCmd) (reason : Nat) : State := s.complete c.chan c.index stBadOperand reason 0

/-- A used set that a tenant owns: its number's set, or the reason. -/
def State.ownSet (s : State) (v k : Nat) : Except Nat WSet :=
  match s.wset k with
  | none => .error 0x01
  | some w => if w.owner = v then .ok w else .error 0x02

def execFetch (ch : Fin 262144) (index : Word) (s : State) : Host.Outcome State Fault Refusal :=
  .next (if 8 ≤ s.ing.fetches.length then s else
    (s.runCmd ch.val index 0x40 fun c s =>
      let v := cTenant (s.chEntry ch.val)
      let k := c.arg 4 10
      let copy := bitOf c.words.toNat 42
      let n := c.arg 0x10 13
      match s.ownSet v k with
      | .error r => s.refuse c r
      | .ok w =>
        if w.activeCopy = some copy then s.refuse c 0x04
        else if n = 0 || 4096 < n then s.complete ch.val index stBadOperand 0x10 0
        else if !s.named ch.val (c.arg 8 48) (128 * n) false then s.complete ch.val index stAperture 8 0
        else if !s.named ch.val (c.arg 0x18 48) (32 * n) true then s.complete ch.val index stAperture 0x18 0
        else
          let r := s.readTen v (c.arg 8 48) (128 * n)
          match r.bad with
          | some _ => r.st.complete ch.val index stMemUe 0 0
          | none =>
            let es := (chunks 128 r.bytes).map bytesToNat
            if !es.all (xValid w.len) || someMeet (es.flatMap xRanges) then r.st.refuse c 0x06 else
            let s := if bitOf c.words.toNat 43 then r.st.modCopy k copy fun x =>
                { x with failed := [], overflow := false, finalSeen := false, state := .loading } else r.st
            let f : FetchRun := { chan := ch.val, index := index, tenant := v, set := k, copy := copy,
                                  base := (w.copyOf copy).base, final := bitOf c.words.toNat 44,
                                  list := es.map (BitVec.ofNat 1024), keys := [], report := c.arg 0x18 48, ended := [],
                                  failed := 0, bytes := 0 }
            { s with ing := { s.ing with fetches := s.ing.fetches ++ [f] } }.beginExtents).retryBells)

/-- Extent STATUS (Table 12.6). -/
def exOk : Nat := 0
def exNet : Nat := 1
def exAuth : Nat := 2
def exDecode : Nat := 3
def exNoAperture : Nat := 4
def exKey : Nat := 5
def exUe : Nat := 6
def exAborted : Nat := 7

/-- How an extent ended: its STATUS, the bytes it wrote into the copy, the state after it. -/
structure ExtentOut where
  status : Nat
  wrote : Nat
  st : State

/-- Write at offsets of a copy: STATUS 0, or that of the write that failed; a word that stays uncorrectable was not written. -/
def State.writeCopy (s : State) (f : FetchRun) (l : List (Nat × List Byte)) : ExtentOut :=
  let l := l.filter fun x => !x.2.isEmpty
  if l.any fun x => !s.aptAllows f.tenant (f.base + x.1) x.2.length true true then ⟨exNoAperture, 0, s⟩ else
  l.foldl (fun (r : ExtentOut) x =>
    let das := (r.st.tenAddrs f.tenant (f.base + x.1) x.2.length).getD []
    let w := r.st.writeDev (das.zip x.2)
    ⟨if w.1.isSome then exUe else r.status,
     r.wrote + (if w.1.isSome then das.countP fun a => !w.2.mem.memBad.contains (a / 64) else x.2.length), w.2⟩) ⟨exOk, 0, s⟩

/-- Zero the whole destination of an extent; each byte of it is written (once, DESIGN CHOICE, log 191). -/
def State.zeroCopy (s : State) (f : FetchRun) (e status : Nat) : ExtentOut :=
  let w := s.writeCopy f ((xRanges e).map fun r => (r.1, List.replicate r.2 0))
  { w with status := if w.status = exOk then status else w.status }

/-- The bytes that LEN wire bytes decrypt to, and whether the tag holds (R283). -/
def xPlain (e : Nat) (b : BegunKey) (wire : List Byte) : List Byte × Bool :=
  match b.key with
  | some k => gcmDecrypt (natToBytes 32 k.toNat) (natToBytes 12 (fld e 479 384))
      (natToBytes 8 (xDst e) ++ natToBytes 4 (xLen e) ++ natToBytes 4 b.epoch.toNat) wire (natToBytes 16 (fld e 639 512))
  | none => (wire, true)

/-- The stages of Table 12.1 on the wire bytes of an extent. A tag that fails is counted whatever STATUS the zeroing leaves (R294). Of
an extent that fails to decode, a prefix whose length nothing states has been written (free value, log 45). -/
def State.runExtent (s : State) (f : FetchRun) (e : Nat) (b : BegunKey) (wire : List Byte) : ExtentOut :=
  if xDec e && b.key.isNone then (if b.cleared then s.zeroCopy f e exKey else ⟨exKey, 0, s⟩) else
  let p := if xDec e then xPlain e b wire else (wire, true)
  if !p.2 then (s.bump Reg.igeAuthCnt 1).zeroCopy f e exAuth else
  let d := if xDcmp e then decodeBlocks p.1.length p.1 else (p.1, true)
  if d.2 && d.1.length == xInput e then
    let o := xStore e d.1
    let w := s.writeCopy f [(xDst e, o.1), (xScaleDst e, o.2.1)]
    { w with st := w.st.bump Reg.igeSatCnt o.2.2 }
  else
    let n := s.fresh
    let o := if xQnt e || xTile e then xStore e (d.1.take (xInput e)) else (d.1.take (xOut e), [], 0)
    let w := n.2.writeCopy f [(xDst e, o.1.take (Config.decodedPrefix n.1))]
    { w with status := if w.status = exOk then exDecode else w.status }

/-- A fetch with every extent ended completes, and FINAL judges its copy (R290). -/
def State.settleFetch (s : State) (f : FetchRun) : State :=
  if f.ended.length < f.list.length then s else
  let s := { s with ing := { s.ing with fetches := s.ing.fetches.filter fun g => !(g.chan == f.chan && g.index == f.index) } }
  let s := if f.final then s.modCopy f.set f.copy WCopy.final else s
  (s.complete f.chan f.index stOk f.failed f.bytes).retryBells

/-- Whether the list of a fetch's copy has overflowed. -/
def State.overflowed (s : State) (f : FetchRun) : Bool := match s.wset f.set with
  | some w => (w.copyOf f.copy).overflow
  | none => false

/-- An extent has ended with a STATUS, `wrote` bytes of it in the copy: report entry, failed-range list, counters; the fetch as it
then stands. -/
def State.noteExtent (s : State) (f : FetchRun) (i status wrote : Nat) : FetchRun × State :=
  let e := (f.list.getD i 0).toNat
  let s := (s.writeTen f.tenant (f.report + 32 * i) (natToBytes 32 (packFields
    [(0, 8, status), (16, 48, xDst e), (64, 64, xOut e), (128, 64, xRemote e), (192, 32, xLen e)]))).2
  let full := s.overflowed f
  let f := { f with ended := f.ended ++ [i], failed := f.failed + (if status = 0 then 0 else 1),
                    bytes := f.bytes + wrote }
  let s := { s with ing := { s.ing with
      fetches := s.ing.fetches.map fun (g : FetchRun) => if g.chan == f.chan && g.index == f.index then f else g,
      copyBytes := s.ing.copyBytes + BitVec.ofNat 64 wrote } }
  (f, if status = 0 then s.modCopy f.set f.copy fun c => c.heal (xDst e, xOut e) else
    let s := (s.modCopy f.set f.copy fun c => c.fail (xDst e, xOut e)).bump Reg.igeFailCnt 1
    let s := if !full && s.overflowed f then s.setBit Reg.igeEvent 4 else s
    let s := s.setBit Reg.igeEvent 0
    if status = exAuth then s.setBit Reg.igeEvent 1 else s)

/-- An extent ends, and the next extents begin. -/
def State.endExtent (s : State) (f : FetchRun) (i status wrote : Nat) : State :=
  let r := s.noteExtent f i status wrote
  (r.2.settleFetch r.1).beginExtents

def execExtentEnd (ch : Fin 262144) (index : Word) (extent : Nat) (wire : WireResult) (s : State) :
    Host.Outcome State Fault Refusal :=
  match s.ing.fetches.find? fun f => f.chan == ch.val && f.index == index with
  | none => .next s
  | some f =>
    match f.keys[extent]? with
    | none => .next s
    | some b =>
      if f.ended.contains extent then .next s else
      let e := (f.list.getD extent 0).toNat
      match wire with
      | .failed => .next (s.endExtent f extent exNet 0)
      | .data bytes =>
        if !s.qpReady f.tenant (xQp e) then .next (s.endExtent f extent exNet 0)
        else if bytes.length != xLen e then .next s
        else
          let s := { s with ing := { s.ing with wireBytes := s.ing.wireBytes + BitVec.ofNat 64 bytes.length } }
          let r := s.runExtent f e b bytes
          .next (r.st.endExtent f extent r.status r.wrote)

/-! ### Sets, bindings, flips (R289-R292) -/

def execWsetCreate (ch : Fin 262144) (index : Word) (s : State) : Host.Outcome State Fault Refusal :=
  .next (s.runCmd ch.val index 0x41 fun c s =>
    let v := cTenant (s.chEntry ch.val)
    let k := c.arg 4 10
    let shared := bitOf c.words.toNat 42
    let len := c.arg 0x18 48
    let a0 := c.arg 8 48
    let a1 := c.arg 0x10 48
    if (s.wset k).isSome then s.refuse c 0x01
    else if shared && v != 0 then s.refuse c 0x03
    else if len = 0 || !s.aptAllows v a0 len true true || !s.aptAllows v a1 len true true then s.refuse c 0x0B
    else if !s.named ch.val a0 len true then s.complete ch.val index stAperture 8 0
    else if !s.named ch.val a1 len true then s.complete ch.val index stAperture 0x10 0
    else (s.setWset k (some { owner := v, shared := shared, len := len, copy0 := WCopy.fresh a0, copy1 := WCopy.fresh a1,
                              activeCopy := none, bindings := [], flip := none })).complete ch.val index stOk 0 0).retryBells

def execWsetBind (ch : Fin 262144) (index : Word) (s : State) : Host.Outcome State Fault Refusal :=
  .next (s.runCmd ch.val index 0x42 fun c s =>
    let v := cTenant (s.chEntry ch.val)
    let k := c.arg 4 10
    let a := c.arg 8 48
    match s.wset k with
    | none => s.refuse c 0x01
    | some w =>
      if w.owner != v && !w.shared then s.refuse c 0x02
      else if 64 ≤ w.bindings.length || w.bindings.any (·.tenant == v) then s.refuse c 0x07
      else if a % 8 != 0 || (match s.aptOf v a 8 with
        | some i => let d := s.aptDesc v i
                    !aptWritable d || !aptRetained d || aptSpill d
        | none => true) then s.refuse c 0x08
      else if !s.named ch.val a 8 true then s.complete ch.val index stAperture 8 0
      else
        let s := (s.writeTen v a (flipWord (w.activeCopy.getD false) 0)).2
        let b : Binding := { tenant := v, parts := BitVec.ofNat 8 (c.arg 6 8), flipWord := a, flipSeq := 0, due := w.flip.isSome }
        (s.setWset k (some { w with bindings := w.bindings ++ [b] })).complete ch.val index stOk 0 0).retryBells

/-- An unbind waits for the flip's write to its binding; a tenant that neither owns the set nor holds a binding of it is refused
(DEDUCED, log 192). -/
def execWsetUnbind (ch : Fin 262144) (index : Word) (s : State) : Host.Outcome State Fault Refusal :=
  let v := cTenant (s.chEntry ch.val)
  let set' := fun (c : ExecCmd) => s.wset (c.arg 4 10)
  let waits := match s.cmd ch.val index with
    | some c => match set' c with
      | some w => w.bindings.any fun b => b.tenant == v && b.due
      | none => false
    | none => false
  .next (if waits then s else (s.runCmd ch.val index 0x43 fun c s =>
    match s.wset (c.arg 4 10) with
    | none => s.refuse c 0x01
    | some w => if w.owner != v && !w.bindings.any (·.tenant == v) then s.refuse c 0x02 else
      (s.setWset (c.arg 4 10) (some { w with bindings := w.bindings.filter (·.tenant != v) })).complete
        ch.val index stOk 0 0).retryBells)

def execWsetFlip (ch : Fin 262144) (index : Word) (s : State) : Host.Outcome State Fault Refusal :=
  .next (s.runCmd ch.val index 0x44 fun c s =>
    let v := cTenant (s.chEntry ch.val)
    let k := c.arg 4 10
    let copy := bitOf c.words.toNat 42
    match s.ownSet v k with
    | .error r => s.refuse c r
    | .ok w =>
      if (w.copyOf copy).state != .eligible || s.ing.fetches.any (fun f => f.set == k && f.copy == copy) then s.refuse c 0x05
      else if w.flip.isSome then s.refuse c 0x0C
      else (s.setWset k (some { w with flip := some (copy, ch.val, index),
                                       bindings := w.bindings.map fun b => { b with due := true } })).settleFlip k).retryBells

def execFlipWordWrite (set : Fin 1024) (tenant : Fin 512) (s : State) : Host.Outcome State Fault Refusal :=
  .next (s.writeFlip set.val tenant.val)

def execWsetDestroy (ch : Fin 262144) (index : Word) (s : State) : Host.Outcome State Fault Refusal :=
  .next (s.runCmd ch.val index 0x45 fun c s =>
    match s.ownSet (cTenant (s.chEntry ch.val)) (c.arg 4 10) with
    | .error r => s.refuse c r
    | .ok w => if w.flip.isSome then s.refuse c 0x0C
               else (s.setWset (c.arg 4 10) none).complete ch.val index stOk 0 0).retryBells

/-! ### Keys (R284, R285) -/

/-- The key that a blob wraps for a slot (Table 12.5): none where authentication fails; `tag` tells a failed tag. -/
def State.unwrap (s : State) (v slot epoch : Nat) (blob : List Byte) : Option (BitVec 256) × Bool :=
  match pointOf (blob.take 97) with
  | none => (none, false)
  | some q =>
    match pointMul s.attestD (some q) 384 with
    | none => (none, false)
    | some (z, _) =>
      let gen := (s.keySlot (2 * v + slot)).gen.toNat
      let info := natToBytes 2 0x574B ++ natToBytes 2 v ++ natToBytes 1 slot ++ natToBytes 2 gen ++ natToBytes 4 epoch
      let kek := (sha384 (natToBe 4 1 ++ natToBe 48 z ++ info)).take 32
      let r := gcmDecrypt kek ((blob.drop 0x64).take 12) info ((blob.drop 0x70).take 32) ((blob.drop 0x90).take 16)
      if r.2 then (some (BitVec.ofNat 256 (bytesToNat r.1)), false) else (none, true)

/-- A refused KEY_LOAD. -/
def State.refuseKey (s : State) (c : ExecCmd) (reason : Nat) : State := (s.setBit Reg.igeEvent 2).refuse c reason

def execKeyLoad (ch : Fin 262144) (index : Word) (journalOk : Bool) (s : State) : Host.Outcome State Fault Refusal :=
  .next (s.runCmd ch.val index 0x46 fun c s =>
    let v := cTenant (s.chEntry ch.val)
    let slot := c.arg 4 1
    let epoch := c.arg 8 32
    let k := 2 * v + slot
    if epoch ≤ (s.keySlot k).floor.toNat then s.refuseKey c 0x09
    else if !s.named ch.val (c.arg 0x10 48) 160 false then s.complete ch.val index stAperture 0x10 0
    else
      let r := s.readTen v (c.arg 0x10 48) 160
      match r.bad with
      | some _ => r.st.complete ch.val index stMemUe 0 0
      | none =>
        let s := r.st
        match s.unwrap v slot epoch r.bytes with
        | (none, tag) => (if tag then s.bump Reg.igeAuthCnt 1 else s).refuseKey c 0x0A
        | (some key, _) =>
          let j := if journalOk then s.appendJournal k (s.keySlot k).gen.toNat epoch else (false, s)
          if !j.1 then (j.2.setBit Reg.otpEvent 2).refuseKey c 0x09 else
          let s := j.2.setKey k { s.keySlot k with key := some key, epoch := BitVec.ofNat 32 epoch, floor := BitVec.ofNat 32 epoch }
          (if 0xFFFF0000 ≤ epoch then s.setBit Reg.igeEvent 3 else s).complete ch.val index stOk 0 0).retryBells

def execKeyClear (ch : Fin 262144) (index : Word) (journalOk : Bool) (s : State) : Host.Outcome State Fault Refusal :=
  .next (s.runCmd ch.val index 0x47 fun c s =>
    let v := cTenant (s.chEntry ch.val)
    let slot := c.arg 4 1
    if !bitOf c.words.toNat 33 then (s.clearKey (2 * v + slot)).complete ch.val index stOk 0 0 else
    let k := 2 * c.arg 6 9 + slot
    let x := s.keySlot k
    if v != 0 || x.gen = 0xFFFF then s.refuse c 0x03 else
    let j := if journalOk then s.appendJournal k (x.gen.toNat + 1) 0 else (false, s)
    if !j.1 then (j.2.setBit Reg.otpEvent 2).refuse c 0x09 else
    let s := j.2.clearKey k
    (s.setKey k { s.keySlot k with gen := x.gen + 1, floor := 0 }).complete ch.val index stOk 0 0).retryBells

end Sys2Proof.Machine
end

