-- ==== Sys2Proof/Machine/Shutter.lean ====
section
/-!
DEFINITION. The Shutter (02 R25-R40; 09, 11, 15 where they meet a tick): ticks, the start of a job and of serving ticks, late
dispatches, closes of frames and of steps, the end of a job, the launch count and the lock check.
-/

namespace Sys2Proof.Machine

/-! ### The close of a step (R32, R33, R174) -/

/-- Every tile of the job has closed the step-flagged frame. -/
def State.stepDue (s : State) (p : Nat) : Bool :=
  let x := s.part p
  x.jobOn && x.stepOpen && !x.ending && !x.frozen && s.flt.run.isNone && !s.halted &&
    (s.partTiles p).all fun t => (s.tile t).closedStep && (s.tile t).routine.isNone

/-- The step closes and its boundary begins. Step 2^40 is not opened: the job ends with STEP_WRAP. -/
def State.closeStep (s : State) (p : Nat) : State :=
  if !s.stepDue p then s else
  let x := s.part p
  let last := x.step = BitVec.allOnes 40
  let s := s.setBit (Reg.shtPevent p) 3
  let s := if last then s.setBit (Reg.shtPevent p) 5 else s
  let tick := x.lastTick + BitVec.ofNat 64 (s.period p)
  let s := s.modPart p fun x =>
    { x with closing := x.step, step := if last then x.step else x.step + 1, stepOpen := false, action := 1,
             boundaryFrame := 0, dueCause := none, passTaken := 0, normTick := tick, closedTicks := x.stepTicks, closedLost := x.stepLost,
             stepTicks := 0, stepLost := 0,
             job := x.job.map fun j => { j with lastClosed := some x.step, ending := if last then some 0x1B else if j.leaving then some 0x0A else j.ending } }
  let s := s.mapTiles p fun x => { x with closedStep := false }
  (s.emit (.report .stepBoundary (s.jobIdOf p) x.step.toNat)).startNorm p

def execStepClose (p : Fin 8) (s : State) : Host.Outcome State Fault Refusal := .next (s.closeStep p.val)

/-! ### What happens at every tick -/

/-- Snapshots of the counters that name the partition (R404). -/
def State.snapshots (s : State) (p : Nat) : State :=
  if s.rdBit Reg.pmcCtrl 0 then s else
  let due := (List.range 712).filter fun c => let w := (s.rd (pmcCfgPlace c)).toNat
                                              bitOf w 9 && fld w 12 10 == p
  let s := { s with dbg := { s.dbg with
      pmcSnap := due.foldl (fun m c => Sparse.set 0 m c (Sparse.get 0 s.dbg.pmc c)) s.dbg.pmcSnap } }
  if due.isEmpty then s else { s with dbg := { s.dbg with snapF := Sparse.set (BitVec.allOnes 48) s.dbg.snapF p (s.part p).f } }

/-- The held-back unit-cycles of one tile's operations draw from the pool. -/
def payOps : List Op → Nat → List Op × Nat
  | [], n => ([], n)
  | o :: l, n =>
    let k := min o.owes n
    let r := payOps l (n - k)
    ({ o with owes := o.owes - k } :: r.1, r.2)

/-- A fresh allowance; work that the limiter held back draws first, lower tiles before higher ones (R396). -/
def State.refill (s : State) (p : Nat) : State :=
  let a := s.allowOf p
  let r := (s.partTiles p).foldl (fun (acc : Nat × State) t =>
    let q := payOps (acc.2.tile t).ops acc.1
    (q.2, acc.2.modTile t fun x => { x with ops := q.1 })) (a, s)
  r.2.modPart p fun x => { x with allowLeft := r.1 }

/-- The frame watchdog counts this tick, unless it pauses (R338). -/
def State.countWatchdogs (s : State) (p : Nat) : State :=
  if s.halted || s.boundaryHeld p || s.flt.memReset || s.flt.ctlReset then s else
  s.mapTiles p fun x =>
    let runs := x.frameOpen || x.routine.any fun r => r.takenAt == .afterClose
    if runs && !x.debugHalted then { x with wdTicks := x.wdTicks + 1 } else x

/-- Shared credits of pre-empted tenants come due at the second tick (R269). -/
def State.countCredits (s : State) (p : Nat) : State :=
  { s with chan := { s.chan with credit := s.chan.credit.map fun (e : Nat × Nat × Nat) =>
      if e.1 = p then (e.1, e.2.1, e.2.2 - 1) else e } }

/-- What every tick does before its program is bound. -/
def State.atTick (s : State) (p : Nat) : State :=
  let s := ((s.tickPending p).applyGroups p).slotContend
  let c := s.budget p
  let s := s.modPart p fun x => { x with cyc := c }
  ((((s.snapshots p).refill p).countWatchdogs p).countCredits p).settleFreeze p

/-! ### The start of a job (R25, R97, R260, R267) -/

/-- A job's tiles start at their entry points with registers as at launch, or take back what a pre-emption saved. -/
def State.startJobTiles (s : State) (p : Nat) : State :=
  match (s.part p).job with
  | none => s
  | some j =>
    let s := s.mapTiles p Tile.vacant
    let s := if j.resumes then s.restoreAll p j.tenant j.save 0 true
      else (s.partTiles p).foldl (fun s t => s.modTile t fun x =>
        { x.zeroRegs.dropTags with pc := j.entries.getD (s.relTile t) 0, frameDigests := [], routineDigests := [],
                                   routineSeq := 0 }) s
    let s := s.modPart p fun x =>
      { x with onTiles := some j.tenant, imgTenant := j.tenant, imgBase := j.image, imgLen := j.imgLen, incoming := false,
               turn := none, deficit := 0, swapLeft := 0, job := x.job.map fun j => { j with resumes := false } }
    if j.resumes then s
    else (s.charge j.chan j.cmdIndex 0 (s.framesSince p (match s.cmd j.chan j.cmdIndex with
      | some c => c.rung
      | none => s.now))).charge j.chan j.cmdIndex 2 1

/-- The launch count of a job: its ticks start at F = 0. An invocation on the tiles is displaced: the job's first frame waits
for the save, with cause SWAP (R275). -/
def State.beginJob (s : State) (p g : Nat) : State :=
  match (s.part p).job with
  | none => s
  | some j =>
    let out := s.savesOut p
    let s := if j.resumes then s else (s.wr (Reg.shtOverrunCnt p) 0).wr (Reg.shtSlipCnt p) 0
    let s := s.modPart p fun x =>
      { x with running := true, ticked := true, startAt := none, l := BitVec.ofNat 64 g, lastTick := BitVec.ofNat 64 g, f := 0,
               p := 0, d := 0, stepOpen := false, action := 0, boundaryFrame := 0, dueCause := none, stepTicks := 0,
               stepLost := 0, turn := none, deficit := 0, swapLeft := 0, repro := j.repro, mv2 := j.mv2, seed := j.seed,
               incoming := out, job := some { j with launchCount := none, preempted := false } }
    let s := s.atTick p
    if out then
      let s := match (s.part p).onTiles with
        | some u => s.recallCredits p u
        | none => s
      let s := s.modPart p fun x => { x with dueCause := some .swap, stepTicks := 1 }
      s.mapTiles p fun x => { x with waiting := true, lostWaiting := 0, holdCause := none }
    else (s.mapTiles p fun x => { x with waiting := false, lostWaiting := 0 }).startJobTiles p

/-! ### The tick (R25, R28, R36, R264) -/

/-- What the next tick of a partition is. -/
inductive TickKind where
  | launch | start | next
deriving DecidableEq, Repr

/-- The partition's next tick, and its count: a launch count before serving ticks at the same count. -/
def State.nextTick (s : State) (p : Nat) : Option (TickKind × Nat) :=
  let x := s.part p
  let launch := x.job.bind fun j => if j.lockOk && !j.restoring && j.ending.isNone && !x.frozen && s.blockOn 5
    then j.launchCount.map fun c => (TickKind.launch, c.toNat) else none
  let other := if x.running then
      some (if x.ticked then (TickKind.next, x.lastTick.toNat + s.period p) else (TickKind.next, x.l.toNat))
    else if s.blockOn 5 then x.startAt.map fun c => (TickKind.start, c.toNat) else none
  match launch, other with
  | some a, some b => if a.2 ≤ b.2 then some a else some b
  | some a, none => some a
  | none, b => b

/-- A partition's tick at its count. A step whose last frame has closed closes first. -/
def State.tick (s : State) (p : Nat) : State :=
  if s.pkg.heldBy.isSome || s.flt.run.isSome then s else
  let s := s.closeStep p
  match s.nextTick p with
  | none => s
  | some (kind, g) =>
    let s := s.reach g
    match kind with
    | .launch =>
      let s := (s.endStopped p).beginJob p g
      match (s.part p).job with
      | some j =>
        let s := s.charge j.chan j.cmdIndex 3 1
        if (s.part p).incoming then s else s.jobTick p
      | none => s
    | .start =>
      let s := s.modPart p fun x =>
        { x with running := true, ticked := true, startAt := none, l := BitVec.ofNat 64 g, lastTick := BitVec.ofNat 64 g, f := 0,
                 p := 0, d := 0 }
      (s.atTick p).serveTick p
    | .next =>
      let x := s.part p
      let f := if x.ticked then x.f + 1 else x.f
      let s := if x.ticked && f = 0 then s.setBit (Reg.shtPevent p) 6 else s
      let s := s.modPart p fun x => { x with f := f, lastTick := BitVec.ofNat 64 g, ticked := true }
      let s := s.atTick p
      match (s.part p).job with
      | some j =>
        if (s.part p).jobActive then (((s.endStopped p).writeFlips p).charge j.chan j.cmdIndex 3 1).jobTick p
        else ((s.endInvocation p).writeFlips p).serveTick p
      | none => ((s.endInvocation p).writeFlips p).serveTick p

def execTick (p : Fin 8) (s : State) : Host.Outcome State Fault Refusal := .next (s.tick p.val)

/-! ### Late dispatch (R28, R29, R114) -/

/-- The cause that a wait gives a slip (R114). -/
def waitCause : Wait → Cause
  | .krot => .kalBlock
  | .pcol | .prismSink | .fenceG => .prismPeer
  | .spillDma => .host
  | .fetch | .dma | .aow | .hbmDrain | .semr | .semw | .queueFull | .portRefused => .extWait

/-- A tile that waits frees and dispatches at a count up to the next tick's, which counts as before it (R38), unless the boundary
or a window still holds it. The first frame of a step that slips dispatches after its tick. -/
def State.lateDispatch (s : State) (t : Nat) (now : Dword) (own : Nat) (block wait : Option Cause) : State :=
  let p := s.partOf t
  let before := match s.nextTick p with
    | some (_, g) => decide (now.toNat ≤ g)
    | none => false
  if !(s.part p).running || !(s.tile t).waiting || !before || now.toNat < s.now.toNat || !s.mayDispatch p then s else
  let s := s.reach now.toNat
  let s := if (s.part p).incoming && s.quiet p then (s.preemptOut p).startJobTiles p else s
  let s := if (s.part p).jobOn && (s.part p).action != 0 then s.advanceBoundary p else s
  let x := s.part p
  let onTick := now = x.lastTick && (s.tile t).lostWaiting = 0
  let held := x.incoming ||
    (x.jobOn && (x.ending || (x.action != 0 && (!s.boundaryDone p || (onTick && x.dueCause.isSome)))))
  if held || !(s.tile t).isFree || (s.tile t).ended || s.windowHolds p then s else
  let s := if x.jobOn && !x.stepOpen then s.openStep p else s
  if onTick then s.dispatchTile p t none else
  let c := s.lateCauseOf p t own block wait
  (s.logLate p t now c).dispatchTile p t (some c)

def execLateDispatch (t : Fin 64) (now : Dword) (ownCycles : Nat) (blockCause : Option Cause) (wait : Option Wait) (s : State) :
    Host.Outcome State Fault Refusal := .next (s.lateDispatch t.val now ownCycles blockCause (wait.map waitCause))

/-! ### Closes (R105, R116, R117) -/

/-- ENDF's frame closes once its operations have completed; at the step-flagged one the deferred queue runs first. -/
def execFrameClose (t : Fin 64) (cyclesLeft : Nat) (s : State) : Host.Outcome State Fault Refusal :=
  let p := s.partOf t.val
  let x := s.tile t.val
  match x.closing with
  | none => .next s
  | some c =>
    if !x.closable || s.halted || s.flt.run.isSome then .next s
    else if c.step && !x.queue.isEmpty then
      .next (((s.modTile t.val fun x => { x.takeEntry .atStepEndf x.pc with wdTicks := 0 }).pmcTile t.val 0x09 1).fetchAt t.val)
    else
      let s := (s.closeFrame p t.val c).settleFreeze p
      .next (((s.takeDeferred p t.val cyclesLeft).endInvocation p).nextInFrame p cyclesLeft)

/-- RETD returns once every operation of the routine has completed; DEFD runs on until its queue is empty, an idle tile takes the
next entry by its rule. -/
def execDeferredReturn (t : Fin 64) (cyclesLeft : Nat) (s : State) : Host.Outcome State Fault Refusal :=
  let p := s.partOf t.val
  let x := s.tile t.val
  match x.routine with
  | none => .next s
  | some r =>
    if !r.returning || x.ops.any (·.deferred) || !x.pend.isEmpty || x.faulted || s.halted || s.flt.run.isSome then .next s else
    let s := s.modTile t.val fun x => x.endRoutine r
    if r.takenAt = .atDefd && !x.queue.isEmpty then
      .next (((s.modTile t.val fun x => { x.takeEntry .atDefd r.returnPc with wdTicks := 0 }).pmcTile t.val 0x09 1).fetchAt t.val)
    else
      .next (((if r.takenAt = .afterClose then s.takeDeferred p t.val cyclesLeft else s.fetchAt t.val).endInvocation p).nextInFrame
        p cyclesLeft)

/-! ### The end of a job (R105, R260, R33, R348) -/

/-- Nothing stands in the way of the job's end. -/
def State.jobOver (s : State) (p : Nat) (j : Job) : Bool :=
  let x := s.part p
  if !x.jobActive then j.ending.isSome else
  let closed := decide (5 ≤ x.action) && x.ckpt.cutStep != some x.closing && !x.ckpt.releaseWait
  s.quiet p && match j.ending with
    | none => decide (6 ≤ x.action) && (s.partTiles p).all fun t => (s.tile t).closedEnd
    | some e =>
      if e = 0x23 then (match x.led with
        | some l => serialGe 48 x.bound.toNat (l.mirrorP.toNat + ldWindow l.desc.toNat)
        | none => true)
      else if e = 0x0A then true
      else closed || (x.action = 0 && !x.stepOpen)

/-- The last step closed; for a job that has closed none the spec names no step (free value, log 52). -/
def Job.result (j : Job) : Nat := match j.lastClosed with
  | some c => c.toNat
  | none => (Config.noStepResult j.startStep).toNat

/-- The job's LAUNCH completes with a status; the partition is free. -/
def State.finishJob (s : State) (p status : Nat) (j : Job) : State :=
  let s := if status = 0x1B then s.wrapSeed j.seed else s
  let s := s.complete j.chan j.cmdIndex status j.endDetail j.result
  let s := s.modPart p fun x =>
    { x with job := none, ledShow := x.showLedger, led := if x.frozen then x.led else none, ckpt := { x.ckpt with cutStep := none, releaseWait := false },
             onTiles := if x.jobOn then none else x.onTiles, action := 0, boundaryFrame := 0, dueCause := none, abandoned := false,
             stepOpen := if x.jobOn then false else x.stepOpen, incoming := false, held := false, jobHalted := false, slips := [],
             decisions := [] }
  ((s.completeStops j.tenant p 1).stopTicks p).retryBells

/-- The end of a job whose actions are done: an ABANDONED record for a step that ends open, the END record, the LAUNCH. -/
def State.endJob (s : State) (p : Nat) : State :=
  let s := s.closeStep p
  match (s.part p).job with
  | none => s
  | some j =>
    let s := if (s.part p).jobOn && j.ending.isNone then s.advanceBoundary p else s
    if !s.jobOver p j then s else
    let status := match j.ending with
      | some e => e.toNat
      | none => stOk
    let s := match (s.part p).led with
      | some l => if (s.part p).abandoned then (s.stepRecord p 3 j l).2 else s
      | none => s
    let s := if status = 0x23 then s else s.endRecord p status j.endDetail
    s.finishJob p status j

def execJobEnd (p : Fin 8) (s : State) : Host.Outcome State Fault Refusal :=
  .next (if s.flt.run.isSome then s else s.endJob p.val)

/-! ### The launch count and the lock check (R10, R34, R210) -/

/-- The partitions whose job waits for a launch count under a JOB_ID. -/
def State.waitingJobs (s : State) (jobId : Word) : List Nat :=
  (List.range 8).filter fun p => (s.part p).job.any fun j => j.jobId == jobId && !(s.part p).jobActive && j.ending.isNone

def State.modJob (s : State) (p : Nat) (f : Job → Job) : State := s.modPart p fun x => { x with job := x.job.map f }

/-- A launch count arms the job's partitions, or comes too late. -/
def execLaunchCount (jobId : Word) (count : Dword) (s : State) : Host.Outcome State Fault Refusal :=
  let ps := s.waitingJobs jobId
  if ps.isEmpty then .next s
  else if count.toNat < s.now.toNat + 2000000 then
    .next ((ps.foldl (fun s p => s.modJob p fun j => { j with launchCount := none, lockOk := false }) s).emit
      (.report .lateLaunch jobId 0))
  else .next (ps.foldl (fun s p => s.modJob p fun j => { j with launchCount := some count, lockOk := false }) s)

/-- In lock, and not in holdover. The time root, which has no parent and so no offset, counts as in lock (DESIGN CHOICE,
log 161). -/
def State.inLock (s : State) : Bool := (s.syncLevel = 0 || s.rdBit Reg.shtSyncStatus 0) && !s.rdBit Reg.shtSyncStatus 1

/-- A Mirror half sends its fingerprint over the Mirror link (R210). -/
def State.sendFingerprint (s : State) (p : Nat) : State :=
  match (s.part p).led with
  | some l => if ldMirror l.desc.toNat then s.emit (.toChip (BitVec.ofNat 14 (ldPartner l.desc.toNat)) "MIRROR_FINGERPRINT"
      [p, l.fingerprint.toNat]) else s
  | none => s

/-- The moment 1,000,000 counts before the launch count. A Mirror half whose fingerprint differs from its partner's is refused
by the domain manager (DEDUCED, log 53). -/
def execLockCheck (p : Fin 8) (partnerFingerprint : Option (BitVec 256)) (s : State) : Host.Outcome State Fault Refusal :=
  match (s.part p.val).job with
  | none => .next s
  | some j =>
    match j.launchCount with
    | none => .next s
    | some c =>
      if j.lockOk then .next s else
      let s := (s.reach (c.toNat - 1000000)).sendFingerprint p.val
      let mirror := (s.part p.val).led.any fun l => ldMirror l.desc.toNat && partnerFingerprint != some l.fingerprint
      if !s.inLock then
        .next ((s.modJob p.val fun j => { j with launchCount := none }).emit (.report .notInLock j.jobId 0))
      else if mirror then
        let s := s.emit (.report .mirrorFingerprint j.jobId 0)
        .next ((s.endRecord p.val 0x24 0).finishJob p.val 0x24 j)
      else .next (s.modJob p.val fun j => { j with lockOk := true })

/-! ### PERIOD_K (R26) -/

def execPeriodWrite (path : Path) (p : Fin 8) (value : Word) (s : State) : Host.Outcome State Fault Refusal :=
  .next (s.via path (Reg.shtPctrl p.val) fun s =>
    if !s.hasPart p.val then s else
    let k := fld value.toNat 10 0
    if (s.part p.val).running || decide (k < 4) || decide (1024 < k) then
      (s.writeFields path (Reg.shtPctrl p.val) value 0x7FF).setBit (Reg.shtPevent p.val) 4
    else s.writeFields path (Reg.shtPctrl p.val) value 0)

end Sys2Proof.Machine
end

