-- ==== Sys2Proof/Machine/Ckpt.lean ====
section
/-!
DEFINITION. Checkpoints and admission on a worker (15 R352-R358): the descriptor and its checks, direct and staged cuts, the
release, the drain, a restore, the copy to a replacement chip.
-/

namespace Sys2Proof.Machine

/-! ### The descriptor (Table 15.9) -/

def State.ckptAddr (s : State) (p : Nat) : Nat :=
  s.rdFld (Reg.fltCkptLo p) 31 6 * 64 + s.rdFld (Reg.fltCkptHi p) 15 0 * 2 ^ 32

def ckCount (h : Nat) : Nat := fld h 12 0
def ckStaged (h : Nat) : Bool := bitOf h 16
def ckRestore (h : Nat) : Bool := bitOf h 17
def ckManifest (h : Nat) : Nat := fld h 111 64
def ckStage (h : Nat) : Nat := fld h 175 128
def ckStageLen (h : Nat) : Nat := fld h 239 192
def ceSrc (e : Nat) : Nat := fld e 47 0
def ceLen (e : Nat) : Nat := fld e 103 64
def ceRemote (e : Nat) : Nat := fld e 191 128
def ceRkey (e : Nat) : Nat := fld e 223 192
def ceQp (e : Nat) : Nat := fld e 235 224

/-- A word with bits outside its fields (position, width). -/
def hasReserved (fs : List (Nat × Nat)) (w : Nat) : Bool :=
  (fs.foldl (fun x (f : Nat × Nat) => setFld x (f.1 + f.2 - 1) f.1 0) w) != 0

def up4k (n : Nat) : Nat := (n + 4095) / 4096 * 4096

/-- A descriptor as its bytes. -/
def ckHead (bs : List Byte) : Nat := bytesToNat (bs.take 64)
def ckExtents (bs : List Byte) : List Nat := natsOf 64 (bs.drop 64)

/-- Where the staged copy of each extent begins: every one at a 4 KiB boundary. -/
def stageOffsets : List Nat → Nat → List Nat
  | [], _ => []
  | e :: l, at' => at' :: stageOffsets l (at' + up4k (ceLen e))

/-- An extent in a Retained Aperture of a tenant. -/
def State.inRetained (s : State) (v a n : Nat) (write : Bool) : Bool := match s.aptOf v a n with
  | some i => let d := s.aptDesc v i
              aptRetained d && (!write || aptWritable d)
  | none => false

/-- The descriptor at an address, when its header can be read. -/
def State.readCkpt (s : State) (p v : Nat) : Option (List Byte) :=
  let a := s.ckptAddr p
  match s.tenBytes v a 64 with
  | some h => s.tenBytes v a (64 + 64 * ckCount (bytesToNat h))
  | none => none

/-- What the read of a descriptor leaves beside it (R221, R223). -/
def State.meetCkpt (s : State) (p v : Nat) : State :=
  let a := s.ckptAddr p
  let n := ckCount (s.tenNat v a 64)
  (s.meet v a 64).meet v (a + 64) (64 * n)

/-- The check of a descriptor: the first failing extent, 0 for its header. `write` where its extents will be written. -/
def State.ckptCheck (s : State) (p v : Nat) (write : Bool) : Except Nat (List Byte) :=
  let a := s.ckptAddr p
  match s.readCkpt p v with
  | none => .error 0
  | some bs =>
    let h := ckHead bs
    let es := ckExtents bs
    let n := ckCount h
    let total := es.foldl (fun m e => m + up4k (ceLen e)) 0
    let head := a == 0 || !s.inRetained v a (64 + 64 * n) false || n == 0 || decide (4096 < n) ||
      hasReserved [(0, 13), (16, 2), (64, 48), (128, 48), (192, 48)] h || !s.aptAllows v (ckManifest h) (64 + 32 * n) true true ||
      (ckStaged h && (ckStage h % 4096 != 0 || decide (ckStageLen h < total) || !s.inRetained v (ckStage h) (ckStageLen h) true))
    if head then .error 0 else
    match es.findIdx? fun e => hasReserved [(0, 48), (64, 40), (128, 96), (224, 12)] e || ceLen e % 256 != 0 ||
        decide (2 ^ 36 < ceLen e) || !s.inRetained v (ceSrc e) (ceLen e) write || !s.qpReady v (ceQp e) with
    | some i => .error i
    | none => .ok bs

/-! ### The manifest -/

def manifestHead (step rank count : Nat) (fp : BitVec 256) : List Byte :=
  natToBytes 64 (packFields [(0, 40, step), (64, 14, rank), (96, 13, count), (128, 256, fp.toNat)])

def manifestEntry (digest : BitVec 128) (len status : Nat) : List Byte :=
  natToBytes 32 (packFields [(0, 128, digest.toNat), (128, 40, len), (192, 8, status)])

/-- The bytes of an extent, or `none` where a word of it cannot be read. -/
def State.extentBytes (s : State) (v a n : Nat) : Option (List Byte) := s.tenBytes v a n

/-- STATE, LAST and EXT of FLT_CKPT_STAT. -/
def State.ckptState (s : State) (p st : Nat) : State := s.wrFld (Reg.fltCkptStat p) 2 0 st
def State.ckptLast (s : State) (p last ext : Nat) : State :=
  let s := s.wrFld (Reg.fltCkptStat p) 4 3 last
  if last = 2 then s.wrFld (Reg.fltCkptStat p) 27 16 ext else s

/-- The outcome of a cut or a restore: the register, a KIND 6 record. -/
def State.ckptOutcome (s : State) (p : Nat) (failed : Option Nat) : State :=
  let x := s.part p
  let s := s.ckptLast p (if failed.isSome then 2 else 1) (failed.getD 0)
  s.logEvent { kind := 6, code := if failed.isSome then 0x34 else 0, part := p, tenant := s.tenantOfPart p,
               step := x.closing.toNat, jobId := (s.jobIdOf p).toNat }

/-- The report of a cut to the domain manager. -/
def State.tellCut (s : State) (jobId : Word) (failed : Bool) : State :=
  (if failed then s.setBit Reg.fltEvent 7 else s).tellDm (if failed then "CUT_FAILED" else "CUT_DONE") [jobId.toNat, s.self.toNat]

/-- Write the manifest of a cut from its extents' sources and codes, and report. -/
def State.finishCut (s : State) (p v : Nat) (jobId : Word) (bs head : List Byte) (sources : List Nat) (codes : List Nat) : State :=
  let h := ckHead bs
  let es := ckExtents bs
  let entries := (es.zip (sources.zip codes)).flatMap fun (e, a, code) =>
    manifestEntry (digestOf ((s.extentBytes v a (ceLen e)).getD [])) (ceLen e) code
  let w := s.writeTen v (ckManifest h) (head ++ entries)
  let failed := match codes.findIdx? (· != 0) with
    | some i => some i
    | none => if w.1.isSome then some 0 else none
  let moved := (es.zip codes).foldl (fun n (e : Nat × Nat) => if e.2 = 0 then n + ceLen e.1 else n) 0
  let s := w.2.modPart p fun x => { x with ckpt := { x.ckpt with
      bytesCut := x.ckpt.bytesCut + BitVec.ofNat 64 moved,
      lastCutStep := if failed.isNone then BitVec.ofNat 40 (fld (bytesToNat (head.take 8)) 39 0) else x.ckpt.lastCutStep } }
  let s := s.ckptOutcome p failed
  s.tellCut jobId failed.isSome

/-! ### A cut (R353, R354) -/

def State.modCkpt (s : State) (p : Nat) (f : Ckpt → Ckpt) : State := s.modPart p fun x => { x with ckpt := f x.ckpt }

/-- The partitions that run a job. -/
def State.partsOfJob (s : State) (jobId : Word) : List Nat :=
  (List.range 8).filter fun p => (s.part p).job.any (·.jobId == jobId)

/-- CUT(c): the cut waits for the boundary of step c. -/
def execCutOrder (jobId : Word) (c : BitVec 40) (s : State) : Host.Outcome State Fault Refusal :=
  .next ((s.partsOfJob jobId).foldl (fun s p => (s.modCkpt p fun k => { k with cutStep := some c }).ckptState p 1) s)

/-- Copy an extent into the staging area: its code, and what its read meets (R221, R223). -/
def State.stageExtent (s : State) (v : Nat) (e a : Nat) : Nat × State :=
  let read := s.extentBytes v (ceSrc e) (ceLen e)
  let s := s.meet v (ceSrc e) (ceLen e)
  match read with
  | none => (6, s)
  | some b => let w := s.writeTen v a b
              (if w.1.isSome then 4 else 0, w.2)

/-- The codes of extents that are sent from their sources: UE for one that cannot be read, else what the wire answered. -/
def State.sendCodes (s : State) (v : Nat) (es sources : List Nat) (wire : List (BitVec 8)) : List Nat :=
  (es.zip sources).mapIdx fun i (e : Nat × Nat) =>
    if (s.extentBytes v e.2 (ceLen e.1)).isNone then 6 else (wire.getD i 1).toNat

/-- A worker's part of a cut, after its ledger record: the check, then the writes or the staged copy; the boundary then waits
for the release. -/
def State.cut (s : State) (p : Nat) (j : Job) (wire : List (BitVec 8)) : State :=
  let c := (s.part p).closing
  let s := s.modCkpt p fun k => { k with cutStep := none, releaseWait := true }
  match s.ckptCheck p j.tenant false with
  | .error i =>
    let s := (s.ckptState p 0).ckptOutcome p (some i)
    s.tellCut j.jobId true
  | .ok bs =>
    let h := ckHead bs
    let es := ckExtents bs
    let rank := ((s.part p).led.map fun l => ldRank l.desc.toNat).getD 0
    let fp := ((s.part p).led.map (·.fingerprint)).getD 0
    let head := manifestHead c.toNat rank (ckCount h) fp
    if ckStaged h then
      let offs := stageOffsets es (ckStage h)
      let r := (es.zip offs).foldl (fun (acc : List Nat × State) (e : Nat × Nat) =>
        let q := acc.2.stageExtent j.tenant e.1 e.2
        (acc.1 ++ [q.1], q.2)) ([], s)
      match r.1.findIdx? (· != 0) with
      | some i =>
        let s := (r.2.ckptState p 0).ckptOutcome p (some i)
        s.tellCut j.jobId true
      | none =>
        let s := (r.2.modCkpt p fun k => { k with drain := some (j.tenant, j.jobId, bs, head) }).ckptState p 4
        let s := es.foldl (fun s e => s.emit (.rdma (ceQp e) (ceRemote e) (ceRkey e) (ceLen e) true)) s
        s.tellDm "CUT_COPIED" [j.jobId.toNat, s.self.toNat]
    else
      let codes := s.sendCodes j.tenant es (es.map ceSrc) wire
      let s := es.foldl (fun s e => s.meet j.tenant (ceSrc e) (ceLen e)) s
      let s := es.foldl (fun s e => s.emit (.rdma (ceQp e) (ceRemote e) (ceRkey e) (ceLen e) true)) s
      let s := s.tellDm "CUT_COPIED" [j.jobId.toNat, s.self.toNat]
      (s.ckptState p 0).finishCut p j.tenant j.jobId bs head (es.map ceSrc) codes

def execCheckpointCut (p : Fin 8) (wire : List (BitVec 8)) (s : State) : Host.Outcome State Fault Refusal :=
  let x := s.part p.val
  match x.job with
  | none => .next s
  | some j =>
    let due := x.jobOn && x.action == 5 && x.ckpt.cutStep == some x.closing && x.ckpt.drain.isNone && !x.abandoned &&
      s.flt.run.isNone && !s.halted && !s.flt.memReset && !(s.kal.krots.any fun k => s.partOf k.tile == p.val)
    .next (if due then s.cut p.val j wire else s)

/-- The release: the first frame of the next step dispatches at the next tick. -/
def execCutRelease (jobId : Word) (s : State) : Host.Outcome State Fault Refusal :=
  .next ((s.partsOfJob jobId).foldl (fun s p => s.modCkpt p fun k => { k with releaseWait := false }) s)

/-- A staged drain has ended: the manifest, and the report. It survives a compute-domain reset, and the end of its job. -/
def execCutDrainDone (p : Fin 8) (wire : List (BitVec 8)) (s : State) : Host.Outcome State Fault Refusal :=
  match (s.part p.val).ckpt.drain with
  | some (v, jobId, bs, head) =>
    let es := ckExtents bs
    let at' := stageOffsets es (ckStage (ckHead bs))
    let codes := s.sendCodes v es at' wire
    let s := (es.zip at').foldl (fun s e => s.meet v e.2 (ceLen e.1)) s
    let s := (s.modCkpt p.val fun k => { k with drain := none }).ckptState p.val 0
    .next (s.finishCut p.val v jobId bs head at' codes)
  | none => .next s

/-! ### A restore (R355) -/

/-- At a LAUNCH: a descriptor with RESTORE begins a restore, or refuses it with its DETAIL. -/
def State.beginRestore (s : State) (p : Nat) (j : Job) (fp : BitVec 256) : Except Nat (Option State) :=
  if s.ckptAddr p = 0 then .ok none else
  match s.readCkpt p j.tenant with
  | none => .ok none
  | some bs =>
    if !ckRestore (ckHead bs) then .ok none else
    match s.ckptCheck p j.tenant true with
    | .error i => .error i
    | .ok bs =>
      let es := ckExtents bs
      match s.tenBytes j.tenant (ckManifest (ckHead bs)) 64 with
      | none => .error 0
      | some m =>
        let w := bytesToNat m
        if fld w 39 0 != j.startStep.toNat then .error 0
        else if fld w 383 128 != fp.toNat then .error 0xFFFF
        else .ok (some ((es.foldl (fun s e => s.emit (.rdma (ceQp e) (ceRemote e) (ceRkey e) (ceLen e) false)) s).ckptState p 5))

/-- Write the extents that arrived. -/
def State.restoreExtents (s : State) (v : Nat) (es : List Nat) (wire : List WireResult) : State :=
  (es.zip wire).foldl (fun s (e : Nat × WireResult) => match e.2 with
    | .data b => (s.writeTen v (ceSrc e.1) (b.take (ceLen e.1))).2
    | .failed => s) s

/-- The extents have been read: each digest against the manifest's; the first that fails refuses the LAUNCH. -/
def execRestoreDone (p : Fin 8) (wire : List WireResult) (s : State) : Host.Outcome State Fault Refusal :=
  match (s.part p.val).job with
  | none => .next s
  | some j =>
    if !j.restoring then .next s else
    let read := s.readCkpt p.val j.tenant
    let s := s.meetCkpt p.val j.tenant
    match read with
    | none =>
      let s := ((s.ckptState p.val 0).ckptOutcome p.val (some 0)).endRecord p.val 0x34 0
      .next (s.finishJob p.val 0x34 { j with endDetail := 0 })
    | some bs =>
      let es := ckExtents bs
      let h := ckHead bs
      let s := (s.restoreExtents j.tenant es wire).meet j.tenant (ckManifest h) (64 + 32 * ckCount h)
      let m := ((s.tenBytes j.tenant (ckManifest h) (64 + 32 * ckCount h)).getD []).drop 64
      let bad := (List.range es.length).find? fun i =>
        let e := es.getD i 0
        match wire[i]? with
        | some (.data b) => decide (b.length != ceLen e) || (digestOf b).toNat != bytesToNat ((m.drop (32 * i)).take 16)
        | _ => true
      match bad with
      | some i =>
        let s := ((s.ckptState p.val 0).ckptOutcome p.val (some i)).endRecord p.val 0x34 i
        .next (s.finishJob p.val 0x34 { j with endDetail := i })
      | none =>
        let a := s.ckptAddr p.val
        let s := (s.writeTen j.tenant a (natToBytes 4 (setFld (fld h 31 0) 17 17 0))).2
        .next (((s.ckptState p.val 0).ckptOutcome p.val none).modJob p.val fun j => { j with restoring := false })

/-! ### Admission (R357, R358) -/

/-- The tenant of a partition's checkpoint descriptor: its job's, else the lowest tenant that may use the partition and maps
the descriptor (DEDUCED, log 56). -/
def State.ckptTenant (s : State) (p : Nat) : Nat := match (s.part p).job with
  | some j => j.tenant
  | none => ((List.range 512).find? fun v => (s.tenant v).parts.getLsbD p && (s.aptOf v (s.ckptAddr p) 64).isSome).getD 0

/-- A KIND 5 record. -/
def State.admissionRecord (s : State) (p code : Nat) (da : Option (BitVec 40)) : State :=
  s.logEvent { kind := 5, code := code, part := p, tenant := s.ckptTenant p, addr := da.map fun a => (3, a.toNat) }

/-- Every extent that this attempt copied is discarded and zeroed. -/
def State.dropCopied (s : State) (p v : Nat) (es : List Nat) : State :=
  let s := (s.part p).ckpt.copied.foldl (fun s i => let e := es.getD i 0
                                                    (s.writeTen v (ceSrc e) (List.replicate (ceLen e) 0)).2) s
  s.modCkpt p fun k => { k with copied := [] }

/-- An extent of the partner's arrives with its digest; a failure ends the attempt. It is step 5 of an admission (R358; steps 1 to 4,
DESIGN CHOICE, log 201). -/
def execAdmissionCopy (p : Fin 8) (extent : Nat) (data : List Byte) (digest : BitVec 128) (ue : Option (BitVec 40)) (s : State) :
    Host.Outcome State Fault Refusal :=
  let v := s.ckptTenant p.val
  match s.readCkpt p.val v with
  | none => .next s
  | some bs =>
    let es := ckExtents bs
    match es[extent]? with
    | none => .next s
    | some e =>
      if ue.isSome || decide (data.length != ceLen e) || digestOf data != digest then
        let s := { s with flt := { s.flt with admissionUe := ue.getD (BitVec.allOnes 40) } }
        let s := (((s.dropCopied p.val v es).ckptState p.val 0).ckptLast p.val 2 extent).setBit Reg.fltEvent 8
        .next ((s.admissionRecord p.val 0x06 ue).tellDm "ADMISSION_FAILED" [p.val, extent])
      else
        let s := (s.writeTen v (ceSrc e) data).2
        let s := s.modCkpt p.val fun k => { k with copied := dedup (k.copied ++ [extent]) }
        if (s.part p.val).ckpt.copied.length < es.length then .next (s.ckptState p.val 6) else
        let s := ((s.modCkpt p.val fun k => { k with copied := [] }).ckptState p.val 0).ckptLast p.val 1 0
        .next ((s.admissionRecord p.val 0 none).tellDm "ADMITTED" [p.val])

end Sys2Proof.Machine
end

