-- ==== Sys2Proof/Machine/Jobs.lean ====
section
/-!
DEFINITION. Jobs and serving contexts as commands (11 R247, R260-R263, R267, R269; 05 R95; 15 R348, R353): LAUNCH, START,
INVOKE, STOP, CKPT_REQ, the Function Level Reset, the credit recall, ABANDON, the gang pre-emption.
-/

namespace Sys2Proof.Machine

/-! ### The program image (R94, R95) -/

/-- The first failing item of an image, as its byte offset, or its LENGTH and entry points. A header that cannot be read fails at 0, an
entry table that cannot be read at 32 (DESIGN CHOICE, log 177). -/
def State.imageCheck (s : State) (p v a : Nat) (repro : Bool) : Except Nat (Nat × List Word) :=
  let n := s.partSize p
  match s.tenBytes v a 32, s.tenBytes v (a + 32) (4 * n) with
  | none, _ => .error 0
  | some hb, entryBytes =>
    let h := bytesToNat hb
    let len := fld h 95 64
    let pad := ((List.range 16).map (16 + ·)).find? fun i => fld h (8 * i + 7) (8 * i) != 0
    if fld h 31 0 != 0x3346564D then .error 0
    else if fld h 47 32 != 0x0300 then .error 4
    else if fld h 63 48 != n then .error 6
    else if fld h 127 97 != 0 || (bitOf h 96 && !repro) then .error 12
    else match pad, entryBytes with
      | some o, _ => .error o
      | none, none => .error 32
      | none, some eb =>
        let es := natsOf 4 eb
        match es.findIdx? fun e => decide (len ≤ e) || decide (e < 1 + n / 8) with
        | some r => .error (32 + 4 * r)
        | none => .ok (len, es.map (BitVec.ofNat 32))

/-- A tile that failed its self-test: the logical number in bits [5:0] and the physical one in [14:8] of DETAIL
(DESIGN CHOICE, log 54). -/
def State.tileFault (s : State) : Option Nat :=
  ((List.range 64).find? fun t => (s.tile t).bistFailed).map fun t => t + ((s.physTile t).getD 0) * 256

/-- Launches, starts and invocations are held while HALT_N is low, the chip is test-held or in staging mode (R334, R388, R393). -/
def State.startsHeld (s : State) : Bool := !s.mgt.haltN || s.port.testHold || s.staging

/-! ### LAUNCH (R260) -/

/-- The operands of a LAUNCH. -/
structure LaunchArgs where
  jobId : Nat
  image : Nat
  ledger : Nat
  utable : Nat
  seed : Nat
  startStep : Nat
  part : Nat
  repro : Bool
  mv2 : Bool
  save : Nat
  map : Nat

def ExecCmd.launchArgs (c : ExecCmd) : LaunchArgs :=
  let w := c.arg 0x28 64
  { jobId := c.arg 4 32, image := c.arg 8 48, ledger := c.arg 0x10 48, utable := c.arg 0x18 48, seed := c.arg 0x20 64,
    startStep := fld w 39 0, part := fld w 42 40, repro := bitOf w 43, mv2 := bitOf w 44, save := c.arg 0x30 48,
    map := c.arg 0x38 48 }

/-- What an accepted LAUNCH has read. -/
structure LaunchRead where
  len : Nat
  entries : List Word
  table : OuuCopy
  desc : Nat

/-- The job that a LAUNCH registers. -/
def LaunchArgs.job (a : LaunchArgs) (ch : Nat) (index : Word) (v : Nat) (r : LaunchRead) : Job :=
  { jobId := BitVec.ofNat 32 a.jobId, tenant := v, chan := ch, cmdIndex := index, image := a.image, imgLen := r.len,
    entries := r.entries, ledger := a.ledger, utable := a.utable, save := a.save, seed := BitVec.ofNat 64 a.seed,
    startStep := BitVec.ofNat 40 a.startStep, repro := a.repro, mv2 := a.mv2, launchCount := none, lockOk := false,
    restoring := false, preempted := false, resumes := false, leaving := false, ending := none, endDetail := 0,
    lastClosed := none }

/-- A new ledger: WCOUNT goes on from the descriptor (DEDUCED, log 55). -/
def newLedger (addr desc : Nat) : Ledger :=
  { desc := BitVec.ofNat 1024 desc, descAddr := addr, lseq := 0, lastLseq := 0, lost := 0, discarded := 0,
    wcount := BitVec.ofNat 64 (fld desc 959 896), items := [], fingerprint := 0, changed := [], mirrorP := BitVec.allOnes 48,
    divergeStep := BitVec.allOnes 40, replaying := ldReplay desc, replayOff := 0, sourceItems := none, source := none, sourceNext := none,
    unmirrored := false, frozen := false, uncompared := [], partnerDigests := [], ownDigests := [], freezing := none }

/-- Whether a Mirror bundle to a partner is configured and up (R209). -/
def State.mirrorUp (s : State) (partner : Nat) : Bool :=
  s.net.bundles.any fun e => match e.2 with
    | some b => b.kind == 2 && b.far == partner &&
        (List.range 36).any fun l => (s.link l).bundle.toNat == e.1 && (s.link l).state == .up
    | none => false

/-- The addresses and the partition of a LAUNCH: STATUS and DETAIL of the first that fails. -/
def State.launchOperands (s : State) (ch v : Nat) (a : LaunchArgs) : Option (Nat × Nat) :=
  (([(!s.hasPart a.part, stBadOperand, 0x2D), (!(s.tenant v).parts.getLsbD a.part, stNotOwner, 0x2D),
     (a.image % 32 != 0, stBadOperand, 0x08), (!a.mv2 && a.map != 0, stBadOperand, 0x38),
     (!s.named ch a.image 32 false, stAperture, 0x08), (!s.named ch a.ledger 128 false, stAperture, 0x10),
     (!s.named ch a.utable 0x240 false, stAperture, 0x18), (!s.named ch a.save 1 true, stAperture, 0x30),
     (a.mv2 && !s.named ch a.map 32 false, stAperture, 0x38)] : List (Bool × Nat × Nat)).find? (·.1)).map (·.2)

/-- The refusals of R260 that need no fingerprint, in its order. -/
def State.launchCheck (s : State) (v : Nat) (a : LaunchArgs) : Except (Nat × Nat) LaunchRead :=
  let p := a.part
  if (s.part p).job.isSome || (s.part p).frozen then .error (stPartBusy, 0) else
  match s.tileFault with
  | some d => .error (0x11, d)
  | none =>
    match s.imageCheck p v a.image a.repro with
    | .error o => .error (0x10, o)
    | .ok (len, entries) =>
      match s.tableCheck v a.utable with
      | .error o => .error (0x12, o)
      | .ok t =>
        match s.tenBytes v a.ledger 128 with
        | none => .error (0x14, 0)
        | some db =>
          let d := bytesToNat db
          match s.ledgerCheck p v a.ledger d with
          | some o => .error (0x14, o)
          | none =>
            if ldReplay d && !a.repro then .error (0x15, 0)
            else if a.mv2 && (s.tenBytes v a.map 32).map bytesToNat != some (hash256 ((List.range 9).flatMap fun k =>
                natToBytes 4 (s.physRoleReg k).toNat)).toNat then .error (0x16, 0)
            else if (a.repro || a.mv2) && !s.rdBit Reg.prmPartStatus p then .error (0x17, 0)
            else .ok { len := len, entries := entries, table := t, desc := d }

/-- The refusals that follow once the items are known, and the start of a restore. -/
def State.launchLast (s : State) (p : Nat) (a : LaunchArgs) (j : Job) (l : Ledger) : Except (Nat × Nat) (Bool × State) :=
  let d := l.desc.toNat
  let source := if ldReplayBytes d < 768 then none else s.tenBytes j.tenant (ldReplayBase d) 768
  let differs : Option Nat := match source with
    | none => some 0
    | some r => if recKind r != 1 || fld (recHead r) 15 0 != 0x4C47 then some 0 else itemsDiffer a.mv2 l.items r
  match (if ldReplay d then differs else none) with
  | some i => .error (0x1A, i)
  | none =>
    if ldMirror d && !a.repro then .error (0x18, 0)
    else if ldMirror d && !s.mirrorUp (ldPartner d) then .error (0x19, 0)
    else if s.clock.wrappedSeeds.contains j.seed then .error (0x1B, a.seed % 2 ^ 32)
    else match s.beginRestore p j l.fingerprint with
      | .error i => .error (0x34, i)
      | .ok none => .ok (false, s)
      | .ok (some s) => .ok (true, s)

/-- SEQ and SSEQ are 0 at a job's launch (R123), for each pair of a group and launcher but those that another partition with a job of
the tenant uses. -/
def State.clearSeqs (s : State) (p v : Nat) : State :=
  let mine := fun (k : Nat) =>
    let q := Sparse.get 8 s.prism.users k
    q == p || (gTenant (s.groupEntry (k / 65)) == v && !(s.part q).job.any (·.tenant == v))
  { s with prism := { s.prism with seqs := s.prism.seqs.filter fun e => !mine e.1,
                                   sseqs := s.prism.sseqs.filter fun e => !mine e.1 } }

/-- The partition takes the job: the OUU's copy and table address, its counters, the ledger. -/
def State.placeJob (s : State) (p : Nat) (a : LaunchArgs) (j : Job) (t : OuuCopy) (l : Ledger) : State :=
  let s := (s.wr (Reg.ouuTblLo p) (BitVec.ofNat 32 a.utable)).wr (Reg.ouuTblHi p) (BitVec.ofNat 32 (a.utable / 2 ^ 32))
  let s := (s.wr (Reg.ouuSkipCnt p) 0).wr (Reg.ouuClipCnt p) 0
  let s := s.modPart p fun x => { x with
    job := some j, led := some l, ouu := some t, step := j.startStep, closing := 0, action := 0, boundaryFrame := 0, dueCause := none,
    slips := [], decisions := [], byCause := [], slipOvf := false, decOvf := false, loupes := [], norm := none,
    lastStepDefer := false, abandoned := false, jobHalted := false, held := false, holdActivation := false, stepTicks := 0, stepLost := 0,
    ckpt := { x.ckpt with cutStep := none, releaseWait := false, bytesCut := 0 } }
  (s.clearSeqs p j.tenant).clearLoupe p

/-- Item digests over the placed job. -/
def State.withItems (s : State) (p : Nat) (j : Job) : State :=
  s.modLed p fun l =>
    let items := (List.range 16).map fun i => s.itemDigest p j l.desc.toNat i
    { l with items := items, fingerprint := fingerprintOf items }

/-- What the reads of an image leave beside it (R221, R223). -/
def State.meetImage (s : State) (p v a : Nat) : State := (s.meet v a 32).meet v (a + 32) (4 * s.partSize p)

/-- What the reads of a LAUNCH's checks leave, as far as they went: the image, the update table, the ledger descriptor, the map. -/
def State.meetLaunch (s : State) (v : Nat) (a : LaunchArgs) (code : Option Nat) : State :=
  if code = some stPartBusy || code = some 0x11 then s else
  let s := s.meetImage a.part v a.image
  if code = some 0x10 then s else
  let s := s.tableReads v a.utable
  if code = some 0x12 then s else
  let s := s.meet v a.ledger 128
  if a.mv2 && code != some 0x14 && code != some 0x15 then s.meet v a.map 32 else s

def State.launchJob (s : State) (c : ExecCmd) : State :=
  let v := cTenant (s.chEntry c.chan)
  let a := c.launchArgs
  let p := a.part
  let refuse := fun (s : State) (e : Nat × Nat) => s.complete c.chan c.index e.1 e.2 0
  match s.launchOperands c.chan v a with
  | some e => refuse s e
  | none =>
    let read := s.launchCheck v a
    let s := s.meetLaunch v a (match read with
      | .error e => some e.1
      | .ok _ => none)
    match read with
    | .error e => refuse (if e.1 = 0x12 then s.wrFld (Reg.ouuPstat p) 31 8 e.2 else s) e
    | .ok r =>
      let j := a.job c.chan c.index v r
      let placed := (s.placeJob p a j r.table (newLedger a.ledger r.desc)).withItems p j
      match (placed.part p).led with
      | none => s
      | some l =>
        let s := if ldReplay l.desc.toNat then s.meet v (ldReplayBase l.desc.toNat) 768 else s
        match placed.launchLast p a j l with
        | .error e => refuse s e
        | .ok (restoring, s) =>
          let s := (s.modJob p fun j => { j with restoring := restoring }).itemsRecord p 1 a.startStep
          let s := s.modLed p fun l => { l with replayOff := 768 }
          let s := s.loadSource p a.startStep
          s.tellDm "REGISTER" [a.jobId, s.self.toNat, b2n a.repro, utStepFrames (s.ouuHeader p)]

def execLaunch (ch : Fin 262144) (index : Word) (s : State) : Host.Outcome State Fault Refusal :=
  .next (if s.startsHeld then s else (s.runCmd ch.val index 0x02 fun c s => s.launchJob c).retryBells)

/-! ### START, INVOKE, STOP (R261, R263) -/

/-- Where the ticks of a START begin: at a count that is past, or zero, the next 1,024-count boundary 1 ms ahead. -/
def State.startCount (s : State) (count : Nat) : Nat :=
  if s.now.toNat < count then count else (s.now.toNat + 1000000 + 1023) / 1024 * 1024

def State.startContext (s : State) (c : ExecCmd) : State :=
  let v := cTenant (s.chEntry c.chan)
  let p := c.arg 0x30 3
  let image := c.arg 8 48
  let save := c.arg 0x10 48
  let keep := c.arg 0x18 25
  let fin := fun (s : State) (e : Nat × Nat) => s.complete c.chan c.index e.1 e.2 0
  let checks : List (Bool × Nat × Nat) :=
    [(!s.hasPart p, stBadOperand, 0x30), (!(s.tenant v).parts.getLsbD p, stNotOwner, 0x30), (image % 32 != 0, stBadOperand, 0x08),
     (!s.named c.chan image 32 false, stAperture, 0x08), (!s.named c.chan save 1 true, stAperture, 0x10),
     (keep % 8192 != 0 || decide (25165824 < keep), stBadOperand, 0x18),
     (!s.saveOk v save (s.partSize p * saveBytes), stBadOperand, 0x10), ((s.context v p).isSome, stBadOperand, 0x30)]
  match checks.find? (·.1) with
  | some e => fin s e.2
  | none =>
    match s.tileFault with
    | some d => fin s (0x11, d)
    | none =>
      let read := s.imageCheck p v image (s.part p).repro
      let s := s.meetImage p v image
      match read with
      | .error o => fin s (0x10, o)
      | .ok (len, entries) =>
        let new : Context :=
          { jobId := BitVec.ofNat 32 (c.arg 4 32), image := image, imgLen := len, entries := entries, save := save, lsKeep := keep,
            seed := BitVec.ofNat 64 (c.arg 0x20 64), step := 0, queued := [], running := none, ending := none, rrChan := 0,
            rrLeft := 0 }
        let s := s.setContext v p (some new)
        let s := if (s.part p).running || (s.part p).startAt.isSome then s
          else s.modPart p fun x => { x with startAt := some (BitVec.ofNat 64 (s.startCount (c.arg 0x28 64))) }
        fin s (stOk, 0)

/-- Under a pending reform, a START that would start ticks on an idle partition is held (R37). -/
def execStart (ch : Fin 262144) (index : Word) (s : State) : Host.Outcome State Fault Refusal :=
  let idle := fun (c : ExecCmd) => let x := s.part (c.arg 0x30 3)
                                   !x.running && x.startAt.isNone
  let held := s.startsHeld || (s.clock.reformHold && (s.cmd ch.val index).any idle)
  .next (if held then s else (s.runCmd ch.val index 0x03 fun c s => s.startContext c).retryBells)

/-- An INVOKE joins the queue of its tenant's context on the channel's partition. -/
def execInvoke (ch : Fin 262144) (index : Word) (s : State) : Host.Outcome State Fault Refusal :=
  .next (if s.startsHeld then s else (s.runCmd ch.val index 0x04 fun c s =>
    let e := s.chEntry c.chan
    let v := cTenant e
    match s.context v (cPart e) with
    | some x =>
      if x.ending.isSome then s.complete c.chan c.index stBadOperand 0 0 else
      s.setContext v (cPart e) (some { x with queued := x.queued ++
        [{ chan := c.chan, index := c.index, arg := BitVec.ofNat 64 (c.arg 8 64), frames := 0, started := false,
           preempted := false }] })
    | none => s.complete c.chan c.index stBadOperand 0 0).retryBells)

/-- STOP marks its context or job; the next frame boundary ends it, at once where no frame of it can be open. -/
def execStop (ch : Fin 262144) (index : Word) (s : State) : Host.Outcome State Fault Refusal :=
  .next (s.runCmd ch.val index 0x05 fun c s =>
    let v := cTenant (s.chEntry c.chan)
    let p := c.arg 0x30 3
    let fin := fun (e : Nat × Nat) => s.complete c.chan c.index e.1 e.2 0
    if c.arg 0x31 1 = 0 then
      match s.context v p with
      | none => fin (stBadOperand, 0x30)
      | some x =>
        let s := s.setContext v p (some { x with ending := some (c.chan, c.index) })
        if (s.part p).running then s else s.endContext v p stStopped
    else match (s.part p).job with
      | none => fin (stBadOperand, 0x30)
      | some j =>
        if v != 0 && v != j.tenant then fin (stNotOwner, 0x30) else
        let s := s.modJob p fun j => { j with ending := some (j.ending.getD 0x0A) }
        if (s.part p).jobActive then s else s.endJob p).retryBells

/-! ### The domain manager's checkpoint requests (R353) -/

def State.isDm (s : State) : Bool := s.rdBit Reg.mgtStatus 18
def State.dmJob (s : State) (jobId : Word) : Option DmJob := s.mgt.jobs.find? (·.jobId == jobId)
def State.modDm (s : State) (jobId : Word) (f : DmJob → DmJob) : State :=
  { s with mgt := { s.mgt with jobs := s.mgt.jobs.map fun d => if d.jobId == jobId then f d else d } }

/-- A message to every worker of a job. -/
def State.tellWorkers (s : State) (d : DmJob) (kind : String) (args : List Nat) : State :=
  d.workers.foldl (fun s c => s.emit (.toChip c kind args)) s

/-- The first step of a job whose boundary agreement has not opened, as this worker of it knows. -/
def State.cutStepOf (s : State) (jobId : Word) : BitVec 40 := match s.partsOfJob jobId with
  | p :: _ => (s.part p).step
  | [] => 0

/-- A checkpoint request at the domain manager: a new cut, a pending one, or the one after a drain. -/
def State.requestCut (s : State) (d : DmJob) (req : List (Nat × Word)) (preempt : Bool) : State :=
  match d.cutStep with
  | some _ =>
    if d.workers.all d.cutReports.contains then
      s.modDm d.jobId fun d => { d with cutAgain := true, nextReq := d.nextReq ++ req, preemptAfter := d.preemptAfter || preempt }
    else s.modDm d.jobId fun d => { d with requesters := d.requesters ++ req, preemptAfter := d.preemptAfter || preempt }
  | none =>
    let c := s.cutStepOf d.jobId
    let s := s.modDm d.jobId fun d => { d with cutStep := some c, cutAgain := false, cutReports := [], cutDone := [],
                                               cutFailed := none, requesters := req, nextReq := [], preemptAfter := preempt }
    s.tellWorkers d "CUT" [d.jobId.toNat, c.toNat]

def execCkptReq (ch : Fin 262144) (index : Word) (s : State) : Host.Outcome State Fault Refusal :=
  .next (s.runCmd ch.val index 0x0A fun c s =>
    let v := cTenant (s.chEntry c.chan)
    let jobId := BitVec.ofNat 32 (c.arg 4 32)
    let preempt := c.arg 8 1 == 1
    if preempt && v != 0 then s.complete c.chan c.index stNotOwner 8 0 else
    if !s.isDm then s.tellDm "CKPT_REQ" [jobId.toNat, b2n preempt] else
    match s.dmJob jobId with
    | none => s.complete c.chan c.index 0x34 0 0
    | some d =>
      if (s.partsOfJob jobId).any fun p => s.ckptAddr p == 0 then s.complete c.chan c.index 0x34 s.self.toNat 0
      else s.requestCut d [(c.chan, c.index)] preempt).retryBells

/-- The end of a cut at the domain manager: its requests complete; a request that came during the drain is served. -/
def State.endCut (s : State) (d : DmJob) : State :=
  let s := d.requesters.foldl (fun s q => match d.cutFailed with
    | some c => s.complete q.1 q.2 0x34 c.toNat 0
    | none => s.complete q.1 q.2 stOk 0 0) s
  let s := s.retryBells
  let s := s.modDm d.jobId fun d => { d with cutStep := none, cutAgain := false, requesters := [], nextReq := [], cutReports := [],
                                             cutDone := [], cutFailed := none, preemptAfter := false }
  match s.dmJob d.jobId with
  | some e => if d.cutAgain then s.requestCut e d.nextReq d.preemptAfter else s
  | none => s

/-- A worker's report in a cut. On another chip than the domain manager it stands for the domain manager's answer to a CKPT_REQ
in execution here (DEDUCED, log 58). -/
def execCutReport (jobId : Word) (chip : ChipId) (stage : CutStage) (s : State) : Host.Outcome State Fault Refusal :=
  if !s.isDm then
    let mine := s.chan.cmds.filter fun c => c.opc == 0x0A && c.started && c.status.isNone && c.arg 4 32 == jobId.toNat
    .next (match stage with
      | .copied => s
      | .done => (mine.foldl (fun s c => s.complete c.chan c.index stOk 0 0) s).retryBells
      | .failed => (mine.foldl (fun s c => s.complete c.chan c.index 0x34 chip.toNat 0) s).retryBells)
  else match s.dmJob jobId with
  | none => .next s
  | some d =>
    if d.cutStep.isNone || !d.workers.contains chip then .next s else
    let was := d.workers.all d.cutReports.contains
    let d := { d with cutReports := if d.cutReports.contains chip then d.cutReports else d.cutReports ++ [chip] }
    let d := if stage = .copied then d
      else { d with cutDone := if d.cutDone.contains chip then d.cutDone else d.cutDone ++ [chip],
                    cutFailed := if stage = .failed && d.cutFailed.isNone then some chip else d.cutFailed }
    let s := s.modDm jobId fun _ => d
    let s := if !was && d.workers.all d.cutReports.contains then
        let s := s.tellWorkers d "RELEASE" [jobId.toNat]
        if d.preemptAfter && !d.cutAgain then s.tellWorkers d "PREEMPT" [jobId.toNat] else s
      else s
    .next (if d.workers.all d.cutDone.contains then s.endCut d else s)

/-! ### Abandonment and pre-emption (R348, R267) -/

/-- ABANDON: no further frame of the job dispatches; with its SPAN operations done the job ends with STOPPED. -/
def execAbandon (jobId : Word) (cause : ChipId) (s : State) : Host.Outcome State Fault Refusal :=
  .next ((s.partsOfJob jobId).foldl (fun s p =>
    let x := s.part p
    let open' := x.stepOpen || (decide (0 < x.action) && decide (x.action < 5))
    let s := s.modPart p fun x => { x with
      abandoned := x.jobOn && open', ckpt := { x.ckpt with cutStep := none, releaseWait := false },
      job := x.job.map fun j => { j with ending := some 0x0A, endDetail := cause.toNat } }
    let s := s.mapTiles p fun x => { x with waiting := false }
    s.endJob p) s)

/-- A gang pre-emption at a step boundary, after any cut and after the flip words due at it, which frame ALLOT + 1 writes (R293):
every tile is saved, the job waits for a new launch count. -/
def execGangPreemption (jobId : Word) (s : State) : Host.Outcome State Fault Refusal :=
  .next ((s.partsOfJob jobId).foldl (fun s p =>
    let s := (s.advanceBoundary p).writeFlips p
    let x := s.part p
    match x.job with
    | none => s
    | some j =>
      if (decide (x.boundaryFrame < s.flipFrame p) && (s.dueFlips p).any fun e => e.2 == j.tenant) then s
      else if !x.jobOn || x.stepOpen || x.action < 6 || x.ending || !s.quiet p || (s.kal.krots.any fun k => s.partOf k.tile == p) then s
      else
        let s := (s.saveAll p j.tenant j.save).charge j.chan j.cmdIndex 1 1
        let s := s.mapTiles p fun x => { x with waiting := false, lostWaiting := 0 }
        (s.recallCredits p j.tenant).modPart p fun x => { x with
          onTiles := none, action := 0, boundaryFrame := 0, dueCause := none,
          job := some { j with preempted := true, resumes := true, lockOk := false, launchCount := none } }) s)

/-! ### The Function Level Reset (R247, R282) -/

/-- A Function Level Reset of one function. -/
def State.flr (s : State) (v : Nat) : State :=
  let chs := (s.chan.chans.filter fun e => cTenant e.2.toNat == v && chState e.2.toNat != 0).map (·.1)
  let s := chs.foldl (fun s ch => s.setCh ch (withState (s.chEntry ch) 0)) s
  let s := { s with
    chan := { s.chan with cmds := s.chan.cmds.filter (fun c => !chs.contains c.chan),
                          bells := s.chan.bells.filter (fun e => !chs.contains e.1),
                          cache := s.chan.cache.filter (fun c => !chs.contains c) },
    ing := { s.ing with fetches := s.ing.fetches.filter fun f => !chs.contains f.chan } }
  let s := s.aptSettle.retryBells
  let s := (List.range 8).foldl (fun s p => match s.context v p with
    | none => s
    | some c =>
      let s := s.setContext v p (some { c with ending := some (0, 0), queued := [] })
      if (s.part p).running then s else s.endContext v p stStopped) s
  let s := (List.range 8).foldl (fun s p => match (s.part p).job with
    | none => s
    | some j =>
      if j.tenant != v then s else
      let s := (s.modJob p fun j => { j with leaving := true }).emit (.report .workerLeft j.jobId 0)
      if (s.part p).jobActive then s else (s.modJob p fun j => { j with ending := some 0x0A, restoring := false }).endJob p) s
  let x := s.tenant v
  let s := { s with chan := { s.chan with sems := Sparse.clear s.chan.sems x.semBase x.semCnt } }
  (s.clearKey (2 * v)).clearKey (2 * v + 1)

/-- An FLR of a function resets the host domain of it: its record, and LAST (R340, R342). -/
def execFlr (fn : Fin 512) (s : State) : Host.Outcome State Fault Refusal :=
  let s := (s.logEvent { kind := 2, source := (Config.resetSource 8).toNat, action := 5, tenant := fn.val }).wrFld Reg.fltStatus 10 8 5
  .next (if fn.val = 0 then (List.range 512).foldl State.flr s else s.flr fn.val)

end Sys2Proof.Machine
end

