-- ==== Sys2Proof/Machine/Time.lean ====
section
/-!
DEFINITION. Domain time (02 R21-R24, R36): the time-transfer exchange, lock and holdover.
-/

namespace Sys2Proof.Machine

/-- The offset of an exchange, corrected for the link's fixed difference between its directions (R22). Half a nanosecond is
rounded down (DESIGN CHOICE, log 59). -/
def exchangeOffset (t1 t2 t3 t4 : Dword) (correction : Int) : Int :=
  (((t2.toNat : Int) - t1.toNat) - ((t4.toNat : Int) - t3.toNat)) / 2 + correction

/-- The GTC is set by a signed amount; STEPPED shows it. -/
def State.stepGtc (s : State) (offset : Int) : State :=
  let g := BitVec.ofInt 64 ((s.now.toNat : Int) + offset)
  ({ s with clock := { s.clock with gtc := g } }).setBit Reg.shtSyncStatus 3

/-- OFFSET: two's complement, saturating at ±32,767. -/
def offsetField (o : Int) : Nat := (BitVec.ofInt 16 (max (-32767) (min 32767 o))).toNat

/-- One exchange (R22-R24). SYNC_LOST is set at exactly the third large offset in a row; further ones in the same row set and
report nothing (DESIGN CHOICE, log 160). A joining chip without frames steps; so does one that missed a reform, whose offset is near 2^64
(R37; "near" is at least 2^62, DESIGN CHOICE, log 60). Every other offset is slewed away. -/
def execTimeExchange (t1 t2 t3 t4 : Dword) (correction : Int) (s : State) : Host.Outcome State Fault Refusal :=
  if !s.rdBit Reg.shtSyncCfg 0 || s.syncLevel = 0 || !s.rdBit Reg.mgtStatus 16 then .next s else
  let s := s.reach t4.toNat
  let o := exchangeOffset t1 t2 t3 t4 correction
  let size := o.natAbs
  let first := !s.clock.joined
  let steps := !s.anyRunning && (first || decide (2 ^ 62 ≤ size))
  let level := if s.rdFld Reg.mgtParent 13 0 = s.dmChip.toNat then 1 else 2
  let s := (s.wrFld Reg.shtSyncStatus 31 16 (offsetField o)).clrBit Reg.shtSyncStatus 1
  let s := s.wrFld Reg.shtSyncStatus 5 4 level
  let s := s.putBit Reg.shtSyncStatus 0 (decide (size ≤ 2))
  let bound := 4 * s.rdFld Reg.shtSyncCfg 7 4
  let large := if bound < size && !steps then s.clock.largeOffsets + 1 else 0
  let s := if steps then s.stepGtc o else s
  let s := { s with clock := { s.clock with
      reformHold := s.clock.reformHold && !(steps && decide (2 ^ 62 ≤ size)),
      reformAt := if steps && decide (2 ^ 62 ≤ size) then none else s.clock.reformAt,
      joined := true, largeOffsets := large, lastExchange := s.now, slewLeft := if steps then 0 else o, slewAcc := 0 } }
  .next (if large = 3 then
      ((s.setBit Reg.shtSyncStatus 2).clrBit Reg.shtSyncStatus 0).tellDm "SYNC_LOST" [s.self.toNat]
    else s)

/-- Holdover: the last rate is kept, HOLDOVER is set and reported (R24). -/
def State.holdOver (s : State) : State := (s.setBit Reg.shtSyncStatus 1).tellDm "HOLDOVER" [s.self.toNat]

/-- HOLD_MS milliseconds have passed without an exchange. -/
def execHoldover (s : State) : Host.Outcome State Fault Refusal :=
  if s.syncLevel = 0 || s.rdBit Reg.shtSyncStatus 1 then .next s else
  .next (s.reach (s.clock.lastExchange.toNat + s.rdFld Reg.shtSyncCfg 15 8 * 1000000)).holdOver

end Sys2Proof.Machine
end

