-- ==== Sys2Proof/Machine/Flits.lean ====
section
/-!
DEFINITION. The sending side of a Galinoc link and the merge of a bundle's links (13 R305-R311, 11 R269): bundles and routes, the
packets and data flits of what the engines send, credits, the replay buffer, the recall. Messages leave as flits when a link next
acts (DESIGN CHOICE, log 193); what a packet holds behind its header is free, since the receiving engine alone interprets it.
-/

namespace Sys2Proof.Machine

/-! ### Bundles (R299, R311, R327) -/

/-- A link that the image gives a bundle or the Ethernet personality. -/
def Link.configured (x : Link) : Bool := x.ethernet || x.bundle != 0x3F

def State.bundle (s : State) (b : Nat) : Option BundleCfg := Sparse.get none s.net.bundles b

/-- The chip that a NEIGHBOUR bundle's slot, or a MIRROR bundle, names. -/
def State.bundleFar (s : State) (c : BundleCfg) : Nat :=
  if c.kind = 0 then s.rdFld Reg.mgtCoord 9 0 * 16 + c.far else c.far

def State.bundleLinks (s : State) (b : Nat) : List Nat :=
  (List.range 36).filter fun l => !(s.link l).ethernet && (s.link l).bundle.toNat == b

def State.upLinks (s : State) (b : Nat) : List Nat := (s.bundleLinks b).filter fun l => (s.link l).state == .up

def State.bundleUp (s : State) (b : Nat) : Bool := (s.bundleLinks b).any fun l => (s.link l).state == .up

/-- The UP bundle of a kind whose far end passes a test, lowest first. -/
def State.bundleTo (s : State) (kind : Nat) (far : Nat → Bool) : Option Nat :=
  (List.range 36).find? fun b => s.bundleUp b && (s.bundle b).any fun c => c.kind.toNat == kind && far (s.bundleFar c)

/-- The bundle of VL0 and VL3-VL7 toward a chip: its NEIGHBOUR bundle while UP, else an UP SWITCH bundle, the lowest (R311). -/
def State.routeTo (s : State) (dst : Nat) : Option Nat := (s.bundleTo 0 (· == dst)).or (s.bundleTo 1 fun _ => true)

/-! ### Credits of a sender (R307, R308) -/

/-- Keys of `Link.credits`: the lanes VL0-VL2 by number, the shared pool of VL3-VL7 at 3 (R308). -/
def creditPool : Nat := 3

/-- Credits of one tenant's reserve; RESV outside 4-32 acts as the nearer bound. -/
def State.resv (s : State) : Nat := max 4 (min 32 (s.rdFld Reg.lnkCreditCfg 5 0))

/-- A tenant that is pre-empted injects nothing new on VL3-VL7 (R269). -/
def State.stopped (s : State) (v : Nat) : Bool := (List.range 8).any fun p =>
  (s.part p).job.any (fun j => j.tenant == v && j.preempted) || (s.context v p).any fun c => c.running.any (·.preempted)

/-- A tenant takes a reserve on a link with its first VL3-VL7 flit there; where all 32 are taken RESV_FULL is set. -/
def State.takeReserve (s : State) (l v : Nat) : State :=
  let x := s.link l
  if x.reserves.any (·.tenant == v) then s
  else if x.reserves.length < 32 then s.modLink l fun x => { x with
    reserves := x.reserves ++ [{ tenant := v, last := s.now, left := s.resv }] }
  else s.setBit Reg.lnkEvent 9

/-- The credit that a data flit needs: its lane's, or on VL3-VL7 its tenant's reserve first and then the pool; none to be had, none
is taken. -/
def State.takeCredit (s : State) (l : Nat) (f : DataFlit) : Option State :=
  if f.vl < 3 then
    if Sparse.get 0 (s.link l).credits f.vl = 0 then none
    else some (s.modLink l fun x => { x with credits := Sparse.update 0 x.credits f.vl (· - 1) })
  else if s.stopped f.tenant then none else
    let s := (s.takeReserve l f.tenant).modLink l fun x => { x with
      reserves := x.reserves.map fun r => if r.tenant == f.tenant then { r with last := s.now } else r }
    let x := s.link l
    if x.reserves.any fun r => r.tenant == f.tenant && r.left != 0 then
      some (s.modLink l fun x => { x with
        reserves := x.reserves.map fun r => if r.tenant == f.tenant then { r with left := r.left - 1 } else r
        owed := x.owed ++ [(f.vl, f.tenant, false)] })
    else if Sparse.get 0 x.credits creditPool = 0 then none
    else some (s.modLink l fun x => { x with credits := Sparse.update 0 x.credits creditPool (· - 1)
                                             owed := x.owed ++ [(f.vl, f.tenant, true)] })

/-- One credit of VL3-VL7 comes back: to the pool or to the reserve that the oldest flit of its lane spent. -/
def State.creditBack (s : State) (l vl : Nat) : State :=
  let x := s.link l
  match x.owed.findIdx? (·.1 == vl) with
  | none => s.modLink l fun x => { x with credits := Sparse.update 0 x.credits creditPool (· + 1) }
  | some i =>
    let e := x.owed.getD i (0, 0, false)
    let s := s.modLink l fun x => { x with owed := x.owed.eraseIdx i }
    if e.2.2 then s.modLink l fun x => { x with credits := Sparse.update 0 x.credits creditPool (· + 1) }
    else s.modLink l fun x => { x with
      reserves := x.reserves.map fun r => if r.tenant == e.2.1 then { r with left := min s.resv (r.left + 1) } else r }

/-- CREDITS flits of receive buffer returned on lane CVL. -/
def State.credited (s : State) (l cvl n : Nat) : State :=
  if n = 0 then s else
  let s := s.modLink l fun x => { x with creditsLast := Sparse.set 0 x.creditsLast cvl s.now }
  if cvl < 3 then s.modLink l fun x => { x with credits := Sparse.update 0 x.credits cvl (· + n) }
  else (List.range n).foldl (fun s _ => s.creditBack l cvl) s

/-! ### Sending (R305, R306, R309) -/

/-- Flits of the replay buffer of a link. -/
def replaySize : Nat := 2048

/-- The 256 bytes of a data flit (R305). -/
def flitBytes (f : DataFlit) (seq ack : BitVec 12) : List Byte :=
  let head := natToBytes 8 (packFields [(0, 4, 1), (4, 3, f.vl), (7, 1, b2n f.sop), (8, 1, b2n f.eop), (12, 12, seq.toNat),
    (24, 12, ack.toNat), (52, 4, (f.data.length + 15) / 16)])
  let body := head ++ f.data ++ List.replicate (240 - f.data.length) 0
  body ++ natToBytes 8 (crcA body)

/-- The collective of a flit whose group is scheduled. -/
def State.flitColl (s : State) (f : DataFlit) : Option Coll :=
  f.coll.bind fun id => s.prism.colls.find? fun c => c.id == id && s.scheduled c.part && !c.slots.isEmpty

/-- A scheduled group's flit leaves in the slots that the group owns, of the 64 of its partition's frame (R135). -/
def State.inSlot (s : State) (c : Coll) : Bool :=
  bitOf (s.ownedSlots c) (min 63 ((s.now - (s.part c.part).lastTick).toNat * 64 / max 1 (s.period c.part)))

def State.mayLeave (s : State) (f : DataFlit) : Bool := (s.flitColl f).all s.inSlot

/-- The flit with which the packet under way in a lane goes on: not the first of its packet, and with none of it before. -/
def openFlit : Bool → List (Nat × DataFlit) → Option (Nat × DataFlit)
  | _, [] => none
  | fresh, e :: es => if fresh && !e.2.sop then some e else openFlit e.2.eop es

/-- Where a lane's next flit stands: the packet that it is sending goes on; else its first packet, on VL1 the one in an owned slot of
the group with the lowest index before the rest (R135, R309). -/
def State.laneNext (s : State) (l vl : Nat) : Option (Nat × DataFlit) :=
  let lane := ((s.link l).waiting.zipIdx.map fun e => (e.2, e.1)).filter fun (e : Nat × DataFlit) => e.2.vl == vl
  let heads := lane.filter (·.2.sop)
  let next := match openFlit true lane with
    | some e => some e
    | none =>
      let owned := heads.filterMap fun (e : Nat × DataFlit) => (s.flitColl e.2).bind fun c =>
        if s.inSlot c then some (c.group, e) else none
      match sortBy (fun (a b : Nat × Nat × DataFlit) => decide (a.1 ≤ b.1)) owned with
      | e :: _ => some e.2
      | [] => heads.find? fun (e : Nat × DataFlit) => (s.flitColl e.2).isNone
  next.filter fun (e : Nat × DataFlit) => s.mayLeave e.2

/-- Flits of one turn of a lane (R309). -/
def laneWeight (vl : Nat) : Nat := if vl = 1 || vl = 2 then 4 else if vl = 3 then 2 else 1

/-- The lanes in the order in which a link asks them for its next flit, and which of them would send it in their turn (R309): VL0
within its tenth of 1,024 flits, SEMR within half of that; VL1 in an owned slot; then the turn of the lane that has it, and the
others after it, VL0 above its share among them. -/
def State.laneOrder (s : State) (l : Nat) : List (Nat × Bool) :=
  let x := s.link l
  let share := fun (f : DataFlit) => decide ((x.window.countP (· != 0) + 1) * 10 ≤ 1024) &&
    (!f.semr || decide ((x.window.countP (· == 2) + 1) * 20 ≤ 1024))
  let first := (s.laneNext l 0).any fun e => share e.2
  let slot := (s.laneNext l 1).any fun e => (s.flitColl e.2).isSome
  let turns := (if x.turn.2 = 0 then [] else [x.turn.1]) ++ (List.range 8).map fun i => (x.turn.1 + 1 + i) % 8
  (if first then [(0, false)] else []) ++ (if slot then [(1, false)] else []) ++ turns.map fun vl => (vl, true)

/-- The next data flit of a link: of the first lane in order that has one and a credit for it. -/
def State.pickFlit (s : State) (l : Nat) : Option (Nat × DataFlit × State) :=
  (s.laneOrder l).findSome? fun e => (s.laneNext l e.1).bind fun n => (s.takeCredit l n.2).map fun t =>
    let f := n.2
    (n.1, f, t.modLink l fun x => { x with
      turn := if !e.2 then x.turn
        else if f.vl = x.turn.1 && x.turn.2 != 0 then (f.vl, x.turn.2 - 1) else (f.vl, laneWeight f.vl - 1)
      window := ((if f.vl != 0 then 0 else if f.semr then 2 else 1) :: x.window).take 1023 })

/-- Waiting flits leave while they have credits and the replay buffer, which keeps each until it is acknowledged, has room. `fuel`
bounds their count. -/
def State.sendWaiting (s : State) (l : Nat) : Nat → State
  | 0 => s
  | fuel + 1 =>
    let x := s.link l
    if x.state != .up || x.ethernet || replaySize ≤ x.replay.length then s else
    match s.pickFlit l with
    | none => s
    | some (i, f, s) =>
      let s := (s.pmcLink l 0x81 1).emit (.dataFlit l (flitBytes f x.txSeq (x.rxSeq - 1)))
      State.sendWaiting (s.modLink l fun x => { x with
        waiting := x.waiting.eraseIdx i, replay := x.replay ++ [{ seq := x.txSeq, flit := f }], txSeq := x.txSeq + 1,
        sent := x.sent + 1 }) l fuel

def State.drain (s : State) (l : Nat) : State := s.sendWaiting l (s.link l).waiting.length

/-- The header of Table 13.8 as bytes. -/
def headerBytes (h : PacketHeader) : List Byte :=
  natToBytes 16 (packFields [(0, 14, h.dst.toNat), (16, 14, h.src.toNat), (32, 9, h.tenant.val), (44, 4, h.kind.toNat),
    (48, 16, h.pseq.toNat), (64, 13, h.len.toNat), (96, 32, h.ctx.toNat)])

/-- The data flits of a packet. -/
def packetFlits (vl : Nat) (coll : Option CollId) (h : PacketHeader) (payload : List Byte) : List DataFlit :=
  let cs := chunks 240 (headerBytes h ++ payload)
  cs.mapIdx fun i c => { vl := vl, tenant := h.tenant.val, semr := h.kind == 5, coll := coll, sop := i == 0, eop := i + 1 == cs.length,
                         data := c ++ List.replicate ((16 - c.length % 16) % 16) 0 }

/-- A packet takes its lane's next PSEQ of its bundle, and its link: of a NEIGHBOUR bundle the next in turn, of a SWITCH bundle the one
that a hash of DST and lane names, which is free (R310). -/
def State.sendPacket (s : State) (b vl : Nat) (coll : Option CollId) (h : PacketHeader) (payload : List Byte) : State :=
  let ups := s.upLinks b
  if ups.isEmpty then s else
  let key := b * 8 + vl
  let q := Sparse.get 0 s.net.pseq key
  let turn := if (s.bundle b).any (·.kind == 1) then Config.switchHash h.dst.toNat vl else q.toNat
  let l := ups.getD (turn % ups.length) 0
  let s := { s with net := { s.net with pseq := Sparse.set 0 s.net.pseq key (q + 1) } }
  s.modLink l fun x => { x with
    waiting := x.waiting ++ packetFlits vl coll { h with pseq := q, len := BitVec.ofNat 13 payload.length } payload }

/-- What an engine's message is on the links: its bundle where the spec names it, its lane and its header without PSEQ and LEN. -/
def State.wire (s : State) (o : Out) : Option (Option Nat × Nat × PacketHeader) :=
  let h := fun (dst : ChipId) (tenant kind : Nat) (ctx : Word) =>
    ({ dst := dst, src := s.self, tenant := Fin.ofNat 512 tenant, kind := BitVec.ofNat 4 kind, pseq := 0, len := 0, ctx := ctx } :
      PacketHeader)
  match o with
  | .report _ _ _ => some (s.routeTo s.dmChip.toNat, 0, h s.dmChip 0 0 0)
  | .toChip dst kind _ =>
    some (if kind.startsWith "MIRROR_" then s.bundleTo 2 (· == dst.toNat) else s.routeTo dst.toNat, 0, h dst 0 0 0)
  | .payload dst b id _ _ _ _ =>
    some (some b, 1, h dst (((s.prism.colls.find? (·.id == id)).map fun c => gTenant c.entry).getD 0) 1 id.tag)
  | .ring dst b tag _ kind _ _ =>
    let v := ((List.range 16).find? fun r => rTag (s.ring r) == tag.toNat).elim 0 fun r => rTenant (s.ring r)
    some (if kind = "DATA" then some b else s.routeTo dst.toNat, if kind = "DATA" then 2 else 0, h dst v 2 tag)
  | .semr dst tenant _ _ _ => some (s.routeTo dst.toNat, 0, h dst tenant 5 0)
  | _ => none

/-- A message of an engine leaves as packets of at most 4,096 payload bytes; with no bundle UP it is lost (R311). -/
def State.pack (s : State) (o : Out) : State :=
  match s.wire o with
  | none => s
  | some (b, vl, h) =>
    let coll := match o with
      | .payload _ _ id _ _ _ _ => some id
      | _ => none
    if h.dst == s.self then s else
    match b with
    | none => s
    | some b =>
      let n := s.fresh
      (match chunks 4096 (Config.messageBytes n.1) with
        | [] => [[]]
        | cs => cs).foldl (fun s p => s.sendPacket b vl coll h p) n.2

/-- The engines' messages that have not left yet are packed, and every link sends what it may. -/
def State.sendMessages (s : State) : State :=
  let new := s.out.drop s.net.taken
  let s := new.foldl State.pack s
  let s := ((List.range 36).filter fun l => !(s.link l).waiting.isEmpty).foldl State.drain s
  { s with net := { s.net with taken := s.out.length } }

/-! ### The credit recall (R269) -/

/-- At the second tick after its pre-emption, every shared credit that a tenant still holds returns to the pool; what comes back for it
later counts toward its reserve. -/
def execCreditRecall (p : Fin 8) (tenant : Fin 512) (s : State) : Host.Outcome State Fault Refusal :=
  let due := s.chan.credit.any fun e => e.1 == p.val && e.2.1 == tenant.val && e.2.2 == 0
  if !due then .next s else
  let s := { s with chan := { s.chan with credit := s.chan.credit.filter fun (e : Nat × Nat × Nat) =>
    !(e.1 == p.val && e.2.1 == tenant.val && e.2.2 == 0) } }
  let mine := fun (e : Nat × Nat × Bool) => e.2.1 == tenant.val && e.2.2
  .next (((List.range 36).filter fun l => (s.link l).owed.any mine).foldl (fun s l =>
    (s.modLink l fun x => { x with
      credits := Sparse.update 0 x.credits creditPool (· + x.owed.countP mine)
      owed := x.owed.map fun e => if mine e then (e.1, e.2.1, false) else e }).drain l) s)

/-! ### Receiving packets (R306, R310) -/

/-- The engine that a packet's KIND names; a reserved KIND names none. -/
def State.deliverPacket (s : State) (h : PacketHeader) (payload : List Byte) : State :=
  if h.kind.toNat < 6 then s.emit (.packetTo h.kind.toNat h payload) else s

/-- The packets of a NEIGHBOUR bundle's lane leave in PSEQ order. Each link is in order, so once every UP link of the bundle has brought
a later one the missing PSEQ comes no more, and the oldest that stands there is next. `fuel` bounds the packets held. -/
def State.mergeLane (s : State) (b vl : Nat) : Nat → State
  | 0 => s
  | fuel + 1 =>
    let key := b * 8 + vl
    let m := Sparse.get Merge.reset s.net.merge key
    let put := fun (s : State) (m : Merge) => { s with net := { s.net with merge := Sparse.set Merge.reset s.net.merge key m } }
    let take := fun (k : HeldPacket) =>
      State.mergeLane ((put s { next := k.h.pseq + 1, held := m.held.filter (· != k) }).deliverPacket k.h k.payload) b vl fuel
    match m.held.find? (·.h.pseq == m.next) with
    | some k => take k
    | none =>
      if !(s.upLinks b).all fun l => m.held.any (·.link == l) then s else
      match sortBy (fun (a b : HeldPacket) => decide ((a.h.pseq - m.next).toNat ≤ (b.h.pseq - m.next).toNat)) m.held with
      | k :: _ => take k
      | [] => s

/-- A whole packet has arrived on a link: a NEIGHBOUR bundle's joins its lane's merge, any other goes to its engine. One whose PSEQ has
passed is a copy of one delivered. -/
def State.packetIn (s : State) (l vl : Nat) (h : PacketHeader) (payload : List Byte) : State :=
  let b := (s.link l).bundle.toNat
  if !(s.bundle b).any (·.kind == 0) then s.deliverPacket h payload else
  let key := b * 8 + vl
  let m := Sparse.get Merge.reset s.net.merge key
  if h.pseq != m.next && !serialNewer 16 h.pseq.toNat m.next.toNat then s else
  let held := m.held ++ [{ link := l, h := h, payload := payload }]
  { s with net := { s.net with merge := Sparse.set Merge.reset s.net.merge key { m with held := held } } }.mergeLane b vl held.length

/-- A bundle with no UP link left: its lanes start again at PSEQ 0, and the packets that it held are lost. -/
def State.clearLanes (s : State) (b : Nat) : State :=
  let keep := fun (k : Nat) => k / 8 != b
  { s with net := { s.net with pseq := s.net.pseq.filter fun e => keep e.1, merge := s.net.merge.filter fun e => keep e.1 } }

end Sys2Proof.Machine
end

