-- ==== Sys2Proof/Machine/Links.lean ====
section
/-!
DEFINITION. The optical links (13): wavelengths and the laser module, training, spares and narrowing, the flits received and the
replay, the credit watchdog, the Ethernet personality and its queue pairs.
-/

namespace Sys2Proof.Machine

/-! ### Wavelengths and widths (R300, R303, Table 13.6) -/

/-- The `n` lowest-numbered bits of a 10-bit mask. -/
def lowestBits (mask n : Nat) : Nat := (((List.range 10).filter (bitOf mask)).take n).foldl (fun m i => m + 2 ^ i) 0

/-- The usable wavelengths of a link: not fused out, not marked failed, their lasers not failed. -/
def State.usableLanes (s : State) (l : Nat) : Nat :=
  0x3FF &&& (0x3FF ^^^ (s.fusedLanes l ||| (s.link l).failed.toNat ||| s.net.laserFailed.toNat))

/-- The widest width that n usable wavelengths allow; Ethernet has no 6. -/
def widthFor (ethernet : Bool) (n : Nat) : Nat :=
  if 8 ≤ n then 8 else if 6 ≤ n && !ethernet then 6 else if 4 ≤ n then 4 else if 2 ≤ n then 2 else 0

/-- The Ethernet rate of a link in Gb/s. -/
def State.ethRate (s : State) (l : Nat) : Nat := 200 * popCount 10 (s.link l).activeMap.toNat

/-! ### Bundles (R299, R311, R327) -/

/-- Flits per nanosecond-count of a bundle as its rate in GB/s: 25 for each active wavelength of an UP link. -/
def State.bundleRate (s : State) (b : Nat) : Nat :=
  (s.bundleLinks b).foldl (fun n l => if (s.link l).state == .up || (s.link l).state == .retrain
    then n + 25 * popCount 10 (s.link l).activeMap.toNat else n) 0

/-- The chips whose Prism or Kaleidoscope traffic a bundle carries now. -/
def State.bundlePeers (s : State) (b : Nat) : List ChipId :=
  let cs := s.prism.colls.flatMap fun c => (c.members.filter fun m => m.bundle.toNat == b && m.chip != s.self).map (·.chip)
  let rs := s.kal.krots.flatMap fun k =>
    let e := s.ring k.ring
    (if rSuccBundle e == b then [rSucc e] else []) ++ (if rPredBundle e == b then [rPred e] else [])
  (dedup (cs.map (·.toNat) ++ rs)).map (BitVec.ofNat 14)

/-- The last UP link of a bundle has gone: outstanding packets are lost; the peers are taken as failed, a Mirror half goes
on alone (R311, R213). -/
def State.bundleDown (s : State) (b : Nat) : State :=
  let s := ((s.bundlePeers b).foldl State.peerFails s).clearLanes b
  match s.bundle b with
  | some c => if c.kind != 2 then s else
      (List.range 8).foldl (fun s p =>
        if (s.part p).led.any fun l => ldPartner l.desc.toNat == c.far then s.loseMirror p else s) s
  | none => s

/-- A link leaves UP for a state in which it carries nothing: its replay buffer is discarded; what it had not sent goes to another
UP link of the bundle (DESIGN CHOICE, log 206). -/
def State.dropLink (s : State) (l : Nat) (st : LinkState) : State :=
  let x := s.link l
  let was := x.state == .up || x.state == .retrain
  let s := s.modLink l fun x => { x with state := st, activeMap := 0, replay := [], waiting := [], rx := [], credits := [],
                                         reserves := [], owed := [], laneCe := [], naked := false, replayRow := 0, trainFailedAt := none }
  if !was then s else
  let s := match s.upLinks x.bundle.toNat with
    | k :: _ => if x.ethernet || x.waiting.isEmpty then s else (s.modLink k fun y => { y with waiting := y.waiting ++ x.waiting }).drain k
    | [] => s
  let s := s.setBit Reg.lnkEvent 2
  let s := if !x.ethernet && s.bundleUp x.bundle.toNat then s.tellDm "LINK_NARROWED" [l, 0, s.bundleRate x.bundle.toNat] else s
  if !x.ethernet && x.bundle != 0x3F && !s.bundleUp x.bundle.toNat then s.bundleDown x.bundle.toNat else s

/-- A retrain from step 2: a fabric-domain reset of the link (R342, Table 13.13). -/
def State.retrainLink (s : State) (l : Nat) : State :=
  (s.dropLink l .training).bumpFld (Reg.lnkRetrainCnt l) 15 0 1

/-- A fabric-domain reset of one link (R342). -/
def State.fabricReset (s : State) (l : Nat) : State := (s.retrainLink l).wrFld Reg.fltStatus 10 8 3

/-- LNK_EVENT.WARN with a failure warning. -/
def State.linkWarn (s : State) (source : Nat) : State := (s.setBit Reg.lnkEvent 6).warn source

/-! ### Spares and narrowing (R302-R304) -/

/-- Step 4 of a narrowing retrain, on the wavelengths now usable; with fewer than two the link goes DOWN. Flits not yet
acknowledged go to another UP link of the bundle. -/
def State.narrow (s : State) (l : Nat) : State :=
  let x := s.link l
  let u := s.usableLanes l
  let w := widthFor x.ethernet (popCount 10 u)
  if w = 0 then s.dropLink l .down else
  let again := x.state == .retrain
  let s := s.modLink l fun x => { x with state := .retrain, activeMap := BitVec.ofNat 10 (lowestBits u w) }
  let s := if again then s else s.bumpFld (Reg.lnkRetrainCnt l) 15 0 1
  let s := match s.upLinks x.bundle.toNat with
    | k :: _ => if x.ethernet || x.replay.isEmpty then s else
      let s := (s.modLink l fun y => { y with replay := [] }).modLink k fun y => { y with waiting := y.waiting ++ x.replay.map (fun (f : SentFlit) => f.flit) }
      s.drain k
    | [] => s
  let s := (s.setBit Reg.lnkEvent 1).linkWarn 1
  if x.ethernet then s else s.tellDm "LINK_NARROWED" [l, w, s.bundleRate x.bundle.toNat]

/-- Wavelengths of a link are marked failed: spares, lowest first, replace active ones in one lane-map change; when they do
not suffice the link narrows. -/
def State.failLanes (s : State) (l mask : Nat) : State :=
  let x := s.link l
  let new := mask &&& (0x3FF ^^^ (x.failed.toNat ||| s.fusedLanes l))
  if new = 0 then s else
  let s := s.modLink l fun x => { x with failed := x.failed ||| BitVec.ofNat 10 new }
  let lost := popCount 10 (x.activeMap.toNat &&& new)
  if x.state == .retrain then s.narrow l
  else if x.state != .up || lost = 0 then s
  else
    let kept := x.activeMap.toNat &&& (0x3FF ^^^ new)
    let spares := s.usableLanes l &&& (0x3FF ^^^ kept)
    if popCount 10 spares < lost then s.narrow l else
    let s := s.modLink l fun x => { x with activeMap := BitVec.ofNat 10 (kept ||| lowestBits spares lost),
                                           spared := x.spared + lost }
    let s := (s.bumpFld (Reg.lnkRetrainCnt l) 31 16 lost).setBit Reg.lnkEvent 0
    let lim := s.rdFld Reg.lnkWarnCfg 29 28
    if lim != 0 && decide (lim ≤ (s.link l).spared) then s.linkWarn 1 else s

def execLaneFail (l : Fin 36) (lane : Fin 10) (s : State) : Host.Outcome State Fault Refusal :=
  .next (s.sendMessages.failLanes l.val (2 ^ lane.val))

/-- Corrected symbols of a link's wavelengths; one with more than LANE_CE_MAX of them within a millisecond has failed (R302). The
milliseconds run from the first symbol counted in each (DESIGN CHOICE, log 195). -/
def State.noteLaneCe (s : State) (l : Nat) (ces : List (Fin 10 × Nat)) : State :=
  if ces.isEmpty then s else
  let x := s.link l
  let fresh' := x.laneCe.isEmpty || decide (1000000 ≤ s.since x.laneStart)
  let counts := ces.foldl (fun (m : Sparse Nat) e => Sparse.update 0 m e.1.val (· + e.2)) (if fresh' then [] else x.laneCe)
  let s := s.modLink l fun x => { x with laneCe := counts, laneStart := if fresh' then s.now else x.laneStart }
  let lim := max 1 (s.rdFld Reg.lnkWarnCfg 11 0)
  s.failLanes l (((List.range 10).filter fun k => decide (lim < Sparse.get 0 counts k)).foldl (fun m k => m + 2 ^ k) 0)

/-- The credits that a far end advertises in step 8 (Table 13.9): a switch's own for VL1-VL7 are a free value. -/
def State.firstCredits (s : State) (c : BundleCfg) (vl0 : Nat) : Sparse Nat × State :=
  let vl0 := Sparse.set 0 [] 0 vl0
  let pool := 1024 - 32 * s.resv
  if c.kind = 2 then (vl0, s)
  else if c.kind = 1 then
    let n := s.fresh
    ((List.range 3).foldl (fun (m : Sparse Nat) i => Sparse.set 0 m (i + 1) (Config.switchCredits n.1 (i + 1))) vl0, n.2)
  else (Sparse.set 0 (Sparse.set 0 (Sparse.set 0 vl0 1 640) 2 320) creditPool pool, s)

/-- Step 8 again, after a retrain: the first credits, less those of the flits that will be resent. -/
def State.stepEight (s : State) (l : Nat) : State :=
  let x := s.link l
  match s.bundle x.bundle.toNat with
  | none => s
  | some c =>
    let q := s.firstCredits c x.vl0Adv
    let left := x.replay.foldl (fun (m : Sparse Nat) f => Sparse.update 0 m (min f.flit.vl creditPool) (· - 1)) q.1
    q.2.modLink l fun x => { x with credits := left, owed := [], reserves := x.reserves.map fun r => { r with left := s.resv } }

/-- The narrowing retrain ends: credits are advertised again, and what was not acknowledged, and went to no other link, is resent
here. -/
def execNarrowRetrainDone (l : Fin 36) (s : State) : Host.Outcome State Fault Refusal :=
  let x := s.link l.val
  if x.state != .retrain then .next s else
  let s := s.modLink l.val fun x => { x with state := .up }
  let s := ((s.setBit Reg.lnkEvent 3).clrBit (Reg.lnkCtrl l.val) 2).stepEight l.val
  .next ((match x.replay with
    | f :: _ => s.emit (.resend l.val f.seq)
    | [] => s).sendMessages.drain l.val)

/-- CLR_LANES: failure marks go, and steps 4, 5 and 8 are repeated at the width that is usable now. The bit stays set until the link
is next UP, or goes DOWN (DESIGN CHOICE, log 195). -/
def execClrLanes (path : Path) (l : Fin 36) (s : State) : Host.Outcome State Fault Refusal :=
  .next (s.via path (Reg.lnkCtrl l.val) fun s =>
    let x := s.link l.val
    let s := (s.modLink l.val fun x => { x with failed := 0 }).setBit (Reg.lnkCtrl l.val) 2
    if x.state != .up && x.state != .retrain then
      (if x.state == .down || x.state == .miswired || x.state == .refused then s.retrainLink l.val else s)
    else
      let u := s.usableLanes l.val
      let w := widthFor x.ethernet (popCount 10 u)
      if w = 0 then s.dropLink l.val .down else
      (s.modLink l.val fun x => { x with state := .retrain, activeMap := BitVec.ofNat 10 (lowestBits u w) }).bumpFld
        (Reg.lnkRetrainCnt l.val) 15 0 1)

/-! ### The laser module (R297, R298) -/

def laserIdWord : Nat := 0x4E52

/-- An SPI frame to the laser module (R298): a read of a register, or a write of its data. -/
def spiRead (a : Nat) : Word := BitVec.ofNat 32 (2 ^ 31 + a * 2 ^ 24)
def spiWrite (a v : Nat) : Word := BitVec.ofNat 32 (a * 2 ^ 24 + v % 2 ^ 16)

/-- The frames of one poll; the last one fetches the data of the read before it (DESIGN CHOICE, log 196). -/
def pollFrames : List Word :=
  ([0x00, 0x01] ++ (List.range 10).map (0x20 + ·) ++ (List.range 10).map (0x30 + ·) ++ [0x40, 0x00]).map spiRead

/-- One poll: STATUS and POWER against PMIN. A laser that is turned off, or that an open interlock darkens, is not judged
(DEDUCED, log 62). -/
def execRlmPoll (id status : BitVec 16) (power pmin : List (BitVec 16)) (temp : BitVec 16) (s : State) :
    Host.Outcome State Fault Refusal :=
  let s := pollFrames.foldl (fun s f => s.emit (.spi f)) s
  let on := s.rdBit Reg.lnkRlmCtrl 0
  let opened := bitOf status.toNat 2
  let low := fun (k : Nat) => decide ((power.getD k 0).toNat < (pmin.getD k 0).toNat)
  let present := id.toNat == laserIdWord
  let s := s.wr Reg.lnkRlmStatus (BitVec.ofNat 32 (packFields ([(0, 1, b2n present), (1, 1, b2n on), (2, 1, b2n opened),
    (16, 8, temp.toNat / 10)] ++ (List.range 10).map fun k => (3 + k, 1, b2n !(low k)))))
  let counts := (List.range 10).map fun k => if on && !opened && low k then Sparse.get 0 s.net.laserLow k + 1 else 0
  let s := { s with net := { s.net with
      laserPower := (List.range 10).foldl (fun (m : Sparse (BitVec 16)) k => Sparse.set 0 m k (power.getD k 0)) s.net.laserPower,
      laserLow := (List.range 10).foldl (fun (m : Sparse Nat) k => Sparse.set 0 m k (counts.getD k 0)) s.net.laserLow } }
  let all := !present || bitOf status.toNat 1
  let bad := if all then 0x3FF else ((List.range 10).filter fun k => decide (3 ≤ counts.getD k 0)).foldl (fun m k => m + 2 ^ k) 0
  let new := bad &&& (0x3FF ^^^ s.net.laserFailed.toNat)
  let s := if bitOf status.toNat 1 || !present then s.setBit Reg.lnkEvent 7 else s
  let s := if new = 0 then s else
    let s := { s with net := { s.net with laserFailed := s.net.laserFailed ||| BitVec.ofNat 10 new } }
    let s := (s.setBit Reg.lnkEvent 7).linkWarn 2
    (List.range 36).foldl (fun s l => s.failLanes l new) s
  .next (if opened then
    (List.range 36).foldl (fun s l => if (s.link l).state == .disabled then s else s.dropLink l .down) (s.setBit Reg.lnkEvent 7)
  else s)

/-- EN: the module's ENABLE register follows it; a write of 0 turns the lasers off and takes every link DOWN. -/
def execRlmEnable (path : Path) (en : Bool) (s : State) : Host.Outcome State Fault Refusal :=
  .next (s.via path Reg.lnkRlmCtrl fun s =>
    let s := s.writeFields path Reg.lnkRlmCtrl ((s.rd Reg.lnkRlmCtrl &&& ~~~1) ||| BitVec.ofNat 32 (b2n en)) 0
    let s := s.emit (.spi (spiWrite 0x02 (if s.rdBit Reg.lnkRlmCtrl 0 then 0x3FF else 0)))
    if s.rdBit Reg.lnkRlmCtrl 0 then s else
    (List.range 36).foldl (fun s l => if (s.link l).state == .disabled then s else s.dropLink l .down) (s.clrBit Reg.lnkRlmStatus 1))

/-! ### Training (R300, R301) -/

/-- A step fails: training starts again from step 2 after 100 ms. -/
def State.trainFailed (s : State) (l : Nat) : State :=
  s.modLink l fun x => { x with state := .down, firstTry := true, trainFailedAt := some s.now }

/-- The identity check of step 6. -/
def State.miswired (s : State) (c : BundleCfg) (r : TrainResult) : Bool :=
  r.farDomain != s.rd Reg.mgtDomain ||
  (c.kind != 1 && (r.farChip.toNat != s.bundleFar c || !r.farNamesUs)) ||
  (c.kind == 1 && !r.farIsSwitch) || (c.kind == 0 && r.farIsSwitch) || r.farGrid != 1

def State.linkUp (s : State) (l : Nat) (map : Nat) (credits : Sparse Nat) : State :=
  ((s.modLink l fun x => { x with
    state := .up, activeMap := BitVec.ofNat 10 map, firstTry := true, window := [], turn := (7, 0), credits := credits,
    creditsLast := (List.range 8).foldl (fun m vl => Sparse.set 0 m vl s.now) [], vl0Adv := Sparse.get 0 credits 0,
    owed := [], txSeq := 0, rxSeq := 0, naked := false, replayRow := 0, replay := [] }).setBit Reg.lnkEvent 3).clrBit
    (Reg.lnkCtrl l) 2

/-- What this end sends in step 6: its domain and chip identity, the link, the bundle's kind, grid revision 1 (R301). -/
def State.sendIdentity (s : State) (l : Nat) (c : BundleCfg) : State :=
  s.emit (.identity l (s.rd Reg.mgtDomain) s.self c.kind.toNat 1)

/-- One attempt at the steps of Table 13.5, with what the far end answered. A link trains once its chip is committed and
enabled, its lasers on (step 1), and no failed step's 100 ms is running. -/
def execLinkTrain (l : Fin 36) (r : TrainResult) (s : State) : Host.Outcome State Fault Refusal :=
  let x := s.link l.val
  if !(x.state == .down || x.state == .training) || x.trainFailedAt.isSome || !x.configured || !s.blockOn 14 ||
    !s.rdBit Reg.mgtStatus 16 || s.rdBit (Reg.lnkCtrl l.val) 1 then .next s else
  let s := s.modLink l.val fun x => { x with state := .training }
  let fails := fun (a b : Nat) => r.failStep.any fun k => decide (a ≤ k.val) && decide (k.val ≤ b)
  let u := s.usableLanes l.val &&& r.usable.toNat
  let w := widthFor x.ethernet (popCount 10 u)
  if fails 0 5 || !s.rdBit Reg.lnkRlmCtrl 0 || w = 0 then .next (s.trainFailed l.val) else
  let map := lowestBits u w
  if x.ethernet then .next (s.linkUp l.val map []) else
  match s.bundle x.bundle.toNat with
  | none => .next (s.trainFailed l.val)
  | some c =>
    let s := s.sendIdentity l.val c
    if fails 6 6 then .next (s.trainFailed l.val) else
    let s := s.wr (Reg.lnkPeer l.val) (BitVec.ofNat 32 (packFields [(0, 14, r.farChip.toNat),
      (16, 6, if r.farIsSwitch then 0x3F else r.farLink.toNat), (22, 1, b2n r.farIsSwitch)]))
    if s.miswired c r then
      .next ((s.modLink l.val fun x => { x with state := .miswired, firstTry := true }).setBit Reg.lnkEvent 4)
    else if fails 7 7 then .next (s.trainFailed l.val) else
    let s := s.modLink l.val fun x => { x with delayPs := r.delayPs, asymPs := r.asymPs }
    if 500000 < r.delayPs.toNat || r.vl0Credits < 16 then
      .next (s.modLink l.val fun x => { x with state := .refused, firstTry := true })
    else if fails 8 8 then .next (s.trainFailed l.val)
    else
      let c := s.firstCredits c r.vl0Credits
      .next (c.2.linkUp l.val map c.1)

/-- 100 ms after a failed step, training restarts from step 2. -/
def execTrainRetry (l : Fin 36) (s : State) : Host.Outcome State Fault Refusal :=
  match (s.link l.val).trainFailedAt with
  | none => .next s
  | some t => .next ((s.reach (t.toNat + 100000000)).modLink l.val fun x =>
      { x with state := if x.state == .down then .training else x.state, trainFailedAt := none })

/-- RETRAIN: from step 2, out of MISWIRED and REFUSED as well. -/
def execLnkRetrain (path : Path) (l : Fin 36) (s : State) : Host.Outcome State Fault Refusal :=
  .next (s.via path (Reg.lnkCtrl l.val) fun s =>
    if (s.link l.val).state == .disabled then s else
    (s.fabricReset l.val).logEvent { kind := 2, source := (Config.resetSource 2).toNat, action := 3, link := l.val })

/-- A link in no bundle and without Ethernet personality stays DISABLED. -/
def State.enableLink (s : State) (l : Nat) : State :=
  if (s.link l).state == .disabled && (s.link l).configured && s.blockOn 14 && !s.rdBit (Reg.lnkCtrl l) 1
  then s.modLink l fun x => { x with state := .training } else s

def execLinkDisable (path : Path) (l : Fin 36) (disable : Bool) (s : State) : Host.Outcome State Fault Refusal :=
  .next (s.via path (Reg.lnkCtrl l.val) fun s =>
    let s := s.writeFields path (Reg.lnkCtrl l.val) ((s.rd (Reg.lnkCtrl l.val) &&& ~~~2) ||| BitVec.ofNat 32 (2 * b2n disable)) 0
    if s.rdBit (Reg.lnkCtrl l.val) 1 then s.dropLink l.val .disabled else s.enableLink l.val)

/-! ### Flits (R305, R307) -/

/-- One replay: counted, warned of above REPLAY_MAX a minute; at 16 of one flit in a row the link goes DOWN and retrains. -/
def State.replayFrom (s : State) (l : Nat) (seq : BitVec 12) : State :=
  let x := s.link l
  if x.replay.isEmpty then s else
  let same := (x.replay.head?.map (·.seq)) == some seq
  let minute := s.since x.minuteStart < 60000000000
  let s := s.modLink l fun x => { x with replayRow := if same then x.replayRow + 1 else 1,
                                         replayMinute := if minute then x.replayMinute + 1 else 1,
                                         minuteStart := if minute then x.minuteStart else s.now }
  let s := (s.bump (Reg.lnkReplay l) 1).emit (.resend l seq)
  let s := s.pmcLink l 0x83 (x.replay.filter fun f => f.seq == seq || serialNewer 12 f.seq.toNat seq.toNat).length
  let lim := s.rdFld Reg.lnkWarnCfg 27 16
  let s := if lim != 0 && (s.link l).replayMinute == lim + 1 then s.linkWarn 1 else s
  if (s.link l).replayRow < 16 then s else
  (s.fabricReset l).logEvent { kind := 2, source := (Config.resetSource 1).toNat, action := 3, link := l }

/-- Every data flit before a sequence has arrived intact. -/
def State.acked (s : State) (l : Nat) (next : BitVec 12) : State :=
  let keep := fun (f : SentFlit) => f.seq == next || serialNewer 12 f.seq.toNat next.toNat
  let x := s.link l
  let left := x.replay.filter keep
  s.modLink l fun x => { x with replay := left, replayRow := if left.length < x.replay.length then 0 else x.replayRow }

/-- A NAK that names the first missing sequence; a link whose replay buffer is full sends only types 0 and 2, so none. -/
def State.nak (s : State) (l : Nat) : State :=
  if replaySize ≤ (s.link l).replay.length then s else
  (s.emit (.flit l 3 (s.link l).rxSeq 0 0)).modLink l fun x => { x with naked := true }

/-- The header of Table 13.8. -/
def headerOf (l : List Byte) : PacketHeader :=
  { dst := BitVec.ofNat 14 (bytesToNat (l.take 2)), src := BitVec.ofNat 14 (bytesToNat ((l.drop 2).take 2)),
    tenant := ⟨bytesToNat ((l.drop 4).take 2) % 512, Nat.mod_lt _ (by decide)⟩,
    kind := BitVec.ofNat 4 (bytesToNat ((l.drop 4).take 2) / 2 ^ 12), pseq := BitVec.ofNat 16 (bytesToNat ((l.drop 6).take 2)),
    len := BitVec.ofNat 13 (bytesToNat ((l.drop 8).take 2)), ctx := BitVec.ofNat 32 (bytesToNat ((l.drop 12).take 4)) }

/-- The bytes of a packet of 1 to 18 flits with its header, LEN at most 4,096 and all of LEN there (R306); what is none of that goes
to no engine (DESIGN CHOICE, log 194). -/
def wholePacket (flits : Nat) (bytes : List Byte) : Bool :=
  let len := (headerOf bytes).len.toNat
  decide (flits ≤ 18) && decide (len ≤ 4096) && decide (16 + len ≤ bytes.length)

/-- A data flit in sequence: its payload joins its lane's packet; the last flit completes the packet, LEN bytes behind its header,
which the bundle's merge gets; the flit leaves the buffer, and its credit returns with the acknowledgement. -/
def State.takeFlit (s : State) (l : Nat) (w : Nat) (body : List Byte) : State :=
  let vl := fld w 6 4
  let got := body.take (16 * fld w 55 52)
  let x := s.link l
  let sofar := (if bitOf w 7 then none else x.rx.find? (·.vl == vl)).getD { vl := vl, flits := 0, bytes := [] }
  let all := sofar.bytes ++ got
  let others := x.rx.filter (·.vl != vl)
  let seq := x.rxSeq
  let s := s.modLink l fun x => { x with
    rxSeq := x.rxSeq + 1, naked := false, received := x.received + 1,
    rx := if bitOf w 8 then others else others ++ [{ vl := vl, flits := sofar.flits + 1, bytes := all }] }
  let s := (s.pmcLink l 0x82 1).emit (.flit l 2 seq vl 1)
  if bitOf w 8 && wholePacket (sofar.flits + 1) all then
    let h := headerOf all
    s.packetIn l vl h ((all.drop 16).take h.len.toNat)
  else s

/-- The checks of a flit (R305): CRC, reserved fields, its codeword; LEN16 1-15 of a data flit, SEQ and LEN16 0 of any other (DESIGN
CHOICE, log 194). -/
def flitBad (flit : List Byte) (uncorrectable : Bool) : Bool :=
  let w := bytesToNat (flit.take 8)
  uncorrectable || crcA (flit.take 248) != bytesToNat (flit.drop 248) ||
    fld w 63 56 != 0 || bitOf w 39 || fld w 11 9 != 0 || decide (4 ≤ fld w 3 0) ||
    (if fld w 3 0 = 1 then fld w 55 52 == 0 else fld w 55 52 != 0 || fld w 23 12 != 0)

/-- A flit is checked; what it acknowledges, credits and carries takes effect. -/
def State.flit (s : State) (l : Nat) (flit : List Byte) (uncorrectable : Bool) : State :=
  let x := s.link l
  let s := if uncorrectable then s.bump (Reg.lnkFecUe l) 1 else s
  if flitBad flit uncorrectable then s.nak l else
  let w := bytesToNat (flit.take 8)
  let s := s.credited l (fld w 38 36) (fld w 51 40)
  let ack := BitVec.ofNat 12 (fld w 35 24)
  if fld w 3 0 = 3 then (s.acked l ack).replayFrom l ack else
  let s := s.acked l (ack + 1)
  if fld w 3 0 != 1 then s else
  let seq := fld w 23 12
  if seq = x.rxSeq.toNat then s.takeFlit l w ((flit.drop 8).take 240)
  else if serialNewer 12 seq x.rxSeq.toNat && !x.naked then s.nak l
  else s

/-- A flit with the symbols that FEC corrected in it, by wavelength; what waited for its credits or its acknowledgement is sent. -/
def execFlitReceive (l : Fin 36) (flit : List Byte) (uncorrectable : Bool) (corrected : List (Fin 10 × Nat)) (s : State) :
    Host.Outcome State Fault Refusal :=
  let x := s.link l.val
  if x.state != .up || x.ethernet || flit.length != 256 then .next s else
  let s := s.sendMessages.bump (Reg.lnkFecCe l.val) (corrected.foldl (fun n e => n + e.2) 0)
  .next (((s.flit l.val flit uncorrectable).drain l.val).noteLaneCe l.val corrected)

/-- No acknowledgement for 4 µs: everything unacknowledged is resent. -/
def execReplayTimeout (l : Fin 36) (s : State) : Host.Outcome State Fault Refusal :=
  let s := s.sendMessages
  match (s.link l.val).state, (s.link l.val).replay with
  | .up, f :: _ => .next (s.replayFrom l.val f.seq)
  | _, _ => .next s

/-- A whole packet has arrived on a link: in PSEQ order it reaches the engine that its header names. -/
def execPacketReceive (h : LanePacket) (payload : List Byte) (s : State) : Host.Outcome State Fault Refusal :=
  .next (s.packetIn h.link.val h.vl.val h.head payload)

/-! ### Credits (R308, R312) -/

/-- A lane with flits queued has had no credit for CREDIT_WD: the link is reset. It pauses while the link retrains. -/
def execLinkCreditWatchdog (l : Fin 36) (vl : Fin 8) (tenant : Fin 512) (s : State) : Host.Outcome State Fault Refusal :=
  if (s.link l.val).state != .up then .next s else
  let s := (s.reach ((Sparse.get 0 (s.link l.val).creditsLast vl.val).toNat + 10000000)).setBit Reg.lnkEvent 5
  let peer := s.rdFld (Reg.lnkPeer l.val) 13 0
  let s := s.logEvent { kind := 1, source := 0x06, action := 3, link := l.val, vl := vl.val, peer := peer,
                        tenant := if 3 ≤ vl.val then tenant.val else 0 }
  .next ((s.setBit Reg.fltEvent 3).fabricReset l.val)

/-- A tenant's reserve is given up after 1 ms without its flits on the link. -/
def execReserveRelease (l : Fin 36) (tenant : Fin 512) (s : State) : Host.Outcome State Fault Refusal :=
  match (s.link l.val).reserves.find? fun e => e.tenant == tenant.val with
  | none => .next s
  | some e => .next ((s.reach (e.last.toNat + 1000000)).modLink l.val fun x =>
      { x with reserves := x.reserves.filter fun r => r.tenant != tenant.val })

/-! ### Queue pairs (R316, R317) -/

def qLink (c : Nat) : Nat := fld c 37 32
def qRetry (c : Nat) : Nat := fld c 46 44
def qRnr (c : Nat) : Nat := fld c 50 48
def State.qpCtx (s : State) (q : Nat) : Nat := (Sparse.get 0 s.net.qps q).toNat
def State.setQp (s : State) (q c : Nat) : State :=
  { s with net := { s.net with qps := Sparse.set 0 s.net.qps q (BitVec.ofNat 512 c) } }

/-- The running state of a queue pair: its lane starts at SPSN and at its link's rate. -/
def QpRun.reset : QpRun := { psn := 0, retries := 0, rnrRetries := 0, rateGbps := 0, lastCnp := 0, lastCnpSent := 0 }
def State.qpRun (s : State) (q : Nat) : QpRun := Sparse.get QpRun.reset s.net.qpRun q
def State.modQp (s : State) (q : Nat) (f : QpRun → QpRun) : State :=
  { s with net := { s.net with qpRun := Sparse.set QpRun.reset s.net.qpRun q (f (s.qpRun q)) } }

/-- The begun extents of fetches that use a queue pair, and have not ended. -/
def State.qpExtents (s : State) (q : Nat) : List (Nat × Word × Nat) :=
  s.ing.fetches.flatMap fun f =>
    ((List.range f.keys.length).filter fun i => !f.ended.contains i && xQp (f.list.getD i 0).toNat == q).map fun i =>
      (f.chan, f.index, i)

/-- Checkpoint extents whose transfer on the queue pair is under way. -/
def State.qpDrains (s : State) (q : Nat) : Bool := (List.range 8).any fun p =>
  match (s.part p).ckpt.drain with
  | some (_, _, bs, _) => (ckExtents bs).any fun e => ceQp e == q
  | none => false

def State.qpBusy (s : State) (q : Nat) : Bool := !(s.qpExtents q).isEmpty || s.qpDrains q

/-- End the outstanding fetch extents of a queue pair NET. -/
def State.endQpNet (s : State) (q : Nat) : State :=
  (s.qpExtents q).foldl (fun s e => match s.ing.fetches.find? fun f => f.chan == e.1 && f.index == e.2.1 with
    | some f => if f.ended.contains e.2.2 then s else s.endExtent f e.2.2 exNet 0
    | none => s) s

/-- ERR_OFF of the first failing field of a staged context. -/
def State.qpCheck (s : State) (c : Nat) : Option Nat :=
  let v4 := !bitOf c 3
  let bad : List (Bool × Nat) :=
    [(fld c 15 5 != 0 || fld c 31 25 != 0, 0x00),
     (!(decide (qLink c < 36) && (s.link (qLink c)).ethernet) || fld c 39 38 != 0 || fld c 41 40 == 3 || fld c 43 42 != 0 ||
       bitOf c 47 || bitOf c 51 || fld c 60 56 == 0 || decide (16 < fld c 60 56) || fld c 63 61 != 0, 0x04),
     (fld c 95 94 != 0, 0x08), (fld c 127 120 != 0, 0x0C), (bitOf c 191, 0x16), (fld c 223 208 != 0, 0x18),
     (fld c 255 224 != 0, 0x1C), (v4 && fld c 383 288 != 0, 0x20), (v4 && fld c 511 416 != 0, 0x30)]
  (bad.find? (·.1)).map (·.2)

def State.qpResult (s : State) (r off : Nat) : State := (s.wrFld Reg.lnkQpStatus 7 4 r).wrFld Reg.lnkQpStatus 13 8 off

/-- The staged context. -/
def State.qpStaged (s : State) : Nat := packFields ((List.range 16).map fun n => (32 * n, 32, (s.rd (Reg.lnkQpData n)).toNat))

def State.qpIndex (s : State) : Nat := s.rdFld Reg.lnkQpIdx 11 0

/-- A context that stands is written with STATE RTS, its lane at SPSN (R317). -/
def State.qpCommit (s : State) (q c : Nat) : State :=
  match s.qpCheck c with
  | some off => s.qpResult 1 off
  | none =>
    if s.qpBusy q then s.qpResult 2 0 else
    let s := s.setQp q (setFld c 2 1 1)
    (s.modQp q fun _ => { QpRun.reset with psn := BitVec.ofNat 24 (fld c 119 96), rateGbps := s.ethRate (qLink c) }).qpResult 0 0

/-- CMD = 1. -/
def execQpCommit (path : Path) (s : State) : Host.Outcome State Fault Refusal :=
  .next (s.via path Reg.lnkQpCmd fun s => s.qpCommit s.qpIndex s.qpStaged)

/-- CMD = 2: the queue pair goes to RESET, its outstanding requests end NET. -/
def execQpReset (path : Path) (s : State) : Host.Outcome State Fault Refusal :=
  .next (s.via path Reg.lnkQpCmd fun s =>
    let q := s.qpIndex
    let s := (s.setQp q (setFld (s.qpCtx q) 2 1 0)).modQp q fun _ => QpRun.reset
    (s.endQpNet q).qpResult 0 0)

/-- CMD = 3. -/
def execQpRead (path : Path) (s : State) : Host.Outcome State Fault Refusal :=
  .next (s.via path Reg.lnkQpCmd fun s =>
    let c := s.qpCtx s.qpIndex
    ((List.range 16).foldl (fun s n => s.wr (Reg.lnkQpData n) (BitVec.ofNat 32 (c / 2 ^ (32 * n)))) s).qpResult 0 0)

def State.qpRts (s : State) (q : Nat) : Bool := fld (s.qpCtx q) 2 1 == 1

/-- Retries are exhausted: ERROR, requests ended NET, QP_ERROR. -/
def State.qpError (s : State) (q : Nat) : State :=
  ((s.setQp q (setFld (s.qpCtx q) 2 1 2)).setBit Reg.lnkEvent 8).endQpNet q

/-- Go back to a PSN, or give up after the last retry. -/
def State.qpGoBack (s : State) (q : Nat) (psn : BitVec 24) : State :=
  if qRetry (s.qpCtx q) ≤ (s.qpRun q).retries then s.qpError q else
  (s.modQp q fun x => { x with psn := psn, retries := x.retries + 1 }).emit (.qpEvent q "RESEND")

def State.ethDrop (s : State) : State :=
  { s with net := { s.net with ethDrops := s.net.ethDrops + 1 } }.setBit Reg.lnkEvent 10

/-- An acknowledged PSN moves the queue pair on and renews its retries. -/
def State.qpAdvance (s : State) (q : Nat) (psn : BitVec 24) : State :=
  s.modQp q fun x => { x with psn := psn + 1, retries := 0, rnrRetries := 0 }

/-- A packet of the subset of Table 13.11 acts on its queue pair; every other one is dropped and counted. A pause holds back
sending, which is timing alone. -/
def execEthPacketReceive (l : Fin 36) (pkt : EthPacket) (s : State) : Host.Outcome State Fault Refusal :=
  if (s.link l.val).state != .up || !(s.link l.val).ethernet then .next s else
  let live := fun (q : Fin 4096) => s.qpRts q.val && qLink (s.qpCtx q.val) == l.val
  .next (match pkt with
    | .readResponse q psn _ ce _ =>
      if !live q then s.ethDrop else
      let s := if ce && ((s.qpRun q.val).lastCnpSent == 0 || decide (50000 ≤ s.since (s.qpRun q.val).lastCnpSent))
        then (s.emit (.qpEvent q.val "CNP")).modQp q.val fun x => { x with lastCnpSent := s.now } else s
      if psn == (s.qpRun q.val).psn then s.qpAdvance q.val psn else s
    | .ack q psn => if live q then s.qpAdvance q.val psn else s.ethDrop
    | .nak q psn => if live q then s.qpGoBack q.val psn else s.ethDrop
    | .rnrNak q psn =>
      if !live q then s.ethDrop
      else if qRnr (s.qpCtx q.val) ≤ (s.qpRun q.val).rnrRetries then s.qpError q.val
      else (s.modQp q.val fun x => { x with psn := psn, rnrRetries := x.rnrRetries + 1 }).emit (.qpEvent q.val "RESEND")
    | .cnp q =>
      if !live q then s.ethDrop
      else if (s.qpRun q.val).lastCnp != 0 && decide (s.since (s.qpRun q.val).lastCnp < 50000) then s
      else s.modQp q.val fun x => { x with rateGbps := x.rateGbps / 2, lastCnp := s.now }
    | .pause _ _ => s
    | .other => s.ethDrop)

/-- TIMEOUT passes with requests outstanding. -/
def execQpTimeout (q : Fin 4096) (s : State) : Host.Outcome State Fault Refusal :=
  if !s.qpRts q.val || !s.qpBusy q.val then .next s else .next (s.qpGoBack q.val (s.qpRun q.val).psn)

/-- 100 µs without a CNP: the rate rises, up to its link's. -/
def execQpRateRise (q : Fin 4096) (s : State) : Host.Outcome State Fault Refusal :=
  if !s.qpRts q.val then .next s else
  let s := s.reach ((s.qpRun q.val).lastCnp.toNat + 100000)
  .next (s.modQp q.val fun x => { x with rateGbps := min (s.ethRate (qLink (s.qpCtx q.val))) (x.rateGbps + 5) })

end Sys2Proof.Machine
end

