-- ==== Sys2Proof/Machine/Boot.lean ====
section
/-!
DEFINITION. Start-up (16 R363-R376): the fuse read, the choice of an image slot, the verification of an image, its CONFIG
items, the report of readiness; the whole-device reset (15 R342) that leads to it.
-/

namespace Sys2Proof.Machine

/-! ### Fuses (R373, R375) -/

def payloadBits (r : Nat) : Nat := [1432, 128, 384, 768, 32, 64].getD r 0

def State.fuseSlot (s : State) (r g : Nat) : Option FuseSlot := Sparse.get none s.start.fuses (r * 4 + g)

/-- The highest valid generation of a record. -/
def State.highestValid (s : State) (r : Nat) : Option Nat :=
  [3, 2, 1, 0].find? fun g => (s.fuseSlot r g).any (·.checkOk)

/-- A record's payload at its highest valid generation; of a record without one, what R375 gives in its place. -/
def State.latestFuse (s : State) (r : Nat) : Nat :=
  match (s.highestValid r).bind (s.fuseSlot r) with
  | some x => x.payload.toNat
  | none => if r = 1 then 2 ^ 72 - 1 else if r = 4 then 18 + 30 * 32 else if r = 5 then 2 ^ 16 else 0

def State.setBoot (s : State) (b : Boot) : State := { s with start := { s.start with boot := b } }
def State.modBoot (s : State) (f : Boot → Boot) : State := s.setBoot (f s.start.boot)

/-- The fuses take effect at the start-up that reads them. -/
def State.readFuses (s : State) : State :=
  s.modBoot fun b => { b with stage := 2, inForce := (List.range 6).foldl (fun (m : Sparse (Option Nat)) r =>
    Sparse.set none m r (s.highestValid r)) [] }

/-! ### An image (R368, Tables 16.3, 16.4) -/

def maxImage : Nat := 31457280

/-- A section of the header: TYPE, OFFSET, LENGTH, the zero word, DIGEST. -/
structure Section where
  type : Nat
  off : Nat
  len : Nat
  zero : Nat
  digest : List Byte

def sectionsOf (h : List Byte) : List Section := (List.range (min 32 (leAt h 6 2))).map fun i =>
  let b := 0x20 + 64 * i
  { type := leAt h b 4, off := leAt h (b + 4) 4, len := leAt h (b + 8) 4, zero := leAt h (b + 12) 4,
    digest := (h.drop (b + 16)).take 48 }

def allZero (l : List Byte) : Bool := l.all (· == 0)

/-- Check 1: the header's fields. -/
def headerOk (h : List Byte) : Bool :=
  let n := leAt h 6 2
  let zeroAt := fun (a b : Nat) => allZero ((h.drop a).take (b - a))
  leAt h 0 4 == 0x53554D45 && leAt h 4 2 == 1 && decide (2 ≤ n) && decide (n ≤ 32) &&
  decide (leAt h 8 4 ≤ maxImage) && leAt h 8 4 % 4096 == 0 && decide (leAt h 0xE 2 < 2) &&
  zeroAt 0x19 0x20 && zeroAt (0x20 + 64 * n) 0x820 && zeroAt 0x881 0x888 && zeroAt 0x8E9 0xF00 && zeroAt 0xFC0 0x1000 &&
  (sectionsOf h).all fun x => x.zero == 0

/-- A 48-byte field of the ROOTS record, byte 0 in its lowest bits (R5). -/
def hashField (roots i : Nat) : List Byte := natToBytes 48 (roots / 2 ^ (384 * i))

/-- The code of an image (Table 16.3) under the ROOTS record and the least SVN; 0 for one that verifies. -/
def imageCode (roots minSvn : Nat) (img : List Byte) : Nat :=
  let h := img.take 4096
  let pub := (h.drop 0x820).take 97
  let own := (h.drop 0x888).take 97
  let xs := sectionsOf h
  let len := leAt h 8 4
  let count := fun (t : Nat) => (xs.filter (·.type == t)).length
  if h.length != 4096 || !headerOk h then 2
  else if sha384 pub != hashField roots 0 then 3
  else if !ecdsaVerify pub ((h.drop 0xF00).take 96) (h.take 0xF00) then 4
  else if roots / 2 ^ 384 % 2 ^ 384 != 0 && !(leAt h 0xE 2 % 2 == 1 && sha384 own == hashField roots 1 &&
      ecdsaVerify own ((h.drop 0xF60).take 96) (h.take 0xF00)) then 5
  else if leAt h 0xC 2 < minSvn then 6
  else if count 1 != 1 || count 2 != 1 || !(xs.all fun x => x.off % 4096 == 0 && decide (x.off + x.len ≤ len) &&
      decide (1 ≤ x.type) && decide (x.type ≤ 3)) then 7
  else if !(xs.all fun x => sha384 ((img.drop x.off).take x.len) == x.digest) then 7
  else 0

/-- The items of the CONFIG section: ID, length, value. `fuel` bounds their count. -/
def itemsOf (l : List Byte) : Nat → List (Nat × List Byte)
  | 0 => []
  | fuel + 1 =>
    if l.length < 4 then [] else
    let n := leAt l 2 2
    (leAt l 0 2, (l.drop 4).take n) :: itemsOf (l.drop (4 + n)) fuel

def configItems (img : List Byte) : List (Nat × List Byte) :=
  match (sectionsOf (img.take 4096)).find? (·.type == 2) with
  | some x => itemsOf ((img.drop x.off).take x.len) x.len
  | none => []

def linksItem (img : List Byte) : Option (List Byte) := ((configItems img).find? (·.1 == 1)).map (·.2)

/-- The image in a slot of the flash: its header, then LENGTH bytes. -/
def State.slotImage (s : State) (b : Bool) : List Byte :=
  let h := s.flashRead (slotBase b) 4096
  if headerOk h then s.flashRead (slotBase b) (max 4096 (leAt h 8 4)) else h

/-! ### CONFIG items (R369, Table 16.5) -/

/-- The registers that a REGISTERS item may set, over their RW and RWS fields. -/
def configRegs : List Nat :=
  [Reg.fltWdCfg, Reg.memScrubCfg, Reg.memCeThresh, Reg.lnkWarnCfg, Reg.lnkCreditCfg, Reg.mgtHaltCfg]

def writable (p : Nat) : Word := match Reg.find p with
  | some (_, r, _) => r.mask .rw ||| r.mask .rws
  | none => 0

/-- The bundles of a LINKS item stand (R299): numbers 0-35, or 0x3F for none, 1 to 8 links each, of a MIRROR bundle exactly one. -/
def linksOk (v : List Byte) : Bool :=
  let f := Config.itemField 1 v
  let ls := (List.range 36).filter fun l => f (4 * l) % 2 == 0 && f (4 * l + 1) % 64 != 0x3F
  ls.all fun l =>
    let b := f (4 * l + 1) % 64
    let n := ls.countP fun k => f (4 * k + 1) % 64 == b
    decide (b < 36) && decide (n ≤ 8) && (f (4 * l + 2) % 4 != 2 || n == 1)

def State.applyLinks (s : State) (v : List Byte) : State :=
  let f := Config.itemField 1 v
  (List.range 36).foldl (fun s l =>
    let b := f (4 * l + 1) % 64
    let s := s.modLink l fun x => { x with ethernet := f (4 * l) % 2 == 1, bundle := BitVec.ofNat 6 b,
                                           state := if f (4 * l) % 2 == 1 || b != 0x3F then .down else .disabled }
    let c : BundleCfg := { kind := BitVec.ofNat 2 (f (4 * l + 2)), far := f (4 * l + 3) % 2 ^ 14 }
    if b < 36 && f (4 * l) % 2 == 0
    then { s with net := { s.net with bundles := Sparse.set none s.net.bundles b (some c) } } else s) s

/-- One item; an unknown or failing one is skipped. -/
def State.applyItem (s : State) (e : Nat × List Byte) : State :=
  let f := Config.itemField e.1 e.2
  if e.1 = 0 || 7 < e.1 || !Config.itemOk e.1 e.2 || (e.1 = 1 && !linksOk e.2) ||
      (e.1 = 2 && !layoutValid (f 0 % 256)) then
    (s.setBit Reg.otpEvent 1).modBoot fun b => { b with skippedId := BitVec.ofNat 16 e.1 }
  else match e.1 with
  | 1 => (s.applyLinks e.2).modBoot fun b => { b with links := some e.2 }
  | 2 => s.applyLayout (f 0 % 256)
  | 3 => s.applyShare (f 0 % 256)
  | 4 => (List.range 512).foldl (fun s v => s.modTenant v fun t =>
      { t with chBase := f (9 * v), chCnt := f (9 * v + 1), semBase := f (9 * v + 2), semCnt := f (9 * v + 3),
               grpBase := f (9 * v + 4), grpCnt := f (9 * v + 5), parts := BitVec.ofNat 8 (f (9 * v + 6)),
               weight := BitVec.ofNat 8 (max 1 (f (9 * v + 7) % 256)), maxPrio := BitVec.ofNat 3 (f (9 * v + 8)) }) s
  | 5 =>
    let s := s.wrFld Reg.pwrCfg 4 0 (s.envActing (min 31 (f 0)))
    let s := (List.range 8).foldl (fun s p => s.wrFld (Reg.pwrTclk p) 11 0 (mhzActing (f (1 + p)))) s
    s.partList.foldl State.applyPower s
  | 6 => (configRegs.zipIdx.foldl (fun (s : State) (e : Nat × Nat) =>
      if f (2 * e.2) % 2 = 0 then s else
      let m := writable e.1
      s.wr e.1 ((s.rd e.1 &&& ~~~m) ||| (BitVec.ofNat 32 (f (2 * e.2 + 1)) &&& m))) s).zeroIsOne
  | _ => s.wrFld Reg.uarCfg 14 0 (f 0)

/-- Firmware applies the configuration once, then enables every block; links without an item stay DISABLED. -/
def State.applyConfig (s : State) (img : List Byte) : State :=
  let s := (List.range 36).foldl (fun s l => s.modLink l fun x => { x with state := .disabled }) s
  let s := (configItems img).foldl State.applyItem s
  s.wr Reg.glbBlkEn 0x3FFFF

/-! ### The boot ROM (R362, R366, R367) -/

/-- Both slots fail: their codes go to OTP_BOOT_STATUS and to the console. -/
def State.bootFailed (s : State) (a b : Nat) : State :=
  let s := (s.modBoot fun x => { x with failed := true, codeA := BitVec.ofNat 4 a, codeB := BitVec.ofNat 4 b }).clrBit
    Reg.memStatus 2
  (Config.bootText a b).foldl (fun s c => s.emit (.console c)) s

/-- Firmware starts from a slot: configuration, lasers on (step 1 of Table 13.5), journal, self-test of the tiles; the chip waits in
stage 6. -/
def State.startFirmware (s : State) (slot fallback trial : Bool) (codes : Nat × Nat) : State :=
  let img := s.slotImage slot
  let s := s.modBoot fun b => { b with
    stage := 6, firmware := true, slotB := slot, trial := trial, fallback := fallback,
    codeA := BitVec.ofNat 4 codes.1, codeB := BitVec.ofNat 4 codes.2, svn := BitVec.ofNat 16 (leAt img 0xC 2),
    fwver := BitVec.ofNat 64 (leAt img 0x10 8), rver := BitVec.ofNat 4 (leAt img 0x18 1),
    ownerVerified := s.latestFuse 3 / 2 ^ 384 != 0 }
  let s := (s.clrBit Reg.memStatus 2).applyConfig img
  let s := ((s.setBit Reg.lnkRlmCtrl 0).emit (.spi (spiWrite 0x02 0x3FF))).replayJournal
  let n := s.fresh
  (List.range 64).foldl (fun s t => if Config.bistFails n.1 t then s.modTile t fun x => { x with bistFailed := true } else s) n.2

/-- Stages 2 to 6 of start-up; ALL_ZERO shows in stages 3 to 5, alongside which HBM is zeroed (no command falls within them, log 188). The preferred slot is tried first; a trial's third start, and a slot that fails, go to the
other slot. -/
def State.startUp (s : State) : State :=
  let s := s.readFuses
  if (s.highestValid 0).isNone || (s.highestValid 3).isNone then s.bootFailed 8 8
  else if !s.start.sfdp then s.bootFailed 1 1
  else
    let s := (s.modBoot fun b => { b with stage := 3, slowFlash := !s.start.octal }).setBit Reg.memStatus 2
    let b := s.bcb
    let tries := min 15 (b.tries + 1)
    let s := if b.trial then s.writeBcb b.pref true tries else s
    let spent := b.trial && decide (3 ≤ tries)
    let first := b.pref != spent
    let s := if spent then s.writeBcb first false 0 else s
    let code := fun (x : Bool) => imageCode (s.latestFuse 3) s.minSvn (s.slotImage x)
    let c1 := code first
    if c1 = 0 then s.startFirmware first spent (b.trial && !spent) (0, 0) else
    let c2 := code (!first)
    let codes := if first then (c2, c1) else (c1, c2)
    if c2 = 0 then s.startFirmware (!first) true false codes else s.bootFailed codes.1 codes.2

/-! ### The whole-device reset (R342, R230, R384) -/

/-- The crash-dump region (Table 10.2), and what lies outside HBM. -/
def keptAcross (da : Nat) : Bool := (decide (0xBF80000000 ≤ da) && decide (da < 0xBFA0000000)) || !isHbm da

/-- Everything resets but the crash-dump region, the fuses and the boot flash; what lies outside the chip, and the model's own
records, stand. A fuse slot whose programming it interrupts is consumed. -/
def State.deviceReset (s : State) (held : Option HeldBy) : State :=
  let n := s.fresh
  let fuses := match s.start.burn with
    | some (r, g, x) => Sparse.set none s.start.fuses (r * 4 + g) (some { payload := x, checkOk := Config.fuseIntact n.1 })
    | none => s.start.fuses
  let s := n.2
  { State.reset with
    pending := s.pending
    mem := { Store.reset with dram := s.mem.dram.filter (fun e => keptAcross e.1),
                              memBad := s.mem.memBad.filter (fun w => keptAcross (w * 64)),
                              memSoft := s.mem.memSoft.filter (fun w => keptAcross (w * 64)) }
    mgt := if held = some .critical then { Mgt.reset with haltN := s.mgt.haltN, i3cAddr := s.mgt.i3cAddr,
                                                           ibiEnabled := s.mgt.ibiEnabled, ibiHeld := s.mgt.ibiHeld }
           else { Mgt.reset with haltN := s.mgt.haltN }
    flt := { Flt.reset with events := s.flt.events, dumpB := s.flt.dumpB }
    start := { Start.reset with flash := s.start.flash, octal := s.start.octal, sfdp := s.start.sfdp, fuses := fuses }
    dbg := { Dbg.reset with jtag := s.dbg.jtag }
    pkg := { Pkg.reset with heldBy := held, thermN := s.pkg.thermN, perstN := s.pkg.perstN }
    freeCount := s.freeCount
    out := s.out }

/-- A source-reset notice to every peer of an incomplete collective or KROT. -/
def State.sourceNotices (s : State) : State :=
  let cs := (s.prism.colls.filter (!·.finished)).flatMap fun c => c.members.map (·.chip.toNat)
  let ks := s.kal.krots.flatMap fun k => [rSucc (s.ring k.ring), rPred (s.ring k.ring)]
  ((dedup (cs ++ ks)).filter (· != s.self.toNat)).foldl (fun s c =>
    s.emit (.toChip (BitVec.ofNat 14 c) "SOURCE_RESET" [s.self.toNat])) s

/-- A whole-device reset that the chip itself starts: a record, then start-up. -/
def State.resetDevice (s : State) (source : Nat) : State :=
  ((s.logEvent { kind := 2, source := source, action := 6 }).deviceReset none).startUp

/-- Escalation (R346): notices first. -/
def State.escalate (s : State) (source : Nat) : State := ((s.setBit Reg.fltEvent 9).sourceNotices).resetDevice source

def execWholeDeviceReset (s : State) : Host.Outcome State Fault Refusal :=
  match s.pkg.heldBy with
  | none => .next (s.resetDevice (Config.resetSource 4).toNat)
  | some _ => .next s

/-- RESET_N rises: with every rail in range start-up begins, the GTC at zero. -/
def execResetNRise (railsInRange : Bool) (s : State) : Host.Outcome State Fault Refusal :=
  match s.pkg.heldBy with
  | some .resetN => .next (if railsInRange then (s.deviceReset none).startUp else s)
  | _ => .next s

/-- FLASH_RELEASE: 1 s after both slots failed. -/
def execFlashRelease (s : State) : Host.Outcome State Fault Refusal :=
  .next (if s.start.boot.failed then s.modBoot fun b => { b with flashReleased := true } else s)

end Sys2Proof.Machine
end

