-- ==== Sys2Proof/Machine/Bundles.lean ====
section
/-!
DEFINITION. The commands of a tile's issue and of the completion of its operations (05): one row per opcode, each the
issue of the bundle at the PC that holds it, the line fetch, the release of a held bundle, results and completions.
-/

namespace Sys2Proof.Machine

/-! ### Issue -/

/-- A bundle with a NOP slot; a bundle of reserved opcodes only has no other row. -/
def execNop (t : Fin 64) (b : Bundle) (s : State) : Host.Outcome State Fault Refusal :=
  .next (if (List.range 4).any (fun i => opc (slotOf b i) == 0) || (List.range 4).all fun i => !knownOp i (slotOf b i)
    then s.issue t.val b else s)

def execAlu (t : Fin 64) (b : Bundle) (s : State) : Host.Outcome State Fault Refusal := .next (s.row t.val b 0 0x01)
def execAlui (t : Fin 64) (b : Bundle) (s : State) : Host.Outcome State Fault Refusal := .next (s.row t.val b 0 0x02)
def execLi (t : Fin 64) (b : Bundle) (s : State) : Host.Outcome State Fault Refusal := .next (s.row t.val b 0 0x03)
def execLih (t : Fin 64) (b : Bundle) (s : State) : Host.Outcome State Fault Refusal := .next (s.row t.val b 0 0x04)
def execCmp (t : Fin 64) (b : Bundle) (s : State) : Host.Outcome State Fault Refusal := .next (s.row t.val b 0 0x05)
def execPlog (t : Fin 64) (b : Bundle) (s : State) : Host.Outcome State Fault Refusal := .next (s.row t.val b 0 0x06)
def execBr (t : Fin 64) (b : Bundle) (s : State) : Host.Outcome State Fault Refusal := .next (s.row t.val b 0 0x08)
def execLoop (t : Fin 64) (b : Bundle) (s : State) : Host.Outcome State Fault Refusal := .next (s.row t.val b 0 0x09)
def execCall (t : Fin 64) (b : Bundle) (s : State) : Host.Outcome State Fault Refusal := .next (s.row t.val b 0 0x0A)
def execRet (t : Fin 64) (b : Bundle) (s : State) : Host.Outcome State Fault Refusal := .next (s.row t.val b 0 0x0B)
def execEndf (t : Fin 64) (b : Bundle) (s : State) : Host.Outcome State Fault Refusal := .next (s.row t.val b 0 0x0C)
def execWaitc (t : Fin 64) (b : Bundle) (s : State) : Host.Outcome State Fault Refusal := .next (s.row t.val b 0 0x0D)
def execWaite (t : Fin 64) (b : Bundle) (s : State) : Host.Outcome State Fault Refusal := .next (s.row t.val b 0 0x0E)
def execSemw (t : Fin 64) (b : Bundle) (s : State) : Host.Outcome State Fault Refusal := .next (s.row t.val b 0 0x0F)
def execSems (t : Fin 64) (b : Bundle) (s : State) : Host.Outcome State Fault Refusal := .next (s.row t.val b 0 0x10)
def execDefp (t : Fin 64) (b : Bundle) (s : State) : Host.Outcome State Fault Refusal := .next (s.row t.val b 0 0x12)
def execDefd (t : Fin 64) (b : Bundle) (s : State) : Host.Outcome State Fault Refusal := .next (s.row t.val b 0 0x13)
def execRetd (t : Fin 64) (b : Bundle) (s : State) : Host.Outcome State Fault Refusal := .next (s.row t.val b 0 0x14)
def execDset (t : Fin 64) (b : Bundle) (s : State) : Host.Outcome State Fault Refusal := .next (s.row t.val b 0 0x15)
def execDget (t : Fin 64) (b : Bundle) (s : State) : Host.Outcome State Fault Refusal := .next (s.row t.val b 0 0x16)
def execMfs (t : Fin 64) (b : Bundle) (s : State) : Host.Outcome State Fault Refusal := .next (s.row t.val b 0 0x17)
def execBrk (t : Fin 64) (b : Bundle) (s : State) : Host.Outcome State Fault Refusal := .next (s.row t.val b 0 0x18)
def execMma (t : Fin 64) (b : Bundle) (s : State) : Host.Outcome State Fault Refusal := .next (s.row t.val b 1 0x01)
def execMdrain (t : Fin 64) (b : Bundle) (s : State) : Host.Outcome State Fault Refusal := .next (s.row t.val b 1 0x02)
def execVarith (t : Fin 64) (b : Bundle) (s : State) : Host.Outcome State Fault Refusal := .next (s.row t.val b 2 0x01)
def execVfma (t : Fin 64) (b : Bundle) (s : State) : Host.Outcome State Fault Refusal := .next (s.row t.val b 2 0x02)
def execVbcast (t : Fin 64) (b : Bundle) (s : State) : Host.Outcome State Fault Refusal := .next (s.row t.val b 2 0x03)
def execVred (t : Fin 64) (b : Bundle) (s : State) : Host.Outcome State Fault Refusal := .next (s.row t.val b 2 0x04)
def execVsfu (t : Fin 64) (b : Bundle) (s : State) : Host.Outcome State Fault Refusal := .next (s.row t.val b 2 0x05)
def execVcvt (t : Fin 64) (b : Bundle) (s : State) : Host.Outcome State Fault Refusal := .next (s.row t.val b 2 0x06)
def execVld (t : Fin 64) (b : Bundle) (s : State) : Host.Outcome State Fault Refusal := .next (s.row t.val b 2 0x07)
def execVst (t : Fin 64) (b : Bundle) (s : State) : Host.Outcome State Fault Refusal := .next (s.row t.val b 2 0x08)
def execVrng (t : Fin 64) (b : Bundle) (s : State) : Host.Outcome State Fault Refusal := .next (s.row t.val b 2 0x09)
def execDma (t : Fin 64) (b : Bundle) (s : State) : Host.Outcome State Fault Refusal := .next (s.row t.val b 3 0x01)
def execKrot (t : Fin 64) (b : Bundle) (s : State) : Host.Outcome State Fault Refusal := .next (s.row t.val b 3 0x02)
def execPcol (t : Fin 64) (b : Bundle) (s : State) : Host.Outcome State Fault Refusal := .next (s.row t.val b 3 0x03)
def execSemr (t : Fin 64) (b : Bundle) (s : State) : Host.Outcome State Fault Refusal := .next (s.row t.val b 3 0x04)
def execDld (t : Fin 64) (b : Bundle) (s : State) : Host.Outcome State Fault Refusal := .next (s.row t.val b 3 0x05)
def execDstr (t : Fin 64) (b : Bundle) (s : State) : Host.Outcome State Fault Refusal := .next (s.row t.val b 3 0x06)
def execIpf (t : Fin 64) (b : Bundle) (s : State) : Host.Outcome State Fault Refusal := .next (s.row t.val b 3 0x07)

/-- FENCE by its function; a reserved function issues here and meets ILLEGAL_OP. -/
def execFenceT (t : Fin 64) (b : Bundle) (s : State) : Host.Outcome State Fault Refusal :=
  .next (if s0Fn (slotOf b 0) = 1 || s0Fn (slotOf b 0) = 2 then s else s.row t.val b 0 0x11)
def execFenceC (t : Fin 64) (b : Bundle) (s : State) : Host.Outcome State Fault Refusal :=
  .next (if s0Fn (slotOf b 0) = 1 then s.row t.val b 0 0x11 else s)
def execFenceG (t : Fin 64) (b : Bundle) (s : State) : Host.Outcome State Fault Refusal :=
  .next (if s0Fn (slotOf b 0) = 2 then s.row t.val b 0 0x11 else s)

/-- A held bundle is tried again; what still holds it holds it further. -/
def execBundleRelease (t : Fin 64) (s : State) : Host.Outcome State Fault Refusal :=
  let x := s.tile t.val
  match x.bundleAt x.pc with
  | some b => .next (if x.held then s.issue t.val b else s)
  | none => .next s

/-- A line asked for arrives (R96), from HBM alone: through the spill tier, or where no Aperture maps it any more, the fetch raises
APERTURE (R231); one that cannot be read faults the tile whose PC lies in it. The line is the newest of the buffer until it is
issued from (DESIGN CHOICE, log 176). -/
def execLineFetchArrive (t : Fin 64) (line : Nat) (errs : List CellError) (s : State) : Host.Outcome State Fault Refusal :=
  let s := s.inject errs
  let x := s.tile t.val
  let p := s.part (s.partOf t.val)
  if !x.fetching.contains line || p.imgLen ≤ 8 * line || s.flt.memReset then .next s else
  let n := min 256 (32 * p.imgLen - 256 * line)
  let a := p.imgBase + 256 * line
  let arrived := fun (s : State) => (s.modTile t.val fun x => { x with fetching := x.fetching.filter (· != line) }).aptSettle
  let raise := fun (s : State) (code : Nat) => if x.pc.toNat / 8 = line && s.canIssue t.val then
    s.exception t.val code { s0 := 0, s1 := 0, s2 := 0, s3 := 0 } else s
  let old := s.lineView t.val line
  if !old.aptAllows p.imgTenant a n false false then .next (raise (arrived s) exAperture) else
  let r := s.readDev ((old.tenAddrs p.imgTenant a n).getD [])
  let s := arrived r.st
  match r.bad with
  | some _ => .next (raise s exFetch)
  | none => .next (s.modTile t.val fun x =>
      let l := x.lines.filter (·.1 != line) ++ [(line, r.bytes ++ List.replicate (256 - n) 0)]
      { x with lines := l.drop (l.length - 1024) })

/-! ### Results and completions -/

/-- The register result of an S2 operation is written (R97, R430). -/
def execS2Result (t : Fin 64) (op : Nat) (s : State) : Host.Outcome State Fault Refusal :=
  match (s.tile t.val).pend.find? (·.id == op) with
  | none => .next s
  | some p =>
    .next ((s.modTile t.val fun x =>
      let x := { x with pend := x.pend.filter (·.id != op) }
      let x := match p.xd with
        | some (k, v) => x.setXKey k v
        | none => x
      match p.vd with
        | some (k, v) => x.setV k v
        | none => x).joinBarrier t.val)

/-- An operation of one of the kinds completes, unless unit-cycles or add-on-write requests of it are outstanding. -/
def State.opDone (s : State) (t id : Nat) (ks : List OpKind) : State :=
  match (s.tile t).op id with
  | some o => if ks.contains o.kind && o.owes == 0 && o.aow.all (·.status.isSome) then s.finishOp t id else s
  | none => s

def execMmaDone (t : Fin 64) (op : Nat) (s : State) : Host.Outcome State Fault Refusal := .next (s.opDone t.val op [.mma])
def execMdrainDone (t : Fin 64) (op : Nat) (s : State) : Host.Outcome State Fault Refusal :=
  .next (s.opDone t.val op [.mdrain])
def execVstDone (t : Fin 64) (op : Nat) (s : State) : Host.Outcome State Fault Refusal := .next (s.opDone t.val op [.vst])
def execVcvtMxDone (t : Fin 64) (op : Nat) (s : State) : Host.Outcome State Fault Refusal :=
  .next (s.opDone t.val op [.vcvtMx])
def execSemrSent (t : Fin 64) (op : Nat) (s : State) : Host.Outcome State Fault Refusal := .next (s.opDone t.val op [.semr])

/-- A DMA completes; one that stages through the spill tier and meets a PCIe error faults the tile (10 R231). -/
def execDmaDone (t : Fin 64) (op : Nat) (pcieError : Bool) (s : State) : Host.Outcome State Fault Refusal :=
  match (s.tile t.val).op op with
  | some o =>
    if s.flt.memReset && !o.spill then .next s
    else if pcieError && o.spill && o.kind == .dma then .next (s.faultTile t.val (s.tileRec t.val 0x08 0))
    else .next (s.opDone t.val op [.dma])
  | none => .next s

end Sys2Proof.Machine
end

