-- ==== Sys2Proof/Machine/Debug.lean ====
section
/-!
DEFINITION. Counters, console, boundary scan and the debug halts of tiles (18 R401-R409).
-/

namespace Sys2Proof.Machine

/-! ### Performance counters (R403) -/

/-- The events of a counter's block (Table 18.2); 0 is no event. -/
def pmcEvents (c : Nat) : List Nat :=
  if c < 512 then (List.range 14) else if c < 560 then 0 :: (List.range 6).map (0x40 + ·)
  else if c < 704 then 0 :: (List.range 6).map (0x80 + ·) else 0 :: (List.range 6).map (0xC0 + ·)

/-- The counter that a PMC_CFG register configures. -/
def pmcCounter (off i : Nat) : Option Nat := match off with
  | 0x1000 => some i
  | 0x2000 => some (512 + i)
  | 0x3000 => some (560 + i)
  | 0x4000 => some (704 + i)
  | _ => none

def execCounterClear (path : Path) (c : Fin 712) (s : State) : Host.Outcome State Fault Refusal :=
  .next (s.via path (pmcCfgPlace c.val) fun s =>
    { s with dbg := { s.dbg with pmc := Sparse.set 0 s.dbg.pmc c.val 0 } })

/-! ### Debug halts of tiles (R409) -/

/-- A write of PMC_TDBG: only the debug path's acts. -/
def State.tdbg (s : State) (path : Path) (t : Nat) (f : State → State) : State :=
  s.via path (Reg.pmcTdbg t) fun s => if path = .debug then f s else s.setBit Reg.pmcEvent 2

def execBrkEnWrite (path : Path) (t : Fin 64) (en : Bool) (s : State) : Host.Outcome State Fault Refusal :=
  .next (s.tdbg path t.val fun s =>
    s.writeFields path (Reg.pmcTdbg t.val) ((s.rd (Reg.pmcTdbg t.val) &&& ~~~1) ||| BitVec.ofNat 32 (b2n en)) 0)

/-- HALT: between two commands every tile is at a bundle boundary. -/
def execTileDebugHalt (path : Path) (t : Fin 64) (s : State) : Host.Outcome State Fault Refusal :=
  .next (s.tdbg path t.val fun s => s.modTile t.val fun x => { x with debugHalted := true, debugStep := false })

/-- RESUME: a tile that is not halted is left as it is; one that stands at a BRK issues it. -/
def execTileDebugResume (path : Path) (t : Fin 64) (s : State) : Host.Outcome State Fault Refusal :=
  .next (s.tdbg path t.val fun s => s.modTile t.val fun x =>
    if x.debugHalted then { x with debugHalted := false, debugStep := false, debugPass := true } else x)

/-- STEP: a halted tile issues one bundle and halts again. -/
def execTileDebugStep (path : Path) (t : Fin 64) (s : State) : Host.Outcome State Fault Refusal :=
  .next (s.tdbg path t.val fun s => s.modTile t.val fun x =>
    if x.debugHalted then { x with debugHalted := false, debugStep := true, debugPass := true } else x)

/-! ### The console UART (R405, R406, R412) -/

/-- A character whose start bit was accepted; `stop` is the level of its stop bit. -/
def execUartRxChar (data : Byte) (stop : Bool) (s : State) : Host.Outcome State Fault Refusal :=
  if s.pkg.heldBy.isSome || !s.blockOn 16 then .next s
  else if !stop && data = 0 then .next (s.setBit Reg.uarErr 2)
  else
    let s := if stop then s else (s.setBit Reg.uarErr 0).bump Reg.uarFeCnt 1
    .next (if 64 ≤ s.dbg.rxFifo.length then s.setBit Reg.uarErr 1
      else { s with dbg := { s.dbg with rxFifo := s.dbg.rxFifo ++ [data] } })

def Path.isCore : Path → Bool
  | .core _ => true
  | _ => false

/-- A write of UAR_TX by a control core; any other path's is ignored. -/
def execUartTxWrite (path : Path) (data : Byte) (s : State) : Host.Outcome State Fault Refusal :=
  .next (s.via path Reg.uarTx fun s =>
    if !Path.isCore path || 64 ≤ s.dbg.txFifo.length then s
    else { s with dbg := { s.dbg with txFifo := s.dbg.txFifo ++ [data] } })

/-- A read of UAR_RX by a control core takes the oldest byte; any other path reads zero. -/
def execUartRxRead (path : Path) (s : State) : Host.Outcome State Fault Refusal :=
  .next (s.via path Reg.uarRx fun s =>
    if Path.isCore path then
      { s with dbg := { s.dbg with rxFifo := s.dbg.rxFifo.drop 1 } }.emit (.readData path (s.view Reg.uarRx))
    else s.emit (.readData path 0))

/-- The oldest byte of the send FIFO leaves on UART_TXD. -/
def execUartTxChar (s : State) : Host.Outcome State Fault Refusal :=
  if s.pkg.heldBy.isSome || !s.blockOn 16 then .next s else
  match s.dbg.txFifo with
  | [] => .next s
  | b :: l => .next ({ s with dbg := { s.dbg with txFifo := l } }.emit (.console b))

/-! ### Boundary scan (R407) -/

def State.modJtag (s : State) (f : Jtag → Jtag) : State := { s with dbg := { s.dbg with jtag := f s.dbg.jtag } }

/-- An instruction under which the pins are the system's. -/
def Jtag.select (j : Jtag) (ir : Byte) : Jtag := { j with ir := ir, driven := false, clamped := false, highz := false }

def bitsOf (n x : Nat) : List Bool := (List.range n).map (bitOf x)

def execIdcode (s : State) : Host.Outcome State Fault Refusal :=
  .next ((s.modJtag (·.select 0x01)).emit (.jtag (bitsOf 32 (packFields
    [(0, 1, 1), (1, 11, s.mfrId), (12, 16, 0x4D56), (28, 4, s.rev)]))))

/-- The cells sample the pins and are shifted out while the preload is shifted in. -/
def execSamplePreload (pins preload : List Bool) (s : State) : Host.Outcome State Fault Refusal :=
  .next ((s.modJtag fun j => { j.select 0x02 with cells := pins, preload := preload }).emit (.jtag pins))

/-- The preloaded values drive the pins. -/
def execExtest (s : State) : Host.Outcome State Fault Refusal :=
  .next (s.modJtag fun j => { j.select 0x03 with driven := true })

/-- The preloaded values hold the pins while the bypass register is selected. -/
def execClamp (s : State) : Host.Outcome State Fault Refusal :=
  .next (s.modJtag fun j => { j.select 0x04 with clamped := true })

def execHighz (s : State) : Host.Outcome State Fault Refusal :=
  .next (s.modJtag fun j => { j.select 0x05 with highz := true })

def execBypass (s : State) : Host.Outcome State Fault Refusal :=
  .next ((s.modJtag (·.select 0xFF)).emit (.jtag [false]))

/-- DTMCS: version 1 (0.13), 7 address bits; under DEBUG_LOCK it acts as BYPASS. -/
def execDtmcs (s : State) : Host.Outcome State Fault Refusal :=
  if s.debugLock then execBypass s else
  .next ((s.modJtag (·.select 0x10)).emit (.jtag (bitsOf 32 (packFields
    [(0, 4, 1), (4, 6, 7), (12, 3, Config.dtmIdle.toNat)]))))

end Sys2Proof.Machine
end

