-- ==== Sys2Proof/Machine/Managers.lean ====
section
/-!
DEFINITION. The sideband, the managers and HALT_N (14): the I3C common commands, COMMIT and the roles, registrations and
reports at the domain manager, the loss of a parent, the board halt.
-/

namespace Sys2Proof.Machine

/-! ### The I3C common commands (R321, R322, R324, R367) -/

/-- The sideband answers unless the chip is held in reset; a critical reading leaves it running (R428). -/
def State.i3cAlive (s : State) : Bool := match s.pkg.heldBy with
  | none | some .critical => true
  | _ => false

/-- The 48-bit provisioned ID (R322). -/
def State.provisionedId (s : State) : Nat := packFields [(0, 32, s.serial), (32, 1, 1), (33, 15, s.mfrId)]

def State.i3cAddressed (s : State) : Bool := s.i3cAlive && s.mgt.i3cAddr.isSome

/-- A directed read of a common command: bytes in bus order, or no acknowledgement. -/
def State.i3cAnswer (s : State) (bytes : List Byte) : State := s.emit (if s.i3cAddressed then .i3cData bytes else .i3cNack)

/-- Dynamic address assignment: a chip without an address sends its ID, BCR and DCR, and takes the address. -/
def execEntdaa (address : BitVec 7) (s : State) : Host.Outcome State Fault Refusal :=
  if !s.i3cAlive || s.mgt.i3cAddr.isSome then .next s else
  .next ({ s with mgt := { s.mgt with i3cAddr := some address } }.emit (.i3cData (natToBe 6 s.provisionedId ++ [0x06, 0x00])))

def execRstdaa (s : State) : Host.Outcome State Fault Refusal :=
  .next (if s.i3cAlive then { s with mgt := { s.mgt with i3cAddr := none } } else s)

/-- In-band interrupts are enabled: each held cause is raised once, in the order of the table. -/
def execEnec (s : State) : Host.Outcome State Fault Refusal :=
  if !s.i3cAlive then .next s else
  let held := ([0x01, 0x02, 0x03, 0x04, 0x05] : List Byte).filter s.mgt.ibiHeld.contains
  .next (held.foldl State.ibi { s with mgt := { s.mgt with ibiEnabled := true, ibiHeld := [] } })

def execDisec (s : State) : Host.Outcome State Fault Refusal :=
  .next (if s.i3cAlive then { s with mgt := { s.mgt with ibiEnabled := false } } else s)

def execGetpid (s : State) : Host.Outcome State Fault Refusal := .next (s.i3cAnswer (natToBe 6 s.provisionedId))
def execGetbcr (s : State) : Host.Outcome State Fault Refusal := .next (s.i3cAnswer [0x06])
def execGetdcr (s : State) : Host.Outcome State Fault Refusal := .next (s.i3cAnswer [0x00])

/-- The status: when both slots failed, their codes in bits [15:8]; the spec gives the other bits no meaning (free). -/
def execGetstatus (s : State) : Host.Outcome State Fault Refusal :=
  let n := s.fresh
  let m := n.2.fresh
  let b := s.start.boot
  let high := if b.failed then b.codeB ++ b.codeA else Config.i3cStatus m.1
  .next (m.2.i3cAnswer [high, Config.i3cStatus n.1])

def execGetmwl (s : State) : Host.Outcome State Fault Refusal := .next (s.i3cAnswer (natToBe 2 Config.i3cMwl.toNat))
def execGetmrl (s : State) : Host.Outcome State Fault Refusal := .next (s.i3cAnswer (natToBe 3 Config.i3cMrl.toNat))

/-- The target reset action is armed. -/
def execRstact (action : Byte) (s : State) : Host.Outcome State Fault Refusal :=
  .next (if s.i3cAddressed then { s with mgt := { s.mgt with rstactArm := action } } else s)

def execI3cUnsupportedCcc (_code : Byte) (s : State) : Host.Outcome State Fault Refusal :=
  .next (if s.i3cAlive then s.emit .i3cNack else s)

/-! ### Coordinates and roles (R325-R329) -/

def State.committed (s : State) : Bool := s.rdBit Reg.mgtStatus 16

/-- Whether a chip stands on this chip's board (R326). -/
def State.onBoard (s : State) (c : ChipId) : Bool :=
  decide (c.toNat / 16 = s.self.toNat / 16) && (!s.rdBit Reg.mgtCoord 16 || c.toNat % 16 / 8 == s.self.toNat % 16 / 8)

/-- The parent of this chip: 0 at the root; a path that leaves the board crosses a switch. -/
def State.setParent (s : State) (c : ChipId) : State :=
  s.wr Reg.mgtParent (BitVec.ofNat 32 (packFields [(0, 14, c.toNat), (16, 1, b2n (!s.onBoard c))]))

/-- The board manager that this chip knows: the lowest slot among the ready candidates of its board (R329; whether another chip is one
is free, log 198). -/
def State.boardManager (s : State) : Option ChipId :=
  match ((s.mgt.ready.filter s.onBoard).map (·.toNat)).filter Config.bmCand with
  | [] => none
  | c :: l => some (BitVec.ofNat 14 (l.foldl min c))

/-- Assign the roles. A chip becomes board manager when, as a candidate, it is ready and no ready candidate of the board that it
knows has a lower slot; a board manager keeps the role until it is lost. -/
def State.assignRoles (s : State) (ready : Bool) : State :=
  let me := s.self
  let dm := me == s.dmChip
  let bm := s.rdBit Reg.mgtStatus 17 || (ready && s.rdBit Reg.mgtCoord 17 && (match s.boardManager with
    | some c => decide (me.toNat < c.toNat)
    | none => true))
  let s := (s.putBit Reg.mgtStatus 18 dm).putBit Reg.mgtStatus 17 bm
  let s := s.putBit Reg.mgtStatus 19 (s.rdBit Reg.mgtDm 30 && s.rdFld Reg.mgtDm 29 16 == me.toNat && !dm)
  if dm then (s.wr Reg.mgtParent 0).wrFld Reg.shtSyncStatus 5 4 0
  else s.setParent (if bm then s.dmChip else s.boardManager.getD s.dmChip)

/-- COMMIT: the staged coordinates are checked and committed. -/
def State.commitCoords (s : State) : State :=
  if s.committed then s else
  if s.rd Reg.mgtDomain = 0 || (s.rdBit Reg.mgtDm 30 && s.rdFld Reg.mgtDm 29 16 == s.rdFld Reg.mgtDm 13 0) then
    (s.setBit Reg.mgtEvent 0).ibi 0x05
  else
    let s := (s.wrFld Reg.mgtStatus 13 0 s.self.toNat).setBit Reg.mgtStatus 16
    (s.modBoot fun b => { b with stage := 7 }).assignRoles false

/-- A COMMIT before firmware runs is acted on when stage 6 is reached. -/
def execCommit (s : State) : Host.Outcome State Fault Refusal :=
  if !s.i3cAlive || s.pkg.heldBy.isSome then .next s else
  if !s.start.boot.firmware then .next (s.setBit Reg.mgtCmd 0) else .next (s.commitCoords.clrBit Reg.mgtCmd 0)

/-- A request at a chip that does not own its decision is refused, naming the domain manager (R12). -/
def State.notOwner (s : State) (chip : ChipId) : State := s.emit (.toChip chip "NOT_OWNER" [s.dmChip.toNat])

/-! ### The domain manager: launches and reports (R10, R34, R170, R329, R348-R351) -/

/-- A launch count for every worker of a job, at least 2 ms ahead. -/
def State.sendCount (s : State) (d : DmJob) : State :=
  let n := s.fresh
  let count := n.2.now.toNat + 2000000 + Config.launchLead n.1
  let s := n.2.modDm d.jobId fun d => { d with launchSent := some (BitVec.ofNat 64 count), registered := [] }
  s.tellWorkers d "LAUNCH_COUNT" [d.jobId.toNat, count]

/-- The count goes out once every worker of a job has registered. -/
def State.countIfAll (s : State) (d : DmJob) : State := if d.workers.all d.registered.contains then s.sendCount d else s

/-- The domain manager refuses a launch: the workers, this chip among them, complete their LAUNCH with the status. -/
def State.refuseLaunch (s : State) (d : DmJob) (status detail : Nat) : State :=
  let s := s.tellWorkers d "LAUNCH_REFUSED" [d.jobId.toNat, status, detail]
  let s := { s with mgt := { s.mgt with jobs := s.mgt.jobs.filter (·.jobId != d.jobId) } }
  (s.partsOfJob d.jobId).foldl (fun s p =>
    if (s.part p).jobActive then s else
    (s.modJob p fun j => { j with ending := some (BitVec.ofNat 8 status), endDetail := detail }).endJob p) s

def newDmJob (jobId : Word) (mode : Bool) (stepFrames : Word) : DmJob :=
  { jobId := jobId, workers := (Config.jobWorkers jobId).map (BitVec.ofNat 14), registered := [], mode := mode,
    stepFrames := stepFrames, launchSent := none, cutStep := none, cutAgain := false, preemptAfter := false, cutReports := [],
    cutDone := [], cutFailed := none, requesters := [], nextReq := [], held := false, abandonedAt := none, boundary := [] }

/-- A worker registers for a launch: STEP_FRAMES and the mode must agree (R170, R19), and when every worker has registered the
count goes out. Under a pending reform launches wait for its end (R36, R37). -/
def State.registerLaunch (s : State) (chip : ChipId) (jobId : Word) (mode : Bool) (stepFrames : Word) : State :=
  let s := match s.dmJob jobId with
    | some _ => s
    | none => { s with mgt := { s.mgt with jobs := s.mgt.jobs ++ [newDmJob jobId mode stepFrames] } }
  let s := s.modDm jobId fun d =>
    { d with registered := if d.registered.contains chip then d.registered else d.registered ++ [chip],
             stepFrames := if d.registered.isEmpty then stepFrames else d.stepFrames,
             mode := if d.registered.isEmpty then mode else d.mode, abandonedAt := none, held := false }
  match s.dmJob jobId with
  | none => s
  | some d =>
    if d.stepFrames != stepFrames then s.refuseLaunch d 0x13 chip.toNat
    else if d.mode != mode then s.refuseLaunch d Config.mixedModes.toNat chip.toNat
    else if s.mgt.refuse then s
    else s.countIfAll d

/-- A registration. The first chip with an identity is accepted; another one with it is not answered. With no domain manager,
the chip named DM_CHIP or STANDBY takes the role again. -/
def execRegistration (chip : ChipId) (jobId : Word) (mode : Bool) (stepFrames : Word) (launching : Bool) (s : State) :
    Host.Outcome State Fault Refusal :=
  if !s.committed then .next s else
  let asDm := chip.toNat == s.rdFld Reg.mgtDm 13 0
  let asStandby := s.rdBit Reg.mgtDm 30 && chip.toNat == s.rdFld Reg.mgtDm 29 16
  if s.mgt.noDm && (asDm || asStandby) then
    .next ({ s with mgt := { s.mgt with noDm := false, dmIsStandby := !asDm } }.setParent chip)
  else if launching then .next (if s.isDm then s.registerLaunch chip jobId mode stepFrames else s.notOwner chip)
  else if !s.isDm && !s.rdBit Reg.mgtStatus 17 then .next (s.notOwner chip)
  else if s.mgt.ready.contains chip || chip == s.self then .next s
  else .next ({ s with mgt := { s.mgt with ready := s.mgt.ready ++ [chip] } }.emit (.toChip chip "REGISTERED" []))

/-- Whether only a restart from the last checkpoint can follow an abandonment: on a worker the pass of the step had begun, or the
record of the step before it holds a DEFER entry (Table 15.7). What holds on other chips' workers is free (log 164). -/
def State.mustRestart (s : State) (jobId : Word) (inPass : Bool) : Bool × State :=
  let n := s.fresh
  let here := (s.partsOfJob jobId).any fun p => let x := s.part p
                                                decide (3 ≤ x.action) || x.lastStepDefer
  (inPass || here || Config.passBegun n.1, n.2)

/-- A step of a job is abandoned: ABANDON goes to every worker. Once a pass had begun the restart from the checkpoint follows at
once (R18); else what follows waits for an admission or for HOLD_MIN. -/
def State.abandonJob (s : State) (d : DmJob) (chip : ChipId) (inPass : Bool) : State :=
  let r := s.mustRestart d.jobId inPass
  let s := (r.2.modDm d.jobId fun d => { d with
      held := !r.1, abandonedAt := if r.1 then none else some s.now, registered := [], cutStep := none,
      boundary := [] }).tellWorkers d "ABANDON" [d.jobId.toNat, chip.toNat]
  if r.1 then s.tellWorkers d "RESTART_FROM_CHECKPOINT" [d.jobId.toNat] else s

/-! ### The reform (R37) -/

def reformLimit : Nat := 0xF000000000000000

/-- At the first moment the reports show no partition of the domain with frames running, REFORM names a count at least 2 ms ahead
(R37). What the reports of other chips have shown is free (log 64). -/
def State.tryReform (s : State) : State :=
  if !s.isDm || !s.clock.reformHold || s.clock.reformAt.isSome || s.anyRunning then s else
  let n := s.fresh
  if !Config.domainIdle n.1 then n.2 else
  let m := n.2.fresh
  let g := m.2.now.toNat + 2000000 + Config.launchLead m.1
  (s.mgt.ready.foldl (fun s c => s.emit (.toChip c "REFORM" [g])) m.2) |> fun s =>
    { s with clock := { s.clock with reformAt := some (BitVec.ofNat 64 g) } }

/-- A message of the reform goes down the tree: a board manager relays it to the workers of its board. -/
def State.relay (s : State) (kind : String) (args : List Nat) : State :=
  if s.rdBit Reg.mgtStatus 17 then s.mgt.ready.foldl (fun s c => s.emit (.toChip c kind args)) s else s

/-- The domain manager's GTC reaches the limit: launches are refused, and REFORM_PENDING goes down the tree. -/
def execGtcReformLimit (s : State) : Host.Outcome State Fault Refusal :=
  if !s.rdBit Reg.mgtStatus 18 || s.mgt.refuse then .next s else
  let s := s.reach reformLimit
  let s := { s with mgt := { s.mgt with refuse := true }, clock := { s.clock with reformHold := true } }
  .next (s.mgt.ready.foldl (fun s c => s.emit (.toChip c "REFORM_PENDING" [])) s).tryReform

/-- REFORM_PENDING: STARTs on idle partitions are held, and stops of frames are reported. -/
def execReformPending (s : State) : Host.Outcome State Fault Refusal :=
  .next ({ s with clock := { s.clock with reformHold := true } }.relay "REFORM_PENDING" [])

/-- REFORM names count G. -/
def execReform (g : Dword) (s : State) : Host.Outcome State Fault Refusal :=
  .next ({ s with clock := { s.clock with reformAt := some g } }.relay "REFORM" [g.toNat])

/-- At count G the GTC becomes zero; STEPPED is set, LOCK kept; held STARTs may act and the domain manager accepts launches. -/
def execGtcReform (s : State) : Host.Outcome State Fault Refusal :=
  match s.clock.reformAt with
  | none => .next s
  | some g =>
    if s.anyRunning then .next s else
    let s := s.reach g.toNat
    let s := ({ s with
      clock := { s.clock with gtc := 0, reformAt := none, reformHold := false, lastExchange := 0 },
      mgt := { s.mgt with refuse := false } }).setBit Reg.shtSyncStatus 3
    .next (if s.isDm then s.mgt.jobs.foldl State.countIfAll s else s)

/-! ### Reports and warnings at the domain manager (R34, R348-R351) -/

/-- The domain manager's refusal of a launch at a worker: the LAUNCH of each partition that still waits completes with it, DETAIL
the worker that it names (R260). -/
def State.launchRefused (s : State) (jobId : Word) (status : Byte) (chip : ChipId) : State :=
  (s.waitingJobs jobId).foldl (fun s p =>
    (s.modJob p fun j => { j with ending := some status, endDetail := chip.toNat }).endJob p) s

/-- The domain manager's halt of a job on its own chip: from the next tick on its partitions dispatch nothing (R212;
DESIGN CHOICE, log 186). -/
def State.haltJob (s : State) (jobId : Word) : State :=
  (List.range 8).foldl (fun s p =>
    if (s.part p).job.any (·.jobId == jobId) then s.modPart p fun x => { x with jobHalted := true } else s) s

/-- The copy of a step boundary of a job that no partition of this chip runs goes out with its agreement; any other with the step's
record (log 197). -/
def State.copyAgreed (s : State) (jobId : Word) : State := if (s.partsOfJob jobId).isEmpty then s.sendCopy else s

/-- A worker's report at the domain manager. On another chip a report names its owner; a refusal of a launch comes there from the
domain manager (DEDUCED, log 165). -/
def execWorkerReport (chip : ChipId) (jobId : Word) (r : Report) (s : State) : Host.Outcome State Fault Refusal :=
  if !s.isDm then
    match r with
    | .launchRefused st => .next (s.launchRefused jobId st chip)
    | _ => .next (s.notOwner chip)
  else if r = .ticksStopped then .next s.tryReform else
  match s.dmJob jobId with
  | none => .next s
  | some d => .next (match r with
    | .lateLaunch | .notInLock => s.sendCount d
    | .mirrorFingerprint => s.refuseLaunch d 0x24 chip.toNat
    | .mirrorFreeze => (d.workers.filter (· != chip)).foldl (fun s c =>
        if c == s.self then s.haltJob jobId else s.emit (.toChip c "HALT_JOB" [jobId.toNat])) s
    | .workerLeft | .collectiveFailed => s.abandonJob d chip false
    | .ouuTable => s.abandonJob d chip true
    | .stepBoundary =>
      let l := if d.boundary.contains chip then d.boundary else d.boundary ++ [chip]
      if d.workers.all l.contains then
        ((s.modDm jobId fun d => { d with boundary := [] }).tellWorkers d "STEP_AGREED" [jobId.toNat]).copyAgreed jobId
      else s.modDm jobId fun d => { d with boundary := l }
    | .linkNarrowed | .ticksStopped | .mirrorLost | .launchRefused _ => s)

/-- HOLD_MIN minutes after an abandonment with nobody admitted, the job restarts from its last checkpoint. -/
def execHoldMinExpiry (jobId : Word) (s : State) : Host.Outcome State Fault Refusal :=
  if !s.isDm then .next s else
  match s.dmJob jobId with
  | none => .next s
  | some d => match d.abandonedAt with
    | none => .next s
    | some t =>
      let s := s.reach (t.toNat + s.rdFld Reg.fltRecovCfg 7 0 * 60000000000)
      .next ((s.modDm jobId fun d => { d with abandonedAt := none, held := false, registered := [] }).tellWorkers d
        "RESTART_FROM_CHECKPOINT" [jobId.toNat])

/-- A failure warning at the domain manager: every job with a worker on the chip gets a checkpoint at its next boundary. -/
def execWarningReceive (chip : ChipId) (_source : Fin 5) (s : State) : Host.Outcome State Fault Refusal :=
  .next (if s.isDm then (s.mgt.jobs.filter (·.workers.contains chip)).foldl (fun s d => s.requestCut d [] false) s
    else s.notOwner chip)

/-! ### The loss of a parent (R330, R331) -/

/-- The job state in the standby's last copy, an agreement or a cut that was open to be taken from its start. -/
def copiedJobs (n : Nat) : List DmJob := (Config.lastCopy n).map fun e =>
  { newDmJob e.1 e.2.1 e.2.2.1 with launchSent := e.2.2.2.1, registered := e.2.2.2.2.map (BitVec.ofNat 14) }

/-- The standby answers this chip's own requests for a cut: one that the copy holds is taken again, any other is refused (R330). -/
def State.answerRequests (s : State) : State :=
  let n := s.fresh
  let mine := s.chan.cmds.filter fun c => c.opc == 0x0A && c.started && c.status.isNone
  (mine.foldl (fun s c =>
    match if Config.copyHolds n.1 then s.dmJob (BitVec.ofNat 32 (c.arg 4 32)) else none with
    | some d => s.requestCut d [(c.chan, c.index)] (c.arg 8 1 == 1)
    | none => s.complete c.chan c.index 0x34 0 0) n.2).retryBells

/-- The chip becomes domain manager and time root: level 0, no parent, and nothing to hold over (R329, R330; HOLDOVER cleared is DESIGN
CHOICE, log 200). -/
def State.becomeRoot (s : State) : State :=
  (((s.setBit Reg.mgtStatus 18).wr Reg.mgtParent 0).wrFld Reg.shtSyncStatus 5 4 0).clrBit Reg.shtSyncStatus 1

/-- The domain manager is lost: the standby takes over from its last copy, and a launch whose count the copy lacks gets a new one;
without a standby the domain has no domain manager (R330, R331). -/
def State.loseDm (s : State) : State :=
  if s.rdBit Reg.mgtDm 30 && !s.mgt.dmIsStandby then
    let s := { s with mgt := { s.mgt with dmIsStandby := true } }
    if s.rdBit Reg.mgtStatus 19 then
      let n := s.fresh
      let jobs := copiedJobs n.1
      let s := { n.2 with mgt := { n.2.mgt with standby := jobs, jobs := jobs } }
      let s := ((s.clrBit Reg.mgtStatus 19).setBit Reg.mgtEvent 4).becomeRoot
      (jobs.foldl (fun s d => if d.launchSent.isNone then s.countIfAll d else s) s).answerRequests
    else (s.setParent s.dmChip).emit (.toChip s.dmChip "REGISTER" [s.self.toNat])
  else { s with mgt := { s.mgt with noDm := true } }

/-- No exchange with the parent for LOST_MS: holdover, and a new parent or a new role. `newParent` is the chip of the board that
becomes its manager; none when no candidate remains. -/
def execParentLost (newParent : Option ChipId) (s : State) : Host.Outcome State Fault Refusal :=
  if !s.committed || s.isDm then .next s else
  let s := s.reach (s.clock.lastExchange.toNat + s.rdFld Reg.mgtHbCfg 7 0 * 1000000)
  let lost := s.rdFld Reg.mgtParent 13 0
  let s := s.setBit Reg.mgtEvent 3
  let s := if s.rdBit Reg.shtSyncStatus 1 then s else s.holdOver
  if lost = s.dmChip.toNat then .next s.loseDm else
  let s := { s with mgt := { s.mgt with ready := s.mgt.ready.filter (·.toNat != lost) } }
  match newParent with
  | some c =>
    if c == s.self then
      .next ((((s.setBit Reg.mgtStatus 17).setBit Reg.mgtEvent 4).setParent s.dmChip).emit
        (.toChip s.dmChip "REGISTER" [s.self.toNat]))
    else .next ((s.setParent c).emit (.toChip c "REGISTER" [s.self.toNat]))
  | none => .next ((s.setParent s.dmChip).emit (.toChip s.dmChip "REGISTER" [s.self.toNat]))

/-! ### HALT_N (R333, R334) -/

/-- Drive HALT_N low for HOLD_US. -/
def State.driveHalt (s : State) : State :=
  { s with mgt := { s.mgt with haltDrive := true, haltN := false } }.setBit Reg.mgtEvent 6

def execHalt (path : Path) (s : State) : Host.Outcome State Fault Refusal :=
  .next (s.via path Reg.mgtCmd fun s => (s.setBit Reg.mgtCmd 1).driveHalt)

/-- After HOLD_US the chip lets go of the net; the net rises when every chip has (HALT_N_RELEASE). -/
def execHaltDriveEnd (s : State) : Host.Outcome State Fault Refusal :=
  .next (if s.mgt.haltDrive then { s with mgt := { s.mgt with haltDrive := false } }.clrBit Reg.mgtCmd 1 else s)

/-- A board halt from the domain manager, at the board manager. -/
def execBoardHalt (s : State) : Host.Outcome State Fault Refusal :=
  .next (if s.rdBit Reg.mgtStatus 17 then s.driveHalt
    else s.emit (.toChip s.dmChip "NOT_OWNER" [(s.boardManager.getD s.dmChip).toNat]))

/-- HALT_N has been sampled low for 100 ns: everything that computes stops, HALTED holds until a compute-domain reset. -/
def execHaltNLow (s : State) : Host.Outcome State Fault Refusal :=
  let s := { s with mgt := { s.mgt with haltN := false } }
  if s.pkg.heldBy.isSome then .next s else
  let s := (((s.setBit Reg.mgtStatus 20).setBit Reg.mgtEvent 5).ibi 0x04).logEvent { kind := 1, source := 0x0C }
  .next (s.tellDm "HALTED" [s.self.toNat])

/-- HALT_N is high again: held commands may start; after a reset, frames dispatch once it has been high for 10 µs. -/
def execHaltNRelease (s : State) : Host.Outcome State Fault Refusal :=
  if s.mgt.haltDrive then .next s else
  let s := { s with mgt := { s.mgt with haltN := true, haltHighSince := s.now } }
  .next (if s.mgt.haltWait then { s.reach (s.now.toNat + 10000) with mgt := { s.mgt with haltWait := false } } else s)

end Sys2Proof.Machine
end

