-- ==== Sys2Proof/Machine/Images.lean ====
section
/-!
DEFINITION. The report of readiness (16 R364), the fuse commands (R374), the staging and the activation of an image
(R370-R372).
-/

namespace Sys2Proof.Machine

/-! ### Ready (R364, R366) -/

/-- Every link that belongs to a bundle is UP or has failed its first attempt. -/
def State.linksTried (s : State) : Bool := (List.range 36).all fun l =>
  let x := s.link l
  x.ethernet || x.bundle == 0x3F || x.state == .up || x.firstTry || x.state == .disabled

/-- The chip reports ready: READY, TRIAL cleared, normal service, IBI 0x01, its registration with its parent. -/
def execChipReady (s : State) : Host.Outcome State Fault Refusal :=
  if !s.start.boot.firmware || !s.committed || s.rdBit Reg.glbStatus 2 || !s.linksTried then .next s else
  let s := (s.setBit Reg.otpBootStatus 3).setBit Reg.glbStatus 2
  let b := s.bcb
  let s := if b.trial then s.writeBcb b.pref false 0 else s
  let s := if s.rd Reg.glbBlkEn = 0x3FFFF then s.clrBit Reg.glbCtrl 0 else s
  let s := ((s.modBoot fun b => { b with stage := 8 }).ibi 0x01).assignRoles true
  .next (if s.isDm then s else s.emit (.toChip (BitVec.ofNat 14 (s.rdFld Reg.mgtParent 13 0)) "REGISTER" [s.self.toNat]))

/-! ### Fuse commands (R373, R374, R379) -/

def State.fuseRecord (s : State) : Nat := s.rdFld Reg.otpFuseSel 2 0
def State.fuseResult (s : State) (r : Nat) : State := s.wrFld Reg.otpFuseStatus 7 4 r
def State.otpBusyIgnored (s : State) : State := s.setBit Reg.otpEvent 0

/-- The staged payload of a record. -/
def State.fuseStaged (s : State) (r : Nat) : Nat :=
  packFields ((List.range 32).map fun n => (32 * n, 32, (s.rd (Reg.otpStage n)).toNat)) % 2 ^ payloadBits r

/-- Whether every bit of one word is in another. -/
def includes (new old : Nat) : Bool := new &&& old == old

/-- The field rules of Table 16.6, against the latest valid generation. -/
def State.fuseMonotonic (s : State) (r new : Nat) : Bool :=
  let old := s.latestFuse r
  match r with
  | 1 =>
    let added := (List.range 72).filter fun i => bitOf new i && !bitOf old i
    decide (new < 2 ^ 72) && includes new old && added.all (fun i => (dieTiles old (i / 18)).contains i) &&
      (List.range 4).all fun d => (dieTiles new d).length == 16
  | 2 => decide (new < 2 ^ 360) && includes new old
  | 3 => new % 2 ^ 384 == old % 2 ^ 384
  | 4 => decide (new < 2 ^ 10) && decide (18 ≤ fld new 4 0) && decide (fld new 4 0 ≤ fld new 9 5) && decide (fld new 9 5 ≤ 30) &&
      decide (s.envMin ≤ fld new 4 0) && decide (fld new 9 5 ≤ s.envMax)
  | 5 => decide (new < 2 ^ 17) && decide (fld old 15 0 ≤ fld new 15 0) && (!bitOf old 16 || bitOf new 16)
  | _ => false

/-- A ROOTS write needs an image verified under the owner hash in force now. -/
def State.fuseAuthorised (s : State) (r : Nat) : Bool :=
  r != 3 || s.latestFuse 3 / 2 ^ 384 == 0 || (s.start.boot.ownerVerified && s.fuseInForce 3 == some (s.latestFuse 3))

/-- The slot after the highest written one. -/
def State.nextSlot (s : State) (r : Nat) : Nat :=
  match [3, 2, 1, 0].find? fun g => (s.fuseSlot r g).isSome with
  | some g => g + 1
  | none => 0

def execFuseArm (path : Path) (key : BitVec 16) (s : State) : Host.Outcome State Fault Refusal :=
  .next (s.via path Reg.otpFuseArm fun s =>
    { s with start := { s.start with armed := if key = 0x5A3C then some s.now else none } })

/-- CMD = 1: the payload is checked and programming begins. The arming serves one command. -/
def execFuseProgram (path : Path) (s : State) : Host.Outcome State Fault Refusal :=
  .next (s.via path Reg.otpFuseCmd fun s =>
    if s.start.burn.isSome then s.otpBusyIgnored else
    let armed := s.start.armed.any fun t => decide (s.since t ≤ 1000000)
    let s := { s with start := { s.start with armed := none } }
    let r := s.fuseRecord
    let new := s.fuseStaged r
    if 6 ≤ r then s.fuseResult 3
    else if !armed then s.fuseResult 1
    else if 4 ≤ s.nextSlot r then s.fuseResult 2
    else if r = 0 then s.fuseResult 3
    else if !s.fuseMonotonic r new then s.fuseResult 4
    else if !s.fuseAuthorised r then s.fuseResult 5
    else { s with start := { s.start with burn := some (r, s.nextSlot r, BitVec.ofNat 1432 new) } })

/-- Programming ends and the slot is read back. -/
def execFuseProgramDone (intact : Bool) (s : State) : Host.Outcome State Fault Refusal :=
  match s.start.burn with
  | none => .next s
  | some (r, g, x) =>
    let s := { s with start := { s.start with
        burn := none, fuses := Sparse.set none s.start.fuses (r * 4 + g) (some { payload := x, checkOk := intact }) } }
    .next (if intact then (s.fuseResult 0).setBit Reg.otpEvent 4 else s.fuseResult 6)

/-- CMD = 2: the record in force goes to OTP_STAGE_n; SECRET reads as zero (R376, DEDUCED, log 72). -/
def execFuseRead (path : Path) (s : State) : Host.Outcome State Fault Refusal :=
  .next (s.via path Reg.otpFuseCmd fun s =>
    if s.start.burn.isSome then s.otpBusyIgnored else
    let r := s.fuseRecord
    if 6 ≤ r then s.fuseResult 3 else
    let x := (s.fuseInForce r).getD 0
    let x := if r = 0 then setFld x 390 135 0 else x
    ((List.range 32).foldl (fun s n => s.wr (Reg.otpStage n) (BitVec.ofNat 32 (x / 2 ^ (32 * n)))) s).fuseResult 0)

/-! ### Staging (R370) -/

def State.imageAddr (s : State) : Nat := s.rdFld Reg.otpImgLo 31 12 * 4096 + s.rdFld Reg.otpImgHi 15 0 * 2 ^ 32
def State.imageResult (s : State) (r : Nat) : State := s.wrFld Reg.otpImgStatus 7 4 r
def State.modImage (s : State) (f : Staging → Staging) : State := { s with start := { s.start with image := f s.start.image } }

/-- STAGE: the image is verified against the fuses' latest generations; programming of the slot that did not boot begins. -/
def execImageStage (path : Path) (s : State) : Host.Outcome State Fault Refusal :=
  .next (s.via path Reg.otpImgCmd fun s =>
    if s.start.image.busy then s.otpBusyIgnored else
    let a := s.imageAddr
    let head := s.tenBytes 0 a 4096
    let s := s.meet 0 a 4096
    match head with
    | none => s.imageResult 11
    | some h =>
      if (s.highestValid 0).isNone || (s.highestValid 3).isNone then s.imageResult 8 else
      if !headerOk h then s.imageResult 2 else
      let whole := s.tenBytes 0 a (max 4096 (leAt h 8 4))
      let s := s.meet 0 a (max 4096 (leAt h 8 4))
      match whole with
      | none => s.imageResult 11
      | some img =>
        let c := imageCode (s.latestFuse 3) (fld (s.latestFuse 5) 15 0) img
        if c != 0 then s.imageResult c else s.modImage fun g => { g with busy := true, image := img })

/-- Programming and read-back end: the boot control block comes last. Of a slot that fails, the header's bytes are not known. -/
def execImageStageDone (ok : Bool) (s : State) : Host.Outcome State Fault Refusal :=
  if !s.start.image.busy then .next s else
  let slot := !s.start.boot.slotB
  let s := s.flashErase (slotBase slot) maxImage
  let s := s.modImage fun g => { g with busy := false }
  if ok then
    let s := (s.flashWrite (slotBase slot) s.start.image.image).writeBcb slot true 0
    .next ((s.modImage fun g => { g with staged := true, slotB := slot }).imageResult 0)
  else
    let n := s.fresh
    .next ((n.2.flashWrite (slotBase slot) ((List.range 4096).map (Config.imageByte n.1))).imageResult 12)

/-! ### Activation (R371, R372) -/

/-- The partitions whose job holds at action 6 of its boundary; every other one is held at once, or when its running
invocation ends. -/
def State.holdIdle (s : State) : State := (List.range 8).foldl (fun s p =>
  if (s.part p).job.isSome then s else s.modPart p fun x => { x with holdActivation := true }) s

def execImageActivate (path : Path) (s : State) : Host.Outcome State Fault Refusal :=
  .next (s.via path Reg.otpImgCmd fun s =>
    let g := s.start.image
    if g.busy then s.otpBusyIgnored
    else if !g.staged then s.imageResult 9
    else if linksItem g.image != s.start.boot.links then s.imageResult 10
    else if g.pending then s.imageResult 0
    else ((s.modImage fun g => { g with pending := true, swapped := 0 }).imageResult 0).holdIdle)

/-- A partition is held: no invocation of it runs, or its job stands at its boundary. -/
def State.heldForActivation (s : State) (p : Nat) : Bool :=
  let x := s.part p
  if x.jobActive then x.holdActivation && x.action == 6
  else !(s.contextsOn p).any fun e => e.2.running.any fun i => !i.preempted

/-- Started commands have completed (R272), and so has every KROT of a held job (R155, R162). LAUNCH and START persist, and an INVOKE
whose invocation is not running waits on with its context (R372). -/
def State.quiesced (s : State) : Bool :=
  (s.chan.cmds.all fun c => !c.started || c.status.isSome || c.opc == 0x02 || c.opc == 0x03 || c.opc == 0x04) &&
  s.kal.krots.all fun k => !(s.part (s.partOf k.tile)).jobActive

/-- Fetched commands of a channel that have not started stand in its ring again (Table 11.10). -/
def State.unfetch (s : State) (ch : Nat) : State :=
  match (s.cmdsOf ch).find? (!·.started) with
  | none => s
  | some c => { s.setCh ch (withSqHead (s.chEntry ch) c.index.toNat) with
      chan := { (s.setCh ch (withSqHead (s.chEntry ch) c.index.toNat)).chan with
        cmds := s.chan.cmds.filter fun d => d.chan != ch || d.started } }

/-- A new ring version fences every ACTIVE or STOPPED channel (Table 11.10); destroy alone leads out of ERROR (R251). -/
def State.fenceVersions (s : State) : State :=
  let chs := (s.chan.chans.filter fun e => chState e.2.toNat == 1 || chState e.2.toNat == 2).map (·.1)
  let s := chs.foldl (fun s ch => (s.unfetch ch).setCh ch (withState ((s.unfetch ch).chEntry ch) 3)) s
  (dedup (chs.map fun ch => cTenant (s.chEntry ch))).foldl (fun s v => (s.setBit (Reg.tenEvent v) 7).sendMsix v 0) s

/-- One half of the service cores restarts on the new firmware; the second one completes the swap. -/
def execActivationSwap (s : State) : Host.Outcome State Fault Refusal :=
  let g := s.start.image
  if !g.pending || g.swapped ≥ 2 || !s.partList.all s.heldForActivation || !s.quiesced then .next s
  else if g.swapped = 0 then .next (s.modImage fun g => { g with swapped := 1 })
  else
    let rver := BitVec.ofNat 4 (leAt g.image 0x18 1)
    let old := s.start.boot.rver
    let s := (s.modImage fun g => { g with swapped := 2 }).modBoot fun b => { b with
      fwver := BitVec.ofNat 64 (leAt g.image 0x10 8), svn := BitVec.ofNat 16 (leAt g.image 0xC 2), rver := rver }
    .next (if rver = old then s else s.fenceVersions)

/-- Release every partition that an activation holds. -/
def State.releaseActivation (s : State) : State := (List.range 8).foldl (fun s p =>
  s.modPart p fun x => { x with holdActivation := false }) s

/-- Both halves run the new firmware: an ITEMS record for each job, PENDING clears, the partitions go on. -/
def execActivationRelease (s : State) : Host.Outcome State Fault Refusal :=
  let g := s.start.image
  if !g.pending || g.swapped < 2 then .next s else
  let s := s.partList.foldl (fun s p => match (s.part p).job with
    | some j => if j.launchCount.isNone && (s.part p).jobActive then s.refreshItems p j else s
    | none => s) s
  .next (((s.modImage fun g => { g with pending := false, swapped := 0 }).releaseActivation).setBit Reg.otpEvent 3)

/-- CANCEL, until the swap begins. -/
def execActivateCancel (path : Path) (s : State) : Host.Outcome State Fault Refusal :=
  .next (s.via path Reg.otpImgCmd fun s =>
    let g := s.start.image
    if !g.pending || g.swapped != 0 then s else (s.modImage fun g => { g with pending := false }).releaseActivation)

end Sys2Proof.Machine
end

