-- ==== Sys2Proof/Machine/MemCmds.lean ====
section
/-!
DEFINITION. The commands of the memories (10): patrol scrub, the two phases of add-on-write and its completion, and the
Aperture window.
-/

namespace Sys2Proof.Machine

/-! ### Patrol scrub (R222) -/

/-- The last word of HBM: a patrol that has read it has passed once over all of HBM. -/
def lastHbmWord (w : Nat) : Bool := w == 0xC000000000 / 64 - 1

/-- A patrol read of one word. A correctable error is corrected and counted; an uncorrectable one is left as it is. -/
def execPatrolScrub (da : BitVec 40) (finding : ScrubFinding) (s : State) : Host.Outcome State Fault Refusal :=
  if !s.rdBit Reg.memScrubCfg 0 || !isHbm da.toNat || s.flt.memReset || !s.blockOn 10 then .next s else
  let w := da.toNat / 64
  let k := stackOf da.toNat
  let s := { s with mem := { s.mem with scrubPos := BitVec.ofNat 40 (w * 64) } }
  let s := if lastHbmWord w then s.setBit Reg.memEvent 5 else s
  let s := if finding == .miscorrected && !s.mem.memBad.contains w then s.inject [.hbmMiscorrected da] else s
  let soft := finding == .correctable || (s.mem.memSoft.contains w && !s.mem.memBad.contains w)
  let bad := finding == .uncorrectable || s.mem.memBad.contains w
  if bad then
    let s := (s.bump (Reg.memUeCnt k) 1).setBit Reg.memEvent 2
    .next { s with mem := { s.mem with memBad := dedup (s.mem.memBad ++ [w]),
                                       ueAddr := Sparse.set 0 s.mem.ueAddr k (BitVec.ofNat 40 (w * 64)) } }
  else if soft then
    let s := { s with mem := { s.mem with memSoft := s.mem.memSoft.filter (· != w) } }
    .next ((s.noteHbmCe k).bump (Reg.memScrubCnt k) 1)
  else .next s

/-! ### Add-on-write (R232-R235) -/

def State.aowFinish (s : State) (t op req status : Nat) : State :=
  { s with mem := { s.mem with
      aowDone := s.mem.aowDone ++ [{ tile := t, op := op, req := req, status := BitVec.ofNat 3 status }] } }

def State.aowCount (s : State) (n : Nat) : State :=
  { s with mem := { s.mem with aowBytes := s.mem.aowBytes + BitVec.ofNat 64 n } }

/-- Uncorrectable words of a range, each met and counted; the addresses outside them. -/
def State.aowMeet (s : State) (da n : Nat) : Bool × List Nat × State :=
  let bad := s.mem.memBad.filter fun w => (span da n).any fun a => a / 64 == w
  (!bad.isEmpty, (span da n).filter (fun a => !bad.contains (a / 64)), bad.foldl (fun s w => s.noteHbmUe (w * 64)) s)

/-- binary32 adds of a request: the words outside uncorrectable ones. -/
def State.aowF32 (s : State) (t op req : Nat) (r : AowReq) : State :=
  let m := s.aowMeet r.da r.data.length
  let old := m.2.2.readDev m.2.1
  let s := old.st
  let new := bytes32 (List.zipWith addF32 (words32 (s.devBytes r.da r.data.length)) (words32 r.data))
  let s := (s.writeDev (((span r.da r.data.length).zip new).filter fun e => m.2.1.contains e.1)).2
  (s.aowCount m.2.1.length).aowFinish t op req (if m.1 then 2 else 0)

/-- Data pieces of a block request: WS64 travels as one, WS128 as four of 256 bytes (R234). -/
def aowSplit (t op req : Nat) (r : AowReq) (init : Bool) : List AowPiece :=
  let w := if r.op = 1 then 64 else 128
  (chunks (if w = 64 then 512 else 256) r.data).mapIdx fun i d =>
    { tile := t, op := op, req := req, side := r.side, da := r.da + 256 * i, width := w, init := init, data := d, ue := false }

/-- The anchor phase of a block request at the stack of its side entry; a block whose anchor is EMPTY carries zeros (R87). -/
def State.aowAnchor (s : State) (t op req : Nat) (r : AowReq) : State :=
  if s.mem.initBlocks.any (·.side == r.side) then
    { s with mem := { s.mem with heldAow := s.mem.heldAow ++ [(t, op, req)] } } else
  let g := s.readDev (span r.side 16)
  match g.bad with
  | some _ => g.st.aowFinish t op req 2
  | none =>
    let s := g.st
    let mine := BitVec.ofNat 128 (bytesToNat r.sideBytes)
    let tgt := BitVec.ofNat 128 (bytesToNat g.bytes)
    let k := stackOf r.side
    if sideAnchor tgt != wsEmpty && sideAnchor mine != wsEmpty && sideAnchor tgt != sideAnchor mine then
      let s := (s.bump (Reg.memAowMisCnt k) 1).setBit Reg.memEvent 3
      { s with mem := { s.mem with mismatchAddr := Sparse.set 0 s.mem.mismatchAddr k (BitVec.ofNat 40 r.side) } }.aowFinish
        t op req 1
    else
      let init := sideAnchor tgt == wsEmpty
      let m := s.aowMeet r.da r.data.length
      if init && m.1 then m.2.2.aowFinish t op req 2 else
      let s := (s.writeDev ((span r.side 16).zip (natToBytes 16 (sideJoin tgt mine).toNat))).2
      let ps := aowSplit t op req (if sideAnchor mine == wsEmpty then { r with data := r.data.map fun _ => 0 } else r) init
      { s with mem := { s.mem with
          pieces := s.mem.pieces ++ ps,
          initBlocks := if init then s.mem.initBlocks ++ [{ side := r.side, left := ps.length }] else s.mem.initBlocks } }

/-- A request reaches its stack, once. -/
def State.aowArrive (s : State) (t op req : Nat) : State :=
  match ((s.tile t).op op).bind fun o => o.aow[req]? with
  | none => s
  | some r => if r.op = 0 then s.aowF32 t op req r else s.aowAnchor t op req r

/-- Whether a request is on its way already. -/
def State.aowSeen (s : State) (t op req : Nat) : Bool :=
  s.mem.pieces.any (fun p => p.tile == t && p.op == op && p.req == req) || s.mem.heldAow.contains (t, op, req) ||
  s.mem.aowDone.any (fun d => d.tile == t && d.op == op && d.req == req)

def execAowRequest (t : Fin 64) (op request : Nat) (errs : List CellError) (s : State) : Host.Outcome State Fault Refusal :=
  let s := s.inject errs
  match ((s.tile t.val).op op).bind fun o => o.aow[request]? with
  | none => .next s
  | some r =>
    if r.status.isSome || s.aowSeen t.val op request || s.flt.memReset then .next s else
    .next ((s.pmcHbm (stackOf (if r.op = 0 then r.da else r.side)) 0x43 1).aowArrive t.val op request)

/-- Elements of a data piece after it: written by an initialising request, added by any other. -/
def pieceData (p : AowPiece) (old : List Byte) : List Byte :=
  if p.init then p.data else
  let n := p.width / 8
  (List.zipWith (fun a b => natToBytes n ((bytesToNat a + bytesToNat b) % 2 ^ p.width)) (chunks n old) (chunks n p.data)).flatten

/-- A data piece reaches its stack, or has reached it. -/
def State.pieceDone (s : State) (piece : Nat) : State :=
  match s.mem.pieces[piece]? with
  | none => s
  | some p =>
    let n := p.data.length
    let m := if p.init then (false, span p.da n, s) else s.aowMeet p.da n
    let s := if p.init then m.2.2 else (m.2.2.readDev m.2.1).st
    let new := pieceData p (s.devBytes p.da n)
    let s := (s.writeDev (((span p.da n).zip new).filter fun e => m.2.1.contains e.1)).2
    let ue := p.ue || m.1
    let same := fun (q : AowPiece) => q.tile == p.tile && q.op == p.op && q.req == p.req
    let rest := (s.mem.pieces.eraseIdx piece).map fun q => if same q then { q with ue := q.ue || ue } else q
    let s := { s with mem := { s.mem with
        pieces := rest,
        initBlocks := if p.init then s.mem.initBlocks.map fun (b : InitBlock) => if b.side == p.side then { b with left := b.left - 1 } else b
          else s.mem.initBlocks } }
    let s := s.aowCount m.2.1.length
    if rest.any same then s else s.aowFinish p.tile p.op p.req (if ue then 2 else 0)

/-- A data piece cut off in flight leaves each element old or new (R235); which is free (DESIGN CHOICE, log 204). -/
def State.settlePiece (s : State) (p : AowPiece) : State :=
  let n := s.fresh
  let s := n.2
  let w := p.width / 8
  let old := s.devBytes p.da p.data.length
  let new := pieceData p old
  (s.writeDev (((span p.da p.data.length).zip new).filter fun e => Config.elementDone n.1 ((e.1 - p.da) / w))).2

/-- While a memory-domain reset runs, the mesh holds what has not reached its stack (R344). -/
def execAowDataPiece (piece : Nat) (s : State) : Host.Outcome State Fault Refusal :=
  .next (if s.flt.memReset then s else s.pieceDone piece)

/-- The last write of an initialising request completes: later requests to the block go on in arrival order. -/
def execAowInitDone (side : BitVec 40) (s : State) : Host.Outcome State Fault Refusal :=
  if !s.mem.initBlocks.any (fun b => b.side == side.toNat && b.left == 0) then .next s else
  let at' := fun (h : Nat × Nat × Nat) =>
    match ((s.tile h.1).op h.2.1).bind fun o => o.aow[h.2.2]? with
    | some r => r.side == side.toNat
    | none => true
  let mine := s.mem.heldAow.filter at'
  let s := { s with mem := { s.mem with initBlocks := s.mem.initBlocks.filter (·.side != side.toNat),
                                        heldAow := s.mem.heldAow.filter fun h => !at' h } }
  .next (mine.foldl (fun s h => s.aowArrive h.1 h.2.1 h.2.2) s)

/-- A completion reaches the issuing operation; UE faults its tile (R234). -/
def execAowCompletion (k : Nat) (s : State) : Host.Outcome State Fault Refusal :=
  match s.mem.aowDone[k]? with
  | none => .next s
  | some d =>
    let da := ((((s.tile d.tile).op d.op).bind fun o => o.aow[d.req]?).map (·.da)).getD 0
    let s := { s with mem := { s.mem with aowDone := s.mem.aowDone.eraseIdx k } }
    let s := s.modTile d.tile fun x => { x with ops := x.ops.map fun o =>
      if o.id == d.op then { o with aow := o.aow.mapIdx fun i r => if i = d.req then { r with status := some d.status } else r }
      else o }
    .next (if d.status = 2 then s.trouble d.tile (.mem da) else s)

/-! ### The Aperture window (R227-R229, R242) -/

def State.aptSel (s : State) : Nat × Nat := (s.rdFld Reg.aptWSel 16 8, s.rdFld Reg.aptWSel 5 0)

/-- A window command runs unless one is running. -/
def State.aptCmd (s : State) (path : Path) (f : State → State) : State :=
  s.via path Reg.aptWCmd fun s => if s.rdBit Reg.aptWStatus 0 then s.setBit Reg.aptEvent 0 else f s

def execAptCommit (path : Path) (s : State) : Host.Outcome State Fault Refusal :=
  .next (s.aptCmd path fun s =>
    let r := s.aptCommit s.aptSel.1 s.aptSel.2 (s.staged (Reg.aptWData 0) 16)
    let s := (r.2.wrFld Reg.aptWStatus 7 4 r.1.result).wrFld Reg.aptWStatus 13 8 r.1.off
    if r.1.result = 0 then s else { s with apt := { s.apt with badEntry := BitVec.ofNat 24 r.1.entry } })

def execAptInvalidate (path : Path) (keep : Bool) (s : State) : Host.Outcome State Fault Refusal :=
  .next (s.aptCmd path fun s =>
    ((s.aptDrop s.aptSel.1 s.aptSel.2 keep).wrFld Reg.aptWStatus 7 4 0).wrFld Reg.aptWStatus 13 8 0)

def execAptRead (path : Path) (s : State) : Host.Outcome State Fault Refusal :=
  .next (s.aptCmd path fun s =>
    ((s.stage (Reg.aptWData 0) 16 (s.aptDesc s.aptSel.1 s.aptSel.2)).wrFld Reg.aptWStatus 7 4 0).wrFld Reg.aptWStatus 13 8 0)

/-- The requests of operations, still outstanding at the end of a drain: their data pieces are cut off, an initialising one's block
is released by AOW_INIT_DONE once none of its pieces is left. -/
def State.cutRequests (s : State) (mine : Nat → Nat → Bool) : State :=
  let s := (s.mem.pieces.filter fun p => mine p.tile p.op).foldl State.settlePiece s
  let rest := s.mem.pieces.filter fun p => !mine p.tile p.op
  { s with mem := { s.mem with
      pieces := rest
      heldAow := s.mem.heldAow.filter fun h => !mine h.1 h.2.1
      aowDone := s.mem.aowDone.filter fun d => !mine d.tile d.op
      initBlocks := s.mem.initBlocks.map fun b => { b with left := min b.left (rest.countP fun p => p.init && p.side == b.side) } } }

/-- An operation whose outstanding requests complete with STATUS 3 APERTURE: with its last request it completes, its event counter
rising (R234). -/
def State.endByAperture (s : State) (t id : Nat) : State :=
  (s.modTile t fun x => { x with ops := x.ops.map fun o =>
    if o.id == id then { o with aow := o.aow.map fun r => { r with status := some (r.status.getD 3) } } else o }).finishOp t id

/-- 20 µs after the drain began: every request outstanding completes with APERTURE, a COPY with status APERTURE, each issuing tile
faults, DRAIN_ERR is set, and the drain ends. -/
def execAptDrainTimeout (s : State) : Host.Outcome State Fault Refusal :=
  match s.apt.drain with
  | none => .next s
  | some x =>
    let s := s.reach (x.since.toNat + 20000)
    let v := x.key / 64
    let d := x.old.toNat
    let ops := s.throughApt v d
    let lines := s.linesLeft x
    let copies := s.copiesThrough v d
    let s := (s.setBit Reg.aptEvent 1).cutRequests fun t op => ops.any fun e => e.1 == t && e.2.id == op
    let s := { s with apt := { s.apt with drain := none } }
    let s := lines.foldl (fun s e => s.modTile e.1 fun y => { y with fetching := y.fetching.filter (· != e.2) }) s
    let s := copies.foldl (fun s c => s.complete c.chan c.index stAperture 0 0) s
    let s := ops.foldl (fun s e => s.endByAperture e.1 e.2.id) s
    let s := (dedup (ops.map (·.1) ++ lines.map (·.1))).foldl (fun s t => s.trouble t (.gone (aptBase d))) s
    .next (s.finishDrain x).retryBells

/-- Zero the 2 MiB granules of HBM that a test names. -/
def State.zeroGranules (s : State) (hit : Nat → Bool) : State :=
  { s with mem := { s.mem with dram := s.mem.dram.filter fun e => !(isHbm e.1 && hit (e.1 / 2 ^ 21)),
                               memBad := s.mem.memBad.filter fun w => !hit (w / 2 ^ 15),
                               memSoft := s.mem.memSoft.filter fun w => !hit (w / 2 ^ 15) } }

/-- The released granules are zero: a commit that waits for one of them takes effect, and BUSY clears. -/
def State.zeroReleased (s : State) : State :=
  if s.apt.zeroing.isEmpty then s else
  let s := s.zeroGranules s.apt.zeroing.contains
  let s := ({ s with apt := { s.apt with zeroing := [] } }.clrBit Reg.memStatus 1).setBit Reg.aptEvent 2
  match s.apt.waiting with
  | none => s.aptBusy false
  | some (d, es, key) => ({ s with apt := { s.apt with waiting := none } }.installApt key d es).aptBusy false

def execGranuleZeroDone (s : State) : Host.Outcome State Fault Refusal := .next s.zeroReleased

end Sys2Proof.Machine
end

