-- ==== Sys2Proof/Machine/Resets.lean ====
section
/-!
DEFINITION. Watchdogs and resets (15 R337-R339, R343-R347, R359): the compute-domain reset and its phases, the memory-domain
and the control-domain reset, and what each does to the commands, jobs and tables of the chip.
-/

namespace Sys2Proof.Machine

/-! ### The compute-domain reset (R343, Table 15.5) -/

/-- A reset that no fault sets off: its own record, then R + 0. One that runs already goes on (R359). -/
def State.orderReset (s : State) (source : Nat) : State :=
  if s.pkg.heldBy.isSome || s.flt.run.isSome then s else
  (s.logEvent { kind := 2, source := source, action := 1 }).startReset none none (source == 0x09)

/-- The reset of the lowest tile that stands faulted. A fault begins its own reset (R118), so with one running, or the chip
held, there is none left to begin. -/
def State.resetByFault (s : State) : State :=
  if s.pkg.heldBy.isSome then s else
  match (List.range 64).find? fun t => (s.tile t).faulted with
  | some t => s.startReset (some t) (some (s.tenantOf t)) false
  | none => s

def execComputeReset (source : ResetSource) (s : State) : Host.Outcome State Fault Refusal :=
  .next (match source with
    | .admin => s.orderReset 0x09
    | .dmOrder => s.orderReset 0x0A
    | .fault => s.resetByFault)

/-- RESET_COMPUTE stays set until the reset ends. -/
def execResetCompute (path : Path) (s : State) : Host.Outcome State Fault Refusal :=
  .next (s.via path Reg.fltCtrl fun s => (s.setBit Reg.fltCtrl 0).orderReset 0x09)

/-- The bytes that an operation had still to write, in tenant memory, are free. -/
def State.freeSpan (s : State) (v lo n : Nat) : State :=
  (pages lo n).foldl (fun s e => match s.tenAt v e.1 with
    | some da => s.freeBytes da e.2
    | none => s) s

/-- Requests still outstanding are answered with errors: what they were to write is old, new or neither. -/
def State.dropRequests (s : State) : State :=
  let s := s.mem.pieces.foldl State.settlePiece s
  let s := (List.range 8).foldl State.cutPass s
  let s := s.tiles.foldl (fun s e => e.2.ops.foldl (fun s o =>
    (o.writes.filter (·.space == 1)).foldl (fun s x => s.freeSpan (s.tenantOf e.1) x.lo (x.hi - x.lo)) s) s) s
  let s := (s.chan.cmds.filter fun c => c.opc == 0x09 && c.started && c.status.isNone).foldl (fun s c =>
    s.freeSpan (cTenant (s.chEntry c.chan)) (c.arg 0x10 48) (c.arg 0x18 40)) s
  { s with mem := { s.mem with pieces := [], heldAow := [], initBlocks := [], aowDone := [] } }

/-- Extents in flight end ABORTED and are listed as failed (12 R293); what they had written is free. -/
def State.abortExtents (s : State) : State :=
  s.ing.fetches.foldl (fun s f =>
    let owner := match s.wset f.set with
      | some w => w.owner
      | none => f.tenant
    (((List.range f.keys.length).filter fun i => !f.ended.contains i).foldl (fun (acc : FetchRun × State) i =>
      let s := (xRanges (f.list.getD i 0).toNat).foldl (fun s r => s.freeSpan owner (f.base + r.1) r.2) acc.2
      let n := s.fresh
      let size := (xRanges (f.list.getD i 0).toNat).foldl (fun n r => n + r.2) 0
      n.2.noteExtent acc.1 i exAborted (min size (Config.abortedBytes n.1))) (f, s)).2) s

/-- The step in progress of a partition's job is abandoned: its ABANDONED record (R348). -/
def State.abandonedRecord (s : State) (p : Nat) : State :=
  let x := s.part p
  match x.job, x.led with
  | some j, some l =>
    if x.jobOn && !l.frozen && (x.stepOpen || (decide (0 < x.action) && decide (x.action < 5))) then (s.stepRecord p 3 j l).2
    else s
  | _, _ => s

/-- Whether anything of HBM or of a tenant's memory is still outstanding. -/
def State.outstanding (s : State) : Bool :=
  !s.mem.pieces.isEmpty || !s.mem.heldAow.isEmpty || s.tiles.any fun e => e.2.ops.any fun o =>
    (o.reads ++ o.writes).any (·.space == 1)

/-- 20 µs after its start: notices to the peers, errors for what is outstanding, and the dump begins. -/
def execResetDrainTimeout (s : State) : Host.Outcome State Fault Refusal :=
  match s.flt.run with
  | none => .next s
  | some r =>
    if r.phase != 1 then .next s else
    let s := (s.reach (r.since.toNat + 20000)).sourceNotices
    let s := if s.outstanding then s.setBit Reg.aptEvent 1 else s
    let s := s.dropRequests.abortExtents
    let s := (List.range 8).foldl State.abandonedRecord s
    let s := (s.wrFld Reg.fltStatus 2 0 2).openDump
    .next { s with flt := { s.flt with run := some { r with phase := 2 } } }

/-- A tile after the reset of the compute domain, while the LS scrub runs. -/
def Tile.scrubbed (x : Tile) : Tile := { Tile.reset with bistFailed := x.bistFailed, scrubbing := true }

/-- The dump is written, VALID last; then the LS scrub (R54), and the engines' tables are invalid. -/
def execDumpDone (s : State) : Host.Outcome State Fault Refusal :=
  match s.flt.run with
  | none => .next s
  | some r =>
    if r.phase != 2 then .next s else
    let s := (s.writeDump r.record r.guilty).setBit Reg.fltEvent 6
    let s := (List.range 64).foldl (fun s t => s.modTile t Tile.scrubbed) s
    let s := { s with
      mem := { s.mem with ls := [], lsBad := [], lsSoft := [], accBad := [] }
      loupe := []
      prism := Prism.reset
      kal := { Kal.reset with sent := s.kal.sent, received := s.kal.received }
      flt := { s.flt with run := some { r with phase := 4, scrubAt := s.now } } }
    .next ((s.wrFld Reg.fltStatus 2 0 4).setBit Reg.memStatus 0)

/-- The granules of Volatile Apertures (R230). -/
def State.volatileGranules (s : State) : List Nat :=
  (s.apt.granules.filter fun e => e.2 != 0 && !(Sparse.get false s.apt.granuleClass e.1)).map (·.1)

/-- DETAIL bit 0 of an aborted command: the fault record names its tenant (R341). -/
def ResetRun.names (r : ResetRun) (v : Nat) : Nat := b2n (r.guiltyTenant == some v)

/-- The end of a job on a partition: its cut or restore fails, an END record, its LAUNCH with ABORTED_RESET. -/
def State.abortJob (s : State) (r : ResetRun) (p : Nat) : State :=
  match (s.part p).job with
  | none => s
  | some j =>
    let d := r.names j.tenant
    let x := s.part p
    let s := if x.ckpt.cutStep.isSome then ((s.ckptState p 0).ckptOutcome p (some 0)).tellCut j.jobId true else s
    let s := if j.restoring then (s.ckptState p 0).ckptOutcome p (some 0) else s
    (s.endRecord p stAborted d).finishJob p stAborted { j with endDetail := d }

/-- Whether a ring lies in a Volatile Aperture. -/
def State.ringVolatile (s : State) (v a n : Nat) : Bool := match s.aptOf v a n with
  | some i => let d := s.aptDesc v i
              !aptRetained d && !aptSpill d
  | none => false

/-- RESULT of an aborted command: frames run, of an INVOKE; the last step closed, of a LAUNCH. -/
def State.abortedResult (s : State) (c : ExecCmd) : Nat :=
  let runs := (s.chan.contexts.filterMap fun e => e.2.bind (·.running)).find? fun i => i.chan == c.chan && i.index == c.index
  let job := ((List.range 8).filterMap fun p => (s.part p).job).find? fun j => j.chan == c.chan && j.cmdIndex == c.index
  match runs, job with
  | some i, _ => i.frames
  | none, some j => j.result
  | none, none => 0

/-- The commands of a ring that were not fetched, as commands in execution. -/
def State.ringCmds (s : State) (ch : Nat) : List ExecCmd :=
  let e := s.chEntry ch
  (List.range (dist32 (cSqTail e) (cSqHead e))).map fun k =>
    let n := (cSqHead e + k) % 2 ^ 32
    { chan := ch, index := BitVec.ofNat 32 n, gen := BitVec.ofNat 16 (cGen e),
      words := BitVec.ofNat 512 (s.tenNat (cTenant e) (cSqBase e + 64 * (n % 2 ^ cSqLog e)) 64),
      started := true, rung := s.rungAt ch n, status := none, acct := [] }

/-- The commands of a channel across the reset (Table 11.10). Those in execution on a channel in ERROR end without a record. -/
def State.abortChannel (s : State) (r : ResetRun) (ch : Nat) : State :=
  let e := s.chEntry ch
  let v := cTenant e
  let st := chState e
  if st = 0 then s else
  let mine := s.cmdsOf ch
  let ring := if st = 3 || st = 4 then [] else s.ringCmds ch
  let empty := fun (s : State) => if st = 3 || st = 4 then s else
    ({ s with chan := { s.chan with bells := Sparse.set [] s.chan.bells ch [] } }).setCh ch (withSqHead (s.chEntry ch) (cSqTail e))
  if s.ringVolatile v (cSqBase e) (64 * 2 ^ cSqLog e) || s.ringVolatile v (cCqBase e) (32 * 2 ^ cCqLog e) then
    let s := s.account v 5 (mine.length + ring.length)
    let s := { s with chan := { s.chan with cmds := s.chan.cmds.filter (·.chan != ch) } }
    if st = 4 then s else (empty s).chError ch 4 (cSqHead e)
  else
    let s := empty { s with chan := { s.chan with cmds := s.chan.cmds ++ ring } }
    (mine ++ ring).foldl (fun s c => if c.status.isSome then s
      else s.complete ch c.index stAborted (r.names v) (s.abortedResult c)) s

/-- Staged and pending values of the compute domain are discarded (Table 17.6). -/
def State.dropStaged (s : State) : State :=
  let keep := fun (e : Nat × Option Word) => match Reg.find e.1 with
    | some (_, r, _) => r.dom != .compute
    | none => true
  { s with rf := { s.rf with staged := s.rf.staged.filter keep, strobed := s.rf.strobed.filter keep } }

/-- A partition after the reset: nothing runs on it, its frame and step numbers stand (Table 2.5). -/
def Part.stopped (x : Part) : Part :=
  { Part.reset with
    l := x.l, f := x.f, p := x.p, d := x.d, step := x.step, closing := x.closing, lastTick := x.lastTick, setMhz := x.setMhz,
    lastTenant := x.lastTenant, repro := x.repro, mv2 := x.mv2, cyc := x.cyc,
    stepTicks := x.stepTicks, stepLost := x.stepLost, closedTicks := x.closedTicks, closedLost := x.closedLost,
    heldBack := x.heldBack, ledShow := x.showLedger, normPart := x.normPart, ouuBytes := x.ouuBytes, ouuGtc := x.ouuGtc, ouuStep := x.ouuStep,
    ckpt := { x.ckpt with cutStep := none, releaseWait := false } }

/-- A memory-domain reset begins: every new HBM request is held and every stack retrains (R344). -/
def State.startMemReset (s : State) (source : Nat) : State :=
  if s.flt.memReset then s else
  let s := (s.logEvent { kind := 2, source := source, action := 2 }).bumpFld Reg.fltResetCnt 23 16 1
  let s := (s.wrFld Reg.fltStatus 2 0 5).wrFld Reg.fltStatus 10 8 2
  { s with flt := { s.flt with memReset := true } }

/-- A memory-domain reset waits for a compute-domain reset that runs (R359). -/
def State.orderMemReset (s : State) (source : Nat) : State :=
  if s.pkg.heldBy.isSome then s else
  match s.flt.run with
  | some r => { s with flt := { s.flt with run := some { r with memWaiting := true } } }
  | none => s.startMemReset source

/-- PHASE once no compute-domain reset runs. -/
def State.restPhase (s : State) : State :=
  s.wrFld Reg.fltStatus 2 0 (if s.flt.memReset then 5 else if s.flt.ctlReset then 6 else 0)

/-- The Volatile granules are zero: commands complete, FENCED clears, vector 0 goes out; HALTED clears, and TEST_HOLD unless a test
control is off its value. -/
def execResetEnd (s : State) : Host.Outcome State Fault Refusal :=
  match s.flt.run with
  | none => .next s
  | some r =>
    if r.phase != 4 then .next s else
    let s := (List.range 64).foldl (fun s t => s.modTile t fun x => { x with scrubbing := false }) s.zeroReleased
    let vol := s.volatileGranules
    let s := s.zeroGranules vol.contains
    let s := (s.chan.chans.map (·.1)).foldl (fun s ch => s.abortChannel r ch) s
    let s := (List.range 8).foldl (fun s p => s.abortJob r p) s
    let s := (List.range 8).foldl (fun s p => s.modPart p Part.stopped) s
    let s := { s with
      chan := { s.chan with contexts := [], images := [], sems := [], credit := [] }
      ing := { s.ing with fetches := [] } }
    let s := ((List.range 8).foldl (fun s p => s.clrBit (Reg.ouuCtrl p) 0) s).dropStaged.aptSettle
    let s := s.clrBit Reg.mgtStatus 20
    let s := { s with
      mgt := { s.mgt with haltWait := !s.mgt.haltN }
      port := { s.port with testHold := s.port.testHold && s.testBlocks != 0 }
      flt := { s.flt with run := none } }
    let s := (((s.clrBit Reg.memStatus 0).clrBit Reg.fltCtrl 0).restPhase).fenceVectors.settlePending.retryBells
    .next (if r.memWaiting then s.startMemReset 0x09 else s)

/-- A compute-domain reset that outlasts 100 ms escalates (R346). -/
def execResetWatchdog (s : State) : Host.Outcome State Fault Refusal :=
  .next (match s.flt.run with
    | some r => (s.reach (r.since.toNat + 100000000)).escalate (Config.resetSource 3).toNat
    | none => s)

/-! ### The memory-domain reset (R344) -/

def execMemoryReset (s : State) : Host.Outcome State Fault Refusal := .next (s.orderMemReset (Config.resetSource 0).toNat)

def execResetMemory (path : Path) (s : State) : Host.Outcome State Fault Refusal :=
  .next (s.via path Reg.fltCtrl fun s => (s.setBit Reg.fltCtrl 1).orderMemReset 0x09)

/-- The retrain ends: the writes that the stacks confirm are not written again, all else is issued again in order. One that
fails escalates (R346). -/
def execHbmRetrainDone (ok : Bool) (writesKept : List Nat) (s : State) : Host.Outcome State Fault Refusal :=
  if !s.flt.memReset then .next s
  else if !ok then .next (s.escalate (Config.resetSource 3).toNat)
  else
    let ks := sortBy (fun a b => decide (b ≤ a)) (dedup (writesKept.filter fun i => decide (i < s.mem.pieces.length)))
    let s := ks.foldl State.pieceDone s
    .next (({ s with flt := { s.flt with memReset := false } }).clrBit Reg.fltCtrl 1).restPhase

/-! ### The control-domain reset (R345) -/

/-- The manager roles of a chip whose control cores restart pass by takeover (R330, R345): the standby's chip manages the domain, or,
without one, no chip does (R331). -/
def State.passRoles (s : State) : State :=
  let s := if !s.isDm then s
    else if s.rdBit Reg.mgtDm 30 && !s.mgt.dmIsStandby then
      { s with mgt := { s.mgt with dmIsStandby := true } }.setParent (BitVec.ofNat 14 (s.rdFld Reg.mgtDm 29 16))
    else { s with mgt := { s.mgt with noDm := true } }
  ((s.clrBit Reg.mgtStatus 17).clrBit Reg.mgtStatus 18).clrBit Reg.mgtStatus 19

/-- After the restart the chip registers again; with no domain manager in the domain, the chip named DM_CHIP or STANDBY takes the
role (R331). Its board has another manager, or none (DESIGN CHOICE, log 199). -/
def State.rejoin (s : State) : State :=
  if !s.committed then s else
  let asDm := s.self.toNat == s.rdFld Reg.mgtDm 13 0
  let asStandby := s.rdBit Reg.mgtDm 30 && s.self.toNat == s.rdFld Reg.mgtDm 29 16
  if s.mgt.noDm && (asDm || asStandby) then
    { s with mgt := { s.mgt with noDm := false, dmIsStandby := !asDm } }.becomeRoot
  else (s.putBit Reg.mgtStatus 19 (asStandby && !s.mgt.dmIsStandby)).emit (.toChip s.dmChip "REGISTER" [s.self.toNat])

/-- The control cores restart: the manager roles pass, the chip holds over, companion code ends. A second reset within 10 s of
the first escalates (R346). -/
def State.startCtlReset (s : State) : State :=
  let again := match s.flt.lastCtl with
    | some t => decide (s.since t ≤ 10000000000)
    | none => false
  if again then s.escalate (Config.resetSource 3).toNat else
  let s := (s.bumpFld Reg.fltResetCnt 31 24 1).wrFld Reg.fltStatus 10 8 4
  let s := s.passRoles.setBit Reg.shtSyncStatus 1
  let s := { s with
    mgt := { s.mgt with jobs := [], standby := [], ready := [] }
    flt := { s.flt with ctlReset := true, lastCtl := some s.now, companionHeld := (List.range 24).map (8 + ·) } }
  if s.flt.run.isSome then s else s.restPhase

/-- The record of a control-domain reset, then the reset. -/
def State.orderCtlReset (s : State) (source : Nat) : State :=
  if s.pkg.heldBy.isSome then s else (s.logEvent { kind := 2, source := source, action := 4 }).startCtlReset

def execControlReset (s : State) : Host.Outcome State Fault Refusal := .next (s.orderCtlReset (Config.resetSource 7).toNat)

def execResetControl (path : Path) (s : State) : Host.Outcome State Fault Refusal :=
  .next (s.via path Reg.fltCtrl fun s => (s.setBit Reg.fltCtrl 2).orderCtlReset 0x09)

/-- The control complex returns: held event records take their SEQ and enter the log. -/
def execControlRestartDone (s : State) : Host.Outcome State Fault Refusal :=
  if !s.flt.ctlReset then .next s else
  let held := s.flt.ctlHeld
  let s := { s with flt := { s.flt with ctlReset := false, ctlHeld := [] } }
  let s := held.foldl (fun s r => { s with flt := { s.flt with
      events := newest256 (s.flt.events ++ [BitVec.ofNat 1024 (setFld r.2.toNat 63 32 s.flt.eventSeq.toNat)]),
      eventSeq := s.flt.eventSeq + 1 } }) s
  let s := (s.clrBit Reg.fltCtrl 2).rejoin
  .next (if s.flt.run.isSome then s else s.restPhase)

/-! ### The whole device by register (R342, R360) -/

/-- RESET_DEVICE: source-reset notices, then the whole-device reset. -/
def execResetDevice (path : Path) (s : State) : Host.Outcome State Fault Refusal :=
  .next (s.via path Reg.fltCtrl fun s => (s.sourceNotices).resetDevice 0x09)

/-! ### Watchdogs (R337-R339) -/

/-- FRAME_WD ticks have fallen with the tile's frame, or one routine, open: the tile faults at the bundle that holds issue. -/
def execFrameWatchdog (t : Fin 64) (s : State) : Host.Outcome State Fault Refusal :=
  let x := s.tile t.val
  let p := s.partOf t.val
  let runs := x.frameOpen || x.routine.any fun r => r.takenAt == .afterClose
  if s.pkg.heldBy.isSome || s.flt.run.isSome || x.faulted || !runs || x.wdTicks < s.rdFld Reg.fltWdCfg 7 0 || x.debugHalted ||
      s.halted || s.boundaryHeld p || s.flt.memReset || s.flt.ctlReset then .next s else
  let w := match x.bundleAt x.pc with
    | some b => packFields [(0, 64, b.s0.toNat), (64, 64, b.s1.toNat), (128, 64, b.s2.toNat), (192, 64, b.s3.toNat)]
    | none => 0
  .next ((s.setBit Reg.fltEvent 1).faultTile t.val { s.tileRec t.val 0x04 0 with bundle := w })

/-- An ACTIVE channel with commands has fetched none for CHAN_WD_MS: it stops, with its commands and indices. -/
def execChannelWatchdog (ch : Fin 262144) (s : State) : Host.Outcome State Fault Refusal :=
  let e := s.chEntry ch.val
  let ms := s.rdFld Reg.fltWdCfg 19 8
  if s.pkg.heldBy.isSome || ms = 0 || chState e != 1 || cSqHead e == cSqTail e then .next s else
  let from' := max (Sparse.get 0 s.chan.lastFetch ch.val).toNat (s.rungAt ch.val (cSqHead e)).toNat
  let s := (s.reach (from' + ms * 1000000)).setBit Reg.fltEvent 2
  let s := s.logEvent { kind := 1, source := 0x05, tenant := cTenant e, part := cPart e, chan := some ch.val }
  .next (s.setCh ch.val (withState e 2))

/-- A core that the debug module halted pats nothing and is not watched (18 R408). -/
def execServiceCoreWatchdog (core : Fin 8) (s : State) : Host.Outcome State Fault Refusal :=
  if s.pkg.heldBy.isSome || !s.start.boot.firmware || s.flt.ctlReset || s.dbg.dm.halted.contains core.val then .next s else
  .next ((s.setBit Reg.fltEvent 4).logEvent { kind := 1, source := 0x07, action := 4 }).startCtlReset

/-- That core alone is held in reset until its tenant's runtime restarts it. -/
def execCompanionCoreWatchdog (core : Fin 24) (tenant : Fin 512) (s : State) : Host.Outcome State Fault Refusal :=
  let c := 8 + core.val
  if s.pkg.heldBy.isSome || !s.start.boot.firmware || s.flt.ctlReset || s.flt.companionHeld.contains c || s.dbg.dm.halted.contains c
  then .next s else
  let s := (s.setBit Reg.fltEvent 4).logEvent { kind := 1, source := 0x07, tenant := tenant.val }
  .next { s with flt := { s.flt with companionHeld := s.flt.companionHeld ++ [c] } }

end Sys2Proof.Machine
end

