-- ==== Sys2Proof/Machine/Package.lean ====
section
/-!
DEFINITION. Package, power and signals (19 R419-R429): rail monitors, REFCLK, the reset and PERST_N pins, the thermal
sensors with their trips.
-/

namespace Sys2Proof.Machine

/-- Hold in whole-device reset; its record is the last thing that the control complex writes. -/
def State.holdReset (s : State) (h : HeldBy) (source : Nat) : State :=
  (s.logEvent { kind := 2, source := source, action := 6 }).deviceReset (some h)

/-! ### Rails, REFCLK and the pins (R419, R420, R423, R424, R365) -/

/-- HBM, the crash-dump region with it, does not outlast a rail of its own out of range; the rails are numbered as in
Table 19.3, 2 VDD_HBM and 3 VDDQ_HBM. -/
def State.loseHbm (s : State) : State :=
  { s with
    mem := { s.mem with dram := s.mem.dram.filter fun e => !isHbm e.1, memBad := [], memSoft := [] }
    flt := { s.flt with events := [], dumpB := false } }

/-- A rail monitor trips: every clock stops, without notices, and without a record. -/
def execRailMonitorTrip (rail : Fin 8) (s : State) : Host.Outcome State Fault Refusal :=
  let s := match s.pkg.heldBy with
    | some .resetN => s
    | _ => s.deviceReset (some .rail)
  .next (if rail.val = 2 || rail.val = 3 then s.loseHbm else s)

def execRefclkLoss (s : State) : Host.Outcome State Fault Refusal :=
  .next (match s.pkg.heldBy with
    | none => s.sourceNotices.holdReset .refclk (Config.resetSource 5).toNat
    | some _ => s)

/-- REFCLK has been stable for 100 µs: start-up, as after a rise of RESET_N. -/
def execRefclkRestore (s : State) : Host.Outcome State Fault Refusal :=
  .next (match s.pkg.heldBy with
    | some .refclk => (s.deviceReset none).startUp
    | _ => s)

/-- A RESET_N low of 1 µs or longer, whatever holds the chip; THERM_N is released (Table 19.9). -/
def execResetNLow (s : State) : Host.Outcome State Fault Refusal :=
  let s := s.deviceReset (some .resetN)
  .next { s with pkg := { s.pkg with thermN := true } }

/-- PERST_N rises: the endpoint trains, and the host's accesses reach the chip once the firmware has started. -/
def execPerstNRise (s : State) : Host.Outcome State Fault Refusal := .next { s with pkg := { s.pkg with perstN := true } }

/-! ### The thermal sensors (R425-R428) -/

/-- The readings of one sample with their trip, release and critical temperatures (Table 19.7). -/
def Thermal.readings (x : Thermal) : List (Nat × Nat × Nat × Nat) :=
  let r := fun (l : List (BitVec 8)) (trip release crit : Nat) => l.map fun (v : BitVec 8) => (v.toNat, trip, release, crit)
  r x.die 105 95 120 ++ r x.iod 105 95 120 ++ r x.hbm 95 85 105 ++ r x.oe 85 75 95

/-- Hottest of a list, the first where equal: temperature and index. -/
def hottest (l : List (BitVec 8)) : Nat × Nat :=
  (l.zipIdx).foldl (fun (m : Nat × Nat) e => if m.1 < e.1.toNat then (e.1.toNat, e.2) else m) (0, 0)

/-- THROTTLED. -/
def State.throttled (s : State) : Bool := s.partList.any fun p => s.rdBit (Reg.pwrTclkAct p) 17

/-- A thermal trip: every partition at 1,200 MHz, the flags, the interrupt, the warning. -/
def State.thermalTrip (s : State) : State :=
  let s := (List.range 8).foldl (fun s p =>
    (s.wrFld (Reg.pwrTclkAct p) 11 0 (min 1200 (s.tclk p))).setBit (Reg.pwrTclkAct p) 17) s
  let s := (s.setBit Reg.pwrStatus 9).ibi 0x03
  ({ s with pkg := { s.pkg with thermal := { s.pkg.thermal with trips := s.pkg.thermal.trips + 1 } } }).warn 4

/-- A critical reading: THERM_N low, the interrupt, notices; the chip then holds itself in reset. -/
def State.thermalCritical (s : State) : State :=
  let s := ({ s with pkg := { s.pkg with thermN := false } }.ibi 0x03).sourceNotices
  let x := s.pkg.thermal
  let s := s.holdReset .critical (Config.resetSource 6).toNat
  { s with pkg := { s.pkg with thermal := { s.pkg.thermal with die := x.die, iod := x.iod, hbm := x.hbm, oe := x.oe } } }

/-- TEMP of PWR_TELEM. -/
def State.showTemp (s : State) : State :=
  s.wrFld Reg.pwrTelem 23 16 (hottest (s.pkg.thermal.die ++ s.pkg.thermal.iod)).1

def execThermalSample (die iod hbm oe : List (BitVec 8)) (s : State) : Host.Outcome State Fault Refusal :=
  let alive := match s.pkg.heldBy with
    | none | some .critical => true
    | _ => false
  if !alive then .next s else
  let s := { s with pkg := { s.pkg with thermal := { s.pkg.thermal with die := die, iod := iod, hbm := hbm, oe := oe } } }
  if s.pkg.heldBy.isSome then .next s.showTemp else
  let l := s.pkg.thermal.readings
  let tripped := l.any fun e => decide (e.2.1 ≤ e.1)
  let cool := l.all fun e => decide (e.1 < e.2.2.1)
  let s := { s with pkg := { s.pkg with thermal := { s.pkg.thermal with
      belowSince := if cool then some (s.pkg.thermal.belowSince.getD s.now) else none
      returning := if tripped then [] else s.pkg.thermal.returning } } }
  let s := if tripped && !s.throttled then s.showTemp.thermalTrip else s.showTemp
  .next (if l.any fun e => decide (e.2.2.2 ≤ e.1) then s.thermalCritical.showTemp else s)

/-- 100 ms below release: a partition without frames returns at once, any other at its step boundary. -/
def execThermalRelease (s : State) : Host.Outcome State Fault Refusal :=
  match s.pkg.heldBy, s.pkg.thermal.belowSince with
  | none, some t =>
    if !s.throttled then .next s else
    let s := s.reach (t.toNat + 100000000)
    let ps := (List.range 8).filter fun p => s.rdBit (Reg.pwrTclkAct p) 17
    let s := { s with pkg := { s.pkg with thermal := { s.pkg.thermal with returning := ps } } }
    .next ((ps.filter fun p => !(s.part p).running).foldl State.thermalReturn s)
  | _, _ => .next s

end Sys2Proof.Machine
end

