-- ==== Sys2Proof/Machine/Mailbox.lean ====
section
/-!
DEFINITION. The wide-value mailbox (17 R390, R391): its requests and every selector of Table 17.4 (Tables 2.6, 7.4, 8.6, 9.15,
10.11, 11.11, 12.8, 13.14, 15.13, 16.8, 17.7, 18.1, 19.8).
-/

namespace Sys2Proof.Machine

/-- What a selector names: no selector; an absent partition, which reads zero; a value. -/
abbrev Selected := Option Nat

/-- A selector base + p of a partition; absent ones read zero. -/
def State.selPart (s : State) (k : Nat) (f : Nat → Part → Nat) : Selected :=
  if 8 ≤ k then none else some (if s.hasPart k then f k (s.part k) else 0)

/-- A selector base + k of n values. -/
def selOf (n k : Nat) (f : Nat → Nat) : Selected := if k < n then some (f k) else none

/-- A 64-bit word of a number. -/
def word64 (x w : Nat) : Nat := fld x (64 * w + 63) (64 * w)

/-- Counter c: its snapshot while SNAP is set. -/
def State.counterValue (s : State) (c : Nat) : Nat :=
  if s.rdBit (pmcCfgPlace c) 9 then (Sparse.get 0 s.dbg.pmcSnap c).toNat else (Sparse.get 0 s.dbg.pmc c).toNat

/-- Temperature and number of the hottest of a list of sensors. -/
def hotValue (l : List (BitVec 8)) : Nat := let h := hottest l
                                           h.1 + 256 * h.2

/-- Start-up and fuse selectors (Table 16.8). -/
def State.fuseSelector (s : State) (sel : Nat) : Selected :=
  let q := s.attestQ.getD (0, 0)
  if sel = 0x0A00 then some s.serial
  else if sel = 0x0A01 then some (s.mfrId + 2 ^ 16 * s.rev)
  else if sel = 0x0A02 then some s.macBase
  else if 0x0A08 ≤ sel && sel < 0x0A0E then some (word64 q.1 (sel - 0x0A08))
  else if 0x0A0E ≤ sel && sel < 0x0A14 then some (word64 q.2 (sel - 0x0A0E))
  else if 0x0A14 ≤ sel && sel < 0x0A20 then some (word64 (fld s.identity 1158 391) (sel - 0x0A14))
  else if sel = 0x0A20 then some s.start.boot.skippedId.toNat
  else if sel = 0x0A21 then some s.start.boot.fwver.toNat
  else if 0x0A40 ≤ sel && sel < 0x0B80 then
    let r := 1 + (sel - 0x0A40) / 0x40
    let g := sel % 0x40 / 0x10
    some (word64 (((s.fuseSlot r g).map (·.payload.toNat)).getD 0) (sel % 0x10))
  else none

/-- Counter selectors (Table 18.1, R413). -/
def State.pmcSelector (s : State) (sel : Nat) : Selected :=
  if sel < 0x0E00 then some (s.counterValue (sel - 0x0C00))
  else if sel < 0x0E30 then some (s.counterValue (512 + (sel - 0x0E00)))
  else if 0x0E40 ≤ sel && sel < 0x0ED0 then some (s.counterValue (560 + (sel - 0x0E40)))
  else if 0x0ED0 ≤ sel && sel < 0x0ED8 then some (s.counterValue (704 + (sel - 0x0ED0)))
  else if 0x0F00 ≤ sel then s.selPart (sel - 0x0F00) fun p _ => (Sparse.get (BitVec.allOnes 48) s.dbg.snapF p).toNat
  else none

/-- Accounting totals of a tenant (Table 11.11). -/
def State.acctSelector (s : State) (v k : Nat) : Selected :=
  selOf 6 k fun k => (Sparse.get 0 (s.tenant v).acct k).toNat

/-- Every selector but 0x0001, of the GLB mailbox; `n` is the number of a free value. -/
def State.selector (s : State) (n sel : Nat) : Selected :=
  let x := sel % 16
  match sel / 16 with
  | 0x010 => s.selPart x fun _ p => p.l.toNat
  | 0x011 => s.selPart x fun _ p => p.f.toNat
  | 0x012 => s.selPart x fun _ p => p.p.toNat
  | 0x013 => s.selPart x fun i _ => (s.stepOf i).toNat
  | 0x014 => s.selPart x fun _ p => p.lastTick.toNat
  | 0x015 => s.selPart x fun _ p => p.d.toNat
  | 0x020 => s.selPart x fun _ p => p.seed.toNat
  | 0x021 => some (Sparse.get 0 s.kal.hops x).toNat
  | 0x022 => selOf 2 x fun k => if k = 0 then s.kal.sent.toNat else s.kal.received.toNat
  | 0x030 => s.selPart x fun _ p => p.ouuBytes.toNat
  | 0x031 => s.selPart x fun _ p => p.ouuGtc.toNat
  | 0x032 => s.selPart x fun _ p => p.ouuStep.toNat
  | 0x040 => s.selPart x fun _ p => p.showLedger.lastLseq.toNat
  | 0x041 => s.selPart x fun _ p => p.showLedger.discarded.toNat
  | 0x042 => s.selPart x fun _ p => p.showLedger.mirrorP.toNat
  | 0x043 => s.selPart x fun _ p => p.showLedger.divergeStep.toNat
  | 0x050 => selOf 12 x fun k => (Sparse.get 0 s.mem.ueAddr k).toNat
  | 0x051 => selOf 12 x fun k => (Sparse.get 0 s.mem.mismatchAddr k).toNat
  | 0x052 => selOf 3 x fun k => if k = 0 then s.apt.badEntry.toNat else if k = 1 then s.mem.scrubPos.toNat else s.mem.aowBytes.toNat
  | 0x060 => s.acctSelector 0 x
  | 0x061 => s.acctSelector (s.rdFld Reg.chnTSel 8 0) x
  | 0x070 => selOf 6 x fun k =>
      if k = 0 then s.ing.wireBytes.toNat else if k = 1 then s.ing.copyBytes.toNat
      else if k < 4 then (s.keySlot (k - 2)).floor.toNat else (s.keySlot (k - 4)).gen.toNat
  | 0x090 => selOf 2 x fun k => if k = 0 then s.flt.lastReset.toNat else (s.flt.eventSeq - 1).toNat
  | 0x091 => s.selPart x fun _ p => p.ckpt.lastCutStep.toNat
  | 0x092 => s.selPart x fun _ p => p.ckpt.bytesCut.toNat
  | 0x093 => selOf 1 x fun _ => s.flt.admissionUe.toNat
  | 0x0B8 =>
    let t := s.pkg.thermal
    if x = 0 then some (Config.packageEnergy n).toNat
    else if x = 1 then some (Config.packagePeak n).toNat
    else if x = 2 then some (hotValue (t.die ++ t.iod))
    else if x = 3 then some (hotValue t.hbm)
    else if x = 4 then some (hotValue t.oe)
    else if x = 5 then some t.trips.toNat
    else if 8 ≤ x then s.selPart (x - 8) fun _ p => p.heldBack.toNat
    else none
  | 0x0B9 => selOf 1 x fun _ => s.port.stalls.toNat
  | _ =>
    if 0x0800 ≤ sel && sel < 0x0824 then some (s.link (sel - 0x0800)).sent.toNat
    else if 0x0830 ≤ sel && sel < 0x0854 then some (s.link (sel - 0x0830)).received.toNat
    else if 0x0860 ≤ sel && sel < 0x0884 then some (s.link (sel - 0x0860)).delayPs.toNat
    else if 0x0890 ≤ sel && sel < 0x08B4 then some (s.link (sel - 0x0890)).asymPs.toNat
    else if 0x08C0 ≤ sel && sel < 0x08CA then some (Sparse.get 0 s.net.laserPower (sel - 0x08C0)).toNat
    else if 0x0A00 ≤ sel && sel < 0x0B80 then s.fuseSelector sel
    else if 0x0C00 ≤ sel && sel < 0x1000 then s.pmcSelector sel
    else none

/-! ### Requests (R391) -/

/-- Places of a mailbox's registers, and its key. -/
def MbxWindow.key : MbxWindow → Nat
  | .glb => 0
  | .ten v => 1 + v.val
def MbxWindow.base : MbxWindow → Nat
  | .glb => Reg.glbMbxReq
  | .ten v => Reg.tenMbxReq v.val

/-- A request: accepted, or ignored while one is being served. The GTC is sampled now. -/
def execMbxRequest (path : Path) (window : MbxWindow) (value : Word) (s : State) : Host.Outcome State Fault Refusal :=
  let base := MbxWindow.base window
  .next (s.via path base fun s =>
    let s := s.writeFields path base value 0
    match Sparse.get none s.port.mbx (MbxWindow.key window) with
    | some _ =>
      let s := s.flagErr path ((path.offsetOf base).getD 0) errMbx
      match window with
      | .glb => s
      | .ten v => s.setBit (Reg.tenErr v.val) 4
    | none =>
      let q : MbxReq := { sel := value.extractLsb' 0 16, write := value.getLsbD 16, sample := s.now }
      let s := { s with port := { s.port with mbx := Sparse.set none s.port.mbx (MbxWindow.key window) (some q) } }
      s.wrFld (base + 4) 1 0 2)

/-- ERR and the value of a request. -/
def State.mbxAnswer (s : State) (window : MbxWindow) (q : MbxReq) (n : Nat) : Nat × Nat :=
  let sel := q.sel.toNat
  if q.write then (2, 0)
  else if sel = 1 then (0, q.sample.toNat)
  else match window with
  | .ten v => if 0x0600 ≤ sel && sel ≤ 0x0605 then (0, (s.acctSelector v.val (sel - 0x0600)).getD 0) else (3, 0)
  | .glb => match s.selector n sel with
    | some x => (0, x)
    | none => (1, 0)

/-- The request is served; during a control-domain reset it waits. -/
def execMbxServe (window : MbxWindow) (s : State) : Host.Outcome State Fault Refusal :=
  match Sparse.get none s.port.mbx (MbxWindow.key window) with
  | none => .next s
  | some q =>
    if s.flt.ctlReset then .next s else
    let n := s.fresh
    let r := n.2.mbxAnswer window q n.1
    let s := n.2
    let base := MbxWindow.base window
    let s := { s with port := { s.port with mbx := Sparse.set none s.port.mbx (MbxWindow.key window) none } }
    let s := ((s.wrFld (base + 4) 1 0 1).wrFld (base + 4) 3 2 r.1).wrFld (base + 4) 31 16 q.sel.toNat
    .next ((s.wr (base + 8) (BitVec.ofNat 32 r.2)).wr (base + 12) (BitVec.ofNat 32 (r.2 / 2 ^ 32)))

end Sys2Proof.Machine
end

