-- ==== Sys2Proof/Machine/Registers.lean ====
section
/-!
DEFINITION. Accesses to registers (17 R381-R395, 14 R323): the rows of single registers, the effect of a write on any register
of any path, reads with their clears, the accesses over I3C.
-/

namespace Sys2Proof.Machine

/-- The state after an outcome; a stop leaves the state as it is. -/
def settled (o : Host.Outcome State Fault Refusal) (s : State) : State := match o with
  | .next t => t
  | _ => s

def State.offset (path : Path) (place : Nat) : Nat := (path.offsetOf place).getD 0

/-! ### The rows of GLB and PWR (R392-R395) -/

def execGlbStrobe (path : Path) (blocks : Word) (s : State) : Host.Outcome State Fault Refusal :=
  .next (s.via path Reg.glbStrobe fun s => (s.writeFields path Reg.glbStrobe blocks 0).strobe (fld blocks.toNat 17 0))

def execPwrApply (path : Path) (s : State) : Host.Outcome State Fault Refusal :=
  .next (s.via path Reg.pwrCmd fun s => s.strobe 2)

/-- PWR_CFG: under LOCK, ENV is kept for every path but I3C, and LOCK itself is I3C's alone. -/
def execPwrCfgWrite (path : Path) (value : Word) (s : State) : Host.Outcome State Fault Refusal :=
  .next (s.via path Reg.pwrCfg fun s =>
    if path = .i3c then s.writeFields path Reg.pwrCfg value 0
    else if s.rdBit Reg.pwrCfg 8 then
      let s := if value &&& 0x1F = s.view Reg.pwrCfg &&& 0x1F then s else s.flagErr path (State.offset path Reg.pwrCfg) errPwr
      s.writeFields path Reg.pwrCfg value 0x11F
    else s.writeFields path Reg.pwrCfg value 0x100)

/-- The blocks that can be disabled (R394). -/
def freeBlocks : Nat := 0x3FFFF - 0x2081F

/-- STAGING: refused while frames run, or while a block that can be disabled is. -/
def execStagingWrite (path : Path) (value : Word) (s : State) : Host.Outcome State Fault Refusal :=
  .next (s.via path Reg.glbCtrl fun s =>
    let new := value.getLsbD 0
    let refused := new != s.staging &&
      (if new then s.anyRunning else (s.rd Reg.glbBlkEn).toNat &&& freeBlocks != freeBlocks)
    let s := if refused then s.flagErr path (State.offset path Reg.glbCtrl) errMode else s
    s.writeFields path Reg.glbCtrl value (if refused then 1 else 0))

/-- A block is enabled or disabled: the links stop, with holdover, or train. -/
def State.blocksChanged (s : State) (old : Nat) : State :=
  let new := (s.rd Reg.glbBlkEn).toNat
  let s := if bitOf old 14 && !bitOf new 14 then
      ((List.range 36).foldl (fun s l => s.dropLink l .disabled) s).holdOver
    else if !bitOf old 14 && bitOf new 14 then (List.range 36).foldl State.enableLink s else s
  if !bitOf old 13 && bitOf new 13 then s.beginExtents else s

def execBlockEnableWrite (path : Path) (value : Word) (s : State) : Host.Outcome State Fault Refusal :=
  .next (s.via path Reg.glbBlkEn fun s =>
    if !s.staging then
      (s.flagErr path (State.offset path Reg.glbBlkEn) errMode).writeFields path Reg.glbBlkEn value 0x3FFFF
    else
      let old := (s.rd Reg.glbBlkEn).toNat
      (s.writeFields path Reg.glbBlkEn (value ||| 0x2081F) 0).blocksChanged old)

/-! ### Windows of tenants that hold no registers (Table 11.2) -/

/-- The function whose window a path reaches. -/
def windowFn : Path → Fin 512
  | .vf v => v
  | _ => 0

/-- A 32-bit write in the doorbell page (R253). -/
def State.bellPage (s : State) (path : Path) (o : Nat) (v : Word) : State :=
  let fn := windowFn path
  match o with
  | 0x0 => settled (execDoorbellLowHalf fn false v s) s
  | 0x4 => settled (execDoorbellSq fn v none s) s
  | 0x8 => settled (execDoorbellLowHalf fn true v s) s
  | 0xC => settled (execDoorbellCq fn v none s) s
  | _ => s.dropBell fn.val 4 none

/-- A word of an MSI-X table entry: address, data, mask (R271); a vector unmasked with a message pending sends it. -/
def State.msixWrite (s : State) (fn o : Nat) (v : Word) : State :=
  let k := msixKey fn (o / 16)
  let addr := (Sparse.get 0 s.chan.msixAddr k).toNat
  match o % 16 / 4 with
  | 0 => { s with chan := { s.chan with msixAddr := Sparse.set 0 s.chan.msixAddr k (BitVec.ofNat 64 (setFld addr 31 0 v.toNat)) } }
  | 1 => { s with chan := { s.chan with msixAddr := Sparse.set 0 s.chan.msixAddr k (BitVec.ofNat 64 (setFld addr 63 32 v.toNat)) } }
  | 2 => { s with chan := { s.chan with msixData := Sparse.set 0 s.chan.msixData k v } }
  | _ =>
    let s := { s with chan := { s.chan with msixMask := Sparse.set true s.chan.msixMask k (v.getLsbD 0) } }
    if !v.getLsbD 0 && Sparse.get false s.chan.msixPend k then
      { s with chan := { s.chan with msixPend := Sparse.set false s.chan.msixPend k false } }.sendMsix fn (o / 16)
    else s

def State.msixRead (s : State) (fn o : Nat) : Nat :=
  let k := msixKey fn (o / 16)
  let addr := (Sparse.get 0 s.chan.msixAddr k).toNat
  match o % 16 / 4 with
  | 0 => fld addr 31 0
  | 1 => fld addr 63 32
  | 2 => (Sparse.get 0 s.chan.msixData k).toNat
  | _ => b2n (Sparse.get true s.chan.msixMask k)

/-- A word of the pending-bit array. -/
def State.pendRead (s : State) (fn w : Nat) : Nat :=
  packFields ((List.range 32).map fun i => (i, 1, b2n (Sparse.get false s.chan.msixPend (msixKey fn (32 * w + i)))))

/-- The place of an access that is no register: the parts of a tenant window, the PF's MSI-X. -/
inductive Area where
  | bells (o : Nat)
  | semSignal (k : Nat)
  | semSet (k : Nat)
  | msix (fn o : Nat)
  | pend (fn w : Nat)
  | zero
  | register
  | unmapped

/-- What a place holds; `fn` is the function of the path's window. -/
def areaOf (fn place : Nat) : Area :=
  if 0x300000 ≤ place && place < 0x308000 then .msix 0 (place - 0x300000)
  else if 0x308000 ≤ place && place < 0x308100 then .pend 0 ((place - 0x308000) / 4)
  else match Reg.blockAt place with
  | none => .unmapped
  | some (b, o) =>
    if b = 17 && o < 0x1000 then .bells o
    else if b = 17 && 0x20000 ≤ o && o < 0x28000 then .semSignal ((o - 0x20000) / 4)
    else if b = 17 && 0x30000 ≤ o && o < 0x38000 then .semSet ((o - 0x30000) / 4)
    else if b = 17 && 0x40000 ≤ o && o < 0x44000 then
      (if fn = 0 then .zero else if o < 0x40400 then .msix fn (o - 0x40000)
       else if o < 0x40408 then .pend fn ((o - 0x40400) / 4) else .zero)
    else if (Reg.rowAt b o).isSome then .register
    else if Reg.zeroAt b o then .zero else .unmapped

/-! ### The effect of a write (R386, R388, R392, R393) -/

/-- The three coordinate registers: written over I3C before COMMIT, by nothing else (R325). -/
def State.coordWrite (s : State) (path : Path) (place : Nat) (v : Word) : State :=
  let s := if path = .pf then s.setBit Reg.mgtEvent 2 else s
  if s.committed then s.setBit Reg.mgtEvent 1
  else if path = .i3c then s.writeFields path place v 0 else s

/-- What a written bit orders, where it is 1. -/
def act (c : Bool) (f : State → Host.Outcome State Fault Refusal) (s : State) : State := if c then settled (f s) s else s

/-- Bits of the registers that act when they are written with 1, or with a code. -/
def State.actWrite (s : State) (path : Path) (b off i : Nat) (v : Word) : State :=
  let bit := fun (k : Nat) => v.getLsbD k
  let code := fld v.toNat 1 0
  match b, off with
  | 0, 0x10 => s.strobe (fld v.toNat 17 0)
  | 1, 0x08 => act (bit 0) (execPwrApply path) s
  | 2, 0x10 => act (bit 1) (execHalt path) (act (bit 0 && path == .i3c) execCommit s)
  | 3, 0x0C => act true (execFuseArm path (v.extractLsb' 0 16)) s
  | 3, 0x10 => act (code == 2) (execFuseRead path) (act (code == 1) (execFuseProgram path) s)
  | 3, 0x20 => act (code == 3) (execActivateCancel path) (act (code == 2) (execImageActivate path)
      (act (code == 1) (execImageStage path) s))
  | 4, 0x10 =>
    let s := act (bit 2) (execResetControl path) (act (bit 1) (execResetMemory path) (act (bit 0) (execResetCompute path) s))
    act (bit 3) (execResetDevice path) s
  | 5, 0x00 => if s.rdBit Reg.shtSyncCfg 0 || s.rdBit Reg.shtSyncStatus 1 then s else s.holdOver
  | 7, 0x14 => act (code == 3) (execGtwRead path) (act (code == 2) (execGtwInvalidate path) (act (code == 1) (execGtwCommit path) s))
  | 8, 0x08 => act (code == 3) (execRtwRead path) (act (code == 2) (execRtwInvalidate path) (act (code == 1) (execRtwCommit path) s))
  | 9, 0x108 => act (bit 0) (execOuuReload path (Fin.ofNat 8 i)) s
  | 11, 0x08 => act (code == 3) (execAptRead path) (act (code == 2) (execAptInvalidate path (bit 2))
      (act (code == 1) (execAptCommit path) s))
  | 12, 0x1C => act (code == 3) (execTRead path) (act (code == 1) (execTCommit path) s)
  | 14, 0x14 => act true (execRlmEnable path (bit 0)) s
  | 14, 0x24 => act (code == 3) (execQpRead path) (act (code == 2) (execQpReset path) (act (code == 1) (execQpCommit path) s))
  | 14, 0x1008 =>
    let l := Fin.ofNat 36 i
    act (bit 2) (execClrLanes path l) (act (bit 0) (execLnkRetrain path l) (act true (execLinkDisable path l (bit 1)) s))
  | 15, 0x5000 =>
    let t := Fin.ofNat 64 i
    let s := act true (execBrkEnWrite path t (bit 0)) s
    act (bit 3) (execTileDebugStep path t) (act (bit 2) (execTileDebugResume path t) (act (bit 1) (execTileDebugHalt path t) s))
  | 16, 0x10 => act true (execUartTxWrite path (v.extractLsb' 0 8)) s
  | 17, 0x1024 =>
    let c := fld v.toNat 2 0
    let s := act (c == 2) (execCwDestroy path) (act (c == 1) (execCwCreate path) s)
    act (c == 5) (execCwResume path) (act (c == 4) (execCwStop path) (act (c == 3) (execCwRead path) s))
  | _, _ => match if b = 15 then pmcCounter off i else none with
    | none => s
    | some c =>
      let s := if (pmcEvents c).contains (fld v.toNat 7 0) then s else s.setBit Reg.pmcEvent 1
      act (bit 13) (execCounterClear path (Fin.ofNat 712 c)) s

/-- A 32-bit write of a register: by its own row where a row takes the whole value, else by its access codes, and then what the
write orders. -/
def State.registerWrite (s : State) (path : Path) (place : Nat) (v : Word) : State :=
  match Reg.find place with
  | none => s
  | some (b, r, i) =>
    if s.absent b r i || (r.dom == .memory && s.flt.memReset) then s else
    match b, r.off with
    | 0, 0x04 => settled (execStagingWrite path v s) s
    | 0, 0x0C => settled (execBlockEnableWrite path v s) s
    | 0, 0x40 => settled (execMbxRequest path .glb v s) s
    | 1, 0x04 => settled (execPwrCfgWrite path v s) s
    | 2, 0x04 | 2, 0x08 | 2, 0x0C => s.coordWrite path place v
    | 5, 0x100 => settled (execPeriodWrite path (Fin.ofNat 8 i) v s) s
    | 9, 0x100 => settled (execOuuTblWrite path (Fin.ofNat 8 i) false v s) s
    | 9, 0x104 => settled (execOuuTblWrite path (Fin.ofNat 8 i) true v s) s
    | 15, 0x5000 => (s.writeFields path place v (r.mask .rw)).actWrite path b r.off i v
    | 17, 0x1080 => settled (execMbxRequest path (.ten (windowFn path)) v s) s
    | _, _ => (s.writeFields path place v 0).actWrite path b r.off i v

/-- A write of a path to one word of its space; `en` are the enabled bytes (Table 17.3). -/
def State.writeAccess (s : State) (path : Path) (off : Nat) (en : BitVec 4) (v : Word) : State :=
  match path.place off with
  | none => if path = .i3c then s.setBit Reg.mgtEvent 7 else s
  | some place =>
    let fn := windowFn path
    if en = 0 then s else
    if en != 0xF then (match areaOf fn.val place with
      | .bells _ => s.dropBell fn.val 4 none
      | _ => s.flagErr path off errNarrowWr)
    else match areaOf fn.val place with
    | .bells o => s.bellPage path o v
    | .semSignal k => settled (execSemSignalWrite fn (BitVec.ofNat 13 k) v s) s
    | .semSet k => settled (execSemSetWrite fn (BitVec.ofNat 13 k) v s) s
    | .msix f o => s.msixWrite f o v
    | .pend _ _ | .zero => s
    | .register => s.registerWrite path place v
    | .unmapped => s.flagErr path off errUnmapped

/-! ### The effect of a read (R386, R389) -/

/-- What a 32-bit read of a register answers a path. -/
def State.readValue (s : State) (path : Path) (place : Nat) : Word × State :=
  match Reg.find place with
  | none => (0, s)
  | some (b, r, i) =>
    if s.absent b r i then (0, s)
    else if b = 1 && r.off = 0x10 then
      let n := s.fresh
      ((s.view place &&& 0xFFFF0000) ||| (Config.packagePower n.1).setWidth 32, n.2)
    else if b = 11 && r.off = 0x14 then
      let n := s.fresh
      let s := n.2.bump place (Config.cacheMisses n.1)
      (s.view place, s)
    else if b = 16 && r.off = 0x14 then
      (if Path.isCore path then (s.view place, { s with dbg := { s.dbg with rxFifo := s.dbg.rxFifo.drop 1 } }) else (0, s))
    else if b = 17 && r.off = 0x1020 && path.isVf then (s.view place &&& 0xFFFF, s)
    else (s.view place, s)

/-- A full read of a register: the sample, and the clear of exactly the RC bits that it holds; the debug path clears nothing. -/
def State.registerRead (s : State) (path : Path) (place : Nat) : Word × State :=
  let q := s.readValue path place
  match Reg.find place with
  | some (b, r, i) =>
    if path = .debug || s.absent b r i then q
    else (q.1, q.2.wr place (q.2.rd place &&& ~~~(q.1 &&& r.mask .rc)))
  | none => q

/-- All ones in the enabled bytes. -/
def enabledOnes (en : BitVec 4) : Word :=
  BitVec.ofNat 32 (packFields ((List.range 4).map fun i => (8 * i, 8, if en.getLsbD i then 0xFF else 0)))

/-- A read of a path of one word of its space: the value and the state after it. -/
def State.readAccess (s : State) (path : Path) (off : Nat) (en : BitVec 4) : Word × State :=
  match path.place off with
  | none => (0, s)
  | some place =>
    let fn := windowFn path
    let m := enabledOnes en
    if en = 0 then (0, s) else
    match areaOf fn.val place with
    | .bells _ => let n := s.fresh
                  (Config.openRead n.1 &&& m, n.2)
    | .semSignal k =>
      if s.semAllotted fn.val k then (s.semGet fn.val k &&& m, s) else (0, s.setBit (Reg.tenEvent fn.val) 9)
    | .semSet k =>
      if s.semAllotted fn.val k then (let n := s.fresh
                                      (Config.openRead n.1 &&& m, n.2))
      else (0, s.setBit (Reg.tenEvent fn.val) 9)
    | .msix f o => (BitVec.ofNat 32 (s.msixRead f o) &&& m, s)
    | .pend f w => (BitVec.ofNat 32 (s.pendRead f w) &&& m, s)
    | .zero => (0, s)
    | .unmapped => (0, s.flagErr path off errUnmapped)
    | .register =>
      if en = 0xF then s.registerRead path place else
      match Reg.find place with
      | some (_, r, _) =>
        if r.mask .rc = 0 then (let q := s.readValue path place
                                (q.1 &&& m, q.2))
        else (m, s.flagErr path off errNarrowRc)
      | none => (0, s)

/-- Whether a register access of the path waits: the crossing into the memory domain during its retrain (Table 17.2). -/
def State.crossingHeld (s : State) (path : Path) (off : Nat) : Bool :=
  s.flt.memReset && match (path.place off).bind Reg.find with
    | some (_, r, _) => r.dom == .memory
    | none => false

def execRegisterWrite (path : Path) (offset : BitVec 29) (enables : BitVec 4) (value : Word) (s : State) :
    Host.Outcome State Fault Refusal :=
  let off := offset.toNat / 4 * 4
  .next (if !s.busOpen path || s.crossingHeld path off then s else s.writeAccess path off enables value)

/-- A read. Before the firmware has started the host reads all ones, but OTP_BOOT_STATUS (R365). -/
def execRcRead (path : Path) (offset : BitVec 29) (enables : BitVec 4) (s : State) : Host.Outcome State Fault Refusal :=
  let off := offset.toNat / 4 * 4
  if s.pkg.heldBy.isSome || s.crossingHeld path off then .next s
  else if s.busOpen path then
    let q := s.readAccess path off enables
    .next (q.2.emit (.readData path q.1))
  else match path with
  | .pf => .next (if !s.pkg.perstN then s
      else s.emit (.readData path ((if off = Reg.otpBootStatus then s.view Reg.otpBootStatus else 0xFFFFFFFF) &&& enabledOnes enables)))
  | .vf _ => .next (if s.pkg.perstN then s.emit (.readData path (enabledOnes enables)) else s)
  | _ => .next s

/-- An access past the 4 µs bound: a read completes with all ones, a write is discarded. I3C waits instead (R323). -/
def execRegisterStallTimeout (path : Path) (offset : BitVec 29) (write : Bool) (s : State) : Host.Outcome State Fault Refusal :=
  if !s.busOpen path || path = .i3c then .next s else
  let s := s.flagErr path offset.toNat errStall
  let s := { s with port := { s.port with stalls := s.port.stalls + 1 } }
  .next (if write then s else s.emit (.readData path 0xFFFFFFFF))

/-! ### I3C (R323) -/

/-- Bytes of a word-sized access at any offset: the enabled bytes of each word it touches. -/
def splitAccess (off : Nat) : List (Nat × BitVec 4) :=
  let k := off % 4
  if k = 0 then [(off, 0xF)] else [(off - k, (0xF : BitVec 4) <<< k), (off - k + 4, (0xF : BitVec 4) >>> (4 - k))]

def execI3cPrivateWrite (offset : BitVec 16) (data : List Byte) (s : State) : Host.Outcome State Fault Refusal :=
  if !s.i3cAddressed || !s.busOpen .i3c then .next s
  else if data.length < 4 then .next (s.setBit Reg.mgtEvent 7)
  else
    let v := BitVec.ofNat 32 (bytesToNat (data.take 4))
    .next ((splitAccess offset.toNat).foldl (fun s e => s.writeAccess .i3c e.1 e.2 v) s)

/-- A private read; while a critical temperature holds the chip, it still answers, and clears nothing (R428). -/
def execI3cPrivateRead (offset : BitVec 16) (s : State) : Host.Outcome State Fault Refusal :=
  if !s.i3cAddressed then .next (s.emit .i3cNack)
  else
    let one := fun (s : State) (e : Nat × BitVec 4) =>
      if s.pkg.heldBy.isSome then (match Path.i3c.place e.1 with
        | some place => (s.readValue .i3c place).1 &&& enabledOnes e.2
        | none => 0, s)
      else s.readAccess .i3c e.1 e.2
    let k := offset.toNat % 4
    let r := (splitAccess offset.toNat).foldl (fun (acc : Nat × State) e =>
      let q := one acc.2 e
      (acc.1 + q.1.toNat * (if e.1 < offset.toNat then 1 else 2 ^ (32 * (if k = 0 then 0 else 1))), q.2)) (0, s)
    .next (r.2.emit (.i3cData (natToBytes 4 (r.1 / 2 ^ (8 * k)))))

end Sys2Proof.Machine
end

