-- ==== Sys2Proof/Machine/Dmi.lean ====
section
/-!
DEFINITION. The RISC-V debug module behind DMI (18 R408), as RISC-V External Debug Support 0.13.2 lays it out (PRESUMED, log
77): harts 0-31, service cores first; data registers, program buffer, abstract commands, system bus access of 32 and 64
bits, which is the debug access path of the register interface.
-/

namespace Sys2Proof.Machine

def State.modDm' (s : State) (f : DebugModule → DebugModule) : State := { s with dbg := { s.dbg with dm := f s.dbg.dm } }

/-- The debug module with dmactive 0. -/
def DebugModule.reset : DebugModule := Dbg.reset.dm

/-- hartsel. -/
def DebugModule.hart (d : DebugModule) : Nat := fld d.dmcontrol.toNat 25 16 + 2 ^ 10 * fld d.dmcontrol.toNat 15 6

def insertNat (l : List Nat) (x : Nat) : List Nat := if l.contains x then l else l ++ [x]

/-- A write of dmcontrol: halt, resume and reset requests of the selected hart. -/
def State.dmControl (s : State) (w : Word) : State :=
  if !w.getLsbD 0 then s.modDm' fun _ => DebugModule.reset else
  let keep : Word := w &&& 0x23FFFFC3
  let s := s.modDm' fun d => { d with dmcontrol := keep }
  let h := s.dbg.dm.hart
  if 32 ≤ h then s else
  let s := s.modDm' fun d =>
    let d := if w.getLsbD 28 then { d with haveReset := d.haveReset.filter (· != h) } else d
    let d := if w.getLsbD 29 || w.getLsbD 1 then { d with halted := d.halted.filter (· != h), haveReset := insertNat d.haveReset h } else d
    if w.getLsbD 31 then { d with halted := insertNat d.halted h }
    else if w.getLsbD 30 then { d with halted := d.halted.filter (· != h), resumeAck := insertNat d.resumeAck h }
    else d
  s

/-- dmstatus: version 2 (0.13), authenticated, the state of the selected hart. -/
def DebugModule.status (d : DebugModule) : Nat :=
  let h := d.hart
  let gone := decide (32 ≤ h)
  let two : Nat → Bool → List (Nat × Nat × Nat) := fun pos b => [(pos, 1, b2n b), (pos + 1, 1, b2n b)]
  packFields ([(0, 4, 2), (7, 1, 1)] ++ two 8 (!gone && d.halted.contains h) ++ two 10 (!gone && !d.halted.contains h) ++
    two 14 gone ++ two 16 (!gone && d.resumeAck.contains h) ++ two 18 (!gone && d.haveReset.contains h))

/-- An abstract command: access to a register of a halted hart. What its registers hold is no state of this model: a read is
free, and the program buffer's effect on the hart is the hart's (log 71). -/
def State.abstractCmd (s : State) (w : Word) : State :=
  let d := s.dbg.dm
  let h := d.hart
  let size := fld w.toNat 22 20
  if d.cmderr != 0 then s
  else if fld w.toNat 31 24 != 0 || (w.getLsbD 17 && size != 2 && size != 3) then
    s.modDm' fun d => { d with command := w, cmderr := 2 }
  else if 32 ≤ h || !d.halted.contains h then s.modDm' fun d => { d with command := w, cmderr := 4 }
  else
    let s := s.modDm' fun d => { d with command := w }
    if !w.getLsbD 17 || w.getLsbD 16 then s else
    let n := s.fresh
    let x := Config.hartReg n.1 h (fld w.toNat 15 0)
    n.2.modDm' fun d => { d with data0 := x.setWidth 32, data1 := if size = 3 then (x >>> 32).setWidth 32 else d.data1 }

/-! ### System bus access -/

def regSpace : Nat := 0x10000000000

/-- Whether a bus address names a register. -/
def inRegSpace (da : Nat) : Bool := decide (regSpace ≤ da) && decide (da < regSpace + 0x20000000)

/-- The offset of the register that a bus address names. -/
def regOffset (da : Nat) : Nat := da % regSpace

/-- A device address in the reserve outside the crash dump (Table 10.2). -/
def inReserve (da : Nat) : Bool := decide (0xBF00000000 ≤ da) && decide (da < 0xC000000000) && !(dumpAt false ≤ da && da < dumpAt false + 0x20000000)

/-- The channel table and the granule map stand at their places of the reserve. -/
def tableOf (da : Nat) : Option (Bool × Nat × Nat) :=
  if 0xBF40000000 ≤ da && da < 0xBF42000000 then some (true, (da - 0xBF40000000) / 128, (da - 0xBF40000000) % 128)
  else if 0xBF46000000 ≤ da && da < 0xBF460C0000 then some (false, (da - 0xBF46000000) / 2, (da - 0xBF46000000) % 2)
  else none

/-- A byte that the debug path reads: the channel table and the granule map as they stand, other parts of the reserve free (log 187). -/
def State.busByte (s : State) (n da : Nat) : Byte :=
  match tableOf da with
  | some (true, i, k) => BitVec.ofNat 8 (s.chShown i / 2 ^ (8 * k))
  | some (false, i, k) => BitVec.ofNat 8 ((s.granule i).toNat / 2 ^ (8 * k))
  | none => if inReserve da then Config.reserveByte n da else s.devByte da

/-- A byte that the debug path writes into those tables. -/
def State.busPut (s : State) (da : Nat) (b : Byte) : State :=
  match tableOf da with
  | some (true, i, k) => s.setCh i (setFld (s.chEntry i) (8 * k + 7) (8 * k) b.toNat)
  | some (false, i, k) => { s with apt := { s.apt with
      granules := Sparse.update 0 s.apt.granules i fun g => BitVec.ofNat 16 (setFld g.toNat (8 * k + 7) (8 * k) b.toNat) } }
  | none => s

/-- A system bus access of n = 4 or 8 bytes at an aligned device address: a read's data. -/
def State.busRead (s : State) (da n : Nat) : Option Nat × State :=
  if inRegSpace da then
    let a := s.readAccess .debug (regOffset da) 0xF
    if n = 4 then (some a.1.toNat, a.2) else
    let b := a.2.readAccess .debug (regOffset da + 4) 0xF
    (some (a.1.toNat + 2 ^ 32 * b.1.toNat), b.2)
  else
    let r := s.readDev (span da n)
    if r.bad.isSome then (none, r.st)
    else if !inReserve da then (some (bytesToNat r.bytes), r.st)
    else
      let f := r.st.fresh
      (some (bytesToNat ((span da n).map (r.st.busByte f.1))), f.2)

def State.busWrite (s : State) (da n x : Nat) : Bool × State :=
  if inRegSpace da then
    let s := s.writeAccess .debug (regOffset da) 0xF (BitVec.ofNat 32 x)
    (true, if n = 4 then s else s.writeAccess .debug (regOffset da + 4) 0xF (BitVec.ofNat 32 (x / 2 ^ 32)))
  else
    let l := (span da n).zip (natToBytes n x)
    let w := s.writeDev l
    (w.1.isNone, if w.1.isSome then w.2 else l.foldl (fun s e => s.busPut e.1 e.2) w.2)

def sbSize (d : DebugModule) : Nat := 2 ^ fld d.sbcs.toNat 19 17

def State.sbError (s : State) (e : Nat) : State :=
  s.modDm' fun d => { d with sbcs := BitVec.ofNat 32 (setFld d.sbcs.toNat 14 12 e) }

/-- Check an access: size 4 or 8, aligned, no error standing. -/
def State.sbCheck (s : State) (f : State → Nat → Nat → State) : State :=
  let d := s.dbg.dm
  let n := sbSize d
  if fld d.sbcs.toNat 14 12 != 0 then s
  else if n != 4 && n != 8 then s.sbError 4
  else if d.sbaddr.toNat % n != 0 then s.sbError 3
  else
    let s := f s (d.sbaddr.toNat % 2 ^ 48) n
    if d.sbcs.getLsbD 16 && fld s.dbg.dm.sbcs.toNat 14 12 = 0 then s.modDm' fun e => { e with sbaddr := e.sbaddr + BitVec.ofNat 64 n }
    else s

def State.sbRead (s : State) : State := s.sbCheck fun s da n =>
  match s.busRead da n with
  | (some x, s) => s.modDm' fun d => { d with sbdata0 := BitVec.ofNat 32 x, sbdata1 := if n = 8 then BitVec.ofNat 32 (x / 2 ^ 32) else d.sbdata1 }
  | (none, s) => s.sbError 7

def State.sbWrite (s : State) : State := s.sbCheck fun s da n =>
  let d := s.dbg.dm
  let w := s.busWrite da n (d.sbdata0.toNat + (if n = 8 then 2 ^ 32 * d.sbdata1.toNat else 0))
  if w.1 then w.2 else w.2.sbError 7

/-- sbcs as it reads: version 1, 48-bit addresses, 32- and 64-bit accesses. -/
def DebugModule.sbcsView (d : DebugModule) : Nat := (d.sbcs.toNat &&& 0x1FF000) + packFields [(2, 1, 1), (3, 1, 1), (5, 7, 48), (29, 3, 1)]

/-! ### The registers of the debug module -/

def State.dmiRead (s : State) (a : Nat) : Word × State :=
  let d := s.dbg.dm
  let v := fun (x : Nat) => (BitVec.ofNat 32 x, s)
  let sum := packFields ((List.range 32).map fun h => (h, 1, b2n (d.halted.contains h)))
  if 0x20 ≤ a && a < 0x28 then (Sparse.get 0 d.progbuf (a - 0x20), s) else
  match a with
  | 0x04 => (d.data0, s)
  | 0x05 => (d.data1, s)
  | 0x10 => (d.dmcontrol, s)
  | 0x11 => v d.status
  | 0x13 => v (b2n (!d.halted.isEmpty))
  | 0x16 => v (packFields [(0, 4, 2), (8, 3, d.cmderr.toNat), (24, 5, 8)])
  | 0x38 => v d.sbcsView
  | 0x39 => v (fld d.sbaddr.toNat 31 0)
  | 0x3A => v (fld d.sbaddr.toNat 63 32)
  | 0x3C => (d.sbdata0, if d.sbcs.getLsbD 15 then s.sbRead else s)
  | 0x3D => (d.sbdata1, s)
  | 0x40 => v sum
  | _ => v 0

def State.dmiWrite (s : State) (a : Nat) (w : Word) : State :=
  if a = 0x10 then s.dmControl w
  else if !s.dbg.dm.dmcontrol.getLsbD 0 then s
  else if 0x20 ≤ a && a < 0x28 then s.modDm' fun d => { d with progbuf := Sparse.set 0 d.progbuf (a - 0x20) w }
  else match a with
  | 0x04 => s.modDm' fun d => { d with data0 := w }
  | 0x05 => s.modDm' fun d => { d with data1 := w }
  | 0x16 => s.modDm' fun d => { d with cmderr := d.cmderr &&& ~~~(w.extractLsb' 8 3) }
  | 0x17 => s.abstractCmd w
  | 0x38 => s.modDm' fun d => { d with sbcs := (w &&& 0x1F8000) ||| (d.sbcs &&& ~~~w &&& 0x7000) }
  | 0x39 =>
    let s := s.modDm' fun d => { d with sbaddr := BitVec.ofNat 64 (setFld d.sbaddr.toNat 31 0 w.toNat) }
    if s.dbg.dm.sbcs.getLsbD 20 then s.sbRead else s
  | 0x3A => s.modDm' fun d => { d with sbaddr := BitVec.ofNat 64 (setFld d.sbaddr.toNat 63 32 w.toNat) }
  | 0x3C => (s.modDm' fun d => { d with sbdata0 := w }).sbWrite
  | 0x3D => s.modDm' fun d => { d with sbdata1 := w }
  | _ => s

/-- One DMI access; under DEBUG_LOCK the instruction acts as BYPASS. A read's data is shifted out by the next scan. -/
def execDmi (a : DmiAccess) (s : State) : Host.Outcome State Fault Refusal :=
  if s.debugLock then execBypass s else
  let s := s.modJtag (·.select 0x11)
  let s := s.emit (.dmi s.dbg.dm.readback)
  .next (if a.op = 1 then
      let r := s.dmiRead a.addr.toNat
      r.2.modDm' fun d => { d with readback := r.1 }
    else if a.op = 2 then s.dmiWrite a.addr.toNat a.data
    else s)

end Sys2Proof.Machine
end

