-- ==== Sys2Proof/Machine/Dispatch.lean ====
section
/-!
DEFINITION. The dispatch of the commands: one arm per constructor of Instr.
-/

namespace Sys2Proof.Machine

def exec (i : Instr) (s : State) : Host.Outcome State Fault Refusal :=
  match i with
  | .launchCount jobId count => Sys2Proof.Machine.execLaunchCount jobId count s
  | .lockCheck p partnerFingerprint => Sys2Proof.Machine.execLockCheck p partnerFingerprint s
  | .tick p => Sys2Proof.Machine.execTick p s
  | .lateDispatch t now ownCycles blockCause wait => Sys2Proof.Machine.execLateDispatch t now ownCycles blockCause wait s
  | .frameClose t cyclesLeft => Sys2Proof.Machine.execFrameClose t cyclesLeft s
  | .stepClose p => Sys2Proof.Machine.execStepClose p s
  | .ouuPass p framesTaken errs => Sys2Proof.Machine.execOuuPass p framesTaken errs s
  | .ledgerRecord p => Sys2Proof.Machine.execLedgerRecord p s
  | .checkpointCut p wire => Sys2Proof.Machine.execCheckpointCut p wire s
  | .jobEnd p => Sys2Proof.Machine.execJobEnd p s
  | .timeExchange t1 t2 t3 t4 correction => Sys2Proof.Machine.execTimeExchange t1 t2 t3 t4 correction s
  | .holdover => Sys2Proof.Machine.execHoldover s
  | .reformPending => Sys2Proof.Machine.execReformPending s
  | .reform g => Sys2Proof.Machine.execReform g s
  | .gtcReform => Sys2Proof.Machine.execGtcReform s
  | .periodWrite path p value => Sys2Proof.Machine.execPeriodWrite path p value s
  | .bundleRelease t => Sys2Proof.Machine.execBundleRelease t s
  | .lineFetchArrive t line errs => Sys2Proof.Machine.execLineFetchArrive t line errs s
  | .nop t b => Sys2Proof.Machine.execNop t b s
  | .alu t b => Sys2Proof.Machine.execAlu t b s
  | .alui t b => Sys2Proof.Machine.execAlui t b s
  | .li t b => Sys2Proof.Machine.execLi t b s
  | .lih t b => Sys2Proof.Machine.execLih t b s
  | .cmp t b => Sys2Proof.Machine.execCmp t b s
  | .plog t b => Sys2Proof.Machine.execPlog t b s
  | .br t b => Sys2Proof.Machine.execBr t b s
  | .loop t b => Sys2Proof.Machine.execLoop t b s
  | .call t b => Sys2Proof.Machine.execCall t b s
  | .ret t b => Sys2Proof.Machine.execRet t b s
  | .endf t b => Sys2Proof.Machine.execEndf t b s
  | .waitc t b => Sys2Proof.Machine.execWaitc t b s
  | .waite t b => Sys2Proof.Machine.execWaite t b s
  | .semw t b => Sys2Proof.Machine.execSemw t b s
  | .sems t b => Sys2Proof.Machine.execSems t b s
  | .fenceT t b => Sys2Proof.Machine.execFenceT t b s
  | .fenceC t b => Sys2Proof.Machine.execFenceC t b s
  | .fenceG t b => Sys2Proof.Machine.execFenceG t b s
  | .defp t b => Sys2Proof.Machine.execDefp t b s
  | .defd t b => Sys2Proof.Machine.execDefd t b s
  | .retd t b => Sys2Proof.Machine.execRetd t b s
  | .deferredReturn t cyclesLeft => Sys2Proof.Machine.execDeferredReturn t cyclesLeft s
  | .dset t b => Sys2Proof.Machine.execDset t b s
  | .dget t b => Sys2Proof.Machine.execDget t b s
  | .mfs t b => Sys2Proof.Machine.execMfs t b s
  | .brk t b => Sys2Proof.Machine.execBrk t b s
  | .mma t b => Sys2Proof.Machine.execMma t b s
  | .mmaDone t op => Sys2Proof.Machine.execMmaDone t op s
  | .mdrain t b => Sys2Proof.Machine.execMdrain t b s
  | .mdrainDone t op => Sys2Proof.Machine.execMdrainDone t op s
  | .varith t b => Sys2Proof.Machine.execVarith t b s
  | .vfma t b => Sys2Proof.Machine.execVfma t b s
  | .vbcast t b => Sys2Proof.Machine.execVbcast t b s
  | .vred t b => Sys2Proof.Machine.execVred t b s
  | .vsfu t b => Sys2Proof.Machine.execVsfu t b s
  | .vcvt t b => Sys2Proof.Machine.execVcvt t b s
  | .vld t b => Sys2Proof.Machine.execVld t b s
  | .vst t b => Sys2Proof.Machine.execVst t b s
  | .vrng t b => Sys2Proof.Machine.execVrng t b s
  | .s2Result t op => Sys2Proof.Machine.execS2Result t op s
  | .vstDone t op => Sys2Proof.Machine.execVstDone t op s
  | .vcvtMxDone t op => Sys2Proof.Machine.execVcvtMxDone t op s
  | .dma t b => Sys2Proof.Machine.execDma t b s
  | .dmaDone t op pcieError => Sys2Proof.Machine.execDmaDone t op pcieError s
  | .krot t b => Sys2Proof.Machine.execKrot t b s
  | .pcol t b => Sys2Proof.Machine.execPcol t b s
  | .semr t b => Sys2Proof.Machine.execSemr t b s
  | .semrSent t op => Sys2Proof.Machine.execSemrSent t op s
  | .dld t b => Sys2Proof.Machine.execDld t b s
  | .dstr t b => Sys2Proof.Machine.execDstr t b s
  | .ipf t b => Sys2Proof.Machine.execIpf t b s
  | .contribHeader id rank h => Sys2Proof.Machine.execContribHeader id rank h s
  | .mismatchNotice id => Sys2Proof.Machine.execMismatchNotice id s
  | .anchorEc id rank block ec => Sys2Proof.Machine.execAnchorEc id rank block ec s
  | .anchorReply id owner block anchor => Sys2Proof.Machine.execAnchorReply id owner block anchor s
  | .contribution id rank data side => Sys2Proof.Machine.execContribution id rank data side s
  | .deadline id => Sys2Proof.Machine.execDeadline id s
  | .shardComplete id => Sys2Proof.Machine.execShardComplete id s
  | .shardResult id owner data side present => Sys2Proof.Machine.execShardResult id owner data side present s
  | .collectiveComplete id => Sys2Proof.Machine.execCollectiveComplete id s
  | .barrierComplete id => Sys2Proof.Machine.execBarrierComplete id s
  | .countExchange id rank count => Sys2Proof.Machine.execCountExchange id rank count s
  | .capacityNotice id => Sys2Proof.Machine.execCapacityNotice id s
  | .sourceResetNotice chip => Sys2Proof.Machine.execSourceResetNotice chip s
  | .failDeclaration chip => Sys2Proof.Machine.execFailDeclaration chip s
  | .memberFailTimeout id rank => Sys2Proof.Machine.execMemberFailTimeout id rank s
  | .gtwCommit path => Sys2Proof.Machine.execGtwCommit path s
  | .gtwInvalidate path => Sys2Proof.Machine.execGtwInvalidate path s
  | .gtwRead path => Sys2Proof.Machine.execGtwRead path s
  | .krotGrant ring hop => Sys2Proof.Machine.execKrotGrant ring hop s
  | .krotData ring first data => Sys2Proof.Machine.execKrotData ring first data s
  | .krotAck ring bytes => Sys2Proof.Machine.execKrotAck ring bytes s
  | .krotTimeout ring => Sys2Proof.Machine.execKrotTimeout ring s
  | .rtwCommit path => Sys2Proof.Machine.execRtwCommit path s
  | .rtwInvalidate path => Sys2Proof.Machine.execRtwInvalidate path s
  | .rtwRead path => Sys2Proof.Machine.execRtwRead path s
  | .ouuReload path p => Sys2Proof.Machine.execOuuReload path p s
  | .ouuTblWrite path p high value => Sys2Proof.Machine.execOuuTblWrite path p high value s
  | .frameDigestFinal t frame => Sys2Proof.Machine.execFrameDigestFinal t frame s
  | .mirrorDigest t frame digest => Sys2Proof.Machine.execMirrorDigest t frame digest s
  | .mirrorTimeout p => Sys2Proof.Machine.execMirrorTimeout p s
  | .patrolScrub da finding => Sys2Proof.Machine.execPatrolScrub da finding s
  | .aowRequest t op request errs => Sys2Proof.Machine.execAowRequest t op request errs s
  | .aowDataPiece piece => Sys2Proof.Machine.execAowDataPiece piece s
  | .aowInitDone side => Sys2Proof.Machine.execAowInitDone side s
  | .aowCompletion k => Sys2Proof.Machine.execAowCompletion k s
  | .aptCommit path => Sys2Proof.Machine.execAptCommit path s
  | .aptInvalidate path keep => Sys2Proof.Machine.execAptInvalidate path keep s
  | .aptRead path => Sys2Proof.Machine.execAptRead path s
  | .aptDrainTimeout => Sys2Proof.Machine.execAptDrainTimeout s
  | .granuleZeroDone => Sys2Proof.Machine.execGranuleZeroDone s
  | .doorbellSq fn high low => Sys2Proof.Machine.execDoorbellSq fn high low s
  | .doorbellCq fn high low => Sys2Proof.Machine.execDoorbellCq fn high low s
  | .doorbellLowHalf fn cq low => Sys2Proof.Machine.execDoorbellLowHalf fn cq low s
  | .commandFetch ch => Sys2Proof.Machine.execCommandFetch ch s
  | .channelNop ch index => Sys2Proof.Machine.execChannelNop ch index s
  | .flush ch index => Sys2Proof.Machine.execFlush ch index s
  | .flushDone ch index => Sys2Proof.Machine.execFlushDone ch index s
  | .launch ch index => Sys2Proof.Machine.execLaunch ch index s
  | .start ch index => Sys2Proof.Machine.execStart ch index s
  | .invoke ch index => Sys2Proof.Machine.execInvoke ch index s
  | .stop ch index => Sys2Proof.Machine.execStop ch index s
  | .groupWrite ch index => Sys2Proof.Machine.execGroupWrite ch index s
  | .ringWrite ch index => Sys2Proof.Machine.execRingWrite ch index s
  | .semSet ch index => Sys2Proof.Machine.execSemSet ch index s
  | .copy ch index errs => Sys2Proof.Machine.execCopy ch index errs s
  | .copyDone ch index => Sys2Proof.Machine.execCopyDone ch index s
  | .ckptReq ch index => Sys2Proof.Machine.execCkptReq ch index s
  | .cwCreate path => Sys2Proof.Machine.execCwCreate path s
  | .cwDestroy path => Sys2Proof.Machine.execCwDestroy path s
  | .cwRead path => Sys2Proof.Machine.execCwRead path s
  | .cwStop path => Sys2Proof.Machine.execCwStop path s
  | .cwResume path => Sys2Proof.Machine.execCwResume path s
  | .tCommit path => Sys2Proof.Machine.execTCommit path s
  | .tRead path => Sys2Proof.Machine.execTRead path s
  | .semSignalWrite fn k v => Sys2Proof.Machine.execSemSignalWrite fn k v s
  | .semSetWrite fn k v => Sys2Proof.Machine.execSemSetWrite fn k v s
  | .semrArrive tenant jobId k count => Sys2Proof.Machine.execSemrArrive tenant jobId k count s
  | .flr fn => Sys2Proof.Machine.execFlr fn s
  | .creditRecall p tenant => Sys2Proof.Machine.execCreditRecall p tenant s
  | .fetch ch index => Sys2Proof.Machine.execFetch ch index s
  | .extentEnd ch index extent wire => Sys2Proof.Machine.execExtentEnd ch index extent wire s
  | .wsetCreate ch index => Sys2Proof.Machine.execWsetCreate ch index s
  | .wsetBind ch index => Sys2Proof.Machine.execWsetBind ch index s
  | .wsetUnbind ch index => Sys2Proof.Machine.execWsetUnbind ch index s
  | .wsetFlip ch index => Sys2Proof.Machine.execWsetFlip ch index s
  | .flipWordWrite set tenant => Sys2Proof.Machine.execFlipWordWrite set tenant s
  | .wsetDestroy ch index => Sys2Proof.Machine.execWsetDestroy ch index s
  | .keyLoad ch index journalOk => Sys2Proof.Machine.execKeyLoad ch index journalOk s
  | .keyClear ch index journalOk => Sys2Proof.Machine.execKeyClear ch index journalOk s
  | .linkTrain l r => Sys2Proof.Machine.execLinkTrain l r s
  | .trainRetry l => Sys2Proof.Machine.execTrainRetry l s
  | .laneFail l lane => Sys2Proof.Machine.execLaneFail l lane s
  | .narrowRetrainDone l => Sys2Proof.Machine.execNarrowRetrainDone l s
  | .rlmPoll id status power pmin temp => Sys2Proof.Machine.execRlmPoll id status power pmin temp s
  | .flitReceive l flit uncorrectable corrected => Sys2Proof.Machine.execFlitReceive l flit uncorrectable corrected s
  | .replayTimeout l => Sys2Proof.Machine.execReplayTimeout l s
  | .packetReceive h payload => Sys2Proof.Machine.execPacketReceive h payload s
  | .linkCreditWatchdog l vl tenant => Sys2Proof.Machine.execLinkCreditWatchdog l vl tenant s
  | .reserveRelease l tenant => Sys2Proof.Machine.execReserveRelease l tenant s
  | .lnkRetrain path l => Sys2Proof.Machine.execLnkRetrain path l s
  | .clrLanes path l => Sys2Proof.Machine.execClrLanes path l s
  | .linkDisable path l disable => Sys2Proof.Machine.execLinkDisable path l disable s
  | .rlmEnable path en => Sys2Proof.Machine.execRlmEnable path en s
  | .qpCommit path => Sys2Proof.Machine.execQpCommit path s
  | .qpReset path => Sys2Proof.Machine.execQpReset path s
  | .qpRead path => Sys2Proof.Machine.execQpRead path s
  | .ethPacketReceive l pkt => Sys2Proof.Machine.execEthPacketReceive l pkt s
  | .qpTimeout q => Sys2Proof.Machine.execQpTimeout q s
  | .qpRateRise q => Sys2Proof.Machine.execQpRateRise q s
  | .entdaa address => Sys2Proof.Machine.execEntdaa address s
  | .rstdaa => Sys2Proof.Machine.execRstdaa s
  | .enec => Sys2Proof.Machine.execEnec s
  | .disec => Sys2Proof.Machine.execDisec s
  | .getpid => Sys2Proof.Machine.execGetpid s
  | .getbcr => Sys2Proof.Machine.execGetbcr s
  | .getdcr => Sys2Proof.Machine.execGetdcr s
  | .getstatus => Sys2Proof.Machine.execGetstatus s
  | .getmwl => Sys2Proof.Machine.execGetmwl s
  | .getmrl => Sys2Proof.Machine.execGetmrl s
  | .rstact action => Sys2Proof.Machine.execRstact action s
  | .i3cUnsupportedCcc code => Sys2Proof.Machine.execI3cUnsupportedCcc code s
  | .i3cPrivateWrite offset data => Sys2Proof.Machine.execI3cPrivateWrite offset data s
  | .i3cPrivateRead offset => Sys2Proof.Machine.execI3cPrivateRead offset s
  | .commit => Sys2Proof.Machine.execCommit s
  | .halt path => Sys2Proof.Machine.execHalt path s
  | .haltDriveEnd => Sys2Proof.Machine.execHaltDriveEnd s
  | .boardHalt => Sys2Proof.Machine.execBoardHalt s
  | .haltNLow => Sys2Proof.Machine.execHaltNLow s
  | .parentLost newParent => Sys2Proof.Machine.execParentLost newParent s
  | .frameWatchdog t => Sys2Proof.Machine.execFrameWatchdog t s
  | .channelWatchdog ch => Sys2Proof.Machine.execChannelWatchdog ch s
  | .serviceCoreWatchdog core => Sys2Proof.Machine.execServiceCoreWatchdog core s
  | .companionCoreWatchdog core tenant => Sys2Proof.Machine.execCompanionCoreWatchdog core tenant s
  | .resetWatchdog => Sys2Proof.Machine.execResetWatchdog s
  | .computeReset source => Sys2Proof.Machine.execComputeReset source s
  | .resetDrainTimeout => Sys2Proof.Machine.execResetDrainTimeout s
  | .dumpDone => Sys2Proof.Machine.execDumpDone s
  | .resetEnd => Sys2Proof.Machine.execResetEnd s
  | .memoryReset => Sys2Proof.Machine.execMemoryReset s
  | .hbmRetrainDone ok writesKept => Sys2Proof.Machine.execHbmRetrainDone ok writesKept s
  | .controlReset => Sys2Proof.Machine.execControlReset s
  | .controlRestartDone => Sys2Proof.Machine.execControlRestartDone s
  | .wholeDeviceReset => Sys2Proof.Machine.execWholeDeviceReset s
  | .resetCompute path => Sys2Proof.Machine.execResetCompute path s
  | .resetMemory path => Sys2Proof.Machine.execResetMemory path s
  | .resetControl path => Sys2Proof.Machine.execResetControl path s
  | .resetDevice path => Sys2Proof.Machine.execResetDevice path s
  | .abandon jobId cause => Sys2Proof.Machine.execAbandon jobId cause s
  | .warningReceive chip source => Sys2Proof.Machine.execWarningReceive chip source s
  | .cutOrder jobId c => Sys2Proof.Machine.execCutOrder jobId c s
  | .cutReport jobId chip stage => Sys2Proof.Machine.execCutReport jobId chip stage s
  | .cutRelease jobId => Sys2Proof.Machine.execCutRelease jobId s
  | .cutDrainDone p wire => Sys2Proof.Machine.execCutDrainDone p wire s
  | .restoreDone p wire => Sys2Proof.Machine.execRestoreDone p wire s
  | .admissionCopy p extent data digest ue => Sys2Proof.Machine.execAdmissionCopy p extent data digest ue s
  | .resetNRise railsInRange => Sys2Proof.Machine.execResetNRise railsInRange s
  | .chipReady => Sys2Proof.Machine.execChipReady s
  | .flashRelease => Sys2Proof.Machine.execFlashRelease s
  | .fuseArm path key => Sys2Proof.Machine.execFuseArm path key s
  | .fuseProgram path => Sys2Proof.Machine.execFuseProgram path s
  | .fuseProgramDone intact => Sys2Proof.Machine.execFuseProgramDone intact s
  | .fuseRead path => Sys2Proof.Machine.execFuseRead path s
  | .imageStage path => Sys2Proof.Machine.execImageStage path s
  | .imageStageDone ok => Sys2Proof.Machine.execImageStageDone ok s
  | .imageActivate path => Sys2Proof.Machine.execImageActivate path s
  | .activationSwap => Sys2Proof.Machine.execActivationSwap s
  | .activateCancel path => Sys2Proof.Machine.execActivateCancel path s
  | .registerWrite path offset enables value => Sys2Proof.Machine.execRegisterWrite path offset enables value s
  | .rcRead path offset enables => Sys2Proof.Machine.execRcRead path offset enables s
  | .registerStallTimeout path offset write => Sys2Proof.Machine.execRegisterStallTimeout path offset write s
  | .glbStrobe path blocks => Sys2Proof.Machine.execGlbStrobe path blocks s
  | .pwrApply path => Sys2Proof.Machine.execPwrApply path s
  | .pwrCfgWrite path value => Sys2Proof.Machine.execPwrCfgWrite path value s
  | .stagingWrite path value => Sys2Proof.Machine.execStagingWrite path value s
  | .blockEnableWrite path value => Sys2Proof.Machine.execBlockEnableWrite path value s
  | .mbxRequest path window value => Sys2Proof.Machine.execMbxRequest path window value s
  | .mbxServe window => Sys2Proof.Machine.execMbxServe window s
  | .counterClear path c => Sys2Proof.Machine.execCounterClear path c s
  | .brkEnWrite path t en => Sys2Proof.Machine.execBrkEnWrite path t en s
  | .tileDebugHalt path t => Sys2Proof.Machine.execTileDebugHalt path t s
  | .tileDebugResume path t => Sys2Proof.Machine.execTileDebugResume path t s
  | .tileDebugStep path t => Sys2Proof.Machine.execTileDebugStep path t s
  | .uartRxChar data stop => Sys2Proof.Machine.execUartRxChar data stop s
  | .uartTxWrite path data => Sys2Proof.Machine.execUartTxWrite path data s
  | .uartRxRead path => Sys2Proof.Machine.execUartRxRead path s
  | .idcode => Sys2Proof.Machine.execIdcode s
  | .samplePreload pins preload => Sys2Proof.Machine.execSamplePreload pins preload s
  | .extest => Sys2Proof.Machine.execExtest s
  | .clamp => Sys2Proof.Machine.execClamp s
  | .highz => Sys2Proof.Machine.execHighz s
  | .dtmcs => Sys2Proof.Machine.execDtmcs s
  | .dmi a => Sys2Proof.Machine.execDmi a s
  | .bypass => Sys2Proof.Machine.execBypass s
  | .railMonitorTrip rail => Sys2Proof.Machine.execRailMonitorTrip rail s
  | .refclkLoss => Sys2Proof.Machine.execRefclkLoss s
  | .refclkRestore => Sys2Proof.Machine.execRefclkRestore s
  | .thermalSample die iod hbm oe => Sys2Proof.Machine.execThermalSample die iod hbm oe s
  | .thermalRelease => Sys2Proof.Machine.execThermalRelease s
  | .resetNLow => Sys2Proof.Machine.execResetNLow s
  | .perstNRise => Sys2Proof.Machine.execPerstNRise s
  | .haltNRelease => Sys2Proof.Machine.execHaltNRelease s
  | .activationRelease => Sys2Proof.Machine.execActivationRelease s
  | .gangPreemption jobId => Sys2Proof.Machine.execGangPreemption jobId s
  | .registration chip jobId mode stepFrames launching => Sys2Proof.Machine.execRegistration chip jobId mode stepFrames launching s
  | .workerReport chip jobId r => Sys2Proof.Machine.execWorkerReport chip jobId r s
  | .gtcReformLimit => Sys2Proof.Machine.execGtcReformLimit s
  | .holdMinExpiry jobId => Sys2Proof.Machine.execHoldMinExpiry jobId s
  | .uartTxChar => Sys2Proof.Machine.execUartTxChar s

end Sys2Proof.Machine
end

