-- ==== Sys2Proof/Machine/Step.lean ====
section
/-!
DEFINITION. The step of the block: the command at the front of the queue, or, with none waiting, one count of the GTC.
-/

namespace Sys2Proof.Machine

/-- With no command waiting, a nanosecond passes, one count of domain time; every 20,000th is two counts or none while an
offset is slewed away (R23). A chip held in whole-device reset counts nothing (R21, R342). DESIGN CHOICE, log 1. -/
def idle (s : State) : State :=
  match s.pkg.heldBy with
  | none =>
    let c := s.clock.slew 1
    { s with clock := { c with gtc := s.clock.gtc + 1 + BitVec.ofInt 64 (s.clock.slewLeft - c.slewLeft) } }
  | some _ => s

def step (s : State) : Host.Outcome State Fault Refusal :=
  match s.pending with
  | [] => .next (idle s)
  | c :: rest => exec c { s with pending := rest }

/-- The command that a table word spells goes to the front of the queue; no row of the table gives bits. -/
def State.withFetchWord (s : State) (nbits w : Nat) : State :=
  match decodeTableWord nbits w with
  | none => s
  | some c => { s with pending := c :: s.pending }

end Sys2Proof.Machine
end

