-- ==== Sys2Proof/Safety.lean ====
section
/-!
DEFINITION. What a safe step and a safe run of the block are: each command answers a next state. What a canonical state
is: the memories, the register file, the tiles, the partitions and the boot flash each have the one form that their
contents allow, so that equal contents are equal data.
-/

namespace Sys2Proof.Safety

open Sys2Proof.Machine

/-- A step is safe when it answers a next state. -/
def SafeStep (s : State) : Prop := ∃ t, step s = .next t

/-- The states that steps reach from a state. -/
inductive Reaches (s : State) : State → Prop where
  | here : Reaches s s
  | step (t u : State) (h : Reaches s t) (hs : step t = .next u) : Reaches s u

/-- A run is safe when every state it reaches steps safely. -/
def SafeRun (s : State) : Prop := ∀ t, Reaches s t → SafeStep t

/-- The components of the state; `ls`, `dram` and `flash` are the bytes of the memories, `store` and `start` what stands
beside them. -/
inductive Component where
  | pending | clock | rf | tiles | parts | ls | dram | store | loupe | prism | kal | apt | chan | ing | net | mgt | flt
  | flash | start | port | dbg | pkg | freeCount | out
deriving DecidableEq, Repr

/-- Two states agree in a component. -/
def Same (s t : State) : Component → Prop
  | .pending => t.pending = s.pending
  | .clock => t.clock = s.clock
  | .rf => t.rf = s.rf
  | .tiles => t.tiles = s.tiles
  | .parts => t.parts = s.parts
  | .ls => t.mem.ls = s.mem.ls
  | .dram => t.mem.dram = s.mem.dram
  | .store => { t.mem with ls := [], dram := [] } = { s.mem with ls := [], dram := [] }
  | .loupe => t.loupe = s.loupe
  | .prism => t.prism = s.prism
  | .kal => t.kal = s.kal
  | .apt => t.apt = s.apt
  | .chan => t.chan = s.chan
  | .ing => t.ing = s.ing
  | .net => t.net = s.net
  | .mgt => t.mgt = s.mgt
  | .flt => t.flt = s.flt
  | .flash => t.start.flash = s.start.flash
  | .start => { t.start with flash := [] } = { s.start with flash := [] }
  | .port => t.port = s.port
  | .dbg => t.dbg = s.dbg
  | .pkg => t.pkg = s.pkg
  | .freeCount => t.freeCount = s.freeCount
  | .out => t.out = s.out

/-- Outside the components of a list, t is s. -/
def Frame (l : List Component) (s t : State) : Prop := ∀ c, c ∉ l → Same s t c

/-- Every finite map that stands for a memory or a register file is in its canonical form. -/
def Canonical (s : State) : Bool :=
  Memory.wf s.mem && Sparse.wf (fun _ => 0xFF) s.start.flash && Sparse.wf Reg.resetValue s.rf.file
    && Sparse.wf (fun _ => Tile.reset) s.tiles && Sparse.wf (fun _ => Part.reset) s.parts

/-! ### Issue of a bundle (R97-R100, R118) -/

/-- The registers of a tile that its instructions read and write, and what it has in flight. -/
def tileRegs (x : Tile) : Word × Sparse Dword × Sparse (BitVec 256) × Sparse Bool × Sparse (BitVec 16) × Sparse (List Word) ×
    Sparse (BitVec 144) × Sparse (Option AccTag) × List DefEntry × Option Routine × Option Closing × Option FenceKind ×
    List Op × List PendRes :=
  (x.pc, x.x, x.d, x.b, x.e, x.v, x.acc, x.tags, x.queue, x.routine, x.closing, x.fence, x.ops, x.pend)

/-- A tile whose fence, if any, has let its next bundle issue. -/
def unfenced (x : Tile) : Tile := { x with fence := none }

/-- The bundle at the PC of tile t issues now: the tile may issue, no debug halt stops it, and no exception of R118 and no
hold of R100 applies. -/
structure Issues (s : State) (t : Nat) (b : Bundle) : Prop where
  can : s.canIssue t = true
  here : (s.tile t).bundleAt (s.tile t).pc = some b
  runs : (opc (slotOf b 0) = 0x18 && (s.tile t).live (slotOf b 0) && s.rdBit (Reg.pmcTdbg t) 0 && !(s.tile t).debugPass) = false
  legal : bundleIllegal (s.tile t).routine.isSome b = false
  apart : (s.tile t).slotConflict b = false
  free : s.holds t (s.tile t) b = false
  checked : (s.setTile t (unfenced (s.tile t))).slotsCheck t (unfenced (s.tile t)) b = none

/-- The state after the four slots of an issuing bundle, each from the registers as they stood before it. -/
def slotsDone (s : State) (t : Nat) (b : Bundle) : State :=
  (List.range 4).foldl (fun u i => u.slotEffect t (unfenced (s.tile t)) b i) (s.setTile t (unfenced (s.tile t)))

/-- The state after an issuing bundle. -/
def issued (s : State) (t : Nat) (b : Bundle) : State := (slotsDone s t b).afterBundle t (unfenced (s.tile t)) b

/-- The bundle issues, and slot i alone executes; its word is w. -/
structure OnlySlot (s : State) (t : Nat) (b : Bundle) (i w : Nat) : Prop where
  issues : Issues s t b
  word : slotOf b i = w
  live : (s.tile t).live w = true
  others : ∀ j, j < 4 → j ≠ i → (s.tile t).live (slotOf b j) = false

/-- What a bundle leaves besides its effect on the registers of tile t: every other tile, the memories, the partitions, the
semaphores, and all that no fetch fault touches. -/
def StandsBeside (s : State) (t : Nat) (u : State) : Prop :=
  (∀ v, v ≠ t → u.tile v = s.tile v) ∧ Frame [.rf, .tiles, .chan, .flt, .dbg, .out] s u ∧
    u.chan.chans = s.chan.chans ∧ u.chan.tenants = s.chan.tenants ∧ u.chan.contexts = s.chan.contexts

/-- The command answers a state in which the registers of tile t are those of f applied to the tile, the PC moved to
`pc`, and the rest stands. -/
def RegResult (c : Instr) (s : State) (t : Nat) (pc : Word) (f : Tile → Tile) : Prop :=
  ∃ u, exec c s = .next u ∧ tileRegs (u.tile t) = tileRegs { f (unfenced (s.tile t)) with pc := pc } ∧
    u.chan.sems = s.chan.sems ∧ StandsBeside s t u

/-- A path's register access is open, and the path reaches the register. -/
structure Opens (s : State) (path : Path) (place : Nat) : Prop where
  up : s.busOpen path = true
  holds : (path.offsetOf place).isSome = true

/-! ### Commands of the channel engine (R255-R259) -/

/-- The command at `index` of a channel is fetched, has this opcode and no reserved field that is not zero, and may start. -/
structure Starts (s : State) (ch : Nat) (index : Word) (opc : Nat) (c : ExecCmd) : Prop where
  fetched : s.cmd ch index = some c
  opcode : c.opc = opc
  may : s.mayStart c = true
  clean : reservedByte (operandFields opc) c.words.toNat = none

/-- The state in which a command has started. -/
def begun (s : State) (c : ExecCmd) : State := s.setCmd { c with started := true }

/-- Completion of a command with a status and a DETAIL. -/
def ends (s : State) (c : ExecCmd) (e : Nat × Nat) : State := s.complete c.chan c.index e.1 e.2 0

/-- The checkpoint requests of a job that this chip has in execution. -/
def cutRequests (s : State) (jobId : Word) : List ExecCmd :=
  s.chan.cmds.filter fun c => c.opc == 0x0A && c.started && c.status.isNone && c.arg 4 32 == jobId.toNat

/-- The command is in execution and has no status yet. -/
structure InExecution (s : State) (ch : Nat) (index : Word) (opc : Nat) (c : ExecCmd) : Prop where
  fetched : s.cmd ch index = some c
  opcode : c.opc = opc
  started : c.started = true
  running : c.status = none

/-! ### What each command may touch -/

/-- The components that a row's command may change, whatever the state; everything else of the state it leaves. -/
def touched : Instr → List Component
  | .doorbellLowHalf .. => [.chan]
  | .counterClear .. | .uartTxWrite .. | .extest | .clamp | .highz => [.dbg]
  | .rstdaa | .disec | .rstact .. => [.mgt]
  | .getpid | .getbcr | .getdcr | .getmwl | .getmrl | .i3cUnsupportedCcc .. => [.out]
  | .cutRelease .. => [.parts]
  | .perstNRise => [.pkg]
  | .gtwRead .. | .rtwRead .. | .ouuReload .. | .aptRead .. | .cwRead .. | .tRead .. | .qpRead .. | .fuseRead .. => [.rf]
  | .flashRelease | .fuseArm .. => [.start]
  | .haltNRelease => [.clock, .mgt]
  | .trainRetry .. | .reserveRelease .. | .qpRateRise .. => [.clock, .net]
  | .reformPending | .reform .. => [.clock, .out]
  | .uartRxRead .. | .idcode | .samplePreload .. | .dtmcs | .bypass | .uartTxChar => [.dbg, .out]
  | .getstatus => [.freeCount, .out]
  | .entdaa .. | .enec | .warningReceive .. => [.mgt, .out]
  | .packetReceive .. => [.net, .out]
  | .launchCount .. => [.parts, .out]
  | .activateCancel .. => [.parts, .start]
  | .aptInvalidate .. => [.rf, .apt]
  | .cwCreate .. | .cwDestroy .. | .cwStop .. | .cwResume .. | .tCommit .. | .semSignalWrite .. | .semSetWrite ..
  | .semrArrive .. => [.rf, .chan]
  | .uartRxChar .. => [.rf, .dbg]
  | .companionCoreWatchdog .. | .memoryReset | .resetMemory .. => [.rf, .flt]
  | .rtwInvalidate .. => [.rf, .kal]
  | .halt .. | .haltDriveEnd => [.rf, .mgt]
  | .qpCommit .. => [.rf, .net]
  | .cutOrder .. | .pwrApply .. => [.rf, .parts]
  | .mismatchNotice .. | .capacityNotice .. | .gtwInvalidate .. => [.rf, .prism]
  | .fuseProgram .. | .fuseProgramDone .. => [.rf, .start]
  | .tileDebugHalt .. | .tileDebugResume .. | .tileDebugStep .. => [.rf, .tiles]
  | .holdMinExpiry .. => [.clock, .mgt, .out]
  | .timeExchange .. | .holdover => [.clock, .rf, .out]
  | .boardHalt => [.rf, .mgt, .out]
  | .rtwCommit .. => [.rf, .parts, .kal]
  | .imageActivate .. => [.rf, .parts, .start]
  | .mbxServe .. => [.rf, .port, .freeCount]
  | .registerStallTimeout .. => [.rf, .port, .out]
  | .gtcReformLimit => [.clock, .mgt, .freeCount, .out]
  | .channelWatchdog .. => [.clock, .rf, .chan, .flt]
  | .thermalRelease => [.clock, .rf, .parts, .pkg]
  | .computeReset .. | .resetCompute .. => [.rf, .chan, .flt, .out]
  | .activationSwap => [.rf, .chan, .start, .out]
  | .i3cPrivateRead .. | .rcRead .. => [.rf, .dbg, .freeCount, .out]
  | .granuleZeroDone => [.rf, .dram, .store, .apt]
  | .imageStageDone .. => [.rf, .flash, .start, .freeCount]
  | .haltNLow | .controlRestartDone => [.rf, .mgt, .flt, .out]
  | .commit => [.rf, .mgt, .start, .out]
  | .linkTrain .. => [.rf, .net, .freeCount, .out]
  | .periodWrite .. | .ouuTblWrite .. | .glbStrobe .. | .pwrCfgWrite .. | .stagingWrite .. | .mbxRequest ..
  | .brkEnWrite .. => [.rf, .parts, .port, .out]
  | .gtcReform => [.clock, .rf, .mgt, .freeCount, .out]
  | .creditRecall .. => [.rf, .chan, .net, .dbg, .out]
  | .chipReady => [.rf, .mgt, .flash, .start, .out]
  | .narrowRetrainDone .. => [.rf, .net, .dbg, .freeCount, .out]
  | .anchorEc .. => [.rf, .parts, .prism, .dbg, .out]
  | .frameWatchdog .. => [.rf, .tiles, .chan, .flt, .out]
  | .deadline .. | .memberFailTimeout .. => [.clock, .rf, .parts, .prism, .dbg, .out]
  | .aowCompletion .. => [.rf, .tiles, .store, .chan, .flt, .out]
  | .aowDataPiece .. | .aowInitDone .. => [.rf, .dram, .store, .mgt, .flt, .dbg, .out]
  | .aptCommit .. => [.rf, .store, .apt, .mgt, .flt, .dbg, .out]
  | .imageStage .. => [.rf, .store, .mgt, .flt, .start, .dbg, .out]
  | .doorbellSq .. | .doorbellCq .. | .commandFetch .. | .channelNop .. | .flush .. | .flushDone .. | .invoke ..
  | .semSet .. | .ckptReq .. | .cutReport .. => [.rf, .dram, .store, .chan, .mgt, .flt, .dbg, .out]
  | .patrolScrub .. | .aowRequest .. => [.rf, .dram, .store, .mgt, .flt, .dbg, .freeCount, .out]
  | .checkpointCut .. | .cutDrainDone .. | .admissionCopy .. => [.rf, .parts, .dram, .store, .mgt, .flt, .dbg, .out]
  | .gtwCommit .. => [.rf, .parts, .store, .prism, .mgt, .flt, .dbg, .out]
  | .copyDone .. => [.rf, .dram, .store, .apt, .chan, .mgt, .flt, .dbg, .out]
  | .fetch .. | .wsetCreate .. | .wsetBind .. | .wsetUnbind .. | .wsetFlip .. | .flipWordWrite .. | .wsetDestroy .. =>
    [.rf, .dram, .store, .chan, .ing, .mgt, .flt, .dbg, .out]
  | .copy .. => [.rf, .dram, .store, .chan, .mgt, .flt, .dbg, .freeCount, .out]
  | .start .. => [.rf, .parts, .dram, .store, .chan, .mgt, .flt, .dbg, .out]
  | .ouuPass .. => [.rf, .parts, .dram, .store, .mgt, .flt, .dbg, .freeCount, .out]
  | .krotGrant .. => [.rf, .tiles, .store, .kal, .chan, .mgt, .flt, .dbg, .out]
  | .anchorReply .. => [.rf, .tiles, .store, .prism, .chan, .mgt, .flt, .dbg, .out]
  | .parentLost .. => [.clock, .rf, .dram, .store, .chan, .mgt, .flt, .dbg, .freeCount, .out]
  | .extentEnd .. => [.rf, .dram, .store, .chan, .ing, .mgt, .flt, .dbg, .freeCount, .out]
  | .keyLoad .. | .keyClear .. => [.rf, .dram, .store, .chan, .ing, .mgt, .flt, .flash, .dbg, .out]
  | .qpReset .. | .ethPacketReceive .. | .qpTimeout .. => [.rf, .dram, .store, .chan, .ing, .net, .mgt, .flt, .dbg, .out]
  | .ringWrite .. => [.rf, .parts, .dram, .store, .kal, .chan, .mgt, .flt, .dbg, .out]
  | .activationRelease => [.rf, .parts, .dram, .store, .mgt, .flt, .start, .dbg, .freeCount, .out]
  | .groupWrite .. => [.rf, .parts, .dram, .store, .prism, .chan, .mgt, .flt, .dbg, .out]
  | .ledgerRecord .. => [.rf, .tiles, .parts, .dram, .store, .mgt, .flt, .dbg, .freeCount, .out]
  | .resetDrainTimeout => [.clock, .rf, .parts, .dram, .store, .ing, .mgt, .flt, .dbg, .freeCount, .out]
  | .lineFetchArrive .. => [.rf, .tiles, .dram, .store, .apt, .chan, .mgt, .flt, .dbg, .freeCount, .out]
  | .lockCheck .. | .restoreDone .. => [.clock, .rf, .parts, .dram, .store, .chan, .mgt, .flt, .dbg, .pkg, .freeCount, .out]
  | .launch .. => [.rf, .parts, .dram, .store, .loupe, .prism, .chan, .mgt, .flt, .dbg, .freeCount, .out]
  | .gangPreemption .. => [.rf, .tiles, .parts, .dram, .store, .chan, .ing, .mgt, .flt, .dbg, .freeCount, .out]
  | .shardResult .. => [.rf, .tiles, .ls, .dram, .store, .loupe, .prism, .chan, .mgt, .flt, .dbg, .freeCount, .out]
  | .dumpDone => [.rf, .tiles, .ls, .dram, .store, .loupe, .prism, .kal, .chan, .mgt, .flt, .freeCount, .out]
  | .frameDigestFinal .. | .mirrorDigest .. | .mirrorTimeout .. =>
    [.rf, .tiles, .parts, .ls, .dram, .store, .loupe, .chan, .mgt, .flt, .dbg, .freeCount, .out]
  | .deferredReturn .. =>
    [.clock, .rf, .tiles, .parts, .dram, .store, .prism, .chan, .mgt, .flt, .dbg, .pkg, .freeCount, .out]
  | .lateDispatch .. => [.clock, .rf, .tiles, .parts, .ls, .dram, .store, .prism, .chan, .mgt, .flt, .pkg, .freeCount, .out]
  | .stepClose .. | .s2Result .. | .contribHeader .. | .contribution .. | .shardComplete .. | .countExchange .. =>
    [.rf, .tiles, .parts, .ls, .dram, .store, .loupe, .prism, .chan, .mgt, .flt, .dbg, .freeCount, .out]
  | .frameClose .. =>
    [.clock, .rf, .tiles, .parts, .ls, .dram, .store, .prism, .chan, .mgt, .flt, .dbg, .pkg, .freeCount, .out]
  | .mmaDone .. | .mdrainDone .. | .vstDone .. | .vcvtMxDone .. | .dmaDone .. | .semrSent .. | .collectiveComplete ..
  | .barrierComplete .. =>
    [.rf, .tiles, .parts, .ls, .dram, .store, .loupe, .prism, .apt, .chan, .mgt, .flt, .dbg, .freeCount, .out]
  | .bundleRelease .. | .nop .. | .alu .. | .alui .. | .li .. | .lih .. | .cmp .. | .plog .. | .br .. | .loop ..
  | .call .. | .ret .. | .endf .. | .waitc .. | .waite .. | .semw .. | .sems .. | .fenceT .. | .fenceC .. | .fenceG ..
  | .defp .. | .defd .. | .retd .. | .dset .. | .dget .. | .mfs .. | .brk .. | .mma .. | .mdrain .. | .varith ..
  | .vfma .. | .vbcast .. | .vred .. | .vsfu .. | .vcvt .. | .vld .. | .vst .. | .vrng .. | .dma .. | .krot ..
  | .pcol .. | .semr .. | .dld .. | .dstr .. | .ipf .. =>
    [.rf, .tiles, .parts, .ls, .dram, .store, .loupe, .prism, .kal, .chan, .mgt, .flt, .dbg, .freeCount, .out]
  | .resetEnd =>
    [.clock, .rf, .tiles, .parts, .dram, .store, .apt, .chan, .ing, .mgt, .flt, .port, .dbg, .pkg, .freeCount, .out]
  | .aptDrainTimeout =>
    [.clock, .rf, .tiles, .parts, .ls, .dram, .store, .loupe, .prism, .apt, .chan, .mgt, .flt, .dbg, .freeCount, .out]
  | .jobEnd .. | .stop .. | .abandon .. | .registration .. | .workerReport .. =>
    [.clock, .rf, .tiles, .parts, .ls, .dram, .store, .loupe, .prism, .chan, .mgt, .flt, .dbg, .pkg, .freeCount, .out]
  | .sourceResetNotice .. | .failDeclaration .. | .krotData .. | .krotAck .. =>
    [.rf, .tiles, .parts, .ls, .dram, .store, .loupe, .prism, .kal, .apt, .chan, .mgt, .flt, .dbg, .freeCount, .out]
  | .tick .. =>
    [.clock, .rf, .tiles, .parts, .ls, .dram, .store, .loupe, .prism, .chan, .ing, .mgt, .flt, .dbg, .pkg, .freeCount,
      .out]
  | .krotTimeout .. =>
    [.clock, .rf, .tiles, .parts, .ls, .dram, .store, .loupe, .prism, .kal, .apt, .chan, .mgt, .flt, .dbg, .freeCount,
      .out]
  | .laneFail .. | .rlmPoll .. | .flitReceive .. | .replayTimeout .. | .lnkRetrain .. | .clrLanes .. =>
    [.rf, .tiles, .parts, .ls, .dram, .store, .loupe, .prism, .kal, .apt, .chan, .net, .mgt, .flt, .dbg, .freeCount,
      .out]
  | .flr .. =>
    [.clock, .rf, .tiles, .parts, .ls, .dram, .store, .loupe, .prism, .apt, .chan, .ing, .mgt, .flt, .dbg, .pkg,
      .freeCount, .out]
  | .linkCreditWatchdog .. =>
    [.clock, .rf, .tiles, .parts, .ls, .dram, .store, .loupe, .prism, .kal, .apt, .chan, .net, .mgt, .flt, .dbg,
      .freeCount, .out]
  | .linkDisable .. | .rlmEnable .. =>
    [.rf, .tiles, .parts, .ls, .dram, .store, .loupe, .prism, .kal, .apt, .chan, .net, .mgt, .flt, .port, .dbg,
      .freeCount, .out]
  | .blockEnableWrite .. =>
    [.rf, .tiles, .parts, .ls, .dram, .store, .loupe, .prism, .kal, .apt, .chan, .ing, .net, .mgt, .flt, .port, .dbg,
      .freeCount, .out]
  | .railMonitorTrip .. | .resetNLow =>
    [.clock, .rf, .tiles, .parts, .ls, .dram, .store, .loupe, .prism, .kal, .apt, .chan, .ing, .net, .mgt, .flt,
      .start, .port, .dbg, .pkg, .freeCount]
  | .refclkLoss | .thermalSample .. =>
    [.clock, .rf, .tiles, .parts, .ls, .dram, .store, .loupe, .prism, .kal, .apt, .chan, .ing, .net, .mgt, .flt,
      .start, .port, .dbg, .pkg, .freeCount, .out]
  | .i3cPrivateWrite .. | .serviceCoreWatchdog .. | .resetWatchdog | .hbmRetrainDone .. | .controlReset
  | .wholeDeviceReset | .resetControl .. | .resetDevice .. | .resetNRise .. | .registerWrite .. | .dmi ..
  | .refclkRestore =>
    [.clock, .rf, .tiles, .parts, .ls, .dram, .store, .loupe, .prism, .kal, .apt, .chan, .ing, .net, .mgt, .flt,
      .flash, .start, .port, .dbg, .pkg, .freeCount, .out]

end Sys2Proof.Safety
end

