-- ==== Sys2Proof/Certificates/Slice0/Obligations.lean ====
section
/-!
DEFINITION. The statements about the block, for the provers: what each family of commands does, what a step of the block keeps,
what each command leaves alone. Each docstring names the rules of spec/ that its statement rests on.
-/

open Sys2Proof Sys2Proof.Machine Sys2Proof.Safety

/-- R22-R24: an exchange below the root of the time tree corrects domain time: a chip that joins without running frames (or
whose offset is near 2^64, R37; log 60) steps its GTC, every other one slews; OFFSET, LOCK, HOLDOVER, STEPPED and the loss
of lock at the third large offset in a row follow. No other register changes. -/
def Obligations.TimeExchangeCorrectsDomainTime : Prop :=
  ∀ (t1 t2 t3 t4 : Dword) (c : Int) (s : State),
    s.rdBit Reg.shtSyncCfg 0 = true → s.syncLevel ≠ 0 → s.rdBit Reg.mgtStatus 16 = true →
    let o := exchangeOffset t1 t2 t3 t4 c
    let g := (s.reach t4.toNat).now
    let steps := !s.anyRunning && (!s.clock.joined || decide (2 ^ 62 ≤ o.natAbs))
    let large := decide (4 * s.rdFld Reg.shtSyncCfg 7 4 < o.natAbs) && !steps
    let lost := large && decide (s.clock.largeOffsets = 2)
    ∃ u, exec (.timeExchange t1 t2 t3 t4 c) s = .next u ∧
      u.clock.joined = true ∧
      u.clock.gtc = (if steps then BitVec.ofInt 64 (g.toNat + o) else g) ∧
      u.clock.slewLeft = (if steps then 0 else o) ∧
      u.clock.largeOffsets = (if large then s.clock.largeOffsets + 1 else 0) ∧
      u.clock.lastExchange = u.clock.gtc ∧
      u.rdFld Reg.shtSyncStatus 31 16 = offsetField o ∧
      u.rdBit Reg.shtSyncStatus 1 = false ∧
      u.rdBit Reg.shtSyncStatus 0 = (decide (o.natAbs ≤ 2) && !lost) ∧
      u.rdBit Reg.shtSyncStatus 2 = (s.rdBit Reg.shtSyncStatus 2 || lost) ∧
      u.rdBit Reg.shtSyncStatus 3 = (s.rdBit Reg.shtSyncStatus 3 || steps) ∧
      (∀ q, q ≠ Reg.shtSyncStatus → u.rd q = s.rd q) ∧
      u.out = s.out ++ (if lost then [.toChip s.dmChip "SYNC_LOST" [s.self.toNat]] else [])

/-- R24, R26, R37: holdover is flagged and reported; the reform holds STARTs, names its count, a board manager relays both,
and at that count, with no frames running, the GTC becomes zero, STEPPED is set and held launches may go on; at the limit
the domain manager refuses launches and tells every chip of its domain, and with no frames running may name a count 2 ms
ahead at once. A write of PERIOD_K outside 4 to 1,024, or of a partition with running frames, is refused and sets P_IGN;
any other takes effect. -/
def Obligations.HoldoverReformAndPeriods : Prop :=
  ((∀ s : State, s.syncLevel ≠ 0 → s.rdBit Reg.shtSyncStatus 1 = false →
     ∃ u, exec .holdover s = .next u ∧ u.rdBit Reg.shtSyncStatus 1 = true ∧
       (∀ q, q ≠ Reg.shtSyncStatus → u.rd q = s.rd q) ∧
       u.out = s.out ++ [.toChip s.dmChip "HOLDOVER" [s.self.toNat]] ∧
       u.clock = (s.reach (s.clock.lastExchange.toNat + s.rdFld Reg.shtSyncCfg 15 8 * 1000000)).clock) ∧
   (∀ (g : Dword) (s : State),
     let relayed := fun (kind : String) (args : List Nat) =>
       s.out ++ (if s.rdBit Reg.mgtStatus 17 then s.mgt.ready.map (fun c => Out.toChip c kind args) else [])
     exec .reformPending s = .next { s with
       clock := { s.clock with reformHold := true }, out := relayed "REFORM_PENDING" [] } ∧
     exec (.reform g) s = .next { s with clock := { s.clock with reformAt := some g }, out := relayed "REFORM" [g.toNat] }) ∧
   (∀ (g : Dword) (s : State), s.clock.reformAt = some g → s.anyRunning = false →
     ∃ u, exec .gtcReform s = .next u ∧ u.clock.gtc = 0 ∧ u.clock.reformAt = none ∧ u.clock.reformHold = false ∧
       u.mgt.refuse = false ∧ u.rdBit Reg.shtSyncStatus 3 = true ∧
       u.rdBit Reg.shtSyncStatus 0 = s.rdBit Reg.shtSyncStatus 0 ∧ (∀ q, q ≠ Reg.shtSyncStatus → u.rd q = s.rd q)) ∧
   (∀ s : State, s.rdBit Reg.mgtStatus 18 = true → s.mgt.refuse = false →
     ∃ (u : State) (rest : List Out), exec .gtcReformLimit s = .next u ∧ u.mgt.refuse = true ∧ u.clock.reformHold = true ∧
       u.out = s.out ++ s.mgt.ready.map (fun c => .toChip c "REFORM_PENDING" []) ++ rest ∧ (∀ q, u.rd q = s.rd q) ∧
       (rest = [] ∧ u.clock.reformAt = s.clock.reformAt ∨ s.anyRunning = false ∧ s.clock.reformAt = none ∧
         ∃ g, u.now.toNat + 2000000 ≤ g ∧ u.clock.reformAt = some (BitVec.ofNat 64 g) ∧
           rest = s.mgt.ready.map (fun c => .toChip c "REFORM" [g])))) ∧
  (∀ (path : Path) (p : Fin 8) (v : Word) (s : State), s.busOpen path = true →
     (path.offsetOf (Reg.shtPctrl p.val)).isSome = true →
     let k := fld v.toNat 10 0
     (s.hasPart p.val = false → exec (.periodWrite path p v) s = .next s) ∧
     (s.hasPart p.val = true → (s.part p.val).running = true ∨ k < 4 ∨ 1024 < k → exec (.periodWrite path p v) s =
       .next ((s.writeFields path (Reg.shtPctrl p.val) v 0x7FF).setBit (Reg.shtPevent p.val) 4)) ∧
     (s.hasPart p.val = true → (s.part p.val).running = false → 4 ≤ k → k ≤ 1024 → exec (.periodWrite path p v) s =
       .next (s.writeFields path (Reg.shtPctrl p.val) v 0)))

/-- R97, R99, R100: a bundle whose slot holds a row's opcode, and that nothing stops or holds, issues whole: its slots act
from the registers as they stood before it, then the PC moves. Every row of the tables of S0, S1, S2 and S3. -/
def Obligations.EveryTileRowIssuesItsBundle : Prop :=
  ∀ (t : Fin 64) (b : Bundle) (s : State), Issues s t.val b →
    let w := slotOf b
    (opc (w 0) = 0x01 → exec (.alu t b) s = .next (issued s t.val b)) ∧
    (opc (w 0) = 0x02 → exec (.alui t b) s = .next (issued s t.val b)) ∧
    (opc (w 0) = 0x03 → exec (.li t b) s = .next (issued s t.val b)) ∧
    (opc (w 0) = 0x04 → exec (.lih t b) s = .next (issued s t.val b)) ∧
    (opc (w 0) = 0x05 → exec (.cmp t b) s = .next (issued s t.val b)) ∧
    (opc (w 0) = 0x06 → exec (.plog t b) s = .next (issued s t.val b)) ∧
    (opc (w 0) = 0x08 → exec (.br t b) s = .next (issued s t.val b)) ∧
    (opc (w 0) = 0x09 → exec (.loop t b) s = .next (issued s t.val b)) ∧
    (opc (w 0) = 0x0A → exec (.call t b) s = .next (issued s t.val b)) ∧
    (opc (w 0) = 0x0B → exec (.ret t b) s = .next (issued s t.val b)) ∧
    (opc (w 0) = 0x0C → exec (.endf t b) s = .next (issued s t.val b)) ∧
    (opc (w 0) = 0x0D → exec (.waitc t b) s = .next (issued s t.val b)) ∧
    (opc (w 0) = 0x0E → exec (.waite t b) s = .next (issued s t.val b)) ∧
    (opc (w 0) = 0x0F → exec (.semw t b) s = .next (issued s t.val b)) ∧
    (opc (w 0) = 0x10 → exec (.sems t b) s = .next (issued s t.val b)) ∧
    (opc (w 0) = 0x11 ∧ s0Fn (w 0) = 0 → exec (.fenceT t b) s = .next (issued s t.val b)) ∧
    (opc (w 0) = 0x11 ∧ s0Fn (w 0) = 1 → exec (.fenceC t b) s = .next (issued s t.val b)) ∧
    (opc (w 0) = 0x11 ∧ s0Fn (w 0) = 2 → exec (.fenceG t b) s = .next (issued s t.val b)) ∧
    (opc (w 0) = 0x12 → exec (.defp t b) s = .next (issued s t.val b)) ∧
    (opc (w 0) = 0x13 → exec (.defd t b) s = .next (issued s t.val b)) ∧
    (opc (w 0) = 0x14 → exec (.retd t b) s = .next (issued s t.val b)) ∧
    (opc (w 0) = 0x15 → exec (.dset t b) s = .next (issued s t.val b)) ∧
    (opc (w 0) = 0x16 → exec (.dget t b) s = .next (issued s t.val b)) ∧
    (opc (w 0) = 0x17 → exec (.mfs t b) s = .next (issued s t.val b)) ∧
    (opc (w 0) = 0x18 → exec (.brk t b) s = .next (issued s t.val b)) ∧
    (opc (w 0) = 0 ∨ opc (w 1) = 0 ∨ opc (w 2) = 0 ∨ opc (w 3) = 0 → exec (.nop t b) s = .next (issued s t.val b)) ∧
    (opc (w 1) = 0x01 → exec (.mma t b) s = .next (issued s t.val b)) ∧
    (opc (w 1) = 0x02 → exec (.mdrain t b) s = .next (issued s t.val b)) ∧
    (opc (w 2) = 0x01 → exec (.varith t b) s = .next (issued s t.val b)) ∧
    (opc (w 2) = 0x02 → exec (.vfma t b) s = .next (issued s t.val b)) ∧
    (opc (w 2) = 0x03 → exec (.vbcast t b) s = .next (issued s t.val b)) ∧
    (opc (w 2) = 0x04 → exec (.vred t b) s = .next (issued s t.val b)) ∧
    (opc (w 2) = 0x05 → exec (.vsfu t b) s = .next (issued s t.val b)) ∧
    (opc (w 2) = 0x06 → exec (.vcvt t b) s = .next (issued s t.val b)) ∧
    (opc (w 2) = 0x07 → exec (.vld t b) s = .next (issued s t.val b)) ∧
    (opc (w 2) = 0x08 → exec (.vst t b) s = .next (issued s t.val b)) ∧
    (opc (w 2) = 0x09 → exec (.vrng t b) s = .next (issued s t.val b)) ∧
    (opc (w 3) = 0x01 → exec (.dma t b) s = .next (issued s t.val b)) ∧
    (opc (w 3) = 0x02 → exec (.krot t b) s = .next (issued s t.val b)) ∧
    (opc (w 3) = 0x03 → exec (.pcol t b) s = .next (issued s t.val b)) ∧
    (opc (w 3) = 0x04 → exec (.semr t b) s = .next (issued s t.val b)) ∧
    (opc (w 3) = 0x05 → exec (.dld t b) s = .next (issued s t.val b)) ∧
    (opc (w 3) = 0x06 → exec (.dstr t b) s = .next (issued s t.val b)) ∧
    (opc (w 3) = 0x07 → exec (.ipf t b) s = .next (issued s t.val b)) ∧
    ((s.tile t.val).held = true → exec (.bundleRelease t) s = .next (issued s t.val b))

/-- R118: a bundle that meets an exception takes none of its slots' effects: ILLEGAL_OP where a slot does not decode, else
SLOT_CONFLICT where two executing slots name one destination, else, with no hold, the first exception of its slots. The
tile faults with the code. -/
def Obligations.ExceptionStopsTheBundleWhole : Prop :=
  ∀ (t : Fin 64) (b : Bundle) (s : State), s.canIssue t.val = true → (s.tile t.val).bundleAt (s.tile t.val).pc = some b →
    (opc (slotOf b 0) = 0x18 && (s.tile t.val).live (slotOf b 0) && s.rdBit (Reg.pmcTdbg t.val) 0 && !(s.tile t.val).debugPass)
      = false →
    (bundleIllegal (s.tile t.val).routine.isSome b = true → s.issue t.val b = s.exception t.val exIllegal b) ∧
    (bundleIllegal (s.tile t.val).routine.isSome b = false → (s.tile t.val).slotConflict b = true →
      s.issue t.val b = s.exception t.val exConflict b) ∧
    (∀ c, bundleIllegal (s.tile t.val).routine.isSome b = false → (s.tile t.val).slotConflict b = false →
      s.holds t.val (s.tile t.val) b = false →
      (s.setTile t.val (unfenced (s.tile t.val))).slotsCheck t.val (unfenced (s.tile t.val)) b = some c →
      s.issue t.val b = (s.setTile t.val (unfenced (s.tile t.val))).exception t.val c b) ∧
    (∀ c, (s.exception t.val c b).tile t.val = { s.tile t.val with faulted := true }) ∧
    (∀ c u, u ≠ t.val → (s.exception t.val c b).tile u = s.tile u) ∧ (∀ c, (s.exception t.val c b).mem = s.mem) ∧
    (∀ c, (s.exception t.val c b).flt.run.isSome = true)

/-- R97-R99, R106, Table 5.8: the S0 instructions that write a register, where S0 alone executes: ALU, ALUI, LI, LIH, DGET and
MFS write X[XD], CMP and PLOG B[XD], DSET a word of D[FN], from the registers as they stood; the PC moves to the next
bundle. A register write takes effect in the bank that R98 names, and one to X0 or B0 is ignored. -/
def Obligations.ScalarRowsWriteTheirRegister : Prop :=
  ∀ (t : Fin 64) (b : Bundle) (w : Nat) (s : State), OnlySlot s t.val b 0 w →
    let x := s.tile t.val
    let next := x.pc + 1
    (opc w = 0x01 → RegResult (.alu t b) s t.val next fun y =>
      y.setX (s0Xd w) (aluOp (s0Fn w) (x.getX (s0Xa w)) (x.getX (s0Xb w)))) ∧
    (opc w = 0x02 → RegResult (.alui t b) s t.val next fun y =>
      y.setX (s0Xd w) (aluOp (s0Fn w) (x.getX (s0Xa w)) (s0Sext w))) ∧
    (opc w = 0x03 → RegResult (.li t b) s t.val next fun y => y.setX (s0Xd w) (s0Sext w)) ∧
    (opc w = 0x04 → RegResult (.lih t b) s t.val next fun y =>
      y.setX (s0Xd w) (BitVec.ofNat 64 (s0Imm w * 2 ^ 32 + (x.getX (s0Xa w)).toNat % 2 ^ 32))) ∧
    (opc w = 0x05 → RegResult (.cmp t b) s t.val next fun y =>
      y.setB (s0Xd w % 16) (cmpOp (s0Fn w) (x.getX (s0Xa w)) (if bitOf (s0Fn w) 3 then s0Sext w else x.getX (s0Xb w)))) ∧
    (opc w = 0x06 → RegResult (.plog t b) s t.val next fun y =>
      y.setB (s0Xd w % 16) (plogOp (s0Fn w) (x.getB (s0Xa w % 16)) (x.getB (s0Xb w % 16)))) ∧
    (opc w = 0x15 → RegResult (.dset t b) s t.val next fun y =>
      y.setD (s0Fn w) (setDWord (x.getD (s0Fn w)) (s0Imm w % 4) (x.getX (s0Xa w)))) ∧
    (opc w = 0x16 → RegResult (.dget t b) s t.val next fun y =>
      y.setX (s0Xd w) (dWord (x.getD (s0Fn w)) (s0Imm w % 4))) ∧
    (opc w = 0x17 → RegResult (.mfs t b) s t.val next fun y => y.setX (s0Xd w) (s.special t.val (s0Imm w)))

/-- R97, R98: X0 reads as 0, B0 as 1 and E0 as 0 whatever is written; a write to X0 or B0 leaves every register; any other
write is what the register then reads, and leaves the others; while a deferred routine runs, registers of the deferred
bank keep the frame program's values. -/
def Obligations.HardWiredAndBankedRegisters : Prop :=
  (∀ x : Tile, x.getX 0 = 0 ∧ x.getB 0 = true ∧ x.getE 0 = 0) ∧
  (∀ (x : Tile) (v : Dword), (x.setX 0 v).x = x.x) ∧ (∀ (x : Tile) (v : Bool), (x.setB 0 v).b = x.b) ∧
  (∀ (x : Tile) (r q : Nat) (v : Dword), r < 32 → q < 32 → r ≠ 0 → (x.setX r v).getX q = if q = r then v else x.getX q) ∧
  (∀ (x : Tile) (r q : Nat) (v : Bool), r < 16 → q < 16 → r ≠ 0 → (x.setB r v).getB q = if q = r then v else x.getB q) ∧
  (∀ (x : Tile) (r q : Nat) (v : BitVec 256), r < 64 → q < 64 → (x.setD r v).getD q = if q = r then v else x.getD q) ∧
  (∀ (x : Tile) (r : Nat) (v : Dword) (k : Nat), x.routine.isSome = true → 24 ≤ r → r < 32 → k < 32 →
    Sparse.get 0 (x.setX r v).x k = Sparse.get 0 x.x k) ∧
  (∀ (x : Tile) (r : Nat) (v : BitVec 256) (k : Nat), x.routine.isSome = true → 56 ≤ r → r < 64 → k < 64 →
    Sparse.get 0 (x.setD r v).d k = Sparse.get 0 x.d k)

/-- R99, R105, R106, R113-R116: the S0 instructions that move the flow, wait, fence or defer, where S0 alone executes: where
the PC goes, what LOOP, CALL and WAITE write, the frame that ENDF closes, the fence that holds the next bundle, the entry
that DEFP queues, the return that RETD begins. WAITC, BRK, a DEFD with nothing queued, and a bundle of which no slot
executes, only let the PC move. -/
def Obligations.FlowRowsMoveThePc : Prop :=
  (∀ (t : Fin 64) (b : Bundle) (w : Nat) (s : State), OnlySlot s t.val b 0 w →
     let x := s.tile t.val
     let next := x.pc + 1
     let target := pcPlus x.pc (s0Imm w)
     (opc w = 0x08 → RegResult (.br t b) s t.val target id) ∧
     (opc w = 0x09 → RegResult (.loop t b) s t.val (if x.getX (s0Xa w) - 1 = 0 then next else target) fun y =>
       y.setX (s0Xa w) (x.getX (s0Xa w) - 1)) ∧
     (opc w = 0x0A → RegResult (.call t b) s t.val target fun y => y.setX 31 (next.zeroExtend 64)) ∧
     (opc w = 0x0B → RegResult (.ret t b) s t.val ((x.getX (s0Xa w)).truncate 32) id) ∧
     (opc w = 0x0C → RegResult (.endf t b) s t.val next fun y => { y with closing := some {
       decl := BitVec.ofNat 22 (s0Imm w), step := bitOf (s0Fn w) 0, last := bitOf (s0Fn w) 1 } }) ∧
     (opc w = 0x0D → RegResult (.waitc t b) s t.val next id) ∧
     (opc w = 0x0E → RegResult (.waite t b) s t.val next fun y => if s0Fn w = 0 then y else
       { y with e := Sparse.set 0 y.e (x.keyE (s0Fn w)) (x.getE (s0Fn w) - BitVec.ofNat 16 (s0Imm w)) }) ∧
     (opc w = 0x11 → s0Fn w = 0 → RegResult (.fenceT t b) s t.val next fun y => { y with fence := some .tile }) ∧
     (opc w = 0x11 → s0Fn w = 1 → RegResult (.fenceC t b) s t.val next fun y => { y with fence := some .chip }) ∧
     (opc w = 0x12 → x.queue.length < 32 → RegResult (.defp t b) s t.val next fun y => { y with queue := y.queue ++ [{
       pc := target, decl := (x.getX (s0Xa w)).truncate 22, arg := x.getX (s0Xb w) }] }) ∧
     (opc w = 0x14 → RegResult (.retd t b) s t.val next fun y =>
       { y with routine := y.routine.map fun r => { r with returning := true } }) ∧
     (opc w = 0x13 → x.queue = [] → RegResult (.defd t b) s t.val next id) ∧
     (opc w = 0x18 → RegResult (.brk t b) s t.val next id)) ∧
  (∀ (t : Fin 64) (b : Bundle) (s : State), Issues s t.val b → (∀ j, j < 4 → (s.tile t.val).live (slotOf b j) = false) →
     (∃ j, j < 4 ∧ opc (slotOf b j) = 0) → RegResult (.nop t b) s t.val ((s.tile t.val).pc + 1) id)

/-- R115, R116: DEFD, and DEFP with 32 entries waiting, start the oldest entry: the tile goes to the entry's PC, X30 of the
deferred bank holds ARG and X31 zero. -/
def Obligations.DeferredRoutineStarts : Prop :=
  ∀ (t : Fin 64) (b : Bundle) (w : Nat) (e : DefEntry) (q : List DefEntry) (s : State), OnlySlot s t.val b 0 w →
    (s.tile t.val).queue = e :: q →
    (opc w = 0x13 → ∃ u, exec (.defd t b) s = .next u ∧ (u.tile t.val).pc = e.pc ∧ (u.tile t.val).queue = q ∧
      (u.tile t.val).routine.isSome = true ∧ (u.tile t.val).getX 30 = e.arg ∧ (u.tile t.val).getX 31 = 0 ∧
      StandsBeside s t.val u) ∧
    (opc w = 0x12 → 31 ≤ q.length → ∃ u, exec (.defp t b) s = .next u ∧ (u.tile t.val).pc = e.pc ∧
      (u.tile t.val).queue = q ∧ (u.tile t.val).routine.isSome = true ∧ (u.tile t.val).getX 30 = e.arg ∧
      (u.tile t.val).getX 31 = 0 ∧ StandsBeside s t.val u)

/-- R104, R106, R112, R270: SEMW takes N from its semaphore and SEMS adds N, saturating; a function's write of a semaphore
word signals or sets it, beyond its allotment it only sets SEM_RANGE; an arriving SEMR counts where a job or context of
its tenant is in place under its JOB_ID, else it is dropped and counted. No other semaphore changes, and a tile's
registers but the PC stand. -/
def Obligations.SemaphoresCountAndSet : Prop :=
  (∀ (t : Fin 64) (b : Bundle) (w : Nat) (s : State), OnlySlot s t.val b 0 w →
     let x := s.tile t.val
     let v := s.tenantOf t.val
     let k := x.semK w
     let n := s0Fn w + 1
     (opc w = 0x0F → ∃ u, exec (.semw t b) s = .next u ∧
       (∀ j, Sparse.get 0 u.chan.sems j = if j = s.semPlace v k then s.semGet v k - BitVec.ofNat 32 n
         else Sparse.get 0 s.chan.sems j) ∧ n ≤ (s.semGet v k).toNat ∧
       tileRegs (u.tile t.val) = tileRegs { unfenced x with pc := x.pc + 1 } ∧ StandsBeside s t.val u) ∧
     (opc w = 0x10 → ∃ u, exec (.sems t b) s = .next u ∧
       (∀ j, Sparse.get 0 u.chan.sems j = if j = s.semPlace v k
         then BitVec.ofNat 32 (min ((s.semGet v k).toNat + n) (2 ^ 32 - 1)) else Sparse.get 0 s.chan.sems j) ∧
       tileRegs (u.tile t.val) = tileRegs { unfenced x with pc := x.pc + 1 } ∧ StandsBeside s t.val u)) ∧
  (∀ (v : Fin 512) (k : BitVec 13) (n : Word) (s : State),
     (s.busOpen (.vf v) = true → s.semAllotted v.val k.toNat = true →
       (∃ u, exec (.semSignalWrite v k n) s = .next u ∧ (∀ j, Sparse.get 0 u.chan.sems j = if j = s.semPlace v.val k.toNat
         then BitVec.ofNat 32 (min ((s.semGet v.val k.toNat).toNat + n.toNat) (2 ^ 32 - 1)) else Sparse.get 0 s.chan.sems j) ∧
         Frame [.chan] s u) ∧
       (∃ u, exec (.semSetWrite v k n) s = .next u ∧ (∀ j, Sparse.get 0 u.chan.sems j = if j = s.semPlace v.val k.toNat
         then n else Sparse.get 0 s.chan.sems j) ∧ Frame [.chan] s u)) ∧
     (s.busOpen (.vf v) = true → s.semAllotted v.val k.toNat = false →
       exec (.semSignalWrite v k n) s = .next (s.setBit (Reg.tenEvent v.val) 9) ∧
       exec (.semSetWrite v k n) s = .next (s.setBit (Reg.tenEvent v.val) 9)) ∧
     (∀ jobId count, s.inPlace v.val jobId = true → s.semAllotted v.val k.toNat = true →
       ∃ u, exec (.semrArrive v jobId k count) s = .next u ∧
         (∀ j, Sparse.get 0 u.chan.sems j = if j = s.semPlace v.val k.toNat
           then BitVec.ofNat 32 (min ((s.semGet v.val k.toNat).toNat + count) (2 ^ 32 - 1)) else Sparse.get 0 s.chan.sems j) ∧
         Frame [.chan] s u) ∧
     (∀ jobId count, s.inPlace v.val jobId = false → ∃ u, exec (.semrArrive v jobId k count) s = .next u ∧
       u.chan.sems = s.chan.sems ∧ u.rdBit Reg.chnEvent 1 = true ∧ Frame [.rf] s u))

/-- R97, R110, R111, R430: an S2 instruction with a register result, where S2 alone executes, forms it from the registers as
they stood and holds it back until its S2RESULT: VARITH, VFMA, VBCAST, VSFU, VRNG and VCVT into a lane format a vector,
VRED a scalar. S2RESULT writes what is left of it (a later write of the register replaces it, log 30); a barrier that
waited for it is joined. -/
def Obligations.VectorResultsAreFormedThenWritten : Prop :=
  (∀ (t : Fin 64) (b : Bundle) (w : Nat) (s : State), OnlySlot s t.val b 2 w →
    let x := s.tile t.val
    let u := s.setTile t.val (unfenced x)
    let holds := fun (v : List Word) => (u.addPend t.val none (some (s2Vd w, v)) []).afterBundle t.val (unfenced x) b
    (opc w = 0x01 → exec (.varith t b) s = .next (holds (u.s2Vector t.val (unfenced x) w))) ∧
    (opc w = 0x02 → exec (.vfma t b) s = .next (holds (u.s2Vector t.val (unfenced x) w))) ∧
    (opc w = 0x03 → exec (.vbcast t b) s = .next (holds (u.s2Vector t.val (unfenced x) w))) ∧
    (opc w = 0x05 → exec (.vsfu t b) s = .next (holds (u.s2Vector t.val (unfenced x) w))) ∧
    (opc w = 0x09 → exec (.vrng t b) s = .next (holds (u.s2Vector t.val (unfenced x) w))) ∧
    (opc w = 0x06 → s2Fmt w ≤ 2 → exec (.vcvt t b) s = .next (holds (u.castV t.val (unfenced x) w))) ∧
    (opc w = 0x04 → exec (.vred t b) s = .next ((u.addPend t.val (some (x.keyX (s2Xd w), vredOf x w)) none []).afterBundle
      t.val (unfenced x) b))) ∧
  (∀ (t : Fin 64) (n : Nat) (p : PendRes) (s : State), (s.tile t.val).pend.find? (·.id == n) = some p →
    ∃ u, exec (.s2Result t n) s = .next (u.joinBarrier t.val) ∧ (u.tile t.val).pend = (s.tile t.val).pend.filter (·.id != n) ∧
      (∀ k v, p.vd = some (k, v) → (u.tile t.val).getV k = v ∧ ∀ j, j ≠ k → (u.tile t.val).getV j = (s.tile t.val).getV j) ∧
      (∀ k v, p.xd = some (k, v) → k ≠ 0 → ∀ j, Sparse.get 0 (u.tile t.val).x j =
        if j = k then v else Sparse.get 0 (s.tile t.val).x j) ∧
      (p.vd = none → (u.tile t.val).v = (s.tile t.val).v) ∧ (p.xd = none → (u.tile t.val).x = (s.tile t.val).x) ∧
      (∀ v, v ≠ t.val → u.tile v = s.tile v) ∧ Frame [.tiles] s u)

/-- R110, R112, R104: what VLD, VST, DLD, DSTR, SEMR and IPF do, where their slot alone executes: the bytes that VLD and DLD
read become the register (VLD's after its latency), VST and DSTR write theirs, SEMR counts at a semaphore of this chip or
sends a message, IPF asks for the lines it names. An access that meets an uncorrectable word or an address that no longer
translates ends in its trouble instead. -/
def Obligations.MemoryRowsReadAndWrite : Prop :=
  ∀ (t : Fin 64) (b : Bundle) (w : Nat) (s : State),
    let x := unfenced (s.tile t.val)
    let u := s.setTile t.val x
    (OnlySlot s t.val b 2 w → opc w = 0x07 →
      let d := Desc.ofBits (x.getD (s2Ds w))
      let g := u.getBytes t.val d (s2Addr x w) 4096
      exec (.vld t b) s = .next ((match g.bad with
        | some e => g.st.trouble t.val e
        | none => g.st.addPend t.val none (some (s2Vd w, (peel 32 1024 (bytesToNat g.bytes)).map (BitVec.ofNat 32)))
            (u.spans t.val d (s2Extents x w))).afterBundle t.val x b)) ∧
    (OnlySlot s t.val b 2 w → opc w = 0x08 →
      let d := Desc.ofBits (x.getD (s2Ds w))
      let bytes := vBytes (x.getV (s2Va w))
      let v := (u.startOp t.val { kind := .vst, ec := s2Ec w, writes := u.spans t.val d (s2Extents x w) }).digest t.val
        (u.nextOp t.val) bytes true
      let r := v.putBytes t.val d (s2Addr x w) bytes
      exec (.vst t b) s = .next ((match r.1 with
        | some e => r.2.trouble t.val e
        | none => r.2.reportTile t.val d ((lanesOf (codePacked (s2Fmt w)) (x.getV (s2Va w))).map fun e =>
            ((laneFmt (s2Fmt w)).toVal e, false))).afterBundle t.val x b)) ∧
    (OnlySlot s t.val b 3 w → opc w = 0x05 →
      let a := (x.getX (s3Xl w)).toNat
      let g := u.getBytes t.val (lsDesc a) a 32
      exec (.dld t b) s = .next ((match g.bad with
        | some e => g.st.trouble t.val e
        | none => g.st.modTile t.val fun y => y.setD (s3Dt w) (BitVec.ofNat 256 (bytesToNat g.bytes))).afterBundle t.val x b)) ∧
    (OnlySlot s t.val b 3 w → opc w = 0x06 →
      let a := (x.getX (s3Xl w)).toNat
      let r := u.putBytes t.val (lsDesc a) a (natToBytes 32 (x.getD (s3Ds w)).toNat)
      exec (.dstr t b) s = .next ((match r.1 with
        | some e => r.2.trouble t.val e
        | none => r.2).afterBundle t.val x b)) ∧
    (OnlySlot s t.val b 3 w → opc w = 0x04 →
      let v := u.startOp t.val { kind := .semr, ec := s3Ec w }
      exec (.semr t b) s = .next ((if (x.getX (s3Xl w)).truncate 14 = s.self
        then v.semAdd (s.tenantOf t.val) (fld w 45 33) (fld w 51 46 + 1)
        else v.emit (.semr ((x.getX (s3Xl w)).truncate 14) (s.tenantOf t.val) (s.jobIdOf (s.partOf t.val)) (fld w 45 33)
          (fld w 51 46 + 1))).afterBundle t.val x b)) ∧
    (OnlySlot s t.val b 3 w → opc w = 0x07 →
      exec (.ipf t b) s = .next ((u.modTile t.val fun y => y.want (linesOf (ipfRange x w).1.toNat (ipfRange x w).2)).afterBundle t.val x b))

/-- R96, R107, R109-R112, R231: an operation that owes nothing more completes: it leaves the tile, its event counter rises by
one, saturating, and E0 counts nothing; a DMA that PCIe fails faults its tile. A line that a tile has asked for arrives
and joins the instruction buffer, which keeps the newest 1,024; one that cannot be read, and one that no Aperture maps to
HBM any more, faults the tile whose PC lies in it. -/
def Obligations.OperationsAndFetchesComplete : Prop :=
  (∀ (t : Fin 64) (n : Nat) (o : Op) (s : State), (s.tile t.val).op n = some o →
     let done := ((s.modTile t.val fun x => { x.bumpE o.ec with ops := x.ops.filter (·.id != n) }).aptSettle).joinBarrier t.val
     (o.owes = 0 → o.aow.all (·.status.isSome) = true →
       (o.kind = .mma → exec (.mmaDone t n) s = .next done) ∧ (o.kind = .mdrain → exec (.mdrainDone t n) s = .next done) ∧
       (o.kind = .vst → exec (.vstDone t n) s = .next done) ∧ (o.kind = .vcvtMx → exec (.vcvtMxDone t n) s = .next done) ∧
       (o.kind = .semr → exec (.semrSent t n) s = .next done) ∧
       (o.kind = .dma → s.flt.memReset = false → exec (.dmaDone t n false) s = .next done)) ∧
     (o.kind = .dma → o.spill = true → exec (.dmaDone t n true) s = .next (s.faultTile t.val (s.tileRec t.val 0x08 0))) ∧
     (∀ x : Tile, ∀ k j : Nat, k ≠ 0 → Sparse.get 0 (x.bumpE k).e j = if j = k then
       (if Sparse.get 0 x.e k = 0xFFFF then 0xFFFF else Sparse.get 0 x.e k + 1) else Sparse.get 0 x.e j) ∧
     (∀ x : Tile, x.bumpE 0 = x)) ∧
  (∀ (t : Fin 64) (line : Nat) (errs : List CellError) (s0 : State),
     let s := s0.inject errs
     let x := s.tile t.val
     let p := s.part (s.partOf t.val)
     let n := min 256 (32 * p.imgLen - 256 * line)
     let a := p.imgBase + 256 * line
     let old := s.lineView t.val line
     let arrived := fun (v : State) => (v.modTile t.val fun x => { x with fetching := x.fetching.filter (· != line) }).aptSettle
     let r := s.readDev ((old.tenAddrs p.imgTenant a n).getD [])
     let raised := fun (v : State) (code : Nat) => if x.pc.toNat / 8 = line ∧ v.canIssue t.val = true then
       v.exception t.val code { s0 := 0, s1 := 0, s2 := 0, s3 := 0 } else v
     x.fetching.contains line = true → 8 * line < p.imgLen → s.flt.memReset = false →
     (old.aptAllows p.imgTenant a n false false = true → r.bad = none →
       exec (.lineFetchArrive t line errs) s0 = .next ((arrived r.st).modTile t.val fun x =>
         let l := x.lines.filter (·.1 != line) ++ [(line, r.bytes ++ List.replicate (256 - n) 0)]
         { x with lines := l.drop (l.length - 1024) })) ∧
     (old.aptAllows p.imgTenant a n false false = true → r.bad.isSome = true →
       exec (.lineFetchArrive t line errs) s0 = .next (raised (arrived r.st) exFetch)) ∧
     (old.aptAllows p.imgTenant a n false false = false →
       exec (.lineFetchArrive t line errs) s0 = .next (raised (arrived s) exAperture)))

/-- R10, R34, R210: a launch count at least 2,000,000 counts ahead arms the partitions whose job waits for it; a nearer one
arms none and is reported. At 1,000,000 counts before it a job in lock is confirmed; one out of lock loses its count and
is reported; a Mirror half sends its fingerprint to its partner, and ends with MIRROR_FINGERPRINT where they differ (log
53). -/
def Obligations.LaunchCountArmsAndLockConfirms : Prop :=
  (∀ (jobId : Word) (count : Dword) (s : State), s.waitingJobs jobId ≠ [] →
    ∃ u, exec (.launchCount jobId count) s = .next u ∧
      (∀ p, (u.part p).job = if p ∈ s.waitingJobs jobId then (s.part p).job.map fun j => { j with
          launchCount := if count.toNat < s.now.toNat + 2000000 then none else some count, lockOk := false }
        else (s.part p).job) ∧
      u.out = s.out ++ (if count.toNat < s.now.toNat + 2000000 then [.report .lateLaunch jobId 0] else []) ∧
      Frame [.parts, .out] s u) ∧
  (∀ (p : Fin 8) (partner : Option (BitVec 256)) (j : Job) (c : Dword) (s : State), (s.part p.val).job = some j →
    j.launchCount = some c → j.lockOk = false →
    let g := { s.reach (c.toNat - 1000000) with out := s.out ++ (match (s.part p.val).led with
      | some l => if ldMirror l.desc.toNat then [Out.toChip (BitVec.ofNat 14 (ldPartner l.desc.toNat)) "MIRROR_FINGERPRINT"
          [p.val, l.fingerprint.toNat]] else []
      | none => []) }
    let mismatch := (s.part p.val).led.any fun l => ldMirror l.desc.toNat && partner != some l.fingerprint
    (s.inLock = false → exec (.lockCheck p partner) s = .next ((g.modJob p.val fun j => { j with launchCount := none }).emit
      (.report .notInLock j.jobId 0))) ∧
    (s.inLock = true → mismatch = true → exec (.lockCheck p partner) s =
      .next (((g.emit (.report .mirrorFingerprint j.jobId 0)).endRecord p.val 0x24 0).finishJob p.val 0x24 j)) ∧
    (s.inLock = true → mismatch = false → exec (.lockCheck p partner) s =
      .next (g.modJob p.val fun j => { j with lockOk := true })))

/-- R25, R28, R36, R264: a partition's tick falls at its count, after the close of a step whose last frame has closed: the GTC
is brought to it; a next tick advances F by one (a new partition's first stays 0) and sets F_WRAP when F returns to 0;
then what every tick does, and the frame of the job or of the tenant whose turn it is. -/
def Obligations.TickAdvancesThePartition : Prop :=
  ∀ (p : Fin 8) (kind : TickKind) (n : Nat) (s : State), s.pkg.heldBy = none → s.flt.run = none →
    let v := s.closeStep p.val
    v.nextTick p.val = some (kind, n) →
    let g := v.reach n
    let x := g.part p.val
    (kind = .next →
      let f := if x.ticked then x.f + 1 else x.f
      let u := ((if x.ticked && f = 0 then g.setBit (Reg.shtPevent p.val) 6 else g).modPart p.val fun x =>
        { x with f := f, lastTick := BitVec.ofNat 64 n, ticked := true }).atTick p.val
      (∀ j, (u.part p.val).job = some j → (u.part p.val).jobActive = true →
        exec (.tick p) s = .next ((((u.endStopped p.val).writeFlips p.val).charge j.chan j.cmdIndex 3 1).jobTick p.val)) ∧
      ((u.part p.val).job = none ∨ (u.part p.val).jobActive = false →
        exec (.tick p) s = .next (((u.endInvocation p.val).writeFlips p.val).serveTick p.val))) ∧
    (kind = .start → exec (.tick p) s = .next (((g.modPart p.val fun x => { x with
      running := true, ticked := true, startAt := none, l := BitVec.ofNat 64 n, lastTick := BitVec.ofNat 64 n, f := 0, p := 0,
      d := 0 }).atTick p.val).serveTick p.val)) ∧
    (kind = .launch →
      let b := (g.endStopped p.val).beginJob p.val n
      ((b.part p.val).job = none → exec (.tick p) s = .next b) ∧
      (∀ j, (b.part p.val).job = some j →
        let u := b.charge j.chan j.cmdIndex 3 1
        exec (.tick p) s = .next (if (u.part p.val).incoming then u else u.jobTick p.val)))

/-- R28, R29, R38, R114: a waiting tile that frees by the next tick dispatches the bound program at that count, and the late
dispatch is logged under its cause, that of the wait that held it where the wait has one; at the tick's own count, with no
tick lost, it is not late. -/
def Obligations.LateDispatchIsLoggedUnderItsCause : Prop :=
  ∀ (t : Fin 64) (now : Dword) (own : Nat) (block : Option Cause) (wait : Option Wait) (s : State) (kind : TickKind) (n : Nat),
    let p := s.partOf t.val
    let u := s.reach now.toNat
    let x := s.part p
    let cause := u.lateCauseOf p t.val own block (wait.map waitCause)
    (s.part p).running = true → (s.tile t.val).waiting = true → s.nextTick p = some (kind, n) → now.toNat ≤ n →
    s.now.toNat ≤ now.toNat → s.mayDispatch p = true → x.incoming = false → (x.jobOn = true → x.action = 0 ∧ x.ending = false) →
    (s.tile t.val).isFree = true → (s.tile t.val).ended = false → s.windowHolds p = false → (x.jobOn = true → x.stepOpen = true) →
    (now = x.lastTick → (s.tile t.val).lostWaiting = 0 →
      exec (.lateDispatch t now own block wait) s = .next (u.dispatchTile p t.val none)) ∧
    (now ≠ x.lastTick ∨ (s.tile t.val).lostWaiting ≠ 0 → exec (.lateDispatch t now own block wait) s =
      .next ((u.logLate p t.val now cause).dispatchTile p t.val (some cause)))

/-- R105, R115-R117, R31-R33, R266: the closes. An ENDF's frame closes once its operations have completed; a step-flagged one
first runs the deferred queue; a RETD returns once the routine's operations have completed, and a DEFD's goes on while
entries wait; in throughput mode what is left of the frame takes the next ready invocation; a step closes when every tile
of the job has closed its step-flagged frame: its boundary begins and the step number rises, but at the last one the job
ends with STEP_WRAP; a job whose end is decided and whose actions are done completes its LAUNCH. -/
def Obligations.FramesRoutinesStepsAndJobsClose : Prop :=
  (∀ (t : Fin 64) (left : Nat) (c : Closing) (s : State), (s.tile t.val).closing = some c → (s.tile t.val).closable = true →
    s.halted = false → s.flt.run = none →
    let p := s.partOf t.val
    (c.step = false ∨ (s.tile t.val).queue = [] → exec (.frameClose t left) s =
      .next (((((s.closeFrame p t.val c).settleFreeze p).takeDeferred p t.val left).endInvocation p).nextInFrame p left)) ∧
    (c.step = true → (s.tile t.val).queue ≠ [] → exec (.frameClose t left) s =
      .next (((s.modTile t.val fun x => { x.takeEntry .atStepEndf x.pc with wdTicks := 0 }).pmcTile t.val 0x09 1).fetchAt
        t.val))) ∧
  (∀ (t : Fin 64) (left : Nat) (r : Routine) (s : State), (s.tile t.val).routine = some r → r.returning = true →
    (s.tile t.val).ops.any (·.deferred) = false → (s.tile t.val).pend = [] → (s.tile t.val).faulted = false →
    s.halted = false → s.flt.run = none →
    let p := s.partOf t.val
    let u := s.modTile t.val fun x => x.endRoutine r
    (r.takenAt = .atDefd → (s.tile t.val).queue ≠ [] → exec (.deferredReturn t left) s =
      .next (((u.modTile t.val fun x => { x.takeEntry .atDefd r.returnPc with wdTicks := 0 }).pmcTile t.val 0x09 1).fetchAt
        t.val)) ∧
    (r.takenAt ≠ .atDefd ∨ (s.tile t.val).queue = [] → exec (.deferredReturn t left) s =
      .next (((if r.takenAt = .afterClose then u.takeDeferred p t.val left else u.fetchAt t.val).endInvocation p).nextInFrame
        p left))) ∧
  (∀ (p : Fin 8) (s : State), s.stepDue p.val = true →
    let x := s.part p.val
    let last := decide (x.step = BitVec.allOnes 40)
    ∃ u : State, exec (.stepClose p) s = .next (u.startNorm p.val) ∧ (u.part p.val).closing = x.step ∧
      (u.part p.val).step = (if last then x.step else x.step + 1) ∧ (u.part p.val).stepOpen = false ∧
      (u.part p.val).action = 1 ∧ (u.part p.val).boundaryFrame = 0 ∧
      (u.part p.val).normTick = x.lastTick + BitVec.ofNat 64 (s.period p.val) ∧
      (∀ j, x.job = some j → ∃ k, (u.part p.val).job = some k ∧ k.lastClosed = some x.step ∧
        k.ending = if last then some 0x1B else if j.leaving then some 0x0A else j.ending) ∧
      (∀ q, q ≠ p.val → u.part q = s.part q) ∧ u.rdBit (Reg.shtPevent p.val) 3 = true ∧
      u.out = s.out ++ [.report .stepBoundary (s.jobIdOf p.val) x.step.toNat]) ∧
  (∀ (p : Fin 8) (j : Job) (e : BitVec 8) (s : State), s.flt.run = none → s.stepDue p.val = false →
    (s.part p.val).job = some j → j.ending = some e → s.jobOver p.val j = true →
    let closed := fun (u : State) => (if e = 0x23 then u else u.endRecord p.val e.toNat j.endDetail).finishJob p.val e.toNat j
    ((s.part p.val).abandoned = false ∨ (s.part p.val).led = none → exec (.jobEnd p) s = .next (closed s)) ∧
    (∀ l, (s.part p.val).abandoned = true → (s.part p.val).led = some l →
      exec (.jobEnd p) s = .next (closed (s.stepRecord p.val 3 j l).2)))

/-- R172-R174, R176, R182, R184, R185, R223: a pass whose turn it is reads every descriptor before it writes; it runs over the
groups, or, at the first unreadable or bad descriptor, abandons the step: an uncorrectable word is recorded, a bad table
part is reported with its offset. A pass whose norm is not finite, or above a ceiling that skips, writes no memory, and
shows the norm and its reason. OUU_CTRL asks for a reload; OUU_TBL of a partition with running frames is refused and
flagged. -/
def Obligations.OuuPassUpdatesOrAbandons : Prop :=
  (∀ (p : Fin 8) (taken : Nat) (errs : List CellError) (j : Job) (g2 : Word) (s0 : State), (s0.part p.val).job = some j →
    (s0.part p.val).norm = some g2 →
    (s0.part p.val).abandoned = false → s0.blockOn 9 = true → s0.halted = false → s0.flt.run = none → s0.flt.memReset = false →
    s0.ouuQueue.head? = some p.val →
    let i := s0.inject errs
    let s := i.correctDescs j.tenant (s0.ouuTable p.val) (utGroups (s0.ouuHeader p.val))
    (∀ ds, s.passDescs j.tenant (s.ouuTable p.val) (utGroups (s.ouuHeader p.val)) = .ok ds →
      exec (.ouuPass p taken errs) s0 = .next (s.runPass p.val j.tenant ds g2 taken)) ∧
    (∀ da, s.passDescs j.tenant (s.ouuTable p.val) (utGroups (s.ouuHeader p.val)) = .error (.inl da) →
      exec (.ouuPass p taken errs) s0 = .next (s.passUe p.val da)) ∧
    (∀ o, s.passDescs j.tenant (s.ouuTable p.val) (utGroups (s.ouuHeader p.val)) = .error (.inr o) →
      ∃ u, exec (.ouuPass p taken errs) s0 = .next u ∧ (u.part p.val).abandoned = true ∧ u.rdBit (Reg.ouuPstat p.val) 4 = true ∧
        u.rdFld (Reg.ouuPstat p.val) 31 8 = o % 2 ^ 24 ∧ u.mem = s.mem ∧
        u.out = s.out ++ [.report .ouuTable j.jobId o] ∧ ∀ r, r ≠ Reg.ouuPstat p.val → u.rd r = s.rd r)) ∧
  (∀ (p : Fin 8) (v : Nat) (ds : List Nat) (g2 : Word) (taken : Nat) (s : State),
    let h := s.ouuHeader p.val
    let n := normOf (utGscale h) g2
    let u := s.runPass p.val v ds g2 taken
    (f32 n).isFin = false ∨ ((f32 (utCeil h)).lt (f32 n) = true ∧ utOnCeil h = true) →
      u.mem = s.mem ∧ u.rdFld (Reg.ouuPstat p.val) 1 0 = 3 ∧
      u.rdFld (Reg.ouuPstat p.val) 2 2 = b2n (f32 n).isFin ∧ u.rd (Reg.ouuNorm p.val) = n ∧ (u.part p.val).action = 4 ∧
      (u.part p.val).passTaken = taken) ∧
  (∀ (path : Path) (p : Fin 8) (s : State), s.busOpen path = true → (path.offsetOf (Reg.ouuCtrl p.val)).isSome = true →
    exec (.ouuReload path p) s = .next (s.setBit (Reg.ouuCtrl p.val) 0)) ∧
  (∀ (path : Path) (p : Fin 8) (high : Bool) (v : Word) (s : State),
    let r := if high then Reg.ouuTblHi p.val else Reg.ouuTblLo p.val
    s.busOpen path = true → (path.offsetOf r).isSome = true →
    exec (.ouuTblWrite path p high v) s = .next (if (s.part p.val).running then s.setBit (Reg.ouuPstat p.val) 5
      else s.writeFields path r v 0))

/-- R192, R196, R204-R213: the digest of a frame becomes final; the partner's digest is kept and compared; a lost partner ends
the comparison with a report; in boundary frame ALLOT + 1 the step's record is written and the boundary goes on (under
replay a divergence with STOP ends the job, else the next step's source is loaded). -/
def Obligations.DigestsMirrorAndLedgerRecord : Prop :=
  (∀ (t : Fin 64) (f : BitVec 48) (d : DigestStream) (s : State),
    (s.tile t.val).streams.find? (fun d => d.routine.isNone && d.frame == f) = some d → (s.tile t.val).streamFinal d = true →
    exec (.frameDigestFinal t f) s = .next (s.keepDigest t.val f d.value)) ∧
  (∀ (t : Fin 64) (f : BitVec 48) (g : BitVec 128) (l : Ledger) (s : State), (s.part (s.partOf t.val)).led = some l →
    l.mirrors = true → exec (.mirrorDigest t f g) s = .next ((s.modLed (s.partOf t.val) fun l =>
      { l with partnerDigests := l.partnerDigests ++ [(t.val, f, g)] }).compareAll (s.partOf t.val))) ∧
  (∀ (p : Fin 8) (l : Ledger) (s : State), (s.part p.val).led = some l → l.mirrors = true →
    exec (.mirrorTimeout p) s = .next (((s.modLed p.val fun k => { k with
      unmirrored := true, uncompared := s.sourced p.val l, partnerDigests := [] }).emit
        (.report .mirrorLost (s.jobIdOf p.val) 0)).compareAll p.val)) ∧
  (∀ (p : Fin 8) (j : Job) (l : Ledger) (s : State), (s.part p.val).job = some j → (s.part p.val).led = some l →
    (s.part p.val).action = 4 → (s.part p.val).abandoned = false → l.frozen = false → s.flt.run = none →
    s.flt.ctlReset = false → s.flt.memReset = false → utAllot (s.ouuHeader p.val) + 2 ≤ (s.part p.val).boundaryFrame → s.digestsFinal p.val = true →
    let a := (s.closeRoutines p.val).refreshItems p.val j
    ∀ k, (a.part p.val).led = some k →
      let r := a.stepRecord p.val 2 j k
      let c := r.2.clearStep p.val
      let e := if r.1 && ldStop k.desc.toNat then
          c.modPart p.val fun x => { x with job := x.job.map fun j => { j with ending := some 0x21 } }
        else c.loadSource p.val (c.part p.val).step.toNat
      exec (.ledgerRecord p) s = .next ((e.copyAt p.val j.jobId).modPart p.val fun x => { x with action := 5 }))

/-- R352-R358: CUT(c) names the step whose boundary cuts on every partition of the job; at that boundary the cut runs; the
reports of the workers are gathered by the domain manager, and complete the requests of the job; the release lets the next
step begin; the end of a staged drain writes the manifest; a restore whose extents all match clears RESTORE and lets the
job start, else refuses its LAUNCH with EXTENT_FAILED; an admission copy that matches its digest is written, any other
ends the attempt and discards what it copied. -/
def Obligations.CheckpointsCutRestoreAndAdmit : Prop :=
  (∀ (jobId : Word) (c : BitVec 40) (s : State), ∃ u, exec (.cutOrder jobId c) s = .next u ∧
    ∀ p, (u.part p).ckpt.cutStep = if p ∈ s.partsOfJob jobId then some c else (s.part p).ckpt.cutStep) ∧
  (∀ (jobId : Word) (s : State), ∃ u, exec (.cutRelease jobId) s = .next u ∧ Frame [.parts] s u ∧
    ∀ p, (u.part p).ckpt = if p ∈ s.partsOfJob jobId then { (s.part p).ckpt with releaseWait := false }
      else (s.part p).ckpt) ∧
  (∀ (jobId : Word) (chip : ChipId) (stage : CutStage) (s : State), s.isDm = false →
    exec (.cutReport jobId chip stage) s = .next (match stage with
      | .copied => s
      | .done => ((cutRequests s jobId).foldl (fun s c => s.complete c.chan c.index stOk 0 0) s).retryBells
      | .failed => ((cutRequests s jobId).foldl (fun s c => s.complete c.chan c.index 0x34 chip.toNat 0) s).retryBells)) ∧
  (∀ (jobId : Word) (chip : ChipId) (d : DmJob) (s : State), s.isDm = true → s.dmJob jobId = some d → d.cutStep ≠ none →
    chip ∈ d.workers → chip ∉ d.cutReports → (∃ w ∈ d.workers, w ≠ chip ∧ w ∉ d.cutReports) →
    d.workers.all d.cutDone.contains = false →
    exec (.cutReport jobId chip .copied) s = .next (s.modDm jobId fun _ => { d with cutReports := d.cutReports ++ [chip] })) ∧
  (∀ (jobId : Word) (chip : ChipId) (d : DmJob) (s : State), s.isDm = true → s.dmJob jobId = some d → d.cutStep ≠ none →
    chip ∈ d.workers → (∀ w ∈ d.workers, w ∈ d.cutReports ∧ (w ∈ d.cutDone ∨ w = chip)) → chip ∉ d.cutDone →
    exec (.cutReport jobId chip .done) s = .next ((s.modDm jobId fun _ => { d with cutDone := d.cutDone ++ [chip] }).endCut
      { d with cutDone := d.cutDone ++ [chip] })) ∧
  (∀ (p : Fin 8) (wire : List (BitVec 8)) (j : Job) (s : State), (s.part p.val).job = some j → (s.part p.val).jobOn = true →
    (s.part p.val).action = 5 → (s.part p.val).ckpt.cutStep = some (s.part p.val).closing →
    (s.part p.val).ckpt.drain = none → (s.part p.val).abandoned = false → s.flt.run = none → s.flt.memReset = false →
    s.halted = false →
    (s.kal.krots.any fun k => s.partOf k.tile == p.val) = false →
    exec (.checkpointCut p wire) s = .next (s.cut p.val j wire)) ∧
  (∀ (p : Fin 8) (wire : List (BitVec 8)) (v : Nat) (jobId : Word) (bs head : List Byte) (s : State),
    (s.part p.val).ckpt.drain = some (v, jobId, bs, head) →
    let es := ckExtents bs
    let offs := stageOffsets es (ckStage (ckHead bs))
    let u := (es.zip offs).foldl (fun s e => s.meet v e.2 (ceLen e.1)) s
    exec (.cutDrainDone p wire) s = .next (((u.modCkpt p.val fun k => { k with drain := none }).ckptState p.val 0).finishCut
      p.val v jobId bs head offs (s.sendCodes v es offs wire))) ∧
  (∀ (p : Fin 8) (wire : List WireResult) (j : Job) (bs : List Byte) (s : State), (s.part p.val).job = some j →
    j.restoring = true → s.readCkpt p.val j.tenant = some bs →
    let h := ckHead bs
    let u := ((s.meetCkpt p.val j.tenant).restoreExtents j.tenant (ckExtents bs) wire).meet j.tenant (ckManifest h)
      (64 + 32 * ckCount h)
    let m := ((u.tenBytes j.tenant (ckManifest h) (64 + 32 * ckCount h)).getD []).drop 64
    let bad := (List.range (ckExtents bs).length).find? fun i => match wire[i]? with
      | some (WireResult.data b) => decide (b.length != ceLen ((ckExtents bs).getD i 0)) ||
          (digestOf b).toNat != bytesToNat ((m.drop (32 * i)).take 16)
      | _ => true
    exec (.restoreDone p wire) s = .next (match bad with
      | some i => (((u.ckptState p.val 0).ckptOutcome p.val (some i)).endRecord p.val 0x34 i).finishJob p.val 0x34
          { j with endDetail := i }
      | none => ((((u.writeTen j.tenant (u.ckptAddr p.val) (natToBytes 4 (setFld (fld h 31 0) 17 17 0))).2.ckptState p.val
          0).ckptOutcome p.val none).modJob p.val fun j => { j with restoring := false }))) ∧
  (∀ (p : Fin 8) (i e : Nat) (data : List Byte) (g : BitVec 128) (ue : Option (BitVec 40)) (bs : List Byte) (s : State),
    let v := s.ckptTenant p.val
    s.readCkpt p.val v = some bs → (ckExtents bs)[i]? = some e →
    (ue = none → data.length = ceLen e → digestOf data = g →
      let u := (s.writeTen v (ceSrc e) data).2.modCkpt p.val fun k => { k with copied := dedup (k.copied ++ [i]) }
      let w := ((u.modCkpt p.val fun k => { k with copied := [] }).ckptState p.val 0).ckptLast p.val 1 0
      exec (.admissionCopy p i data g ue) s = .next (if (u.part p.val).ckpt.copied.length < (ckExtents bs).length
        then u.ckptState p.val 6 else (w.admissionRecord p.val 0 none).tellDm "ADMITTED" [p.val])) ∧
    (ue.isSome = true ∨ data.length ≠ ceLen e ∨ digestOf data ≠ g →
      let u := { s with flt := { s.flt with admissionUe := ue.getD (BitVec.allOnes 40) } }
      exec (.admissionCopy p i data g ue) s = .next ((((((u.dropCopied p.val v (ckExtents bs)).ckptState p.val 0).ckptLast p.val
        2 i).setBit Reg.fltEvent 8).admissionRecord p.val 0x06 ue).tellDm "ADMISSION_FAILED" [p.val, i])))

/-- R124, R127-R131: arrivals of a collective in progress, before its deadline. A header that agrees joins the headers, and
the payload of an all-to-all-v may move; one that differs fails the collective everywhere with MISMATCH; a reduction's
contribution joins in arrival order; an ec value of a block with no anchor is kept until the anchor forms, with one is
answered at once; an anchor is kept, and with every block of the owner's shard answered the converted contribution is
sent; a moved piece is written where its rank's elements go, and kept while that is not known; a result is written to its
elements; a notice of mismatch fails the collective, and so does one of capacity once the counts are in; a count joins,
and with the last of them the count array is written, and a sum above XL fails the collective. An arrival for a collective
not launched yet is kept for it. -/
def Obligations.CollectiveArrivalsTakeEffect : Prop :=
  (∀ (id : CollId) (rank : ChipId) (b : Nat) (ec : BitVec 16) (k : Word) (data side : List Byte) (ps : List ChipId)
    (h : LaunchHeader) (s : State), s.findColl id = none →
    exec (.contribHeader id rank h) s = .next (s.keepEarly id (.contribHeader id rank h)) ∧
    exec (.mismatchNotice id) s = .next (s.keepEarly id (.mismatchNotice id)) ∧
    exec (.capacityNotice id) s = .next (s.keepEarly id (.capacityNotice id)) ∧
    exec (.anchorEc id rank b ec) s = .next (s.keepEarly id (.anchorEc id rank b ec)) ∧
    exec (.shardResult id rank data side ps) s = .next (s.keepEarly id (.shardResult id rank data side ps)) ∧
    exec (.countExchange id rank k) s = .next (s.keepEarly id (.countExchange id rank k)) ∧
    exec (.contribution id rank data side) s = .next (s.keepEarly id (.contribution id rank data side)).pumpQueue) ∧
  (∀ (id : CollId) (rank : ChipId) (c : Coll) (s : State), s.findColl id = some c → c.code = 0 → c.finished = false →
    (s.hasDeadline c = true → s.now.toNat < s.deadlineAt c) →
    (∀ h : LaunchHeader, h.pop = c.pop → h.xl.toNat = c.xl → h.sfmt = c.sfmt → h.dfmt = c.dfmt → h.n = c.n →
      exec (.contribHeader id rank h) s =
        .next ((s.setColl { c with headers := dedup (c.headers ++ [rank.toNat]) }).movePayload id)) ∧
    (∀ h : LaunchHeader, h.pop ≠ c.pop ∨ h.xl.toNat ≠ c.xl ∨ h.sfmt ≠ c.sfmt ∨ h.dfmt ≠ c.dfmt ∨ h.n ≠ c.n →
      exec (.contribHeader id rank h) s = .next ((s.failColl c 0x11).toMembers c "MISMATCH" [])) ∧
    exec (.mismatchNotice id) s = .next (s.failColl c 0x11) ∧
    (c.pop ≠ 5 ∨ c.n ≤ c.counts.length → exec (.capacityNotice id) s = .next (s.failColl c 0x13)) ∧
    (c.pop = 5 → c.counts.length < c.n → exec (.capacityNotice id) s = .next (s.hold (.capacityNotice id))) ∧
    (∀ (b : Nat) (ec : BitVec 16), c.wide = true → c.fixedAnchor = false → rank.toNat < c.n →
      c.anchors.find? (·.1 == b) = none → exec (.anchorEc id rank b ec) s = .next ((s.setColl { c with
        ecs := c.ecs.filter (fun e => !(e.1 == rank.toNat && e.2.1 == b)) ++ [(rank.toNat, b, ec)] }).formAnchors id)) ∧
    (∀ (b : Nat) (ec : BitVec 16) (a : Nat × BitVec 16), c.wide = true → c.fixedAnchor = false → rank.toNat < c.n →
      c.anchors.find? (·.1 == b) = some a →
      exec (.anchorEc id rank b ec) s = .next ((s.toRank c rank.toNat "ANCHOR" [b, a.2.toNat] [] []).pmcPrism c.die 0xC4 1)) ∧
    (∀ (b : Nat) (a : BitVec 16), c.wide = true → c.fixedAnchor = false → rank.toNat < c.n → b < c.blocks rank.toNat →
      c.replies.any (fun e => e.1 == rank.toNat && e.2.1 == b) = false →
      let k := { c with replies := c.replies ++ [(rank.toNat, b, a)] }
      let got := (List.range (k.blocks rank.toNat)).filterMap fun i =>
        (k.replies.find? fun e => e.1 == rank.toNat && e.2.1 == i).map (·.2.2)
      let src := (s.setColl k).collSource k (k.runs rank.toNat)
      let d := blockData (k.shardLen rank.toNat) (k.convertShard (k.shardLen rank.toNat) src.1.bytes src.2 got)
      (got.length < k.blocks rank.toNat → exec (.anchorReply id rank b a) s = .next (s.setColl k)) ∧
      (k.blocks rank.toNat ≤ got.length → src.1.bad = none →
        exec (.anchorReply id rank b a) s = .next (src.1.st.toRank k rank.toNat "CONTRIB" [] d.1 d.2)) ∧
      (k.blocks rank.toNat ≤ got.length → ∀ e, src.1.bad = some e →
        exec (.anchorReply id rank b a) s = .next (src.1.st.trouble k.tile e))) ∧
    (∀ data side : List Byte, c.reduces = true → rank.toNat < c.n → c.late.contains rank.toNat = false →
      c.failed.contains rank.toNat = false → c.shardDone = false → c.contribs.any (·.rank == rank.toNat) = false →
      exec (.contribution id rank data side) s = .next ((s.setColl { c with
        contribs := c.contribs ++ [⟨rank.toNat, data, side⟩], headers := dedup (c.headers ++ [rank.toNat]) }).pumpQueue)) ∧
    (∀ (data side : List Byte) (rs : List Run), c.reduces = false → rank.toNat < c.n → c.late.contains rank.toNat = false →
      c.failed.contains rank.toNat = false → c.results.any (·.1 == rank.toNat) = false →
      c.pieceRuns rank.toNat (data.length * 8 / c.srcFmt.bits) = some rs →
      exec (.contribution id rank data side) s = .next (((s.setColl { c with
        results := c.results ++ [(rank.toNat, [rank.toNat])], headers := dedup (c.headers ++ [rank.toNat]) }).deliver c rs data
          side).pumpQueue)) ∧
    (∀ data side : List Byte, c.reduces = false → rank.toNat < c.n → c.late.contains rank.toNat = false →
      c.failed.contains rank.toNat = false → c.results.any (·.1 == rank.toNat) = false →
      c.pieceRuns rank.toNat (data.length * 8 / c.srcFmt.bits) = none →
      exec (.contribution id rank data side) s = .next (s.hold (.contribution id rank data side)).pumpQueue) ∧
    (∀ (data side : List Byte) (present : List ChipId), rank.toNat < c.n → c.results.any (·.1 == rank.toNat) = false →
      exec (.shardResult id rank data side present) s = .next ((s.setColl { c with
        results := c.results ++ [(rank.toNat, present.map (·.toNat))], source := if c.ouu then data else c.source,
        sourceSide := if c.ouu then side else c.sourceSide }).deliver c (c.runs rank.toNat) data side)) ∧
    (∀ n : Word, c.pop = 5 → rank.toNat < c.n → c.counts.any (·.1 == rank.toNat) = false → c.counts.length + 1 < c.n →
      exec (.countExchange id rank n) s = .next (s.setColl { c with
        counts := c.counts ++ [(rank.toNat, n)] })) ∧
    (∀ n : Word, c.pop = 5 → rank.toNat < c.n → c.counts.any (·.1 == rank.toNat) = false → c.counts.length + 1 = c.n →
      let k := { c with counts := c.counts ++ [(rank.toNat, n)] }
      let cs := (List.range k.n).map fun r => ((k.counts.find? (·.1 == r)).map (·.2)).getD 0
      let sum := cs.foldl (fun n k => n + k.toNat) 0
      let aux := (Desc.ofBits k.dt).aux
      let w := (s.setColl k).putBytes k.tile (Desc.ofBits k.dt) aux (bytes32 cs)
      let u := w.2.modColl id fun c => { c with written := Sparse.put c.written (2 ^ 60 + aux) (bytes32 cs) }
      (∀ e, w.1 = some e → exec (.countExchange id rank n) s = .next (w.2.trouble k.tile e)) ∧
      (w.1 = none → k.xl < sum → ∀ e, u.findColl id = some e →
        exec (.countExchange id rank n) s = .next ((u.failColl e 0x13).toMembers e "CAPACITY" [])) ∧
      (w.1 = none → sum ≤ k.xl → u.prism.early.contains (.capacityNotice id) = false →
        exec (.countExchange id rank n) s = .next ((u.sendHeader k).movePayload id))))

/-- R137-R142, R359: the ends of a collective. At its deadline a group that drops takes every missing contribution as late and
forms the anchors; a shard with all it waits for is reduced and sent; a collective in turn that has failed, or that holds
all it awaits, completes with its status entry; a barrier completes once every member has joined; a member that has not
joined within FAIL_TICKS fails it; a chip that resets or is declared failed fails for every collective and rotation that
needs it. -/
def Obligations.CollectivesEnd : Prop :=
  (∀ (id : CollId) (c : Coll) (s : State), s.findColl id = some c → c.finished = false →
    (c.reduces = true → c.code = 0 → gPolicy c.entry = 1 ∨ gPolicy c.entry = 2 → c.deadlinePassed = false →
      s.replaySource c.part = none →
      let u := (s.reach (s.deadlineAt c)).setColl { c with deadlinePassed := true }
      (c.shardDone = false → c.shardLen c.rank ≠ 0 → exec (.deadline id) s =
        .next (((c.missing.foldl (fun v r => v.takeLate c.id r) u).noteLate c.die c.missing.length).formAnchors c.id)) ∧
      (c.shardDone = true ∨ c.shardLen c.rank = 0 → exec (.deadline id) s = .next u)) ∧
    (c.reduces = true → c.code = 0 → c.shardDone = false → c.shardReady = true → c.shardLen c.rank ≠ 0 →
      (∀ u, s.ownContribution c = (none, u) → exec (.shardComplete id) s = .next (u.completeShard id)) ∧
      (∀ e u, s.ownContribution c = (some e, u) →
        exec (.shardComplete id) s = .next (u.trouble c.seat e))) ∧
    (s.inTurn c = true → c.code ≠ 0 ∨ (c.pop ≠ 6 ∧ c.ready = true) →
      exec (.collectiveComplete id) s = .next ((s.completeColl c).afterColl c.part)) ∧
    (s.inTurn c = true → c.code = 0 → c.pop = 6 → c.ready = true →
      exec (.barrierComplete id) s = .next ((s.completeColl c).afterColl c.part)) ∧
    (∀ rank : ChipId, gFailTicks c.entry ≠ 0 → c.code = 0 → c.headers.contains rank.toNat = false → rank.toNat < c.n →
      exec (.memberFailTimeout id rank) s =
        .next ((s.reach (s.tickAt c.part (c.frameF.toNat + gFailTicks c.entry))).memberFails c rank.toNat))) ∧
  (∀ (chip : ChipId) (s : State), exec (.sourceResetNotice chip) s = .next (s.peerFails chip) ∧
    exec (.failDeclaration chip) s = .next (s.peerFails chip))

/-- R149-R156: a ring rotation. A grant is held until its rotation is the oldest of its ring; bytes from the predecessor are
written at DT, a first flit that does not agree ends both ends with MISMATCH; acknowledged bytes count, a MISMATCH answer
fails the rotation; one not done within FAIL_TICKS fails with its status. -/
def Obligations.RingRotationsMoveTheirBlock : Prop :=
  (∀ (ring : Fin 16) (hop : Word) (s : State), bitOf (s.ring ring.val) 0 = true →
    exec (.krotGrant ring hop) s = .next (({ s with kal := { s.kal with
      grants := s.kal.grants.filter (· != (ring.val, hop)) ++ [(ring.val, hop)] } } : State).krotSend ring.val)) ∧
  (∀ (ring : Fin 16) (k : Krot) (first : Option BlockHeader) (data : List Byte) (s : State),
    s.krotIncoming ring.val = some k →
    (match first with
      | some h => h.tag.toNat = rTag (s.ring ring.val) ∧ h.hop = k.hop ∧ h.xl = k.xl
      | none => k.first = true) →
    let k := match first with
      | some h => { k with first := true, origin := h.origin }
      | none => k
    let d := data.take (k.xl - k.received)
    let r := s.unitPut k.tile (Desc.ofBits k.dt) [((Desc.ofBits k.dt).base + k.received, d)]
    let u := r.2.setKrot { k with received := k.received + d.length, bytes := k.bytes ++ d }
    (r.1 = none → exec (.krotData ring first data) s = .next (({ u with kal := { u.kal with
      received := u.kal.received + BitVec.ofNat 64 d.length } } : State).settleRing ring.val)) ∧
    (∀ b, r.1 = some b → exec (.krotData ring first data) s = .next (r.2.trouble k.tile b))) ∧
  (∀ (ring : Fin 16) (k : Krot) (h : BlockHeader) (data : List Byte) (s : State), s.krotIncoming ring.val = some k →
    h.tag.toNat ≠ rTag (s.ring ring.val) ∨ h.hop ≠ k.hop ∨ h.xl ≠ k.xl →
    let e := s.ring ring.val
    exec (.krotData ring (some h) data) s = .next (((s.krotFail k 0x11).emit (.ring (BitVec.ofNat 14 (rPred e))
      (rPredBundle e) (BitVec.ofNat 32 (rTag e)) k.hop "MISMATCH" [] [])).settleRing ring.val)) ∧
  (∀ (ring : Fin 16) (k : Krot) (s : State), s.krotHead ring.val = some k → k.granted = true →
    (∀ n, exec (.krotAck ring (some n)) s =
      .next ((s.setKrot { k with acked := min k.xl (k.acked + n) }).settleRing ring.val)) ∧
    exec (.krotAck ring none) s = .next ((s.krotFail k 0x11).settleRing ring.val)) ∧
  (∀ (ring : Fin 16) (k : Krot) (s : State), s.krotHead ring.val = some k → rFailTicks (s.ring ring.val) ≠ 0 →
    let p := s.partOf k.tile
    exec (.krotTimeout ring) s = .next (((s.reach (s.tickAt p (k.frameF.toNat + rFailTicks (s.ring ring.val)))).krotFail k
      0x12).settleRing ring.val))

/-- R121, R145, R151, R227-R229, R242: the table windows. A commit judges the staged words and answers RESULT and ERR_OFF, an
invalidate drops the entry, a read fills the staged words with it. A command while one of its window runs only sets that
window's event. -/
def Obligations.TableWindowsCommitInvalidateRead : Prop :=
  (∀ (path : Path) (s : State), s.busOpen path = true → (path.offsetOf Reg.prmGtwCmd).isSome = true →
    s.rdBit Reg.prmGtwStatus 0 = true →
    exec (.gtwCommit path) s = .next (s.setBit Reg.prmEvent 8) ∧ exec (.gtwInvalidate path) s = .next (s.setBit Reg.prmEvent 8) ∧
    exec (.gtwRead path) s = .next (s.setBit Reg.prmEvent 8)) ∧
  (∀ (path : Path) (s : State), s.busOpen path = true → (path.offsetOf Reg.kalRtwCmd).isSome = true →
    s.rdBit Reg.kalRtwStatus 0 = true →
    exec (.rtwCommit path) s = .next (s.setBit Reg.kalEvent 3) ∧ exec (.rtwInvalidate path) s = .next (s.setBit Reg.kalEvent 3) ∧
    exec (.rtwRead path) s = .next (s.setBit Reg.kalEvent 3)) ∧
  (∀ (path : Path) (s : State), s.busOpen path = true → (path.offsetOf Reg.prmGtwCmd).isSome = true →
    s.rdBit Reg.prmGtwStatus 0 = false →
    let r := s.commitGroup s.gtwIndex (s.staged (Reg.prmGtwData 0) 32)
    exec (.gtwCommit path) s = .next (r.2.setResult Reg.prmGtwStatus r.1.1 14 r.1.2) ∧
    exec (.gtwInvalidate path) s = .next ((s.dropGroup s.gtwIndex).2.setResult Reg.prmGtwStatus (s.dropGroup s.gtwIndex).1 14 0) ∧
    exec (.gtwRead path) s = .next ((s.stage (Reg.prmGtwData 0) 32 (s.groupEntry s.gtwIndex)).setResult Reg.prmGtwStatus 0 14
      0)) ∧
  (∀ (path : Path) (s : State), s.busOpen path = true → (path.offsetOf Reg.kalRtwCmd).isSome = true →
    s.rdBit Reg.kalRtwStatus 0 = false →
    let r := s.commitRing s.rtwIndex (s.staged (Reg.kalRtwData 0) 8)
    exec (.rtwCommit path) s = .next (r.2.setResult Reg.kalRtwStatus r.1.1 12 r.1.2) ∧
    exec (.rtwInvalidate path) s = .next ((s.dropRing s.rtwIndex).2.setResult Reg.kalRtwStatus (s.dropRing s.rtwIndex).1 12 0) ∧
    exec (.rtwRead path) s = .next ((s.stage (Reg.kalRtwData 0) 8 (s.ring s.rtwIndex)).setResult Reg.kalRtwStatus 0 12 0)) ∧
  (∀ (path : Path) (keep : Bool) (s : State), s.busOpen path = true → (path.offsetOf Reg.aptWCmd).isSome = true →
    (s.rdBit Reg.aptWStatus 0 = true → exec (.aptCommit path) s = .next (s.setBit Reg.aptEvent 0) ∧
      exec (.aptInvalidate path keep) s = .next (s.setBit Reg.aptEvent 0) ∧
      exec (.aptRead path) s = .next (s.setBit Reg.aptEvent 0)) ∧
    (s.rdBit Reg.aptWStatus 0 = false →
      let r := s.aptCommit s.aptSel.1 s.aptSel.2 (s.staged (Reg.aptWData 0) 16)
      let u := (r.2.wrFld Reg.aptWStatus 7 4 r.1.result).wrFld Reg.aptWStatus 13 8 r.1.off
      exec (.aptCommit path) s = .next (if r.1.result = 0 then u else
        { u with apt := { u.apt with badEntry := BitVec.ofNat 24 r.1.entry } }) ∧
      exec (.aptInvalidate path keep) s = .next (((s.aptDrop s.aptSel.1 s.aptSel.2 keep).wrFld Reg.aptWStatus 7 4 0).wrFld
        Reg.aptWStatus 13 8 0) ∧
      exec (.aptRead path) s = .next (((s.stage (Reg.aptWData 0) 16 (s.aptDesc s.aptSel.1 s.aptSel.2)).wrFld Reg.aptWStatus
        7 4 0).wrFld Reg.aptWStatus 13 8 0)))

/-- R222-R224, R229, R232-R235, R344: the events of the memory system, each with what it leaves. The patrol scrub corrects a
correctable word and counts it, and counts and keeps an uncorrectable one; an add-on-write request reaches its stack, and
completes at once or leaves data pieces or waits for its block; a data piece is written and leaves, and with the last of a
request the request completes; an initialised block lets its held requests go on; a completion reaches its operation (a UE
faults the tile); an Aperture's drain that lasts 20 µs ends what is outstanding; released granules read zero before BUSY
clears. -/
def Obligations.MemorySystemEventsTakeEffect : Prop :=
  (∀ (da : BitVec 40) (f : ScrubFinding) (s : State), s.rdBit Reg.memScrubCfg 0 = true → isHbm da.toNat = true →
    s.flt.memReset = false → s.blockOn 10 = true →
    let w := da.toNat / 64
    let k := stackOf da.toNat
    let a := { s with mem := { s.mem with scrubPos := BitVec.ofNat 40 (w * 64) } }
    let a := if lastHbmWord w then a.setBit Reg.memEvent 5 else a
    let corrected := fun (e : State) =>
      (({ e with mem := { e.mem with memSoft := e.mem.memSoft.filter (· != w) } } : State).noteHbmCe k).bump (Reg.memScrubCnt k) 1
    (f = .uncorrectable ∨ s.mem.memBad.contains w = true →
      let b := (a.bump (Reg.memUeCnt k) 1).setBit Reg.memEvent 2
      exec (.patrolScrub da f) s = .next { b with mem := { b.mem with
        memBad := dedup (b.mem.memBad ++ [w]), ueAddr := Sparse.set 0 b.mem.ueAddr k (BitVec.ofNat 40 (w * 64)) } }) ∧
    (s.mem.memBad.contains w = false →
      (f = .clean → s.mem.memSoft.contains w = false → exec (.patrolScrub da f) s = .next a) ∧
      (f = .correctable ∨ (f = .clean ∧ s.mem.memSoft.contains w = true) →
        exec (.patrolScrub da f) s = .next (corrected a)) ∧
      (f = .miscorrected → exec (.patrolScrub da f) s = .next (corrected (a.inject [.hbmMiscorrected da]))))) ∧
  (∀ (t : Fin 64) (op n : Nat) (errs : List CellError) (o : Op) (r : AowReq) (s0 : State),
    let s := s0.inject errs
    (s.tile t.val).op op = some o → o.aow[n]? = some r → r.status = none → s.aowSeen t.val op n = false →
    s.flt.memReset = false →
    let v := s.pmcHbm (stackOf (if r.op = 0 then r.da else r.side)) 0x43 1
    let done := fun (e : Nat) => s.mem.aowDone ++ [{ tile := t.val, op := op, req := n, status := BitVec.ofNat 3 e }]
    let hit := s.mem.memBad.any fun w => (span r.da r.data.length).any fun a => a / 64 == w
    (r.op = 0 → ∃ u, exec (.aowRequest t op n errs) s0 = .next u ∧ u = v.aowF32 t.val op n r ∧
      u.mem.aowDone = done (if hit then 2 else 0)) ∧
    (r.op ≠ 0 → s.mem.initBlocks.any (·.side == r.side) = true → exec (.aowRequest t op n errs) s0 =
      .next { v with mem := { v.mem with heldAow := s.mem.heldAow ++ [(t.val, op, n)] } }) ∧
    (r.op ≠ 0 → s.mem.initBlocks.any (·.side == r.side) = false →
      let g := v.readDev (span r.side 16)
      let mine := BitVec.ofNat 128 (bytesToNat r.sideBytes)
      let tgt := BitVec.ofNat 128 (bytesToNat g.bytes)
      (g.bad.isSome = true → exec (.aowRequest t op n errs) s0 = .next (g.st.aowFinish t.val op n 2)) ∧
      (g.bad = none → sideAnchor tgt ≠ wsEmpty → sideAnchor mine ≠ wsEmpty → sideAnchor tgt ≠ sideAnchor mine →
        ∃ u, exec (.aowRequest t op n errs) s0 = .next u ∧ u.mem.aowDone = g.st.mem.aowDone ++ [⟨t.val, op, n, 1⟩] ∧
          u.mem.dram = g.st.mem.dram ∧ u.mem.pieces = g.st.mem.pieces ∧ u.rdBit Reg.memEvent 3 = true) ∧
      (g.bad = none → sideAnchor tgt = wsEmpty ∨ sideAnchor mine = wsEmpty ∨ sideAnchor tgt = sideAnchor mine →
        let init := sideAnchor tgt == wsEmpty
        let m := g.st.aowMeet r.da r.data.length
        let p := (m.2.2.writeDev ((span r.side 16).zip (natToBytes 16 (sideJoin tgt mine).toNat))).2
        let ps := aowSplit t.val op n (if sideAnchor mine == wsEmpty then { r with data := r.data.map fun _ => 0 } else r) init
        exec (.aowRequest t op n errs) s0 = .next (if init && m.1 then m.2.2.aowFinish t.val op n 2
          else { p with mem := { p.mem with
            pieces := p.mem.pieces ++ ps,
            initBlocks := if init then p.mem.initBlocks ++ [{ side := r.side, left := ps.length }]
              else p.mem.initBlocks } })))) ∧
  (∀ (n : Nat) (p : AowPiece) (s : State), s.mem.pieces[n]? = some p →
    (s.flt.memReset = true → exec (.aowDataPiece n) s = .next s) ∧
    (s.flt.memReset = false →
      let ue := p.ue || (!p.init && s.mem.memBad.any fun w => (span p.da p.data.length).any fun a => a / 64 == w)
      let same := fun (q : AowPiece) => q.tile == p.tile && q.op == p.op && q.req == p.req
      let rest := (s.mem.pieces.eraseIdx n).map fun q => if same q then { q with ue := q.ue || ue } else q
      ∃ u, exec (.aowDataPiece n) s = .next u ∧ u = s.pieceDone n ∧ u.mem.pieces = rest ∧
        u.mem.aowDone = s.mem.aowDone ++ (if rest.any same then []
          else [{ tile := p.tile, op := p.op, req := p.req, status := if ue then 2 else 0 }]))) ∧
  (∀ (side : BitVec 40) (s : State), (s.mem.initBlocks.any fun b => b.side == side.toNat && b.left == 0) = true →
    let ofBlock := fun (h : Nat × Nat × Nat) => match ((s.tile h.1).op h.2.1).bind fun o => o.aow[h.2.2]? with
      | some r => r.side == side.toNat
      | none => true
    let u := { s with mem := { s.mem with
      initBlocks := s.mem.initBlocks.filter (·.side != side.toNat), heldAow := s.mem.heldAow.filter fun h => !ofBlock h } }
    exec (.aowInitDone side) s =
      .next ((s.mem.heldAow.filter ofBlock).foldl (fun v h => v.aowArrive h.1 h.2.1 h.2.2) u)) ∧
  (∀ (k : Nat) (d : AowDone) (s : State), s.mem.aowDone[k]? = some d →
    let da := ((((s.tile d.tile).op d.op).bind fun o => o.aow[d.req]?).map (·.da)).getD 0
    let u := ({ s with mem := { s.mem with aowDone := s.mem.aowDone.eraseIdx k } } : State).modTile d.tile fun x =>
      { x with ops := x.ops.map fun o => if o.id == d.op then
          { o with aow := o.aow.mapIdx fun i r => if i = d.req then { r with status := some d.status } else r } else o }
    exec (.aowCompletion k) s = .next (if d.status = 2 then u.trouble d.tile (.mem da) else u)) ∧
  (∀ (x : AptDrain) (s : State), s.apt.drain = some x →
    let g := s.reach (x.since.toNat + 20000)
    let ops := g.throughApt (x.key / 64) x.old.toNat
    let lines := g.linesLeft x
    let copies := g.copiesThrough (x.key / 64) x.old.toNat
    let a := (g.setBit Reg.aptEvent 1).cutRequests fun t op => ops.any fun e => e.1 == t && e.2.id == op
    let a := { a with apt := { a.apt with drain := none } }
    let a := lines.foldl (fun v e => v.modTile e.1 fun y => { y with fetching := y.fetching.filter (· != e.2) }) a
    let a := copies.foldl (fun v c => v.complete c.chan c.index stAperture 0 0) a
    let a := ops.foldl (fun v e => v.endByAperture e.1 e.2.id) a
    let a := (dedup (ops.map (·.1) ++ lines.map (·.1))).foldl (fun v t => v.trouble t (.gone (aptBase x.old.toNat))) a
    ∃ u, exec .aptDrainTimeout s = .next u ∧ u = (a.finishDrain x).retryBells ∧ u.apt.drain = none) ∧
  (∀ s : State, s.apt.zeroing ≠ [] →
    ∃ u, exec .granuleZeroDone s = .next u ∧ u.apt.zeroing = [] ∧ u.apt.waiting = none ∧ u.rdBit Reg.memStatus 1 = false ∧
      u.rdBit Reg.aptWStatus 0 = false ∧ u.rdBit Reg.aptEvent 2 = true ∧
      (∀ a, isHbm a = true → s.apt.zeroing.contains (a / 2 ^ 21) = true → u.devByte a = 0) ∧
      (∀ a, isHbm a = false ∨ s.apt.zeroing.contains (a / 2 ^ 21) = false → u.devByte a = s.devByte a))

/-- R249, R252-R257: a doorbell write takes its own low word, which it latches, or the one latched last; one that passes the
checks and finds a cache entry sets the new command tail or completion head; one that fails a check is dropped and
counted; with no cache entry free it is held, and CACHE_FULL is set; an entry that is not cached counts a miss, and held
doorbells are tried again. A fetch makes the next command of a channel one in execution, SQ_HEAD rises by one; an unknown
opcode that may start completes with BAD_OPCODE; an unreadable ring puts the channel in ERROR. -/
def Obligations.DoorbellsAndCommandFetch : Prop :=
  (∀ (fn : Fin 512) (high : Word) (low : Option Word) (s : State), s.busOpen (.vf fn) = true →
     let x := s.tenant fn.val
     let word := fun (cq : Bool) => low.getD (if cq then x.latchCq else x.latchSq)
     let ch := fun (cq : Bool) => fld (word cq).toNat 17 0
     let u := fun (cq : Bool) => (s.modTenant fn.val fun x =>
       if cq then { x with latchCq := word cq } else { x with latchSq := word cq }).noteMiss (ch cq)
     let check := fun (cq : Bool) => (u cq).bellCheck fn.val (ch cq) (fld (word cq).toNat 31 18)
     (∀ t, check false = none → (u false).cacheTake (ch false) = some t →
       exec (.doorbellSq fn high low) s = .next (t.bellSq fn.val (ch false) high.toNat).retryBells) ∧
     (∀ t, check true = none → (u true).cacheTake (ch true) = some t →
       exec (.doorbellCq fn high low) s = .next (t.bellCq fn.val (ch true) high.toNat).retryBells) ∧
     (∀ bit c, check false = some (bit, c) →
       exec (.doorbellSq fn high low) s = .next ((u false).dropBell fn.val bit c).retryBells) ∧
     (∀ bit c, check true = some (bit, c) →
       exec (.doorbellCq fn high low) s = .next ((u true).dropBell fn.val bit c).retryBells) ∧
     (check false = none → (u false).cacheTake (ch false) = none → s.chan.bellsHeld = [] → ∃ t,
       exec (.doorbellSq fn high low) s = .next t ∧ t.rdBit Reg.chnEvent 4 = true ∧
       t.chan.bellsHeld = [.doorbellSq fn high (some (word false))]) ∧
     (check true = none → (u true).cacheTake (ch true) = none → s.chan.bellsHeld = [] → ∃ t,
       exec (.doorbellCq fn high low) s = .next t ∧ t.rdBit Reg.chnEvent 4 = true ∧
       t.chan.bellsHeld = [.doorbellCq fn high (some (word true))]) ∧
     (∀ (cq : Bool) (v : Word), exec (.doorbellLowHalf fn cq v) s = .next (s.modTenant fn.val fun x =>
       if cq then { x with latchCq := v } else { x with latchSq := v }))) ∧
  (∀ (ch : Fin 262144) (s : State), s.mayFetch ch.val = true →
    ((s.noteMiss ch.val).cacheTake ch.val = none → exec (.commandFetch ch) s = .next (s.setBit Reg.chnEvent 4)) ∧
    ∀ u, (s.noteMiss ch.val).cacheTake ch.val = some u →
     let e := u.chEntry ch.val
     let n := cSqHead e
     let a := cSqBase e + 64 * (n % 2 ^ cSqLog e)
     let r := u.readTen (cTenant e) a 64
     (r.bad.isSome = true → exec (.commandFetch ch) s = .next (r.st.chError ch.val
       (if (u.tenAddrs (cTenant e) a 64).isNone then 2 else 1) n)) ∧
     (r.bad = none →
       let c : ExecCmd := { chan := ch.val, index := BitVec.ofNat 32 n, gen := BitVec.ofNat 16 (cGen e),
                            words := BitVec.ofNat 512 (bytesToNat r.bytes), started := false, rung := u.rungAt ch.val n,
                            status := none, acct := [] }
       ∃ v : State, v.chan.cmds = r.st.chan.cmds ++ [c] ∧ v.chEntry ch.val = BitVec.toNat (BitVec.ofNat 1024 (withSqHead (r.st.chEntry ch.val) (n + 1))) ∧
         exec (.commandFetch ch) s = .next (if !knownOpcode c.opc && v.mayStart c
           then (v.complete ch.val c.index stBadOpcode 0 0).retryBells else v)))

/-- R255, R256, R258, R259, R120, R147, R270: a fetched command that may start begins; its effect follows, and doorbells held
are tried again: NOP completes with OK, FLUSH waits for FLUSH_DONE, SEM_SET writes its semaphore, GROUP_WRITE and
RING_WRITE write their table, COPY moves its bytes and completes at COPY_DONE with the bytes copied. -/
def Obligations.ChannelCommandsTakeEffect : Prop :=
  ∀ (ch : Fin 262144) (index : Word) (c : ExecCmd) (s : State),
    let u := begun s c
    let v := cTenant (u.chEntry ch.val)
    (Starts s ch.val index 0x00 c → exec (.channelNop ch index) s = .next (ends u c (stOk, 0)).retryBells) ∧
    (Starts s ch.val index 0x01 c → exec (.flush ch index) s = .next u) ∧
    (InExecution s ch.val index 0x01 c → s.earlier c = [] →
      exec (.flushDone ch index) s = .next (s.complete ch.val index stOk 0 0).retryBells) ∧
    (Starts s ch.val index 0x06 c → c.arg 4 12 < (u.tenant v).grpCnt →
      let i := (u.tenant v).grpBase + c.arg 4 12
      exec (.groupWrite ch index) s = .next (u.tableWrite c 128 (gTenant · == v) (fun g => g == 0 || gTenant g == v)
        (fun s g => s.commitGroup i g) (fun s => s.dropGroup i) (u.groupEntry i)).retryBells) ∧
    (Starts s ch.val index 0x06 c → (u.tenant v).grpCnt ≤ c.arg 4 12 →
      exec (.groupWrite ch index) s = .next (u.complete ch.val index stNotOwner 4 0).retryBells) ∧
    (Starts s ch.val index 0x07 c →
      let i := c.arg 4 4
      exec (.ringWrite ch index) s = .next (u.tableWrite c 32 (rTenant · == v) (fun r => r == 0 || rTenant r == v) (fun s r =>
        if bitOf (s.ring i) 0 && rTenant (s.ring i) != v then ((3, 0), s) else s.commitRing i r) (fun s => s.dropRing i)
        (u.ring i)).retryBells) ∧
    (Starts s ch.val index 0x08 c → u.semAllotted v (c.arg 4 13) = true → exec (.semSet ch index) s =
      .next ((u.semPut v (c.arg 4 13) (BitVec.ofNat 32 (c.arg 8 32))).complete ch.val index stOk 0 0).retryBells) ∧
    (Starts s ch.val index 0x08 c → u.semAllotted v (c.arg 4 13) = false →
      exec (.semSet ch index) s = .next (u.complete ch.val index stBadOperand 4 0).retryBells) ∧
    (∀ errs, Starts s ch.val index 0x09 c → let u := begun (s.inject errs) c
      (u.named ch.val (c.arg 8 48) (c.arg 0x18 40) false = true → u.named ch.val (c.arg 0x10 48) (c.arg 0x18 40) true = true →
        let das := (u.tenAddrs v (c.arg 0x10 48) (c.arg 0x18 40)).getD []
        let r := u.readTen v (c.arg 8 48) (c.arg 0x18 40)
        let w := r.st.writeDev (das.zip r.bytes)
        (r.bad = none → w.1 = none → exec (.copy ch index errs) s = .next w.2.retryBells) ∧
        (r.bad.isSome = true → exec (.copy ch index errs) s = .next ((if das.any isHost then r.st.emit (.poisoned (c.arg 0x10 48))
          else r.st).complete ch.val index stMemUe 0 0).retryBells) ∧
        (r.bad = none → w.1.isSome = true →
          exec (.copy ch index errs) s = .next (w.2.complete ch.val index stMemUe 0 0).retryBells)) ∧
      (u.named ch.val (c.arg 8 48) (c.arg 0x18 40) false = false →
        exec (.copy ch index errs) s = .next (u.complete ch.val index stAperture 8 0).retryBells) ∧
      (u.named ch.val (c.arg 8 48) (c.arg 0x18 40) false = true →
        u.named ch.val (c.arg 0x10 48) (c.arg 0x18 40) true = false →
        exec (.copy ch index errs) s = .next (u.complete ch.val index stAperture 0x10 0).retryBells)) ∧
    (InExecution s ch.val index 0x09 c → s.flt.memReset = false →
      exec (.copyDone ch index) s = .next (s.complete ch.val index stOk 0 (c.arg 0x18 40)).aptSettle.retryBells)

/-- R260-R263, R353, R37: LAUNCH, START, INVOKE, STOP and CKPT_REQ that may start: a LAUNCH that passes its checks places its
job, else completes with its refusal; an INVOKE joins the queue of its context; a STOP marks its context or job, which
ends at once where no frame runs; a checkpoint request goes to the domain manager. -/
def Obligations.JobCommandsTakeEffect : Prop :=
  ∀ (ch : Fin 262144) (index : Word) (c : ExecCmd) (s : State),
    let u := begun s c
    let v := cTenant (u.chEntry c.chan)
    (Starts s ch.val index 0x02 c → s.startsHeld = false → exec (.launch ch index) s = .next (u.launchJob c).retryBells) ∧
    (Starts s ch.val index 0x03 c → s.startsHeld = false → s.clock.reformHold = false →
      exec (.start ch index) s = .next (u.startContext c).retryBells) ∧
    (Starts s ch.val index 0x04 c → s.startsHeld = false → ∀ x, u.context v (cPart (u.chEntry c.chan)) = some x →
      x.ending = none → exec (.invoke ch index) s = .next (u.setContext v (cPart (u.chEntry c.chan)) (some { x with
        queued := x.queued ++ [{ chan := c.chan, index := c.index, arg := BitVec.ofNat 64 (c.arg 8 64), frames := 0,
                                 started := false, preempted := false }] })).retryBells) ∧
    (Starts s ch.val index 0x05 c → c.arg 0x31 1 = 0 → ∀ x, u.context v (c.arg 0x30 3) = some x →
      let w := u.setContext v (c.arg 0x30 3) (some { x with ending := some (c.chan, c.index) })
      exec (.stop ch index) s = .next (if (w.part (c.arg 0x30 3)).running then w
        else w.endContext v (c.arg 0x30 3) stStopped).retryBells) ∧
    (Starts s ch.val index 0x05 c → c.arg 0x31 1 = 1 → ∀ j, (u.part (c.arg 0x30 3)).job = some j → v = 0 ∨ v = j.tenant →
      let w := u.modJob (c.arg 0x30 3) fun j => { j with ending := some (j.ending.getD 0x0A) }
      exec (.stop ch index) s = .next (if (w.part (c.arg 0x30 3)).jobActive then w
        else w.endJob (c.arg 0x30 3)).retryBells) ∧
    (Starts s ch.val index 0x0A c → c.arg 8 1 = 0 ∨ v = 0 →
      (u.isDm = false → exec (.ckptReq ch index) s =
        .next (u.tellDm "CKPT_REQ" [(BitVec.ofNat 32 (c.arg 4 32)).toNat, b2n (c.arg 8 1 == 1)]).retryBells) ∧
      (∀ d, u.isDm = true → u.dmJob (BitVec.ofNat 32 (c.arg 4 32)) = some d →
        ((u.partsOfJob (BitVec.ofNat 32 (c.arg 4 32))).any fun p => u.ckptAddr p == 0) = false →
        exec (.ckptReq ch index) s = .next (u.requestCut d [(c.chan, c.index)] (c.arg 8 1 == 1)).retryBells))

/-- R251, R248, R272, R276, Table 11.5: the channel window creates, destroys, stops, resumes and reads an entry of its
tenant's allotment, each from the states that allow it (an ACTIVE or STOPPED entry shows FENCED in a compute reset), and
answers RESULT, ERR_OFF and GEN; a command past the allotment gets RESULT 1; the allotment window commits the staged
allotment that passes its checks, and reads one. A command while one runs only sets its ignore flag. -/
def Obligations.ChannelAndAllotmentWindows : Prop :=
  (∀ (path : Path) (s : State), s.busOpen path = true → (path.offsetOf (Reg.tenCwCmd (tenWindow path))).isSome = true →
    s.rdBit (Reg.tenCwStatus (tenWindow path)) 0 = false →
    let w := tenWindow path
    let q := s.cwTarget path
    ((s.tenant q.1).chCnt ≤ q.2 → ∀ c ∈ [Instr.cwCreate path, .cwDestroy path, .cwStop path, .cwResume path, .cwRead path],
      exec c s = .next (s.cwResult w 1 0 0)) ∧
    let ch := (s.tenant q.1).chBase + q.2
    let e := s.chShown ch
    (q.2 < (s.tenant q.1).chCnt →
    (∀ r, s.createCheck q.1 ch (s.staged (Reg.tenCwData w 0) 12) = r → r.1 ≠ 0 →
      exec (.cwCreate path) s = .next (s.cwResult w r.1 r.2 (cGen (s.chEntry ch)))) ∧
    ((s.createCheck q.1 ch (s.staged (Reg.tenCwData w 0) 12)).1 = 0 → ∃ u : State, exec (.cwCreate path) s = .next u ∧
      u.chan.chans = (s.setCh ch (setFld (setFld (withState (s.staged (Reg.tenCwData w 0) 12) 1) 24 16 q.1) 47 32
        (cGen (s.chEntry ch) + 1))).chan.chans ∧ Sparse.get [] u.chan.bells ch = []) ∧
    (chState e = 1 → s.cmdsOf ch = [] → cSqHead e = cSqTail e →
      exec (.cwDestroy path) s = .next ((s.setCh ch (withState e 0)).cwResult w 0 0 (cGen e))) ∧
    (chState e ≠ 0 → (s.cmdsOf ch ≠ [] ∨ (chState e = 1 ∧ cSqHead e ≠ cSqTail e)) →
      exec (.cwDestroy path) s = .next (s.cwResult w 5 0 (cGen e))) ∧
    (chState e ≠ 0 → chState e ≠ 1 → s.cmdsOf ch = [] →
      exec (.cwDestroy path) s = .next ((s.setCh ch (withState e 0)).cwResult w 0 0 (cGen e))) ∧
    (chState e = 0 → exec (.cwDestroy path) s = .next (s.cwResult w 6 0 (cGen e))) ∧
    (chState e = 1 → exec (.cwStop path) s = .next ((s.setCh ch (withState e 2)).cwResult w 0 0 (cGen e))) ∧
    (chState e ≠ 1 → exec (.cwStop path) s = .next (s.cwResult w 6 0 (cGen e))) ∧
    (chState e = 2 → exec (.cwResume path) s = .next (let u := (s.setCh ch (withState e 1)).cwResult w 0 0 (cGen e)
      { u with chan := { u.chan with lastFetch := Sparse.set 0 u.chan.lastFetch ch u.now } })) ∧
    (chState e ≠ 2 → exec (.cwResume path) s = .next (s.cwResult w 6 0 (cGen e))) ∧
    exec (.cwRead path) s = .next ((s.stage (Reg.tenCwData w 0) 12 (e % 2 ^ 384)).cwResult w 0 0 (cGen e)))) ∧
  (∀ (path : Path) (s : State), s.busOpen path = true → (path.offsetOf Reg.chnTCmd).isSome = true →
    s.rdBit Reg.chnTStatus 0 = false →
    let v := s.rdFld Reg.chnTSel 8 0
    let r := s.allotCheck v (s.stagedTenant v)
    exec (.tCommit path) s = .next ((if r = 0 then s.modTenant v fun _ => s.stagedTenant v else s).wrFld Reg.chnTStatus 7 4
      r) ∧
    ∃ u, exec (.tRead path) s = .next u ∧ u.rdFld Reg.chnTStatus 7 4 = 0 ∧ u.chan = s.chan)

/-- R247, R269, R293, R348, R267: a Function Level Reset leaves its record and LAST and acts on its function, on all of them
for function 0; on a chip that runs a job on one partition, an ABANDON ends its step and its job there, and a gang pre-
emption, its boundary and its flip words done, saves its tiles and marks it pre-empted; a recall whose second tick has
come returns what the tenant holds of the shared pools of every link. -/
def Obligations.TenantsLeaveTheirPartitions : Prop :=
  (∀ (fn : Fin 512) (s : State), exec (.flr fn) s =
    let u := (s.logEvent { kind := 2, source := (Config.resetSource 8).toNat, action := 5, tenant := fn.val }).wrFld
      Reg.fltStatus 10 8 5
    .next (if fn.val = 0 then (List.range 512).foldl State.flr u else u.flr fn.val)) ∧
  (∀ (jobId : Word) (cause : ChipId) (p : Nat) (j : Job) (s : State), s.partsOfJob jobId = [p] → (s.part p).job = some j →
    let u := (s.modPart p fun x => { x with
      abandoned := x.jobOn && (x.stepOpen || (decide (0 < x.action) && decide (x.action < 5))),
      ckpt := { x.ckpt with cutStep := none, releaseWait := false },
      job := x.job.map fun j => { j with ending := some 0x0A, endDetail := cause.toNat } }).mapTiles p fun x =>
        { x with waiting := false }
    exec (.abandon jobId cause) s = .next (u.endJob p)) ∧
  (∀ (jobId : Word) (p : Nat) (j : Job) (s : State), s.partsOfJob jobId = [p] →
    let b := (s.advanceBoundary p).writeFlips p
    (b.part p).job = some j →
    (b.flipFrame p ≤ (b.part p).boundaryFrame ∨ ∀ e ∈ b.dueFlips p, e.2 ≠ j.tenant) → (b.part p).jobOn = true →
    (b.part p).stepOpen = false → 6 ≤ (b.part p).action → (b.part p).ending = false → b.quiet p = true →
    (b.kal.krots.any fun k => b.partOf k.tile == p) = false →
    let u := ((b.saveAll p j.tenant j.save).charge j.chan j.cmdIndex 1 1).mapTiles p fun x =>
      { x with waiting := false, lostWaiting := 0 }
    exec (.gangPreemption jobId) s = .next ((u.recallCredits p j.tenant).modPart p fun x => { x with
      onTiles := none, action := 0, boundaryFrame := 0, dueCause := none,
      job := some { j with preempted := true, resumes := true, lockOk := false, launchCount := none } })) ∧
  (∀ (p : Fin 8) (v : Fin 512) (s : State), (s.chan.credit.any fun e => e.1 == p.val && e.2.1 == v.val && e.2.2 == 0) = true →
    ∃ u, exec (.creditRecall p v) s = .next u ∧ Frame [.rf, .chan, .net, .dbg, .out] s u ∧
      u.chan.credit = s.chan.credit.filter (fun e => !(e.1 == p.val && e.2.1 == v.val && e.2.2 == 0)) ∧
      ((∀ l, (s.link l).waiting = []) → Frame [.chan, .net] s u ∧ ∀ l, l < 36 →
        let mine := fun (e : Nat × Nat × Bool) => e.2.1 == v.val && e.2.2
        (u.link l).owed = (s.link l).owed.map (fun e => if mine e then (e.1, e.2.1, false) else e) ∧
        Sparse.get 0 (u.link l).credits creditPool = Sparse.get 0 (s.link l).credits creditPool + (s.link l).owed.countP mine))

/-- R278-R281, R283, R289, R290: a fetch whose set, copy, list and report pass begins its extents, under FIRST with an empty
failed list; a set that is not its tenant's, the active copy and a list that breaks R280 are refused under their reasons.
An extent ends under its STATUS: what its stages make of its bytes is written, its report and the failed list follow, and
the next extents begin. -/
def Obligations.FetchesWriteTheirExtents : Prop :=
  (∀ (ch : Fin 262144) (index : Word) (c : ExecCmd) (s : State), Starts s ch.val index 0x40 c → s.ing.fetches.length < 8 →
    let u := begun s c
    let v := cTenant (u.chEntry ch.val)
    let k := c.arg 4 10
    let copy := bitOf c.words.toNat 42
    let n := c.arg 0x10 13
    (∀ r, u.ownSet v k = .error r → exec (.fetch ch index) s = .next (u.refuse c r).retryBells) ∧
    (∀ w, u.ownSet v k = .ok w → w.activeCopy = some copy → exec (.fetch ch index) s = .next (u.refuse c 0x04).retryBells) ∧
    (∀ w, u.ownSet v k = .ok w → w.activeCopy ≠ some copy → 0 < n → n ≤ 4096 →
      u.named ch.val (c.arg 8 48) (128 * n) false = true → u.named ch.val (c.arg 0x18 48) (32 * n) true = true →
      (u.readTen v (c.arg 8 48) (128 * n)).bad = none →
      let r := u.readTen v (c.arg 8 48) (128 * n)
      let es := (chunks 128 r.bytes).map bytesToNat
      let good := es.all (xValid w.len) && !someMeet (es.flatMap xRanges)
      (good = false → exec (.fetch ch index) s = .next (r.st.refuse c 0x06).retryBells) ∧
      (good = true → exec (.fetch ch index) s = .next (
        let x := if bitOf c.words.toNat 43 then r.st.modCopy k copy fun x =>
          { x with failed := [], overflow := false, finalSeen := false, state := .loading } else r.st
        State.retryBells ({ x with ing := { x.ing with fetches := x.ing.fetches ++ [({
          chan := ch.val, index := index, tenant := v, set := k, copy := copy, base := (w.copyOf copy).base,
          final := bitOf c.words.toNat 44, list := es.map (BitVec.ofNat 1024), keys := [], report := c.arg 0x18 48,
          ended := [], failed := 0, bytes := 0 } : FetchRun)] } } : State).beginExtents)))) ∧
  (∀ (ch : Fin 262144) (index : Word) (extent : Nat) (f : FetchRun) (b : BegunKey) (s : State),
    s.ing.fetches.find? (fun f => f.chan == ch.val && f.index == index) = some f → f.keys[extent]? = some b →
    f.ended.contains extent = false →
    let e := (f.list.getD extent 0).toNat
    exec (.extentEnd ch index extent .failed) s = .next (s.endExtent f extent exNet 0) ∧
    (∀ bytes : List Byte, s.qpReady f.tenant (xQp e) = true → bytes.length = xLen e →
      let u := ({ s with ing := { s.ing with wireBytes := s.ing.wireBytes + BitVec.ofNat 64 bytes.length } } : State)
      let r := u.runExtent f e b bytes
      exec (.extentEnd ch index extent (WireResult.data bytes)) s = .next (r.st.endExtent f extent r.status r.wrote)) ∧
    (∀ bytes : List Byte, s.qpReady f.tenant (xQp e) = false →
      exec (.extentEnd ch index extent (WireResult.data bytes)) s = .next (s.endExtent f extent exNet 0)))

/-- R289-R292: weight sets. A create that passes makes both copies EMPTY and none active; a bind writes the flip word with
FLIP_SEQ 0 and joins the bindings, an unbind removes the tenant's; a flip of an ELIGIBLE copy marks every binding due,
each is written at its tenant's boundary with FLIP_SEQ one higher, and after the last the copy is ACTIVE; a destroy drops
the set. A create of a number in use, a bind of another tenant's set that is not shared, an unbind by a tenant that
neither owns the set nor is bound to it and a flip of a copy that is not ELIGIBLE are refused. -/
def Obligations.WeightSetsBindAndFlip : Prop :=
  ∀ (ch : Fin 262144) (index : Word) (c : ExecCmd) (s : State),
    let u := begun s c
    let v := cTenant (u.chEntry ch.val)
    let k := c.arg 4 10
    (Starts s ch.val index 0x41 c → (u.wset k).isSome = true → exec (.wsetCreate ch index) s = .next (u.refuse c 1).retryBells) ∧
    (Starts s ch.val index 0x41 c → u.wset k = none → (bitOf c.words.toNat 42 = false ∨ v = 0) → c.arg 0x18 48 ≠ 0 →
      (∀ a ∈ [c.arg 8 48, c.arg 0x10 48], u.aptAllows v a (c.arg 0x18 48) true true = true ∧
        u.named ch.val a (c.arg 0x18 48) true = true) →
      exec (.wsetCreate ch index) s = .next ((u.setWset k (some {
        owner := v, shared := bitOf c.words.toNat 42, len := c.arg 0x18 48, copy0 := WCopy.fresh (c.arg 8 48),
        copy1 := WCopy.fresh (c.arg 0x10 48), activeCopy := none, bindings := [], flip := none })).complete ch.val index stOk 0
          0).retryBells) ∧
    (∀ w i, Starts s ch.val index 0x42 c → u.wset k = some w → (w.owner = v ∨ w.shared = true) → w.bindings.length < 64 →
      w.bindings.any (·.tenant == v) = false → c.arg 8 48 % 8 = 0 → u.aptOf v (c.arg 8 48) 8 = some i →
      aptWritable (u.aptDesc v i) = true → aptRetained (u.aptDesc v i) = true → aptSpill (u.aptDesc v i) = false →
      u.named ch.val (c.arg 8 48) 8 true = true →
      exec (.wsetBind ch index) s = .next ((((u.writeTen v (c.arg 8 48) (flipWord (w.activeCopy.getD false) 0)).2.setWset k
        (some { w with bindings := w.bindings ++ [({ tenant := v, parts := BitVec.ofNat 8 (c.arg 6 8), flipWord := c.arg 8 48,
                                                     flipSeq := 0, due := w.flip.isSome } : Binding)] })).complete ch.val index
          stOk 0 0).retryBells)) ∧
    (∀ w, Starts s ch.val index 0x42 c → u.wset k = some w → w.owner ≠ v → w.shared = false →
      exec (.wsetBind ch index) s = .next (u.refuse c 2).retryBells) ∧
    (∀ w, Starts s ch.val index 0x43 c → s.wset k = some w → w.owner ≠ v → (∀ b ∈ w.bindings, b.tenant ≠ v) →
      exec (.wsetUnbind ch index) s = .next (u.refuse c 2).retryBells) ∧
    (∀ w, Starts s ch.val index 0x43 c → s.wset k = some w → (w.owner = v ∨ w.bindings.any (·.tenant == v) = true) →
      (∀ b ∈ w.bindings, b.tenant = v → b.due = false) →
      exec (.wsetUnbind ch index) s = .next ((u.setWset k (some { w with
        bindings := w.bindings.filter (·.tenant != v) })).complete ch.val index stOk 0 0).retryBells) ∧
    (∀ w, Starts s ch.val index 0x44 c → u.ownSet v k = .ok w →
      let copy := bitOf c.words.toNat 42
      (w.copyOf copy).state = .eligible → (u.ing.fetches.any fun f => f.set == k && f.copy == copy) = false → w.flip = none →
      exec (.wsetFlip ch index) s = .next ((u.setWset k (some { w with
        flip := some (copy, ch.val, index)
        bindings := w.bindings.map fun b => { b with due := true } })).settleFlip k).retryBells) ∧
    (∀ w, Starts s ch.val index 0x44 c → u.ownSet v k = .ok w → (w.copyOf (bitOf c.words.toNat 42)).state ≠ .eligible →
      exec (.wsetFlip ch index) s = .next (u.refuse c 5).retryBells) ∧
    (∀ w, Starts s ch.val index 0x45 c → u.ownSet v k = .ok w → w.flip = none →
      exec (.wsetDestroy ch index) s = .next ((u.setWset k none).complete ch.val index stOk 0 0).retryBells) ∧
    (∀ (set : Fin 1024) (tenant : Fin 512) (w : WSet) (b : Binding) (copy : Bool) (x : Nat × Word),
      s.wset set.val = some w → w.flip = some (copy, x) → w.bindings.find? (fun b => b.tenant == tenant.val && b.due) = some b →
      s.flipBoundary tenant.val b.parts = true →
      let seq := b.flipSeq + 1
      exec (.flipWordWrite set tenant) s = .next (((s.writeTen tenant.val b.flipWord (flipWord copy seq.toNat)).2.setWset set.val
        (some { w with bindings := w.bindings.map fun y =>
          if y.tenant == tenant.val then { y with flipSeq := seq, due := false } else y })).settleFlip set.val)) ∧
    (∀ w copy x, u.wset k = some w → w.flip = some (copy, x) → (w.bindings.any (·.due)) = false →
      let y := match w.activeCopy with
        | some a => w.setCopy a { w.copyOf a with state := .eligible }
        | none => w
      u.settleFlip k = ((u.setWset k (some { y.setCopy copy { y.copyOf copy with state := .active } with
        activeCopy := some copy, flip := none })).complete x.1 x.2 stOk 0 0).retryBells)

/-- R282, R284, R285: a KEY_LOAD whose epoch is above the slot's floor, whose blob authenticates and whose journal record is
written loads the key and raises the floor; an epoch at or below the floor, a blob that fails and a journal that fails are
refused; KEY_CLEAR empties a slot, and as RETIRE raises its generation and returns its floor to zero. -/
def Obligations.KeySlotsLoadAndClear : Prop :=
  ∀ (ch : Fin 262144) (index : Word) (c : ExecCmd) (s : State),
    let u := begun s c
    let v := cTenant (u.chEntry ch.val)
    let slot := c.arg 4 1
    let k := 2 * v + slot
    let epoch := c.arg 8 32
    (∀ ok, Starts s ch.val index 0x46 c → epoch ≤ (u.keySlot k).floor.toNat →
      exec (.keyLoad ch index ok) s = .next (u.refuseKey c 9).retryBells) ∧
    (Starts s ch.val index 0x46 c → (u.keySlot k).floor.toNat < epoch → u.named ch.val (c.arg 0x10 48) 160 false = true →
      let r := u.readTen v (c.arg 0x10 48) 160
      r.bad = none →
      (∀ ok tag, r.st.unwrap v slot epoch r.bytes = (none, tag) → exec (.keyLoad ch index ok) s =
        .next ((if tag then r.st.bump Reg.igeAuthCnt 1 else r.st).refuseKey c 0x0A).retryBells) ∧
      (∀ key tag, r.st.unwrap v slot epoch r.bytes = (some key, tag) →
        let j := r.st.appendJournal k (r.st.keySlot k).gen.toNat epoch
        let w := j.2.setKey k { j.2.keySlot k with
          key := some key, epoch := BitVec.ofNat 32 epoch, floor := BitVec.ofNat 32 epoch }
        (j.1 = true → exec (.keyLoad ch index true) s = .next ((if 0xFFFF0000 ≤ epoch then w.setBit Reg.igeEvent 3
          else w).complete ch.val index stOk 0 0).retryBells) ∧
        exec (.keyLoad ch index false) s = .next ((r.st.setBit Reg.otpEvent 2).refuseKey c 9).retryBells)) ∧
    (∀ ok, Starts s ch.val index 0x47 c → bitOf c.words.toNat 33 = false →
      exec (.keyClear ch index ok) s = .next ((u.clearKey k).complete ch.val index stOk 0 0).retryBells) ∧
    (Starts s ch.val index 0x47 c → bitOf c.words.toNat 33 = true →
      let m := 2 * c.arg 6 9 + slot
      (∀ ok, v ≠ 0 → exec (.keyClear ch index ok) s = .next (u.refuse c 3).retryBells) ∧
      (v = 0 → (u.keySlot m).gen ≠ 0xFFFF →
        let j := u.appendJournal m ((u.keySlot m).gen.toNat + 1) 0
        j.1 = true → exec (.keyClear ch index true) s = .next (((j.2.clearKey m).setKey m { (j.2.clearKey m).keySlot m with
          gen := (u.keySlot m).gen + 1, floor := 0 }).complete ch.val index stOk 0 0).retryBells))

/-- R297, R300, R301, R303, R307, Tables 13.5, 13.6: a link of an enabled, committed chip with its lasers on trains. With
every step passed it comes UP on the lowest usable wavelengths of the widest width they allow; in a bundle only once its
far end is as the bundle says, its delay within 500 ns and 16 VL0 credits are advertised; its identity has been sent. A
wrong far end is MISWIRED, a delay or credits out of range REFUSED, a failed step makes it wait 100 ms, after which it
trains again. No other link changes. -/
def Obligations.LinksTrainToTheirWidth : Prop :=
  (∀ (l : Fin 36) (r : TrainResult) (s : State), (s.link l.val).state = .down ∨ (s.link l.val).state = .training →
    (s.link l.val).trainFailedAt = none → (s.link l.val).configured = true → s.blockOn 14 = true →
    s.rdBit Reg.mgtStatus 16 = true → s.rdBit (Reg.lnkCtrl l.val) 1 = false →
    let x := s.link l.val
    let usable := s.usableLanes l.val &&& r.usable.toNat
    let w := widthFor x.ethernet (popCount 10 usable)
    let passed := r.failStep = none ∧ s.rdBit Reg.lnkRlmCtrl 0 = true ∧ w ≠ 0
    let others := fun (u : State) => (∀ k, k ≠ l.val → u.link k = s.link k) ∧ Frame [.rf, .net, .freeCount, .out] s u
    let told := fun (c : BundleCfg) (u : State) => u.out = s.out ++ [.identity l.val (s.rd Reg.mgtDomain) s.self c.kind.toNat 1]
    let failed := fun (u : State) => (u.link l.val).state = .down ∧ (u.link l.val).trainFailedAt = some s.now ∧ others u
    let up := fun (u : State) => (u.link l.val).state = .up ∧ (u.link l.val).activeMap = BitVec.ofNat 10 (lowestBits usable w) ∧
      u.rdBit Reg.lnkEvent 3 = true ∧ others u
    (passed → x.ethernet = true → ∃ u, exec (.linkTrain l r) s = .next u ∧ up u) ∧
    (∀ c, passed → x.ethernet = false → s.bundle x.bundle.toNat = some c →
      (s.miswired c r = false → r.delayPs.toNat ≤ 500000 → 16 ≤ r.vl0Credits → ∃ u, exec (.linkTrain l r) s = .next u ∧ up u ∧
        told c u ∧ (u.link l.val).delayPs = r.delayPs ∧ (u.link l.val).asymPs = r.asymPs ∧
        Sparse.get 0 (u.link l.val).credits 0 = r.vl0Credits) ∧
      (s.miswired c r = true → ∃ u, exec (.linkTrain l r) s = .next u ∧ (u.link l.val).state = .miswired ∧
        u.rdBit Reg.lnkEvent 4 = true ∧ told c u ∧ others u) ∧
      (s.miswired c r = false → 500000 < r.delayPs.toNat ∨ r.vl0Credits < 16 →
        ∃ u, exec (.linkTrain l r) s = .next u ∧ (u.link l.val).state = .refused ∧ told c u ∧ others u)) ∧
    (∀ c, r.failStep = some 6 → s.rdBit Reg.lnkRlmCtrl 0 = true → w ≠ 0 → x.ethernet = false → s.bundle x.bundle.toNat = some c →
      ∃ u, exec (.linkTrain l r) s = .next u ∧ failed u ∧ told c u) ∧
    ((r.failStep.any fun k => decide (k.val ≤ 5)) = true ∨ s.rdBit Reg.lnkRlmCtrl 0 = false ∨ w = 0 →
      ∃ u, exec (.linkTrain l r) s = .next u ∧ failed u)) ∧
  (∀ (l : Fin 36) (t : Dword) (s : State), (s.link l.val).trainFailedAt = some t → (s.link l.val).state = .down →
    ∃ u, exec (.trainRetry l) s = .next u ∧ u.link l.val = { s.link l.val with state := .training, trainFailedAt := none } ∧
      u.clock = (s.reach (t.toNat + 100000000)).clock ∧ (∀ k, k ≠ l.val → u.link k = s.link k) ∧ Frame [.clock, .net] s u)

/-- R302, R303: after a wavelength of a link that carries traffic has failed, the link carries nothing on it: a spare has
taken its place, or the link has narrowed, or it is down. A spare that suffices keeps the link UP, at its width. -/
def Obligations.FailedWavelengthsCarryNothing : Prop :=
  ∀ (l : Fin 36) (lane : Fin 10) (r : State), let s := r.sendMessages
    (s.link l.val).state = .up ∨ (s.link l.val).state = .retrain →
    (s.link l.val).failed.getLsbD lane.val = false → bitOf (s.fusedLanes l.val) lane.val = false →
    ∃ u, exec (.laneFail l lane) r = .next u ∧ (u.link l.val).activeMap.getLsbD lane.val = false ∧
      (∀ spare : Fin 10, (s.link l.val).state = .up → (s.link l.val).activeMap.getLsbD lane.val = true → spare ≠ lane →
        bitOf (s.usableLanes l.val) spare.val = true → (s.link l.val).activeMap.getLsbD spare.val = false →
        (∀ k : Fin 10, k.val < spare.val → k ≠ lane → bitOf (s.usableLanes l.val) k.val = true →
          (s.link l.val).activeMap.getLsbD k.val = true) →
        (u.link l.val).state = .up ∧ (u.link l.val).failed = (s.link l.val).failed ||| BitVec.ofNat 10 (2 ^ lane.val) ∧
          u.rdBit Reg.lnkEvent 0 = true ∧ ∀ k : Fin 10, k ≠ lane → (u.link l.val).activeMap.getLsbD k.val =
            ((s.link l.val).activeMap.getLsbD k.val || k == spare))

/-- R297, R298, R303, R342: links leave and take up their work. A narrowing retrain ends UP with its credits advertised anew,
and what was not acknowledged is sent again; CLR_LANES, which reads 1 until then, drops the failure marks and retrains at
the width that is usable then; RETRAIN starts the link again, recorded; DISABLE and the lasers' EN take links DOWN; the
module hears EN and the polls on its SPI; a poll shows its readings and counts, up to the third, the polls in which a
laser was low. -/
def Obligations.LinksRetrainNarrowAndStop : Prop :=
  (∀ (l : Fin 36) (s : State), (s.link l.val).state = .retrain →
    let v := (((s.modLink l.val fun x => { x with state := .up }).setBit Reg.lnkEvent 3).clrBit (Reg.lnkCtrl l.val) 2).stepEight
      l.val
    let w := match (s.link l.val).replay with
      | f :: _ => v.emit (.resend l.val f.seq)
      | [] => v
    exec (.narrowRetrainDone l) s = .next (w.sendMessages.drain l.val) ∧ (v.link l.val).state = .up ∧
    v.rdBit Reg.lnkEvent 3 = true ∧ (∀ k, k ≠ l.val → v.link k = s.link k) ∧ Frame [.rf, .net, .freeCount] s v ∧
    (∀ c, s.bundle (s.link l.val).bundle.toNat = some c → (s.link l.val).replay = [] →
      (v.link l.val).credits = (s.firstCredits c (s.link l.val).vl0Adv).1 ∧ (v.link l.val).owed = [])) ∧
  (∀ (path : Path) (l : Fin 36) (s : State), Opens s path (Reg.lnkCtrl l.val) →
    let v := s.modLink l.val fun x => { x with failed := 0 }
    let u := v.usableLanes l.val
    let w := widthFor (s.link l.val).ethernet (popCount 10 u)
    (s.link l.val).state = .up ∨ (s.link l.val).state = .retrain → w ≠ 0 →
    ∃ t, exec (.clrLanes path l) s = .next t ∧ (t.link l.val).state = .retrain ∧ (t.link l.val).failed = 0 ∧ t.rdBit (Reg.lnkCtrl l.val) 2 = true ∧
      (t.link l.val).activeMap = BitVec.ofNat 10 (lowestBits u w) ∧ (∀ k, k ≠ l.val → t.link k = s.link k) ∧
      Frame [.rf, .net] s t) ∧
  (∀ (path : Path) (l : Fin 36) (s : State), Opens s path (Reg.lnkCtrl l.val) → (s.link l.val).state ≠ .disabled →
    exec (.lnkRetrain path l) s = .next ((s.fabricReset l.val).logEvent {
      kind := 2, source := (Config.resetSource 2).toNat, action := 3, link := l.val })) ∧
  (∀ (path : Path) (l : Fin 36) (s : State), Opens s path (Reg.lnkCtrl l.val) →
    let w := fun (d : Bool) => s.writeFields path (Reg.lnkCtrl l.val) ((s.rd (Reg.lnkCtrl l.val) &&& ~~~2) ||| BitVec.ofNat 32
      (2 * b2n d)) 0
    ((w true).rdBit (Reg.lnkCtrl l.val) 1 = true →
      exec (.linkDisable path l true) s = .next ((w true).dropLink l.val .disabled)) ∧
    ((w false).rdBit (Reg.lnkCtrl l.val) 1 = false →
      exec (.linkDisable path l false) s = .next ((w false).enableLink l.val))) ∧
  (∀ (path : Path) (en : Bool) (s : State), Opens s path Reg.lnkRlmCtrl →
    let w := s.writeFields path Reg.lnkRlmCtrl ((s.rd Reg.lnkRlmCtrl &&& ~~~1) ||| BitVec.ofNat 32 (b2n en)) 0
    (w.rdBit Reg.lnkRlmCtrl 0 = true → exec (.rlmEnable path en) s = .next (w.emit (.spi (spiWrite 0x02 0x3FF)))) ∧
    (w.rdBit Reg.lnkRlmCtrl 0 = false → exec (.rlmEnable path en) s = .next ((List.range 36).foldl (fun s l =>
      if (s.link l).state == .disabled then s else s.dropLink l .down) ((w.emit (.spi (spiWrite 0x02 0))).clrBit
        Reg.lnkRlmStatus 1)))) ∧
  (∀ (id status temp : BitVec 16) (power pmin : List (BitVec 16)) (s : State), id.toNat = 0x4E52 →
    bitOf status.toNat 1 = false → bitOf status.toNat 2 = false → s.rdBit Reg.lnkRlmCtrl 0 = true →
    (∀ k, k < 10 → (power.getD k 0).toNat < (pmin.getD k 0).toNat → Sparse.get 0 s.net.laserLow k < 2) →
    ∃ u, exec (.rlmPoll id status power pmin temp) s = .next u ∧ Frame [.rf, .net, .out] s u ∧ (∀ l, u.link l = s.link l) ∧
      u.out = s.out ++ pollFrames.map .spi ∧
      (∀ k, k < 10 → Sparse.get 0 u.net.laserPower k = power.getD k 0 ∧ Sparse.get 0 u.net.laserLow k =
        if (power.getD k 0).toNat < (pmin.getD k 0).toNat then Sparse.get 0 s.net.laserLow k + 1 else 0) ∧
      u.rd Reg.lnkRlmStatus = BitVec.ofNat 32 (packFields ([(0, 1, 1), (1, 1, 1), (2, 1, 0), (16, 8, temp.toNat / 10)] ++
        (List.range 10).map fun k => (3 + k, 1, b2n !decide ((power.getD k 0).toNat < (pmin.getD k 0).toNat)))))

/-- R305, R306, R307, R308, R312, R310: flits. A bad flit is answered by a NAK and carries nothing; a good data flit in
sequence is taken, once, after what it acknowledges and credits took effect; one ahead of it is answered by one NAK; a
NAK, or 4 µs without an acknowledgement, sends again; what is sent is numbered on and kept, 2,048 flits at most, until it
is acknowledged. A packet goes to the engine of its KIND, those of a NEIGHBOUR bundle's lane in PSEQ order. The credit
watchdog records its fault and resets the link; a reserve not used for 1 ms is given up. -/
def Obligations.FlitsAreTakenOnceInOrder : Prop :=
  (∀ (l : Fin 36) (flit : List Byte) (bad : Bool) (corrected : List (Fin 10 × Nat)) (s : State), (s.link l.val).state = .up →
    (s.link l.val).ethernet = false → flit.length = 256 →
    let v := s.sendMessages.bump (Reg.lnkFecCe l.val) (corrected.foldl (fun n e => n + e.2) 0)
    exec (.flitReceive l flit bad corrected) s = .next (((v.flit l.val flit bad).drain l.val).noteLaneCe l.val corrected)) ∧
  (∀ (l : Nat) (flit : List Byte) (s : State),
    let w := bytesToNat (flit.take 8)
    let ack := BitVec.ofNat 12 (fld w 35 24)
    let v := s.credited l (fld w 38 36) (fld w 51 40)
    s.flit l flit true = (s.bump (Reg.lnkFecUe l) 1).nak l ∧
    (crcA (flit.take 248) ≠ bytesToNat (flit.drop 248) ∨ fld w 63 56 ≠ 0 ∨ 4 ≤ fld w 3 0 →
      s.flit l flit false = s.nak l) ∧
    (flitBad flit false = false →
      (fld w 3 0 = 1 → fld w 23 12 = (s.link l).rxSeq.toNat →
        s.flit l flit false = (v.acked l (ack + 1)).takeFlit l w ((flit.drop 8).take 240)) ∧
      (fld w 3 0 = 1 → fld w 23 12 ≠ (s.link l).rxSeq.toNat → serialNewer 12 (fld w 23 12) (s.link l).rxSeq.toNat = true →
        (s.link l).naked = false → s.flit l flit false = (v.acked l (ack + 1)).nak l) ∧
      (fld w 3 0 = 1 → fld w 23 12 ≠ (s.link l).rxSeq.toNat → (s.link l).naked = true →
        s.flit l flit false = v.acked l (ack + 1)) ∧
      (fld w 3 0 = 3 → s.flit l flit false = (v.acked l ack).replayFrom l ack) ∧
      (fld w 3 0 = 0 ∨ fld w 3 0 = 2 → s.flit l flit false = v.acked l (ack + 1)))) ∧
  (∀ (l : Nat) (w : Nat) (body : List Byte) (s : State), ((s.takeFlit l w body).link l).rxSeq = (s.link l).rxSeq + 1 ∧
    ((s.takeFlit l w body).link l).naked = false ∧ ((s.takeFlit l w body).link l).received = (s.link l).received + 1) ∧
  (∀ (l : Nat) (s : State), ∃ fs : List SentFlit, ((s.drain l).link l).replay = (s.link l).replay ++ fs ∧
    ((s.drain l).link l).txSeq = (s.link l).txSeq + BitVec.ofNat 12 fs.length ∧
    (fs ≠ [] → (s.link l).state = .up ∧ (s.link l).replay.length + fs.length ≤ 2048) ∧
    ∀ i (h : i < fs.length), fs[i].seq = (s.link l).txSeq + BitVec.ofNat 12 i) ∧
  (∀ (l : Fin 36) (f : SentFlit) (fs : List SentFlit) (s : State), let v := s.sendMessages
    (v.link l.val).state = .up → (v.link l.val).replay = f :: fs →
    exec (.replayTimeout l) s = .next (v.replayFrom l.val f.seq)) ∧
  (∀ (l : Fin 36) (vl : Fin 8) (h : PacketHeader) (payload : List Byte) (s : State),
    let b := (s.link l.val).bundle.toNat
    let beside := (s.bundle b).any (·.kind == 0)
    let m := Sparse.get Merge.reset s.net.merge (b * 8 + vl.val)
    let arrival : Instr := .packetReceive { link := l, vl := vl, head := h } payload
    let given := if h.kind.toNat < 6 then [Out.packetTo h.kind.toNat h payload] else []
    (beside = false → exec arrival s = .next { s with out := s.out ++ given }) ∧
    (beside = true → h.pseq = m.next → m.held = [] → ∃ u, exec arrival s = .next u ∧
      u.out = s.out ++ given ∧ Sparse.get Merge.reset u.net.merge (b * 8 + vl.val) = { next := h.pseq + 1, held := [] } ∧
      Frame [.net, .out] s u) ∧
    (beside = true → serialNewer 16 h.pseq.toNat m.next.toNat = true → m.held = [] → (∃ k ∈ s.upLinks b, k ≠ l.val) →
      ∃ u, exec arrival s = .next u ∧ Sparse.get Merge.reset u.net.merge (b * 8 + vl.val) =
        { next := m.next, held := [{ link := l.val, h := h, payload := payload }] } ∧ Frame [.net] s u) ∧
    (beside = true → h.pseq ≠ m.next → serialNewer 16 h.pseq.toNat m.next.toNat = false →
      exec arrival s = .next s)) ∧
  (∀ (l : Fin 36) (vl : Fin 8) (tenant : Fin 512) (s : State), (s.link l.val).state = .up →
    let v := (s.reach ((Sparse.get 0 (s.link l.val).creditsLast vl.val).toNat + 10000000)).setBit Reg.lnkEvent 5
    exec (.linkCreditWatchdog l vl tenant) s = .next (((v.logEvent {
      kind := 1, source := 0x06, action := 3, link := l.val, vl := vl.val, peer := s.rdFld (Reg.lnkPeer l.val) 13 0,
      tenant := if 3 ≤ vl.val then tenant.val else 0 }).setBit Reg.fltEvent 3).fabricReset l.val)) ∧
  (∀ (l : Fin 36) (tenant : Fin 512) (e : Reserve) (s : State),
    (s.link l.val).reserves.find? (fun e => e.tenant == tenant.val) = some e → ∃ u, exec (.reserveRelease l tenant) s = .next u ∧
      u.link l.val = { s.link l.val with reserves := (s.link l.val).reserves.filter (·.tenant != tenant.val) } ∧
      u.clock = (s.reach (e.last.toNat + 1000000)).clock ∧ Frame [.clock, .net] s u)

/-- R316, R317, Table 13.11: queue pairs. A commit judges the staged context: a bad field is refused, a busy pair refused,
else it is written in RTS at its start PSN; a reset and a read do as they say. An acknowledgement moves the pair on, a NAK
or a timeout makes it go back, an RNR NAK after the last retry puts it in ERROR, a CNP halves its rate, which rises again
by 5 Gb/s up to its link's; a packet for no live pair is dropped, a pause changes nothing. -/
def Obligations.QueuePairsRunTheirContexts : Prop :=
  (∀ (path : Path) (s : State), Opens s path Reg.lnkQpCmd →
    let q := s.qpIndex
    let c := s.qpStaged
    (∀ off, s.qpCheck c = some off → exec (.qpCommit path) s = .next (s.qpResult 1 off)) ∧
    (s.qpCheck c = none → s.qpBusy q = true → exec (.qpCommit path) s = .next (s.qpResult 2 0)) ∧
    (s.qpCheck c = none → s.qpBusy q = false → ∃ u, exec (.qpCommit path) s = .next u ∧
      u.qpCtx q = (BitVec.ofNat 512 (setFld c 2 1 1)).toNat ∧ (u.qpRun q).psn = BitVec.ofNat 24 (fld c 119 96) ∧
      (u.qpRun q).rateGbps = s.ethRate (qLink c) ∧ (∀ k, k ≠ q → u.qpCtx k = s.qpCtx k ∧ u.qpRun k = s.qpRun k) ∧
      Frame [.rf, .net] s u) ∧
    (exec (.qpReset path) s = .next ((((s.setQp q (setFld (s.qpCtx q) 2 1 0)).modQp q fun _ => QpRun.reset).endQpNet
      q).qpResult 0 0)) ∧
    ∃ u, exec (.qpRead path) s = .next u ∧ Frame [.rf] s u ∧
      ∀ n, n < 16 → u.rd (Reg.lnkQpData n) = BitVec.ofNat 32 (s.qpCtx q / 2 ^ (32 * n))) ∧
  (∀ (l : Fin 36) (q : Fin 4096) (psn : BitVec 24) (s : State), (s.link l.val).state = .up → (s.link l.val).ethernet = true →
    let live := s.qpRts q.val && qLink (s.qpCtx q.val) == l.val
    (live = true →
      exec (.ethPacketReceive l (.ack q psn)) s = .next (s.qpAdvance q.val psn) ∧
      exec (.ethPacketReceive l (.nak q psn)) s = .next (s.qpGoBack q.val psn) ∧
      (∀ last data, psn = (s.qpRun q.val).psn →
        exec (.ethPacketReceive l (.readResponse q psn last false data)) s = .next (s.qpAdvance q.val psn)) ∧
      ((s.qpRun q.val).lastCnp = 0 ∨ 50000 ≤ s.since (s.qpRun q.val).lastCnp → exec (.ethPacketReceive l (.cnp q)) s =
        .next (s.modQp q.val fun x => { x with rateGbps := x.rateGbps / 2, lastCnp := s.now })) ∧
      (qRnr (s.qpCtx q.val) ≤ (s.qpRun q.val).rnrRetries →
        exec (.ethPacketReceive l (.rnrNak q psn)) s = .next (s.qpError q.val))) ∧
    (live = false → exec (.ethPacketReceive l (.ack q psn)) s = .next s.ethDrop ∧
      exec (.ethPacketReceive l (.nak q psn)) s = .next s.ethDrop) ∧
    exec (.ethPacketReceive l .other) s = .next s.ethDrop ∧
    (∀ prio quanta, exec (.ethPacketReceive l (.pause prio quanta)) s = .next s)) ∧
  (∀ (q : Fin 4096) (s : State), s.qpRts q.val = true →
    (s.qpBusy q.val = true → exec (.qpTimeout q) s = .next (s.qpGoBack q.val (s.qpRun q.val).psn)) ∧
    ∃ u, exec (.qpRateRise q) s = .next u ∧ Frame [.clock, .net] s u ∧ u.qpRun q.val = { s.qpRun q.val with
      rateGbps := min (s.ethRate (qLink (s.qpCtx q.val))) ((s.qpRun q.val).rateGbps + 5) })

/-- R321, R322, R324, R367, Table 14.2: the common commands of the sideband, on a chip that answers it. ENTDAA gives a chip
without an address its address and answers ID, BCR and DCR; RSTDAA takes it back; ENEC raises what was held, DISEC holds;
a directed read answers its bytes to an addressed chip, and is not acknowledged by one without an address. -/
def Obligations.SidebandCommonCommands : Prop :=
  ∀ s : State, s.i3cAlive = true →
    let id := natToBe 6 (packFields [(0, 32, s.serial), (32, 1, 1), (33, 15, s.mfrId)])
    (∀ a, s.mgt.i3cAddr = none → ∃ u, exec (.entdaa a) s = .next u ∧ u.mgt = { s.mgt with i3cAddr := some a } ∧
      u.out = s.out ++ [.i3cData (id ++ [0x06, 0x00])] ∧ Frame [.mgt, .out] s u) ∧
    (∀ a b, s.mgt.i3cAddr = some b → exec (.entdaa a) s = .next s) ∧
    exec .rstdaa s = .next { s with mgt := { s.mgt with i3cAddr := none } } ∧
    exec .disec s = .next { s with mgt := { s.mgt with ibiEnabled := false } } ∧
    (∃ u, exec .enec s = .next u ∧ u.mgt = { s.mgt with ibiEnabled := true, ibiHeld := [] } ∧ Frame [.mgt, .out] s u ∧
      u.out = s.out ++ (([0x01, 0x02, 0x03, 0x04, 0x05] : List Byte).filter s.mgt.ibiHeld.contains).map .ibi) ∧
    (∀ code, exec (.i3cUnsupportedCcc code) s = .next (s.emit .i3cNack)) ∧
    (s.mgt.i3cAddr.isSome = true →
      exec .getpid s = .next (s.emit (.i3cData id)) ∧ exec .getbcr s = .next (s.emit (.i3cData [0x06])) ∧
      exec .getdcr s = .next (s.emit (.i3cData [0x00])) ∧ (∃ v, exec .getmwl s = .next (s.emit (.i3cData (natToBe 2 v)))) ∧
      (∃ v, exec .getmrl s = .next (s.emit (.i3cData (natToBe 3 v)))) ∧
      (∃ (u : State) (h l : Byte), exec .getstatus s = .next u ∧ u.out = s.out ++ [.i3cData [h, l]] ∧ Frame [.freeCount, .out] s u ∧
        (s.start.boot.failed = true → h = s.start.boot.codeB ++ s.start.boot.codeA)) ∧
      ∀ a, exec (.rstact a) s = .next { s with mgt := { s.mgt with rstactArm := a } }) ∧
    (s.mgt.i3cAddr = none → exec .getpid s = .next (s.emit .i3cNack) ∧ exec .getbcr s = .next (s.emit .i3cNack) ∧
      exec .getdcr s = .next (s.emit .i3cNack) ∧ exec .getmwl s = .next (s.emit .i3cNack) ∧
      exec .getmrl s = .next (s.emit .i3cNack))

/-- R22, R324, R325, R329-R331: COMMIT acts once the firmware runs, before that it waits. A domain of zero, or a standby that
is the domain manager, refuses it; else the coordinate stands, COORD_VALID is set, and the chip takes the roles and the
parent that its coordinates give. A chip below the root that has lost its parent says so, holds over, and goes on under a
new parent or in a new role; without its domain manager it turns to the standby. -/
def Obligations.RolesAreTakenAndReplaced : Prop :=
  (∀ s : State, s.pkg.heldBy = none → s.rdBit Reg.mgtStatus 16 = false →
     let clash := s.rd Reg.mgtDomain = 0 ∨
       (s.rdBit Reg.mgtDm 30 = true ∧ s.rdFld Reg.mgtDm 29 16 = s.rdFld Reg.mgtDm 13 0)
     (s.start.boot.firmware = false → exec .commit s = .next (s.setBit Reg.mgtCmd 0)) ∧
     (s.start.boot.firmware = true → clash → exec .commit s = .next (((s.setBit Reg.mgtEvent 0).ibi 0x05).clrBit Reg.mgtCmd 0)) ∧
     (s.start.boot.firmware = true → ¬ clash → ∃ u, exec .commit s = .next u ∧ u.rdBit Reg.mgtStatus 16 = true ∧
       u.rdFld Reg.mgtStatus 13 0 = s.self.toNat ∧ u.rdBit Reg.mgtStatus 18 = (s.self == s.dmChip) ∧
       u.rdBit Reg.mgtStatus 19 = (s.rdBit Reg.mgtDm 30 && s.rdFld Reg.mgtDm 29 16 == s.self.toNat && !(s.self == s.dmChip)) ∧
       u.rdBit Reg.mgtStatus 17 = s.rdBit Reg.mgtStatus 17 ∧ u.start.boot = { s.start.boot with stage := 7 } ∧
       (s.self = s.dmChip → u.rd Reg.mgtParent = 0 ∧ u.rdFld Reg.shtSyncStatus 5 4 = 0) ∧
       (s.self ≠ s.dmChip → s.rdBit Reg.mgtStatus 17 = true → u.rdFld Reg.mgtParent 13 0 = s.dmChip.toNat) ∧
       Frame [.rf, .start] s u)) ∧
  (∀ (p : Option ChipId) (s : State), s.committed = true → s.isDm = false →
     let v := (s.reach (s.clock.lastExchange.toNat + s.rdFld Reg.mgtHbCfg 7 0 * 1000000)).setBit Reg.mgtEvent 3
     let h := if v.rdBit Reg.shtSyncStatus 1 then v else v.holdOver
     let lost := s.rdFld Reg.mgtParent 13 0
     let k : State := { h with mgt := { h.mgt with ready := h.mgt.ready.filter (·.toNat != lost) } }
     (lost = s.dmChip.toNat → exec (.parentLost p) s = .next h.loseDm) ∧
     (lost ≠ s.dmChip.toNat → exec (.parentLost (some s.self)) s = .next ((((k.setBit Reg.mgtStatus 17).setBit Reg.mgtEvent
       4).setParent k.dmChip).emit (.toChip k.dmChip "REGISTER" [s.self.toNat]))) ∧
     (∀ c, lost ≠ s.dmChip.toNat → c ≠ s.self → exec (.parentLost (some c)) s =
       .next ((k.setParent c).emit (.toChip c "REGISTER" [s.self.toNat]))) ∧
     (lost ≠ s.dmChip.toNat → exec (.parentLost none) s =
       .next ((k.setParent k.dmChip).emit (.toChip k.dmChip "REGISTER" [s.self.toNat]))) ∧
     (∀ u : State, u.rdBit Reg.mgtDm 30 = true → u.mgt.dmIsStandby = false → u.rdBit Reg.mgtStatus 19 = true →
       u.chan.bellsHeld = [] → (u.chan.cmds.any fun c => c.opc == 0x0A && c.started && c.status.isNone) = false →
       u.loseDm.rdBit Reg.mgtStatus 18 = true ∧ u.loseDm.rdBit Reg.mgtStatus 19 = false ∧ u.loseDm.rd Reg.mgtParent = 0 ∧
         u.loseDm.rdFld Reg.shtSyncStatus 5 4 = 0 ∧ u.loseDm.rdBit Reg.mgtEvent 4 = true ∧
         u.loseDm.mgt.dmIsStandby = true) ∧
     (∀ u : State, u.rdBit Reg.mgtDm 30 = true → u.mgt.dmIsStandby = false → u.rdBit Reg.mgtStatus 19 = false →
       ∃ t, u.loseDm = t ∧ t.mgt = { u.mgt with dmIsStandby := true } ∧ t.rdFld Reg.mgtParent 13 0 = u.rdFld Reg.mgtDm 29 16) ∧
     (∀ u : State, u.rdBit Reg.mgtDm 30 = false → u.loseDm = { u with mgt := { u.mgt with noDm := true } }))

/-- R329, R330, R333, R334, R10, R12, R34, R170, R348-R351: managers and HALT_N. A halt drives HALT_N low, the drive's end
lets it go, a low HALT_N halts the chip, a release restores it. At the domain manager a worker's registration joins its
launch, whose count goes out with the last, a differing STEP_FRAMES or mode refuses it; reports resend the count, refuse,
abandon, halt or agree a step, on another chip they are answered with their owner; HOLD_MIN restarts an abandoned job from
its checkpoint, and a warning checkpoints every job of its chip. -/
def Obligations.ManagersHaltLaunchAndRecover : Prop :=
  (∀ (path : Path) (s : State), Opens s path Reg.mgtCmd → exec (.halt path) s = .next (s.setBit Reg.mgtCmd 1).driveHalt) ∧
  (∀ s : State, s.rdBit Reg.mgtStatus 17 = true → exec .boardHalt s = .next s.driveHalt) ∧
  (∀ s : State, s.rdBit Reg.mgtStatus 17 = false → exec .boardHalt s =
    .next (s.emit (.toChip s.dmChip "NOT_OWNER" [(s.boardManager.getD s.dmChip).toNat]))) ∧
  (∀ s : State, s.driveHalt.mgt = { s.mgt with haltDrive := true, haltN := false } ∧
    s.driveHalt.rdBit Reg.mgtEvent 6 = true ∧ Frame [.rf, .mgt] s s.driveHalt) ∧
  (∀ s : State, s.mgt.haltDrive = true → exec .haltDriveEnd s =
    .next (({ s with mgt := { s.mgt with haltDrive := false } } : State).clrBit Reg.mgtCmd 1)) ∧
  (∀ s : State, s.pkg.heldBy = none → ∃ u, exec .haltNLow s = .next u ∧ u.mgt.haltN = false ∧
    u.rdBit Reg.mgtStatus 20 = true ∧ u.rdBit Reg.mgtEvent 5 = true ∧ u.rdBit Reg.fltEvent 0 = true ∧
    Frame [.rf, .mgt, .flt, .out] s u) ∧
  (∀ s : State, s.mgt.haltDrive = false → ∃ u, exec .haltNRelease s = .next u ∧
    u.mgt = { s.mgt with haltN := true, haltHighSince := s.now, haltWait := false } ∧ Frame [.clock, .mgt] s u) ∧
  (∀ (c : ChipId) (jobId : Word) (mode : Bool) (n : Word) (s : State), s.committed = true → s.mgt.noDm = false →
    s.isDm = true → exec (.registration c jobId mode n true) s = .next (s.registerLaunch c jobId mode n) ∧
      (s.mgt.ready.contains c = false → c ≠ s.self → exec (.registration c jobId mode n false) s =
        .next (({ s with mgt := { s.mgt with ready := s.mgt.ready ++ [c] } } : State).emit (.toChip c "REGISTERED" []))) ∧
      ∀ d, s.dmJob jobId = some d → d.registered ≠ [] →
        (d.stepFrames ≠ n ∨ d.mode ≠ mode → ∃ (u : State) (e : DmJob) (st : Nat), s.registerLaunch c jobId mode n =
          u.refuseLaunch e st c.toNat ∧ e.workers = d.workers ∧ (d.stepFrames ≠ n → st = 0x13) ∧ Frame [.mgt] s u) ∧
        (d.stepFrames = n → d.mode = mode → s.mgt.refuse = false → (∀ x ∈ d.workers, x = c ∨ d.registered.contains x = true) →
          ∃ (u : State) (e : DmJob), s.registerLaunch c jobId mode n = u.sendCount e ∧ e.workers = d.workers ∧
            Frame [.mgt] s u)) ∧
  (∀ (c : ChipId) (jobId : Word) (mode : Bool) (n : Word) (k : Fin 5) (s : State), s.isDm = false →
    (s.committed = true → s.mgt.noDm = false → exec (.registration c jobId mode n true) s = .next (s.notOwner c)) ∧
    exec (.warningReceive c k) s = .next (s.notOwner c) ∧
    exec (.workerReport c jobId .stepBoundary) s = .next (s.notOwner c) ∧
    ∀ st, exec (.workerReport c jobId (.launchRefused st)) s = .next (s.launchRefused jobId st c)) ∧
  (∀ (c : ChipId) (jobId : Word) (s : State) (d : DmJob), s.isDm = true → s.dmJob jobId = some d →
    exec (.workerReport c jobId .lateLaunch) s = .next (s.sendCount d) ∧
    exec (.workerReport c jobId .notInLock) s = .next (s.sendCount d) ∧
    exec (.workerReport c jobId .mirrorFingerprint) s = .next (s.refuseLaunch d 0x24 c.toNat) ∧
    exec (.workerReport c jobId .workerLeft) s = .next (s.abandonJob d c false) ∧
    exec (.workerReport c jobId .collectiveFailed) s = .next (s.abandonJob d c false) ∧
    (∃ u, exec (.workerReport c jobId .ouuTable) s = .next u ∧ Frame [.mgt, .freeCount, .out] s u ∧ u.out = s.out ++
      (d.workers.map fun x => .toChip x "ABANDON" [jobId.toNat, c.toNat]) ++
      d.workers.map fun x => .toChip x "RESTART_FROM_CHECKPOINT" [jobId.toNat]) ∧
    (d.workers.contains s.self = false → ∃ u, exec (.workerReport c jobId .mirrorFreeze) s = .next u ∧ Frame [.out] s u ∧
      u.out = s.out ++ (d.workers.filter (· != c)).map fun x => .toChip x "HALT_JOB" [jobId.toNat]) ∧
    ((∀ x ∈ d.workers, x = c ∨ d.boundary.contains x = true) → exec (.workerReport c jobId .stepBoundary) s =
      .next (((s.modDm jobId fun d => { d with boundary := [] }).tellWorkers d "STEP_AGREED" [jobId.toNat]).copyAgreed jobId)) ∧
    (∀ t, d.abandonedAt = some t → exec (.holdMinExpiry jobId) s = .next (((s.reach (t.toNat + s.rdFld Reg.fltRecovCfg 7 0 *
      60000000000)).modDm jobId fun d => { d with abandonedAt := none, held := false, registered := [] }).tellWorkers d
        "RESTART_FROM_CHECKPOINT" [jobId.toNat]))) ∧
  (∀ (c : ChipId) (k : Fin 5) (s : State), s.isDm = true → exec (.warningReceive c k) s =
    .next ((s.mgt.jobs.filter (·.workers.contains c)).foldl (fun s d => s.requestCut d [] false) s))

/-- R118, R337-R339, R341, R408: watchdogs. A tile whose frame stays open for FRAME_WD ticks faults, its record naming the
bundle it stands at; a channel that fetches none of its commands for CHAN_WD_MS is STOPPED, its commands kept; a service
core not patted resets the control domain, a companion core is held. Each sets its bit. -/
def Obligations.WatchdogsRecordTheirFault : Prop :=
  (∀ (t : Fin 64) (s : State), s.pkg.heldBy = none → s.flt.run = none → s.halted = false → s.flt.memReset = false →
    s.flt.ctlReset = false → s.boundaryHeld (s.partOf t.val) = false → (s.tile t.val).faulted = false →
    (s.tile t.val).frameOpen = true → s.rdFld Reg.fltWdCfg 7 0 ≤ (s.tile t.val).wdTicks → (s.tile t.val).debugHalted = false →
    let w := match (s.tile t.val).bundleAt (s.tile t.val).pc with
      | some b => packFields [(0, 64, b.s0.toNat), (64, 64, b.s1.toNat), (128, 64, b.s2.toNat), (192, 64, b.s3.toNat)]
      | none => 0
    let v := s.setBit Reg.fltEvent 1
    let u := v.faultTile t.val { s.tileRec t.val 0x04 0 with bundle := w }
    exec (.frameWatchdog t) s = .next u ∧ (u.tile t.val).faulted = true ∧ u.flt.run.isSome = true ∧
      ∀ k, k ≠ t.val → u.tile k = s.tile k) ∧
  (∀ (ch : Fin 262144) (s : State), s.pkg.heldBy = none → s.rdFld Reg.fltWdCfg 19 8 ≠ 0 → chState (s.chEntry ch.val) = 1 →
    cSqHead (s.chEntry ch.val) ≠ cSqTail (s.chEntry ch.val) →
    ∃ u, exec (.channelWatchdog ch) s = .next u ∧ u.rdBit Reg.fltEvent 2 = true ∧ u.rdBit Reg.fltEvent 0 = true ∧
      u.chan.chans = (s.setCh ch.val (withState (s.chEntry ch.val) 2)).chan.chans ∧ u.chan.cmds = s.chan.cmds ∧
      Frame [.rf, .clock, .chan, .flt] s u) ∧
  (∀ (core : Fin 8) (s : State), s.pkg.heldBy = none → s.start.boot.firmware = true → s.flt.ctlReset = false →
    s.dbg.dm.halted.contains core.val = false → exec (.serviceCoreWatchdog core) s =
      .next ((s.setBit Reg.fltEvent 4).logEvent { kind := 1, source := 0x07, action := 4 }).startCtlReset) ∧
  (∀ (core : Fin 24) (v : Fin 512) (s : State), s.pkg.heldBy = none → s.start.boot.firmware = true → s.flt.ctlReset = false →
    s.flt.companionHeld.contains (8 + core.val) = false → s.dbg.dm.halted.contains (8 + core.val) = false →
    ∃ u, exec (.companionCoreWatchdog core v) s = .next u ∧ u.flt.companionHeld = s.flt.companionHeld ++ [8 + core.val] ∧
      u.rdBit Reg.fltEvent 4 = true ∧ u.flt.ctlReset = false ∧ Frame [.rf, .flt] s u)

/-- R343, R346, R348, R359, Table 15.5: a compute-domain reset, from the administrator, the domain manager or a fault, starts
with phase 1 and its count. After 20 µs what is outstanding is dropped, extents in flight end, steps in progress are
abandoned and the dump opens; with the dump written the tiles, the local stores and the engines are as after reset, the
tiles in SCRUB until its end; at its end no job, context, semaphore count or fetch is left and HALTED is clear. One that
outlasts 100 ms becomes a whole-device reset. -/
def Obligations.ComputeResetPassesItsPhases : Prop :=
  (∀ s : State, s.pkg.heldBy = none → s.flt.run = none →
    (∀ path, Opens s path Reg.fltCtrl → exec (.resetCompute path) s = .next (((s.setBit Reg.fltCtrl 0).logEvent {
      kind := 2, source := 0x09, action := 1 }).startReset none none true)) ∧
    exec (.computeReset .admin) s = .next ((s.logEvent { kind := 2, source := 0x09, action := 1 }).startReset none none true) ∧
    exec (.computeReset .dmOrder) s = .next ((s.logEvent { kind := 2, source := 0x0A, action := 1 }).startReset none none
      false) ∧
    (∀ t, (List.range 64).find? (fun t => (s.tile t).faulted) = some t → exec (.computeReset .fault) s = .next (s.startReset (some t) (some (s.tenantOf t)) false)) ∧
    (∀ g v a, let u := s.startReset g v a
      u.flt.run = some { since := s.now, phase := 1, scrubAt := 0, guilty := g, guiltyTenant := v, record := s.flt.eventSeq - 1, admin := a,
                         memWaiting := false } ∧ u.rdFld Reg.fltStatus 2 0 = 1 ∧ u.rdFld Reg.fltStatus 10 8 = 1 ∧
      u.rdFld Reg.fltResetCnt 15 0 = min (s.rdFld Reg.fltResetCnt 15 0 + 1) 65535 ∧ u.tiles = s.tiles ∧ u.parts = s.parts)) ∧
  (∀ (r : ResetRun) (s : State), s.flt.run = some r →
    (r.phase = 1 → exec .resetDrainTimeout s = .next (
      let v := (s.reach (r.since.toNat + 20000)).sourceNotices
      let v := if v.outstanding then v.setBit Reg.aptEvent 1 else v
      let v := (List.range 8).foldl State.abandonedRecord v.dropRequests.abortExtents
      let v := (v.wrFld Reg.fltStatus 2 0 2).openDump
      { v with flt := { v.flt with run := some { r with phase := 2 } } })) ∧
    (r.phase = 2 → ∃ u, exec .dumpDone s = .next u ∧ u.flt.run = some { r with phase := 4, scrubAt := s.now } ∧ u.mem.ls = [] ∧ u.loupe = [] ∧
      u.prism = Prism.reset ∧ u.kal = { Kal.reset with sent := s.kal.sent, received := s.kal.received } ∧
      (∀ t, t < 64 → u.tile t = { Tile.reset with bistFailed := (s.tile t).bistFailed, scrubbing := true }) ∧
      u.rdFld Reg.fltStatus 2 0 = 4 ∧ u.rdBit Reg.memStatus 0 = true ∧ u.rdBit Reg.fltEvent 6 = true) ∧
    (r.phase = 4 → ∃ u, exec .resetEnd s = .next u ∧ u.flt.run = none ∧ u.chan.contexts = [] ∧ u.chan.sems = [] ∧
      u.ing.fetches = [] ∧ (∀ t, t < 64 → (u.tile t).scrubbing = false) ∧ (∀ p, p < 8 → (u.part p).job = none ∧ (u.part p).running = false) ∧
      u.rdBit Reg.mgtStatus 20 = false) ∧
    exec .resetWatchdog s = .next ((s.reach (r.since.toNat + 100000000)).escalate (Config.resetSource 3).toNat))

/-- R330, R331, R344-R346, R359: a memory-domain reset shows its phase and scope and lasts until the stacks have retrained; it
waits for a compute-domain reset that runs, and escalates where the retrain fails; a control-domain reset passes the
manager roles, the domain manager's to the standby where there is one, holds over and holds the companion cores; with the
control complex back, records held meanwhile take their numbers and the chip registers again, or takes up the role of a
domain that has no domain manager. -/
def Obligations.MemoryAndControlResets : Prop :=
  (∀ s : State, s.pkg.heldBy = none →
    (s.flt.run = none → exec .memoryReset s = .next (s.startMemReset (Config.resetSource 0).toNat) ∧
      ∀ path, Opens s path Reg.fltCtrl → exec (.resetMemory path) s = .next ((s.setBit Reg.fltCtrl 1).startMemReset 0x09)) ∧
    (∀ r, s.flt.run = some r → exec .memoryReset s =
      .next { s with flt := { s.flt with run := some { r with memWaiting := true } } }) ∧
    exec .controlReset s = .next (s.logEvent { kind := 2, source := (Config.resetSource 7).toNat, action := 4 }).startCtlReset ∧
    (∀ path, Opens s path Reg.fltCtrl → exec (.resetControl path) s = .next ((s.setBit Reg.fltCtrl 2).logEvent {
      kind := 2, source := 0x09, action := 4 }).startCtlReset)) ∧
  (∀ (k : Nat) (s : State), s.flt.memReset = false → (s.startMemReset k).flt.memReset = true ∧
    (s.startMemReset k).rdFld Reg.fltStatus 2 0 = 5 ∧ (s.startMemReset k).rdFld Reg.fltStatus 10 8 = 2 ∧
    (s.startMemReset k).mem = s.mem) ∧
  (∀ s : State, s.flt.memReset = true → (∃ u, exec (.hbmRetrainDone true []) s = .next u ∧ u.flt.memReset = false ∧
      u.rdBit Reg.fltCtrl 1 = false ∧ Frame [.rf, .flt] s u) ∧
    ∀ l, exec (.hbmRetrainDone false l) s = .next (s.escalate (Config.resetSource 3).toNat)) ∧
  (∀ s : State, s.flt.lastCtl = none → let u := s.startCtlReset
    u.flt.ctlReset = true ∧ u.flt.lastCtl = some s.now ∧ u.mgt = { s.passRoles.mgt with jobs := [], standby := [], ready := [] } ∧
      (s.isDm = false → s.passRoles.mgt = s.mgt) ∧
      (s.isDm = true → s.rdBit Reg.mgtDm 30 = true → s.mgt.dmIsStandby = false →
        s.passRoles.mgt = { s.mgt with dmIsStandby := true } ∧ u.rdFld Reg.mgtParent 13 0 = s.rdFld Reg.mgtDm 29 16) ∧
      (s.isDm = true → s.rdBit Reg.mgtDm 30 = false → s.passRoles.mgt = { s.mgt with noDm := true }) ∧
      u.rdBit Reg.mgtStatus 17 = false ∧ u.rdBit Reg.mgtStatus 18 = false ∧ u.rdBit Reg.mgtStatus 19 = false ∧
      u.rdBit Reg.shtSyncStatus 1 = true ∧ u.flt.companionHeld = (List.range 24).map (8 + ·) ∧ Frame [.rf, .mgt, .flt] s u) ∧
  (∀ s : State, s.flt.ctlReset = true → ∃ u, exec .controlRestartDone s = .next u ∧ u.flt.ctlReset = false ∧ u.flt.ctlHeld = [] ∧
    u.rdBit Reg.fltCtrl 2 = false ∧ u.flt.eventSeq = s.flt.eventSeq + BitVec.ofNat 32 s.flt.ctlHeld.length ∧
    (s.committed = false → Frame [.rf, .flt] s u) ∧
    (s.committed = true → s.mgt.noDm = false → Frame [.rf, .flt, .out] s u ∧
      u.out = s.out ++ [.toChip s.dmChip "REGISTER" [s.self.toNat]]) ∧
    (s.committed = true → s.mgt.noDm = true → s.self.toNat = s.rdFld Reg.mgtDm 13 0 → Frame [.rf, .mgt, .flt] s u ∧
      u.mgt = { s.mgt with noDm := false, dmIsStandby := false } ∧ u.rdBit Reg.mgtStatus 18 = true ∧ u.rd Reg.mgtParent = 0))

/-- R342, R21, R230, R365, R419, R423, R424: the whole-device reset, by command, by register and at the pins. It starts up
again from the fuses and the flash, which stand, as do the event log, PERST_N and the crash-dump region; the registers,
tiles, partitions, domain time, local stores and the rest of HBM are as after reset. RESET_N low, a rail out of range and
a lost REFCLK hold the chip so, and the end of RESET_N and of the lost REFCLK starts it up. -/
def Obligations.WholeDeviceResetKeepsFusesFlashAndDump : Prop :=
  (∀ s : State, s.pkg.heldBy = none →
    exec .wholeDeviceReset s = .next (s.resetDevice (Config.resetSource 4).toNat) ∧
    (∀ path, Opens s path Reg.fltCtrl → exec (.resetDevice path) s = .next (s.sourceNotices.resetDevice 0x09)) ∧
    (∀ k : Fin 8, exec (.railMonitorTrip k) s = .next (if k.val = 2 ∨ k.val = 3 then (s.deviceReset (some .rail)).loseHbm
      else s.deviceReset (some .rail))) ∧
    exec .refclkLoss s = .next (s.sourceNotices.holdReset .refclk (Config.resetSource 5).toNat)) ∧
  (∀ (k : Nat) (s : State), s.resetDevice k = ((s.logEvent { kind := 2, source := k, action := 6 }).deviceReset none).startUp) ∧
  (∀ s : State, exec .resetNLow s = .next { s.deviceReset (some .resetN) with
    pkg := { (s.deviceReset (some .resetN)).pkg with thermN := true } }) ∧
  (∀ s : State, exec .perstNRise s = .next { s with pkg := { s.pkg with perstN := true } }) ∧
  (∀ s : State, s.pkg.heldBy = some .resetN → exec (.resetNRise true) s = .next (s.deviceReset none).startUp ∧
    exec (.resetNRise false) s = .next s) ∧
  (∀ s : State, s.pkg.heldBy = some .refclk → exec .refclkRestore s = .next (s.deviceReset none).startUp) ∧
  (∀ (h : Option HeldBy) (s : State), let u := s.deviceReset h
    u.rf = RegFile.reset ∧ u.tiles = [] ∧ u.parts = [] ∧ u.clock.gtc = 0 ∧ u.mem.ls = [] ∧ u.start.flash = s.start.flash ∧
      u.flt.events = s.flt.events ∧ u.pkg.heldBy = h ∧ u.pkg.perstN = s.pkg.perstN ∧
      (∀ r g, s.start.burn = none → u.fuseSlot r g = s.fuseSlot r g) ∧
      (∀ da : Nat, Sparse.get 0 u.mem.dram da = if 0xBF80000000 ≤ da ∧ da < 0xBFA0000000 ∨ isHbm da = false
        then Sparse.get 0 s.mem.dram da else 0))

/-- R361-R368, R375, R384: start-up. A part without a valid identity or roots fails both slots with code 8; a preferred slot
whose image verifies starts the firmware from it, else the other slot that does; two slots that fail record both codes.
The chip reports ready once it is committed and its links have been tried, and leaves its staging mode if every block is
enabled; FLASH_RELEASE follows two failed slots. -/
def Obligations.StartUpChoosesAnImageAndReportsReady : Prop :=
  (∀ s : State, s.highestValid 0 = none ∨ s.highestValid 3 = none → s.startUp = s.readFuses.bootFailed 8 8) ∧
  (∀ (a b : Nat) (s : State), a < 16 → b < 16 → (s.bootFailed a b).start.boot.failed = true ∧
    (s.bootFailed a b).start.boot.codeA.toNat = a ∧ (s.bootFailed a b).start.boot.codeB.toNat = b ∧
    (s.bootFailed a b).rdBit Reg.memStatus 2 = false ∧ Frame [.rf, .start, .out] s (s.bootFailed a b)) ∧
  (∀ s : State, s.highestValid 0 ≠ none → s.highestValid 3 ≠ none → s.start.sfdp = true →
    let v := (s.readFuses.modBoot fun b => { b with stage := 3, slowFlash := !s.start.octal }).setBit Reg.memStatus 2
    v.bcb.trial = false →
    let code := fun x => imageCode (v.latestFuse 3) v.minSvn (v.slotImage x)
    (code v.bcb.pref = 0 → s.startUp = v.startFirmware v.bcb.pref false false (0, 0)) ∧
    (code v.bcb.pref ≠ 0 → code (!v.bcb.pref) = 0 → s.startUp = v.startFirmware (!v.bcb.pref) true false
      (if v.bcb.pref then (0, code true) else (code false, 0))) ∧
    (code true ≠ 0 → code false ≠ 0 → s.startUp = v.bootFailed (code false) (code true))) ∧
  (∀ s : State, s.start.boot.firmware = true → s.committed = true → s.rdBit Reg.glbStatus 2 = false → s.linksTried = true →
    s.bcb.trial = false →
    let v := (s.setBit Reg.otpBootStatus 3).setBit Reg.glbStatus 2
    let v := if s.rd Reg.glbBlkEn = 0x3FFFF then v.clrBit Reg.glbCtrl 0 else v
    let v := ((v.modBoot fun b => { b with stage := 8 }).ibi 0x01).assignRoles true
    exec .chipReady s = .next (if v.isDm then v else v.emit (.toChip (BitVec.ofNat 14 (v.rdFld Reg.mgtParent 13 0)) "REGISTER"
      [v.self.toNat]))) ∧
  (∀ s : State, s.start.boot.failed = true → exec .flashRelease s =
    .next (s.modBoot fun b => { b with flashReleased := true }))

/-- R373, R374, R376, Tables 16.6, 16.7: fuse commands. Only the arming key arms; a program of a legal payload on an armed
record with a slot left begins, and consumes the arming; each refusal has its code, and burns nothing; the slot that was
burnt then stands with its check; a read fills the stage with the record in force, its secret as zero. -/
def Obligations.FuseCommandsArmProgramAndRead : Prop :=
  (∀ (path : Path) (key : BitVec 16) (s : State), Opens s path Reg.otpFuseArm → exec (.fuseArm path key) s =
    .next { s with start := { s.start with armed := if key = 0x5A3C then some s.now else none } }) ∧
  (∀ (path : Path) (s : State), Opens s path Reg.otpFuseCmd →
    let r := s.rdFld Reg.otpFuseSel 2 0
    let new := s.fuseStaged r
    let u : State := { s with start := { s.start with armed := none } }
    let refused := fun (k : Nat) => exec (.fuseProgram path) s = .next (u.fuseResult k)
    (s.start.burn.isSome = true → exec (.fuseProgram path) s = .next (s.setBit Reg.otpEvent 0) ∧
      exec (.fuseRead path) s = .next (s.setBit Reg.otpEvent 0)) ∧
    (s.start.burn = none →
      (6 ≤ r → refused 3) ∧
      (r < 6 → s.start.armed = none → refused 1) ∧
      (∀ t, r < 6 → s.start.armed = some t → 1000000 < s.since t → refused 1) ∧
      (∀ t, r < 6 → s.start.armed = some t → s.since t ≤ 1000000 →
        (4 ≤ s.nextSlot r → refused 2) ∧
        (s.nextSlot r < 4 → r = 0 → refused 3) ∧
        (s.nextSlot r < 4 → r ≠ 0 → s.fuseMonotonic r new = false → refused 4) ∧
        (s.nextSlot r < 4 → r ≠ 0 → s.fuseMonotonic r new = true → s.fuseAuthorised r = false → refused 5) ∧
        (s.nextSlot r < 4 → r ≠ 0 → s.fuseMonotonic r new = true → s.fuseAuthorised r = true →
          exec (.fuseProgram path) s = .next { u with start := { u.start with
            burn := some (r, s.nextSlot r, BitVec.ofNat 1432 new) } })) ∧
      (r < 6 → ∃ v, exec (.fuseRead path) s = .next v ∧ v.rdFld Reg.otpFuseStatus 7 4 = 0 ∧ Frame [.rf] s v ∧
        ∀ n, n < 32 → v.rd (Reg.otpStage n) = BitVec.ofNat 32 ((let x := (s.fuseInForce r).getD 0
                                                             if r = 0 then setFld x 390 135 0 else x) / 2 ^ (32 * n))))) ∧
  (∀ (r g : Nat) (x : BitVec 1432) (s : State), s.start.burn = some (r, g, x) → r < 6 → g < 4 →
    (∃ u, exec (.fuseProgramDone true) s = .next u ∧ u.start.burn = none ∧ u.rdFld Reg.otpFuseStatus 7 4 = 0 ∧
      u.rdBit Reg.otpEvent 4 = true ∧ u.fuseSlot r g = some { payload := x, checkOk := true } ∧ Frame [.rf, .start] s u) ∧
    (∃ u, exec (.fuseProgramDone false) s = .next u ∧ u.start.burn = none ∧ u.rdFld Reg.otpFuseStatus 7 4 = 6 ∧
      u.fuseSlot r g = some { payload := x, checkOk := false } ∧
      ∀ q h, q < 6 → h < 4 → (q ≠ r ∨ h ≠ g) → u.fuseSlot q h = s.fuseSlot q h))

/-- R370-R372: an image in memory that does not verify is refused with its code, one that does is programmed into the slot
that did not boot, its control block last; ACTIVATE of a staged image with the same links holds the partitions, the swap,
when all stand and the commands have completed, restarts one half and then the other, the release lets the partitions go
on; CANCEL before the swap drops it. -/
def Obligations.ImagesAreStagedAndActivated : Prop :=
  (∀ (path : Path) (s : State), Opens s path Reg.otpImgCmd →
    let g := s.start.image
    (g.busy = true → exec (.imageStage path) s = .next (s.setBit Reg.otpEvent 0) ∧
      exec (.imageActivate path) s = .next (s.setBit Reg.otpEvent 0)) ∧
    let v := s.meet 0 s.imageAddr 4096
    (g.busy = false → s.tenBytes 0 s.imageAddr 4096 = none → exec (.imageStage path) s = .next (v.imageResult 11)) ∧
    (∀ h, g.busy = false → s.tenBytes 0 s.imageAddr 4096 = some h →
      (v.highestValid 0 = none ∨ v.highestValid 3 = none → exec (.imageStage path) s = .next (v.imageResult 8)) ∧
      (v.highestValid 0 ≠ none → v.highestValid 3 ≠ none → headerOk h = false →
        exec (.imageStage path) s = .next (v.imageResult 2)) ∧
      (v.highestValid 0 ≠ none → v.highestValid 3 ≠ none → headerOk h = true →
        let n := max 4096 (leAt h 8 4)
        let w := v.meet 0 s.imageAddr n
        (v.tenBytes 0 s.imageAddr n = none → exec (.imageStage path) s = .next (w.imageResult 11)) ∧
        ∀ img, v.tenBytes 0 s.imageAddr n = some img →
          let c := imageCode (w.latestFuse 3) (fld (w.latestFuse 5) 15 0) img
          (c ≠ 0 → exec (.imageStage path) s = .next (w.imageResult c)) ∧
          (c = 0 → exec (.imageStage path) s = .next (w.modImage fun g => { g with busy := true, image := img })))) ∧
    (g.busy = false → g.staged = false → exec (.imageActivate path) s = .next (s.imageResult 9)) ∧
    (g.busy = false → g.staged = true → linksItem g.image ≠ s.start.boot.links →
      exec (.imageActivate path) s = .next (s.imageResult 10)) ∧
    (g.busy = false → g.staged = true → linksItem g.image = s.start.boot.links → g.pending = false →
      exec (.imageActivate path) s = .next ((s.modImage fun g => { g with pending := true, swapped := 0 }).imageResult
        0).holdIdle) ∧
    (g.pending = true → g.swapped = 0 → exec (.activateCancel path) s = .next
      (s.modImage fun g => { g with pending := false }).releaseActivation) ∧
    (g.pending = true → g.swapped ≠ 0 → exec (.activateCancel path) s = .next s)) ∧
  (∀ s : State, s.start.image.busy = true →
    let slot := !s.start.boot.slotB
    let v := (s.flashErase (slotBase slot) maxImage).modImage fun g => { g with busy := false }
    exec (.imageStageDone true) s = .next ((((v.flashWrite (slotBase slot) v.start.image.image).writeBcb slot true 0).modImage
      fun g => { g with staged := true, slotB := slot }).imageResult 0) ∧
    ∃ bytes : List Byte, bytes.length = 4096 ∧ exec (.imageStageDone false) s =
      .next ((v.fresh.2.flashWrite (slotBase slot) bytes).imageResult 12)) ∧
  (∀ s : State, s.start.image.pending = true → s.partList.all s.heldForActivation = true → s.quiesced = true →
    (s.start.image.swapped = 0 → exec .activationSwap s = .next (s.modImage fun g => { g with swapped := 1 })) ∧
    (s.start.image.swapped = 1 →
      let img := s.start.image.image
      let v := (s.modImage fun g => { g with swapped := 2 }).modBoot fun b => { b with
        fwver := BitVec.ofNat 64 (leAt img 0x10 8), svn := BitVec.ofNat 16 (leAt img 0xC 2),
        rver := BitVec.ofNat 4 (leAt img 0x18 1) }
      exec .activationSwap s = .next (if BitVec.ofNat 4 (leAt img 0x18 1) = s.start.boot.rver then v else v.fenceVersions))) ∧
  (∀ s : State, s.start.image.pending = true → s.start.image.swapped = 2 →
    ∃ u, exec .activationRelease s = .next u ∧ u.start.image.pending = false ∧ u.start.image.swapped = 0 ∧
      u.rdBit Reg.otpEvent 3 = true ∧ ∀ p, p < 8 → (u.part p).holdActivation = false)

/-- R387, R388, R392, R393, R398: a write of a register's fields. In operating mode an RW field takes its bits at once, an RWS
field only stages them; RSVL bits written as they read stand, others are flagged and take effect; no other bit changes. In
staging mode an enabled block's fields keep their value, and STAGED_IGN is flagged. (A register one of whose fields reads
0 as 1 is not of these.) -/
def Obligations.FieldWritesFollowTheMode : Prop :=
  ∀ (path : Path) (p : Nat) (b : Nat) (r : RegRow) (i : Nat) (v : Word) (s : State), Reg.find p = some (b, r, i) →
    (path.offsetOf p).isSome = true → s.absent b r i = false →
    p ∉ [Reg.shtSyncCfg, Reg.memScrubCfg, Reg.memCeThresh, Reg.chnTSched, Reg.mgtHaltCfg, Reg.mgtHbCfg, Reg.fltWdCfg] →
    (∀ q, q < 8 → p ≠ Reg.chnPsched q) →
    let w := (s.rd p &&& ~~~r.mask .rw) ||| (v &&& r.mask .rw)
    let e := s.flagErr path ((path.offsetOf p).getD 0) errStagedIgn
    (s.staging = false → (v ^^^ w) &&& r.mask .rsvl = 0 → ∃ u, s.writeFields path p v 0 = u ∧ Frame [.rf] s u ∧ u.rd p = w ∧
      (r.mask .rws ≠ 0 → Sparse.get none u.rf.staged p = some (v &&& r.mask .rws)) ∧
      ∀ q, q ≠ p → Sparse.get none u.rf.staged q = Sparse.get none s.rf.staged q) ∧
    (s.staging = false → (v ^^^ w) &&& r.mask .rsvl ≠ 0 → path.isVf = false → p ≠ Reg.glbErr →
      ∃ u, s.writeFields path p v 0 = u ∧ Frame [.rf, .port] s u ∧ u.rd p &&& r.mask .rsvl = v &&& r.mask .rsvl ∧
        u.rdBit Reg.glbErr errRsvl = true) ∧
    (s.staging = true → fixedBlock b = false → s.blockOn b = true → (r.mask .rw ||| r.mask .rws) ≠ 0 →
      (v ^^^ e.rd p) &&& r.mask .rsvl = 0 → s.writeFields path p v 0 = e)

/-- R382-R390, R398, Tables 17.2, 17.3: accesses. A write of an open path acts by its place; a narrow one of a register, and
one of no register, are flagged and write nothing. A full read answers the register and clears exactly the RC bits that it
answers, but over the debug path; a place without a register reads zero, flagged. An access past its bound reads all ones,
and is counted and flagged. Over the sideband a private write or read does the same. -/
def Obligations.AccessesActByPathAndPlace : Prop :=
  ∀ (path : Path) (offset : BitVec 29) (en : BitVec 4) (v : Word) (s : State), s.busOpen path = true →
    let off := offset.toNat / 4 * 4
    (s.crossingHeld path off = false → exec (.registerWrite path offset en v) s = .next (s.writeAccess path off en v)) ∧
    (s.crossingHeld path off = true → exec (.registerWrite path offset en v) s = .next s ∧
      exec (.rcRead path offset en) s = .next s) ∧
    (∀ p, path.place off = some p →
      (en = 0 → s.writeAccess path off en v = s ∧ s.readAccess path off en = (0, s)) ∧
      (areaOf (windowFn path).val p = .register →
        (en = 0xF → s.writeAccess path off en v = s.registerWrite path p v) ∧
        (en ≠ 0xF → en ≠ 0 → s.writeAccess path off en v = s.flagErr path off errNarrowWr)) ∧
      (areaOf (windowFn path).val p = .unmapped → en = 0xF →
        s.writeAccess path off en v = s.flagErr path off errUnmapped ∧
        s.readAccess path off en = (0, s.flagErr path off errUnmapped)) ∧
      (∀ b r i x, areaOf (windowFn path).val p = .register → en = 0xF → Reg.find p = some (b, r, i) →
        s.absent b r i = false → s.readValue path p = (x, s) → s.crossingHeld path off = false →
        exec (.rcRead path offset en) s = .next (State.emit (if path = .debug then s
          else s.wr p (s.rd p &&& ~~~(x &&& r.mask .rc))) (.readData path x)))) ∧
    (path ≠ .i3c → ∀ w, ∃ u, exec (.registerStallTimeout path offset w) s = .next u ∧ u.port.stalls = s.port.stalls + 1 ∧
      u.rdBit Reg.glbErr errStall = true ∧ u.out = s.out ++ (if w then [] else [.readData path 0xFFFFFFFF]) ∧
      Frame [.rf, .port, .out] s u) ∧
    (path = .i3c → s.mgt.i3cAddr.isSome = true → ∀ (o : BitVec 16) (data : List Byte), o.toNat % 4 = 0 →
      (data.length < 4 → exec (.i3cPrivateWrite o data) s = .next (s.setBit Reg.mgtEvent 7)) ∧
      (4 ≤ data.length → exec (.i3cPrivateWrite o data) s =
        .next (s.writeAccess .i3c o.toNat 0xF (BitVec.ofNat 32 (bytesToNat (data.take 4))))) ∧
      exec (.i3cPrivateRead o) s = .next ((s.readAccess .i3c o.toNat 0xF).2.emit
        (.i3cData (natToBytes 4 (s.readAccess .i3c o.toNat 0xF).1.toNat))))

/-- R388, R391-R395, R40: the registers of GLB and PWR. A strobe moves what is staged in the named blocks to pending;
PWR_APPLY is the power block's; under LOCK only the sideband changes ENV; a change of the staging mode is refused while
frames run or a block is off; blocks are enabled in staging mode alone. A mailbox takes one request, with its sample of
the GTC, and answers it. -/
def Obligations.GlobalRegistersAndMailboxes : Prop :=
  ∀ (path : Path) (v : Word) (s : State),
    (Opens s path Reg.glbStrobe → exec (.glbStrobe path v) s =
      .next ((s.writeFields path Reg.glbStrobe v 0).strobe (fld v.toNat 17 0))) ∧
    (Opens s path Reg.pwrCmd → exec (.pwrApply path) s = .next (s.strobe 2)) ∧
    (Opens s path Reg.pwrCfg →
      (path = .i3c → exec (.pwrCfgWrite path v) s = .next (s.writeFields path Reg.pwrCfg v 0)) ∧
      (path ≠ .i3c → s.rdBit Reg.pwrCfg 8 = false → exec (.pwrCfgWrite path v) s =
        .next (s.writeFields path Reg.pwrCfg v 0x100)) ∧
      (path ≠ .i3c → s.rdBit Reg.pwrCfg 8 = true → v &&& 0x1F ≠ s.view Reg.pwrCfg &&& 0x1F → exec (.pwrCfgWrite path v) s =
        .next ((s.flagErr path ((path.offsetOf Reg.pwrCfg).getD 0) errPwr).writeFields path Reg.pwrCfg v 0x11F))) ∧
    (Opens s path Reg.glbCtrl →
      (v.getLsbD 0 = s.staging → exec (.stagingWrite path v) s = .next (s.writeFields path Reg.glbCtrl v 0)) ∧
      (v.getLsbD 0 = true → s.staging = false → s.anyRunning = true → exec (.stagingWrite path v) s =
        .next ((s.flagErr path ((path.offsetOf Reg.glbCtrl).getD 0) errMode).writeFields path Reg.glbCtrl v 1)) ∧
      (v.getLsbD 0 = true → s.anyRunning = false → exec (.stagingWrite path v) s =
        .next (s.writeFields path Reg.glbCtrl v 0))) ∧
    (Opens s path Reg.glbBlkEn →
      (s.staging = false → exec (.blockEnableWrite path v) s = .next ((s.flagErr path ((path.offsetOf Reg.glbBlkEn).getD 0)
        errMode).writeFields path Reg.glbBlkEn v 0x3FFFF)) ∧
      (s.staging = true → exec (.blockEnableWrite path v) s = .next ((s.writeFields path Reg.glbBlkEn (v ||| 0x2081F)
        0).blocksChanged (s.rd Reg.glbBlkEn).toNat))) ∧
    (Opens s path Reg.glbMbxReq →
      let w := s.writeFields path Reg.glbMbxReq v 0
      (Sparse.get none s.port.mbx 0 = none → ∃ u, exec (.mbxRequest path .glb v) s = .next u ∧
        Sparse.get none u.port.mbx 0 = some { sel := v.extractLsb' 0 16, write := v.getLsbD 16, sample := s.now } ∧
        u.rdFld (Reg.glbMbxReq + 4) 1 0 = 2) ∧
      (∀ q, Sparse.get none s.port.mbx 0 = some q → exec (.mbxRequest path .glb v) s =
        .next (w.flagErr path ((path.offsetOf Reg.glbMbxReq).getD 0) errMbx))) ∧
    (∀ q, Sparse.get none s.port.mbx 0 = some q → s.flt.ctlReset = false →
      let a := s.fresh.2.mbxAnswer .glb q s.fresh.1
      ∃ u, exec (.mbxServe .glb) s = .next u ∧ Sparse.get none u.port.mbx 0 = none ∧
        u.rdFld (Reg.glbMbxReq + 4) 1 0 = 1 ∧ u.rdFld (Reg.glbMbxReq + 4) 31 16 = q.sel.toNat ∧
        u.rd (Reg.glbMbxReq + 8) = BitVec.ofNat 32 a.2 ∧ u.rd (Reg.glbMbxReq + 12) = BitVec.ofNat 32 (a.2 / 2 ^ 32) ∧
        Frame [.rf, .port, .freeCount] s u)

/-- R381, R403-R409, R412, and for the layout of DMI log 77 (the model's choice): a counter clear zeroes one counter; the
characters of the console pass through its two FIFOs in order; a scan instruction shifts out its register and says what
the pins carry; the halts of a tile are the debug path's alone; DTMCS and DMI act as BYPASS under the lock; else DMI reads
and writes the debug module, whose halt requests halt a hart and whose system bus writes registers. -/
def Obligations.CountersConsoleScanAndDebug : Prop :=
  ((∀ (path : Path) (c : Fin 712) (s : State), Opens s path (pmcCfgPlace c.val) → exec (.counterClear path c) s =
     .next { s with dbg := { s.dbg with pmc := Sparse.set 0 s.dbg.pmc c.val 0 } }) ∧
   (∀ (t : Fin 64) (s : State),
     (∀ (path : Path) (en : Bool), Opens s path (Reg.pmcTdbg t.val) → path ≠ .debug →
       exec (.brkEnWrite path t en) s = .next (s.setBit Reg.pmcEvent 2) ∧
       exec (.tileDebugHalt path t) s = .next (s.setBit Reg.pmcEvent 2) ∧
       exec (.tileDebugResume path t) s = .next (s.setBit Reg.pmcEvent 2) ∧
       exec (.tileDebugStep path t) s = .next (s.setBit Reg.pmcEvent 2)) ∧
     (Opens s .debug (Reg.pmcTdbg t.val) →
       (∀ en, exec (.brkEnWrite .debug t en) s = .next (s.writeFields .debug (Reg.pmcTdbg t.val)
         ((s.rd (Reg.pmcTdbg t.val) &&& ~~~1) ||| BitVec.ofNat 32 (b2n en)) 0)) ∧
       exec (.tileDebugHalt .debug t) s = .next (s.modTile t.val fun x => { x with debugHalted := true, debugStep := false }) ∧
       ((s.tile t.val).debugHalted = true →
         (∃ u, exec (.tileDebugResume .debug t) s = .next u ∧
           u.tile t.val = { s.tile t.val with debugHalted := false, debugStep := false, debugPass := true }) ∧
         ∃ u, exec (.tileDebugStep .debug t) s = .next u ∧
           u.tile t.val = { s.tile t.val with debugHalted := false, debugStep := true, debugPass := true }))) ∧
   (∀ (data : Byte) (s : State), s.pkg.heldBy = none → s.blockOn 16 = true →
     (s.dbg.rxFifo.length < 64 → exec (.uartRxChar data true) s =
       .next { s with dbg := { s.dbg with rxFifo := s.dbg.rxFifo ++ [data] } }) ∧
     (64 ≤ s.dbg.rxFifo.length → exec (.uartRxChar data true) s = .next (s.setBit Reg.uarErr 1)) ∧
     exec (.uartRxChar 0 false) s = .next (s.setBit Reg.uarErr 2) ∧
     (∀ l, s.dbg.txFifo = data :: l → exec .uartTxChar s =
       .next (({ s with dbg := { s.dbg with txFifo := l } } : State).emit (.console data)))) ∧
   (∀ (n : Fin 32) (data : Byte) (s : State), Opens s (.core n) Reg.uarTx → s.dbg.txFifo.length < 64 →
     exec (.uartTxWrite (.core n) data) s = .next { s with dbg := { s.dbg with txFifo := s.dbg.txFifo ++ [data] } }) ∧
   (∀ (n : Fin 32) (s : State), Opens s (.core n) Reg.uarRx → ∃ u, exec (.uartRxRead (.core n)) s = .next u ∧
     u.dbg.rxFifo = s.dbg.rxFifo.drop 1 ∧ u.out = s.out ++ [.readData (.core n) (s.view Reg.uarRx)] ∧ Frame [.dbg, .out] s u) ∧
   (∀ s : State,
     let sel := fun (ir : Byte) => { s.dbg.jtag with ir := ir, driven := false, clamped := false, highz := false }
     let after := fun (j : Jtag) (bits : List (List Bool)) =>
       ({ s with dbg := { s.dbg with jtag := j }, out := s.out ++ bits.map .jtag } : State)
     exec .idcode s = .next (after (sel 0x01) [bitsOf 32 (packFields [(0, 1, 1), (1, 11, s.mfrId), (12, 16, 0x4D56),
       (28, 4, s.rev)])]) ∧
     (∀ pins pre, exec (.samplePreload pins pre) s = .next (after { sel 0x02 with cells := pins, preload := pre } [pins])) ∧
     exec .extest s = .next (after { sel 0x03 with driven := true } []) ∧
     exec .clamp s = .next (after { sel 0x04 with clamped := true } []) ∧
     exec .highz s = .next (after { sel 0x05 with highz := true } []) ∧
     exec .bypass s = .next (after (sel 0xFF) [[false]]) ∧
     (s.debugLock = true → exec .dtmcs s = .next (after (sel 0xFF) [[false]]) ∧
       ∀ a, exec (.dmi a) s = .next (after (sel 0xFF) [[false]])) ∧
     (s.debugLock = false → ∃ idle, exec .dtmcs s = .next (after (sel 0x10) [bitsOf 32 (packFields [(0, 4, 1), (4, 6, 7),
       (12, 3, idle)])])))) ∧
  (∀ s : State, s.debugLock = false →
     let u := (s.modJtag (·.select 0x11)).emit (.dmi s.dbg.dm.readback)
     (∀ a : DmiAccess, a.op = 1 → exec (.dmi a) s = .next ((u.dmiRead a.addr.toNat).2.modDm' fun d =>
       { d with readback := (u.dmiRead a.addr.toNat).1 })) ∧
     (∀ a : DmiAccess, a.op = 2 → exec (.dmi a) s = .next (u.dmiWrite a.addr.toNat a.data)) ∧
     (∀ a : DmiAccess, a.op ≠ 1 → a.op ≠ 2 → exec (.dmi a) s = .next u) ∧
     (∀ w : Word, w.getLsbD 0 = false → (s.dmiWrite 0x10 w).dbg.dm = DebugModule.reset) ∧
     (∀ (h : Nat) (w : Word), w.getLsbD 0 = true → w.getLsbD 31 = true →
       fld w.toNat 25 16 = h → fld w.toNat 15 6 = 0 → h < 32 → h ∈ (s.dmiWrite 0x10 w).dbg.dm.halted) ∧
     (∀ (da : Nat) (w : Word), inRegSpace da = true →
       s.busWrite da 4 w.toNat = (true, s.writeAccess .debug (regOffset da) 0xF w)))

/-- R425-R428, R351, Table 19.7: the thermal sensors. A sample below every trip stores its readings and counts the time below
release; one at a trip sets every partition to at most 1,200 MHz, flags and warns; a critical one holds the chip in reset
with THERM_N low; 100 ms below release the partitions without frames return. -/
def Obligations.ThermalSensorsTripAndRelease : Prop :=
  (∀ (die iod hbm oe : List (BitVec 8)) (s : State), s.pkg.heldBy = none →
    let t := { s.pkg.thermal with die := die, iod := iod, hbm := hbm, oe := oe }
    let tripped := t.readings.any fun e => decide (e.2.1 ≤ e.1)
    let cool := t.readings.all fun e => decide (e.1 < e.2.2.1)
    let critical := t.readings.any fun e => decide (e.2.2.2 ≤ e.1)
    let v : State := { s with pkg := { s.pkg with thermal := { t with
      belowSince := if cool then some (t.belowSince.getD s.now) else none
      returning := if tripped then [] else t.returning } } }
    (tripped = false → critical = false → exec (.thermalSample die iod hbm oe) s = .next v.showTemp) ∧
    (tripped = true → critical = false → v.throttled = false →
      exec (.thermalSample die iod hbm oe) s = .next v.showTemp.thermalTrip) ∧
    (critical = true → v.throttled = true → ∃ u, exec (.thermalSample die iod hbm oe) s = .next u ∧
      u.pkg.thermN = false ∧ u.pkg.heldBy = some .critical)) ∧
  (∀ s : State, (s.thermalTrip).pkg.thermal.trips = s.pkg.thermal.trips + 1 ∧ s.thermalTrip.rdBit Reg.pwrStatus 9 = true ∧
    ∀ p, p < 8 → s.thermalTrip.rdFld (Reg.pwrTclkAct p) 11 0 ≤ 1200 ∧ s.thermalTrip.rdBit (Reg.pwrTclkAct p) 17 = true) ∧
  (∀ (t : Dword) (s : State), s.pkg.heldBy = none → s.pkg.thermal.belowSince = some t → s.throttled = true →
    let v := s.reach (t.toNat + 100000000)
    let ps := (List.range 8).filter fun p => s.rdBit (Reg.pwrTclkAct p) 17
    exec .thermalRelease s = .next ((ps.filter fun p => !(s.part p).running).foldl State.thermalReturn
      { v with pkg := { v.pkg with thermal := { v.pkg.thermal with returning := ps } } }))

/-- The queue (the model's, log 1), and R23 of the slew: a step takes the command at the front of the queue and runs it on the
state with the rest; with none waiting, a chip that is not held counts one nanosecond of domain time, more or less by one
count in 20,000 of an offset that is slewed away, and changes nothing else. -/
def Obligations.StepRunsTheFrontCommand : Prop :=
  (∀ (c : Instr) (q : List Instr) (s : State), s.pending = c :: q → step s = exec c { s with pending := q }) ∧
  (∀ s : State, s.pending = [] → s.pkg.heldBy = none →
    (s.clock.slewLeft = 0 → ∃ a, step s = .next { s with clock := { s.clock with gtc := s.clock.gtc + 1, slewAcc := a } }) ∧
    ∃ (left : Int) (a : Nat), step s = .next { s with clock := { s.clock with
        gtc := s.clock.gtc + 1 + BitVec.ofInt 64 (s.clock.slewLeft - left), slewLeft := left, slewAcc := a } } ∧
      (left - s.clock.slewLeft).natAbs ≤ (s.clock.slewAcc + 1) / 20000 ∧ a < 20000 ∧ left.natAbs ≤ s.clock.slewLeft.natAbs) ∧
  (∀ s : State, s.pending = [] → s.pkg.heldBy ≠ none → step s = .next s)

/-- R342, R361, R21, R250, Table 10.6, and where those state no value, logs 2 to 19: right after reset the chip is held by
RESET_N, nothing runs or waits, domain time is zero, every register is at the reset value of its table, every channel FREE
with GEN 0, the queue empty, and every memory in its canonical form. -/
def Obligations.ResetIsHeldEmptyAndCanonical : Prop :=
  Canonical State.reset = true ∧ State.reset.pkg.heldBy = some .resetN ∧ State.reset.pending = [] ∧ State.reset.clock.gtc = 0 ∧
    State.reset.anyRunning = false ∧ State.reset.start.boot.firmware = false ∧ State.reset.flt.run = none ∧
    (∀ p, State.reset.rd p = Reg.resetValue p) ∧
    (∀ ch, chState (State.reset.chEntry ch) = 0 ∧ cGen (State.reset.chEntry ch) = 0) ∧
    (∀ t, State.reset.tile t = Tile.reset) ∧ (∀ p, State.reset.part p = Part.reset)

/-- The canonical form is an invariant: whatever command is at the front of the queue, and in whatever state, a step of a
canonical state answers a canonical state. -/
def Obligations.StepKeepsTheCanonicalForm : Prop :=
  ∀ s : State, Canonical s = true → ∃ t, step s = .next t ∧ Canonical t = true

/-- The frame of every command: it answers a state, which differs only in the components that `touched` names for its row; the
queue is in none of them. -/
def Obligations.CommandsTouchOnlyTheirComponents : Prop :=
  ∀ (c : Instr) (s : State), ∃ t, exec c s = .next t ∧ Frame (touched c) s t

/-- R259. A FLUSH in execution, whatever its ORDER flag, completes when no command fetched before it is left, not before, and
no command fetched after it may start until then. -/
def Obligations.FlushWaitsForEarlierCommands : Prop :=
  ∀ (ch : Fin 262144) (index : Word) (c : ExecCmd) (s : State), InExecution s ch.val index 0x01 c →
    (s.earlier c = [] → exec (.flushDone ch index) s = .next (s.complete ch.val index stOk 0 0).retryBells) ∧
    (s.earlier c ≠ [] → exec (.flushDone ch index) s = .next s) ∧
    (∀ d : ExecCmd, c ∈ s.earlier d → s.mayStart d = false ∧ ∀ opc f, s.cmd d.chan d.index = some d →
      s.runCmd d.chan d.index opc f = s)

/-- R339. The channel that its watchdog stops keeps its commands and indices, and a resume through a window takes it up again
with them; every other channel keeps its entry and commands, and every partition its job. -/
def Obligations.StoppedChannelKeepsItsCommands : Prop :=
  ∀ (ch : Fin 262144) (s : State), s.pkg.heldBy = none → s.rdFld Reg.fltWdCfg 19 8 ≠ 0 → chState (s.chEntry ch.val) = 1 →
    cSqHead (s.chEntry ch.val) ≠ cSqTail (s.chEntry ch.val) →
    let kept := fun (u : State) => u.cmdsOf ch.val = s.cmdsOf ch.val ∧ cSqHead (u.chEntry ch.val) = cSqHead (s.chEntry ch.val) ∧
      cSqTail (u.chEntry ch.val) = cSqTail (s.chEntry ch.val) ∧ cCqHead (u.chEntry ch.val) = cCqHead (s.chEntry ch.val) ∧
      cCqTail (u.chEntry ch.val) = cCqTail (s.chEntry ch.val) ∧
      ∀ k, k ≠ ch.val → u.chEntry k = s.chEntry k ∧ u.cmdsOf k = s.cmdsOf k
    ∃ u, exec (.channelWatchdog ch) s = .next u ∧ chState (u.chEntry ch.val) = 2 ∧ kept u ∧ u.parts = s.parts ∧
      u.tiles = s.tiles ∧
      ∀ path, Opens u path (Reg.tenCwCmd (tenWindow path)) → u.rdBit (Reg.tenCwStatus (tenWindow path)) 0 = false →
        u.fenced = false → (u.cwTarget path).2 < (u.tenant (u.cwTarget path).1).chCnt →
        (u.tenant (u.cwTarget path).1).chBase + (u.cwTarget path).2 = ch.val →
        ∃ t, exec (.cwResume path) u = .next t ∧ chState (t.chEntry ch.val) = 1 ∧ kept t

/-- R250. Generations compare by serial numbers of 16 bits: a create whose EXPECT_GEN is newer than the entry's, by up to
32,767, is refused as BAD_FIELD, an older one, and one that is exactly 32,768 away, as STALE_GEN; after a whole-device
reset every entry is FREE with GEN 0. -/
def Obligations.GenerationsCompareSerially : Prop :=
  (∀ (path : Path) (s : State), Opens s path (Reg.tenCwCmd (tenWindow path)) →
    s.rdBit (Reg.tenCwStatus (tenWindow path)) 0 = false →
    (s.cwTarget path).2 < (s.tenant (s.cwTarget path).1).chCnt →
    let e := s.chEntry ((s.tenant (s.cwTarget path).1).chBase + (s.cwTarget path).2)
    let a := fld (s.staged (Reg.tenCwData (tenWindow path) 0) 12) 47 32
    let d := ((a : Int) - (cGen e : Int)) % 65536
    (0 < d → d ≤ 32767 → exec (.cwCreate path) s = .next (s.cwResult (tenWindow path) 3 4 (cGen e))) ∧
    (32769 ≤ d → exec (.cwCreate path) s = .next (s.cwResult (tenWindow path) 2 4 (cGen e))) ∧
    (d = 32768 → exec (.cwCreate path) s = .next (s.cwResult (tenWindow path) 2 4 (cGen e)))) ∧
  (∀ (h : Option HeldBy) (ch : Nat) (s : State), chState ((s.deviceReset h).chEntry ch) = 0 ∧
    cGen ((s.deviceReset h).chEntry ch) = 0)

/-- R63. A layout is valid exactly when bit 0 is set and, of every partition, begun at bit i and run to the next set bit j or
to bit 8, the size j − i is 1, 2, 4 or 8 and divides i; under it partition i holds the logical tiles 8i to 8j − 1. -/
def Obligations.PartitionLayoutsAreValid : Prop :=
  (∀ start : Nat, start < 256 → (layoutValid start = true ↔ bitOf start 0 = true ∧
    ∀ i j : Nat, i < j → j ≤ 8 → bitOf start i = true → (j < 8 → bitOf start j = true) →
      (∀ k, i < k → k < j → bitOf start k = false) → (j - i = 1 ∨ j - i = 2 ∨ j - i = 4 ∨ j - i = 8) ∧ (j - i) ∣ i)) ∧
  (∀ (s : State) (i j : Nat), i < j → j ≤ 8 → bitOf s.layout i = true → (j < 8 → bitOf s.layout j = true) →
    (∀ k, i < k → k < j → bitOf s.layout k = false) → s.partTiles i = (List.range (8 * (j - i))).map (8 * i + ·))
end

