-- ==== Sys2Proof/Laws/Operations.lean ====
section
/-!
SUPPORT. What the operations that all commands go through answer where nothing stops them: an access over an open path, a
fetched command that may start, a bundle that issues.
-/

-- One declaration after another: the package as one text then needs few threads at a time.
set_option Elab.async false

namespace Sys2Proof.Machine

open Sys2Proof.Safety

/-- An access over an open path that reaches the register acts. -/
theorem State.via_open {s : State} {path : Path} {p : Nat} (h : Opens s path p) (f : State → State) :
    s.via path p f = f s := by
  unfold State.via
  rw [h.up, h.holds]
  rfl

/-- A path that is not open, or does not reach the register, leaves the state. -/
theorem State.via_shut {s : State} {path : Path} {p : Nat} (h : ¬ Opens s path p) (f : State → State) :
    s.via path p f = s := by
  unfold State.via
  split
  · next c => simp only [Bool.and_eq_true] at c; exact absurd ⟨c.1, c.2⟩ h
  · rfl

/-- A fetched command that may start runs on the state in which it has started. -/
theorem State.runCmd_starts {s : State} {ch : Nat} {index : Word} {opc : Nat} {c : ExecCmd} (h : Starts s ch index opc c)
    (f : ExecCmd → State → State) : s.runCmd ch index opc f = f c (begun s c) := by
  unfold State.runCmd
  rw [h.fetched]
  simp only [h.opcode, h.may, h.clean, bne_self_eq_false, Bool.not_true, Bool.or_self]
  rfl

/-- A command is listed under its channel and index. -/
theorem State.cmd_names {s : State} {ch : Nat} {index : Word} {c : ExecCmd} (h : s.cmd ch index = some c) :
    c.chan = ch ∧ c.index = index := by
  unfold State.cmd at h
  simpa using List.find?_some h

/-- A bundle that a line gives carries no memory errors of the cells. -/
theorem Tile.plain_of_bundleAt {x : Tile} {pc : Word} {b : Bundle} (h : x.bundleAt pc = some b) :
    plainBundle b = b ∧ b.errs = [] := by
  unfold Tile.bundleAt at h
  cases hh : Sparse.find x.lines (pc.toNat / 8) with
  | none => simp [hh] at h
  | some l => simp [hh] at h; subst h; exact ⟨rfl, rfl⟩

/-- A bundle that issues takes its four slots and moves on. -/
theorem State.issue_issues {s : State} {t : Nat} {b : Bundle} (h : Issues s t b) : s.issue t b = issued s t b := by
  obtain ⟨p1, p2⟩ := Tile.plain_of_bundleAt h.here
  unfold State.issue
  simp only [h.can, p1, h.here, p2, State.inject]
  have r := h.runs
  rw [if_neg (by simp), if_neg (by simpa using r), if_neg (by simp [h.legal]), if_neg (by simp [h.apart]),
    if_neg (by simp [h.free])]
  have e : (if (s.tile t).fence.isSome then { s.tile t with fence := none } else s.tile t) = unfenced (s.tile t) := by
    cases hf : (s.tile t).fence with
    | none => simp [unfenced, ← hf]
    | some f => simp [unfenced]
  rw [e]
  have c := h.checked
  unfold unfenced at c
  simp only [unfenced, c]
  rfl

end Sys2Proof.Machine
end

