-- ==== Sys2Proof/Laws/Sparse.lean ====
section
/-!
SUPPORT. The laws of finite maps: what a read gives after each kind of write, and that each write keeps the canonical
form.
-/

-- One declaration after another: the package as one text then needs few threads at a time.
set_option Elab.async false

namespace Sys2Proof.Machine

variable {α : Type}

/-- The canonical form, as a list is: keys strictly rising, no entry at the default. -/
theorem Sparse.wf_iff [DecidableEq α] (d : Nat → α) (m : Sparse α) :
    Sparse.wf d m = true ↔ m.Pairwise (fun a b => a.1 < b.1) ∧ ∀ e ∈ m, e.2 ≠ d e.1 := by
  have key : ∀ (m : Sparse α) (lo : Option Nat), Sparse.wfFrom d lo m = true ↔
      (∀ l, lo = some l → ∀ e ∈ m, l < e.1) ∧ m.Pairwise (fun a b => a.1 < b.1) ∧ ∀ e ∈ m, e.2 ≠ d e.1 := by
    intro m
    induction m with
    | nil => intro lo; simp [Sparse.wfFrom]
    | cons e m ih =>
      obtain ⟨k, v⟩ := e
      intro lo
      simp only [Sparse.wfFrom, Bool.and_eq_true, Bool.not_eq_true', decide_eq_false_iff_not, ih, List.pairwise_cons,
        List.mem_cons, forall_eq_or_imp]
      constructor
      · rintro ⟨⟨h1, h2⟩, h3, h4, h5⟩
        refine ⟨?_, ⟨h3 k rfl, h4⟩, h2, h5⟩
        rintro l rfl
        have : l < k := by simpa using h1
        exact ⟨this, fun e he => Nat.lt_trans this (h3 k rfl e he)⟩
      · rintro ⟨h1, ⟨h2, h3⟩, h4, h5⟩
        refine ⟨⟨?_, h4⟩, ?_, h3, h5⟩
        · cases lo with
          | none => rfl
          | some l => simpa using (h1 l rfl).1
        · rintro l hl
          cases hl
          exact h2
  have := key m none
  simpa [Sparse.wf] using this

theorem Sparse.wf_nil [DecidableEq α] (d : Nat → α) : Sparse.wf d ([] : Sparse α) = true := rfl

/-- Taking entries out keeps the form. -/
theorem Sparse.wf_filter [DecidableEq α] {d : Nat → α} {m : Sparse α} (p : Nat × α → Bool) (h : Sparse.wf d m = true) :
    Sparse.wf d (m.filter p : Sparse α) = true := by
  rw [Sparse.wf_iff] at h ⊢
  exact ⟨h.1.filter _, fun e he => h.2 e (List.mem_filter.1 he).1⟩

theorem Sparse.wf_drop [DecidableEq α] {d : Nat → α} {m : Sparse α} (i : Nat) (h : Sparse.wf d m = true) :
    Sparse.wf d (Sparse.drop m i) = true := Sparse.wf_filter _ h

theorem Sparse.wf_clear [DecidableEq α] {d : Nat → α} {m : Sparse α} (i n : Nat) (h : Sparse.wf d m = true) :
    Sparse.wf d (Sparse.clear m i n) = true := Sparse.wf_filter _ h

theorem Sparse.mem_put {m : Sparse α} {i : Nat} {v : α} {e : Nat × α} (h : e ∈ Sparse.put m i v) :
    e = (i, v) ∨ e ∈ m := by
  induction m with
  | nil => simpa [Sparse.put] using h
  | cons a m ih =>
    obtain ⟨k, w⟩ := a
    simp only [Sparse.put] at h
    split at h
    · simpa using h
    · split at h
      · rename_i hk
        rcases List.mem_cons.1 h with h | h
        · left; rw [h, hk]
        · right; exact List.mem_cons_of_mem _ h
      · rcases List.mem_cons.1 h with h | h
        · right; rw [h]; exact List.mem_cons_self
        · rcases ih h with h | h
          · exact .inl h
          · right; exact List.mem_cons_of_mem _ h

theorem Sparse.pairwise_put {m : Sparse α} (i : Nat) (v : α) (h : m.Pairwise (fun a b => a.1 < b.1)) :
    (Sparse.put m i v).Pairwise (fun a b => a.1 < b.1) := by
  induction m with
  | nil => simp [Sparse.put]
  | cons a m ih =>
    obtain ⟨k, w⟩ := a
    rw [List.pairwise_cons] at h
    simp only [Sparse.put]
    split
    · rename_i hi
      refine List.pairwise_cons.2 ⟨?_, List.pairwise_cons.2 h⟩
      intro e he
      rcases List.mem_cons.1 he with rfl | he
      · exact hi
      · exact Nat.lt_trans hi (h.1 e he)
    · split
      · exact List.pairwise_cons.2 ⟨fun e he => h.1 e he, h.2⟩
      · rename_i h1 h2
        refine List.pairwise_cons.2 ⟨fun e he => ?_, ih h.2⟩
        rcases Sparse.mem_put he with rfl | he
        · show k < i; omega
        · exact h.1 e he

theorem Sparse.wf_put [DecidableEq α] {d : Nat → α} {m : Sparse α} (i : Nat) (v : α) (hv : v ≠ d i)
    (h : Sparse.wf d m = true) : Sparse.wf d (Sparse.put m i v) = true := by
  rw [Sparse.wf_iff] at h ⊢
  refine ⟨Sparse.pairwise_put i v h.1, fun e he => ?_⟩
  rcases Sparse.mem_put he with rfl | he
  · exact hv
  · exact h.2 e he

/-- A write keeps the form. -/
theorem Sparse.wf_set [DecidableEq α] {d : Nat → α} {m : Sparse α} (i : Nat) (v : α) (h : Sparse.wf d m = true) :
    Sparse.wf d (Sparse.set (d i) m i v) = true := by
  unfold Sparse.set
  split
  · exact Sparse.wf_drop i h
  · exact Sparse.wf_put i v (by assumption) h

theorem Sparse.wf_setC [DecidableEq α] {d : α} {m : Sparse α} (i : Nat) (v : α)
    (h : Sparse.wf (fun _ => d) m = true) : Sparse.wf (fun _ => d) (Sparse.set d m i v) = true :=
  Sparse.wf_set (d := fun _ => d) i v h

theorem Sparse.wf_update [DecidableEq α] {d : α} {m : Sparse α} (i : Nat) (f : α → α)
    (h : Sparse.wf (fun _ => d) m = true) : Sparse.wf (fun _ => d) (Sparse.update d m i f) = true :=
  Sparse.wf_setC i _ h

theorem Sparse.wf_setRange [DecidableEq α] {d : α} (l : List α) : ∀ {m : Sparse α} (i : Nat),
    Sparse.wf (fun _ => d) m = true → Sparse.wf (fun _ => d) (Sparse.setRange d m i l) = true := by
  induction l with
  | nil => intro m i h; exact h
  | cons v l ih => intro m i h; exact ih (i + 1) (Sparse.wf_setC i v h)

theorem Sparse.wf_splice [DecidableEq α] {d : α} {m : Sparse α} (lo n : Nat) (f : Nat → α)
    (h : Sparse.wf (fun _ => d) m = true) : Sparse.wf (fun _ => d) (Sparse.splice d m lo n f) = true := by
  have h1 := (Sparse.wf_iff _ _).1 h
  have hr : ((List.range n).map fun i => (lo + i, f i)).Pairwise (fun a b => a.1 < b.1) := by
    rw [List.pairwise_map]
    exact List.pairwise_lt_range.imp (fun h => by simpa using h)
  rw [Sparse.wf_iff, Sparse.splice]
  constructor
  · rw [List.append_assoc, List.pairwise_append, List.pairwise_append]
    refine ⟨h1.1.filter _, ⟨hr.filter _, h1.1.filter _, ?_⟩, ?_⟩
    · intro a ha b hb
      simp only [List.mem_filter, List.mem_map, List.mem_range] at ha hb
      obtain ⟨⟨j, hj, rfl⟩, _⟩ := ha
      have := of_decide_eq_true hb.2
      show lo + j < b.1
      omega
    · intro a ha b hb
      simp only [List.mem_append, List.mem_filter, List.mem_map, List.mem_range, decide_eq_true_eq] at ha hb
      rcases hb with ⟨⟨j, hj, rfl⟩, _⟩ | hb
      · show a.1 < lo + j; omega
      · omega
  · intro e he
    simp only [List.mem_append, List.mem_filter, Bool.not_eq_true', decide_eq_false_iff_not] at he
    rcases he with (he | he) | he
    · exact h1.2 e he.1
    · exact he.2
    · exact h1.2 e he.1

/-! ### Reads after writes -/

theorem Sparse.find_put (m : Sparse α) (i j : Nat) (v : α) :
    Sparse.find (Sparse.put m i v) j = if j = i then some v else Sparse.find m j := by
  induction m with
  | nil => simp [Sparse.put, Sparse.find]
  | cons a m ih =>
    obtain ⟨k, w⟩ := a
    simp only [Sparse.put]
    split
    · simp [Sparse.find]
    · split
      · rename_i h
        subst h
        simp only [Sparse.find]
        split <;> rfl
      · simp only [Sparse.find, ih]
        rename_i h1 h2
        split
        · rename_i h; subst h; rw [if_neg (fun h => h2 h.symm)]
        · rfl

theorem Sparse.find_filter_ne (m : Sparse α) (p : Nat → Bool) (j : Nat) :
    Sparse.find (m.filter fun e => p e.1) j = if p j then Sparse.find m j else none := by
  induction m with
  | nil => simp [Sparse.find]
  | cons a m ih =>
    obtain ⟨k, w⟩ := a
    by_cases hk : p k
    · simp only [List.filter, hk, Sparse.find, ih]
      split
      · rename_i h; subst h; simp [hk]
      · rfl
    · simp only [List.filter, hk, Sparse.find, ih]
      split
      · split
        · rename_i h1 h2; subst h2; simp [h1] at hk
        · rfl
      · rfl

theorem Sparse.find_drop (m : Sparse α) (i j : Nat) :
    Sparse.find (Sparse.drop m i) j = if j = i then none else Sparse.find m j := by
  unfold Sparse.drop
  rw [Sparse.find_filter_ne m (fun k => k != i) j]
  by_cases h : j = i <;> simp [h]

/-- A read after a write: the value written, and every other key as before. -/
theorem Sparse.find_set_ne [DecidableEq α] (d : α) (m : Sparse α) {i j : Nat} (v : α) (h : j ≠ i) :
    Sparse.find (Sparse.set d m i v) j = Sparse.find m j := by
  unfold Sparse.set
  split
  · rw [Sparse.find_drop, if_neg h]
  · rw [Sparse.find_put, if_neg h]

@[simp] theorem Sparse.get_set [DecidableEq α] (d : α) (m : Sparse α) (i j : Nat) (v : α) :
    Sparse.get d (Sparse.set d m i v) j = if j = i then v else Sparse.get d m j := by
  unfold Sparse.get Sparse.set
  by_cases hv : v = d
  · rw [if_pos hv, Sparse.find_drop]
    by_cases h : j = i <;> simp [h, hv]
  · rw [if_neg hv, Sparse.find_put]
    by_cases h : j = i <;> simp [h]

@[simp] theorem Sparse.get_nil (d : α) (j : Nat) : Sparse.get d [] j = d := rfl

@[simp] theorem Sparse.get_update [DecidableEq α] (d : α) (m : Sparse α) (i j : Nat) (f : α → α) :
    Sparse.get d (Sparse.update d m i f) j = if j = i then f (Sparse.get d m i) else Sparse.get d m j := by
  simp [Sparse.update]

@[simp] theorem Sparse.get_clear (d : α) (m : Sparse α) (i n j : Nat) :
    Sparse.get d (Sparse.clear m i n) j = if i ≤ j ∧ j < i + n then d else Sparse.get d m j := by
  unfold Sparse.get Sparse.clear
  rw [Sparse.find_filter_ne m (fun k => !(decide (i ≤ k) && decide (k < i + n))) j]
  by_cases h : i ≤ j ∧ j < i + n
  · simp [h]
  · rw [if_neg h, if_pos]
    simp only [Bool.not_eq_true', Bool.and_eq_false_iff, decide_eq_false_iff_not]
    omega

theorem Sparse.find_append (m n : Sparse α) (j : Nat) :
    Sparse.find (m ++ n) j = (Sparse.find m j).or (Sparse.find n j) := by
  induction m with
  | nil => simp [Sparse.find]
  | cons a m ih =>
    obtain ⟨k, w⟩ := a
    simp only [List.cons_append, Sparse.find, ih]
    split <;> simp

/-- A read after the write of a range. -/
@[simp] theorem Sparse.get_splice [DecidableEq α] (d : α) (m : Sparse α) (lo n : Nat) (f : Nat → α) (j : Nat) :
    Sparse.get d (Sparse.splice d m lo n f) j = if lo ≤ j ∧ j < lo + n then f (j - lo) else Sparse.get d m j := by
  have mid : ∀ n, Sparse.find (((List.range n).map fun i => (lo + i, f i)).filter fun e => !decide (e.2 = d)) j
      = if lo ≤ j ∧ j < lo + n ∧ f (j - lo) ≠ d then some (f (j - lo)) else none := by
    intro n
    induction n with
    | zero =>
      rw [if_neg (by omega)]
      rfl
    | succ n ih =>
      rw [List.range_succ, List.map_append, List.filter_append]
      refine (Sparse.find_append _ _ j).trans ?_
      rw [ih]
      by_cases hj : j = lo + n
      · subst hj
        have e : lo + n - lo = n := by omega
        rw [if_neg (by omega), e]
        by_cases hf : f n = d
        · simp [hf, Sparse.find]
        · rw [if_pos ⟨by omega, by omega, hf⟩]
          simp [hf, Sparse.find]
      · have t : Sparse.find ((List.map (fun i => (lo + i, f i)) [n]).filter fun e => !decide (e.2 = d)) j = none := by
          by_cases hf : f n = d
          · simp [hf, Sparse.find]
          · simp [hf, Sparse.find, hj]
        rw [t, Option.or_none]
        by_cases h : lo ≤ j ∧ j < lo + n ∧ f (j - lo) ≠ d
        · rw [if_pos h, if_pos ⟨h.1, by omega, h.2.2⟩]
        · rw [if_neg h, if_neg (fun h' => h ⟨h'.1, by omega, h'.2.2⟩)]
  unfold Sparse.get Sparse.splice
  rw [Sparse.find_append, Sparse.find_append, mid, Sparse.find_filter_ne m (fun k => decide (k < lo)) j,
    Sparse.find_filter_ne m (fun k => decide (lo + n ≤ k)) j]
  by_cases h : lo ≤ j ∧ j < lo + n
  · have h1 : ¬ j < lo := by omega
    have h2 : ¬ lo + n ≤ j := by omega
    by_cases hf : f (j - lo) = d <;> simp [h, h1, h2, hf]
  · by_cases hl : j < lo
    · have h2 : ¬ lo + n ≤ j := by omega
      simp [hl, h2, show ¬ lo ≤ j by omega]
    · have h2 : lo + n ≤ j := by omega
      simp [hl, h2, show ¬ j < lo + n by omega]

end Sys2Proof.Machine
end

