-- ==== Sys2Proof/Laws/State.lean ====
section
/-!
SUPPORT. The small lemmas of the named operations over State: what each leaves of every field and every reading, by
computation, and reading after writing. Later proofs unfold no record update.
-/

-- One declaration after another: the package as one text then needs few threads at a time.
set_option Elab.async false

set_option linter.unusedVariables false

namespace Sys2Proof.Machine

/-! ### Fields that an operation leaves -/

@[simp] theorem State.wr_pending (s : State) (p : Nat) (v : Word) : (s.wr p v).pending = s.pending := rfl
@[simp] theorem State.wr_clock (s : State) (p : Nat) (v : Word) : (s.wr p v).clock = s.clock := rfl
@[simp] theorem State.wr_tiles (s : State) (p : Nat) (v : Word) : (s.wr p v).tiles = s.tiles := rfl
@[simp] theorem State.wr_parts (s : State) (p : Nat) (v : Word) : (s.wr p v).parts = s.parts := rfl
@[simp] theorem State.wr_mem (s : State) (p : Nat) (v : Word) : (s.wr p v).mem = s.mem := rfl
@[simp] theorem State.wr_loupe (s : State) (p : Nat) (v : Word) : (s.wr p v).loupe = s.loupe := rfl
@[simp] theorem State.wr_prism (s : State) (p : Nat) (v : Word) : (s.wr p v).prism = s.prism := rfl
@[simp] theorem State.wr_kal (s : State) (p : Nat) (v : Word) : (s.wr p v).kal = s.kal := rfl
@[simp] theorem State.wr_apt (s : State) (p : Nat) (v : Word) : (s.wr p v).apt = s.apt := rfl
@[simp] theorem State.wr_chan (s : State) (p : Nat) (v : Word) : (s.wr p v).chan = s.chan := rfl
@[simp] theorem State.wr_ing (s : State) (p : Nat) (v : Word) : (s.wr p v).ing = s.ing := rfl
@[simp] theorem State.wr_net (s : State) (p : Nat) (v : Word) : (s.wr p v).net = s.net := rfl
@[simp] theorem State.wr_mgt (s : State) (p : Nat) (v : Word) : (s.wr p v).mgt = s.mgt := rfl
@[simp] theorem State.wr_flt (s : State) (p : Nat) (v : Word) : (s.wr p v).flt = s.flt := rfl
@[simp] theorem State.wr_start (s : State) (p : Nat) (v : Word) : (s.wr p v).start = s.start := rfl
@[simp] theorem State.wr_port (s : State) (p : Nat) (v : Word) : (s.wr p v).port = s.port := rfl
@[simp] theorem State.wr_dbg (s : State) (p : Nat) (v : Word) : (s.wr p v).dbg = s.dbg := rfl
@[simp] theorem State.wr_pkg (s : State) (p : Nat) (v : Word) : (s.wr p v).pkg = s.pkg := rfl
@[simp] theorem State.wr_freeCount (s : State) (p : Nat) (v : Word) : (s.wr p v).freeCount = s.freeCount := rfl
@[simp] theorem State.wr_out (s : State) (p : Nat) (v : Word) : (s.wr p v).out = s.out := rfl
@[simp] theorem State.wr_rf_staged (s : State) (p : Nat) (v : Word) : (s.wr p v).rf.staged = s.rf.staged := rfl
@[simp] theorem State.wr_rf_strobed (s : State) (p : Nat) (v : Word) : (s.wr p v).rf.strobed = s.rf.strobed := rfl
@[simp] theorem State.wr_rf_strobeAt (s : State) (p : Nat) (v : Word) : (s.wr p v).rf.strobeAt = s.rf.strobeAt := rfl
@[simp] theorem State.wr_rf_strobedNow (s : State) (p : Nat) (v : Word) : (s.wr p v).rf.strobedNow = s.rf.strobedNow := rfl

@[simp] theorem State.wrFld_pending (s : State) (p hi lo v : Nat) : (s.wrFld p hi lo v).pending = s.pending := rfl
@[simp] theorem State.wrFld_clock (s : State) (p hi lo v : Nat) : (s.wrFld p hi lo v).clock = s.clock := rfl
@[simp] theorem State.wrFld_tiles (s : State) (p hi lo v : Nat) : (s.wrFld p hi lo v).tiles = s.tiles := rfl
@[simp] theorem State.wrFld_parts (s : State) (p hi lo v : Nat) : (s.wrFld p hi lo v).parts = s.parts := rfl
@[simp] theorem State.wrFld_mem (s : State) (p hi lo v : Nat) : (s.wrFld p hi lo v).mem = s.mem := rfl
@[simp] theorem State.wrFld_loupe (s : State) (p hi lo v : Nat) : (s.wrFld p hi lo v).loupe = s.loupe := rfl
@[simp] theorem State.wrFld_prism (s : State) (p hi lo v : Nat) : (s.wrFld p hi lo v).prism = s.prism := rfl
@[simp] theorem State.wrFld_kal (s : State) (p hi lo v : Nat) : (s.wrFld p hi lo v).kal = s.kal := rfl
@[simp] theorem State.wrFld_apt (s : State) (p hi lo v : Nat) : (s.wrFld p hi lo v).apt = s.apt := rfl
@[simp] theorem State.wrFld_chan (s : State) (p hi lo v : Nat) : (s.wrFld p hi lo v).chan = s.chan := rfl
@[simp] theorem State.wrFld_ing (s : State) (p hi lo v : Nat) : (s.wrFld p hi lo v).ing = s.ing := rfl
@[simp] theorem State.wrFld_net (s : State) (p hi lo v : Nat) : (s.wrFld p hi lo v).net = s.net := rfl
@[simp] theorem State.wrFld_mgt (s : State) (p hi lo v : Nat) : (s.wrFld p hi lo v).mgt = s.mgt := rfl
@[simp] theorem State.wrFld_flt (s : State) (p hi lo v : Nat) : (s.wrFld p hi lo v).flt = s.flt := rfl
@[simp] theorem State.wrFld_start (s : State) (p hi lo v : Nat) : (s.wrFld p hi lo v).start = s.start := rfl
@[simp] theorem State.wrFld_port (s : State) (p hi lo v : Nat) : (s.wrFld p hi lo v).port = s.port := rfl
@[simp] theorem State.wrFld_dbg (s : State) (p hi lo v : Nat) : (s.wrFld p hi lo v).dbg = s.dbg := rfl
@[simp] theorem State.wrFld_pkg (s : State) (p hi lo v : Nat) : (s.wrFld p hi lo v).pkg = s.pkg := rfl
@[simp] theorem State.wrFld_freeCount (s : State) (p hi lo v : Nat) : (s.wrFld p hi lo v).freeCount = s.freeCount := rfl
@[simp] theorem State.wrFld_out (s : State) (p hi lo v : Nat) : (s.wrFld p hi lo v).out = s.out := rfl
@[simp] theorem State.wrFld_rf_staged (s : State) (p hi lo v : Nat) : (s.wrFld p hi lo v).rf.staged = s.rf.staged := rfl
@[simp] theorem State.wrFld_rf_strobed (s : State) (p hi lo v : Nat) : (s.wrFld p hi lo v).rf.strobed = s.rf.strobed := rfl
@[simp] theorem State.wrFld_rf_strobeAt (s : State) (p hi lo v : Nat) : (s.wrFld p hi lo v).rf.strobeAt = s.rf.strobeAt := rfl
@[simp] theorem State.wrFld_rf_strobedNow (s : State) (p hi lo v : Nat) : (s.wrFld p hi lo v).rf.strobedNow = s.rf.strobedNow := rfl

@[simp] theorem State.setBit_pending (s : State) (p i : Nat) : (s.setBit p i).pending = s.pending := rfl
@[simp] theorem State.setBit_clock (s : State) (p i : Nat) : (s.setBit p i).clock = s.clock := rfl
@[simp] theorem State.setBit_tiles (s : State) (p i : Nat) : (s.setBit p i).tiles = s.tiles := rfl
@[simp] theorem State.setBit_parts (s : State) (p i : Nat) : (s.setBit p i).parts = s.parts := rfl
@[simp] theorem State.setBit_mem (s : State) (p i : Nat) : (s.setBit p i).mem = s.mem := rfl
@[simp] theorem State.setBit_loupe (s : State) (p i : Nat) : (s.setBit p i).loupe = s.loupe := rfl
@[simp] theorem State.setBit_prism (s : State) (p i : Nat) : (s.setBit p i).prism = s.prism := rfl
@[simp] theorem State.setBit_kal (s : State) (p i : Nat) : (s.setBit p i).kal = s.kal := rfl
@[simp] theorem State.setBit_apt (s : State) (p i : Nat) : (s.setBit p i).apt = s.apt := rfl
@[simp] theorem State.setBit_chan (s : State) (p i : Nat) : (s.setBit p i).chan = s.chan := rfl
@[simp] theorem State.setBit_ing (s : State) (p i : Nat) : (s.setBit p i).ing = s.ing := rfl
@[simp] theorem State.setBit_net (s : State) (p i : Nat) : (s.setBit p i).net = s.net := rfl
@[simp] theorem State.setBit_mgt (s : State) (p i : Nat) : (s.setBit p i).mgt = s.mgt := rfl
@[simp] theorem State.setBit_flt (s : State) (p i : Nat) : (s.setBit p i).flt = s.flt := rfl
@[simp] theorem State.setBit_start (s : State) (p i : Nat) : (s.setBit p i).start = s.start := rfl
@[simp] theorem State.setBit_port (s : State) (p i : Nat) : (s.setBit p i).port = s.port := rfl
@[simp] theorem State.setBit_dbg (s : State) (p i : Nat) : (s.setBit p i).dbg = s.dbg := rfl
@[simp] theorem State.setBit_pkg (s : State) (p i : Nat) : (s.setBit p i).pkg = s.pkg := rfl
@[simp] theorem State.setBit_freeCount (s : State) (p i : Nat) : (s.setBit p i).freeCount = s.freeCount := rfl
@[simp] theorem State.setBit_out (s : State) (p i : Nat) : (s.setBit p i).out = s.out := rfl
@[simp] theorem State.setBit_rf_staged (s : State) (p i : Nat) : (s.setBit p i).rf.staged = s.rf.staged := rfl
@[simp] theorem State.setBit_rf_strobed (s : State) (p i : Nat) : (s.setBit p i).rf.strobed = s.rf.strobed := rfl
@[simp] theorem State.setBit_rf_strobeAt (s : State) (p i : Nat) : (s.setBit p i).rf.strobeAt = s.rf.strobeAt := rfl
@[simp] theorem State.setBit_rf_strobedNow (s : State) (p i : Nat) : (s.setBit p i).rf.strobedNow = s.rf.strobedNow := rfl

@[simp] theorem State.clrBit_pending (s : State) (p i : Nat) : (s.clrBit p i).pending = s.pending := rfl
@[simp] theorem State.clrBit_clock (s : State) (p i : Nat) : (s.clrBit p i).clock = s.clock := rfl
@[simp] theorem State.clrBit_tiles (s : State) (p i : Nat) : (s.clrBit p i).tiles = s.tiles := rfl
@[simp] theorem State.clrBit_parts (s : State) (p i : Nat) : (s.clrBit p i).parts = s.parts := rfl
@[simp] theorem State.clrBit_mem (s : State) (p i : Nat) : (s.clrBit p i).mem = s.mem := rfl
@[simp] theorem State.clrBit_loupe (s : State) (p i : Nat) : (s.clrBit p i).loupe = s.loupe := rfl
@[simp] theorem State.clrBit_prism (s : State) (p i : Nat) : (s.clrBit p i).prism = s.prism := rfl
@[simp] theorem State.clrBit_kal (s : State) (p i : Nat) : (s.clrBit p i).kal = s.kal := rfl
@[simp] theorem State.clrBit_apt (s : State) (p i : Nat) : (s.clrBit p i).apt = s.apt := rfl
@[simp] theorem State.clrBit_chan (s : State) (p i : Nat) : (s.clrBit p i).chan = s.chan := rfl
@[simp] theorem State.clrBit_ing (s : State) (p i : Nat) : (s.clrBit p i).ing = s.ing := rfl
@[simp] theorem State.clrBit_net (s : State) (p i : Nat) : (s.clrBit p i).net = s.net := rfl
@[simp] theorem State.clrBit_mgt (s : State) (p i : Nat) : (s.clrBit p i).mgt = s.mgt := rfl
@[simp] theorem State.clrBit_flt (s : State) (p i : Nat) : (s.clrBit p i).flt = s.flt := rfl
@[simp] theorem State.clrBit_start (s : State) (p i : Nat) : (s.clrBit p i).start = s.start := rfl
@[simp] theorem State.clrBit_port (s : State) (p i : Nat) : (s.clrBit p i).port = s.port := rfl
@[simp] theorem State.clrBit_dbg (s : State) (p i : Nat) : (s.clrBit p i).dbg = s.dbg := rfl
@[simp] theorem State.clrBit_pkg (s : State) (p i : Nat) : (s.clrBit p i).pkg = s.pkg := rfl
@[simp] theorem State.clrBit_freeCount (s : State) (p i : Nat) : (s.clrBit p i).freeCount = s.freeCount := rfl
@[simp] theorem State.clrBit_out (s : State) (p i : Nat) : (s.clrBit p i).out = s.out := rfl
@[simp] theorem State.clrBit_rf_staged (s : State) (p i : Nat) : (s.clrBit p i).rf.staged = s.rf.staged := rfl
@[simp] theorem State.clrBit_rf_strobed (s : State) (p i : Nat) : (s.clrBit p i).rf.strobed = s.rf.strobed := rfl
@[simp] theorem State.clrBit_rf_strobeAt (s : State) (p i : Nat) : (s.clrBit p i).rf.strobeAt = s.rf.strobeAt := rfl
@[simp] theorem State.clrBit_rf_strobedNow (s : State) (p i : Nat) : (s.clrBit p i).rf.strobedNow = s.rf.strobedNow := rfl

@[simp] theorem State.setTile_pending (s : State) (t : Nat) (x : Tile) : (s.setTile t x).pending = s.pending := rfl
@[simp] theorem State.setTile_clock (s : State) (t : Nat) (x : Tile) : (s.setTile t x).clock = s.clock := rfl
@[simp] theorem State.setTile_rf (s : State) (t : Nat) (x : Tile) : (s.setTile t x).rf = s.rf := rfl
@[simp] theorem State.setTile_parts (s : State) (t : Nat) (x : Tile) : (s.setTile t x).parts = s.parts := rfl
@[simp] theorem State.setTile_mem (s : State) (t : Nat) (x : Tile) : (s.setTile t x).mem = s.mem := rfl
@[simp] theorem State.setTile_loupe (s : State) (t : Nat) (x : Tile) : (s.setTile t x).loupe = s.loupe := rfl
@[simp] theorem State.setTile_prism (s : State) (t : Nat) (x : Tile) : (s.setTile t x).prism = s.prism := rfl
@[simp] theorem State.setTile_kal (s : State) (t : Nat) (x : Tile) : (s.setTile t x).kal = s.kal := rfl
@[simp] theorem State.setTile_apt (s : State) (t : Nat) (x : Tile) : (s.setTile t x).apt = s.apt := rfl
@[simp] theorem State.setTile_chan (s : State) (t : Nat) (x : Tile) : (s.setTile t x).chan = s.chan := rfl
@[simp] theorem State.setTile_ing (s : State) (t : Nat) (x : Tile) : (s.setTile t x).ing = s.ing := rfl
@[simp] theorem State.setTile_net (s : State) (t : Nat) (x : Tile) : (s.setTile t x).net = s.net := rfl
@[simp] theorem State.setTile_mgt (s : State) (t : Nat) (x : Tile) : (s.setTile t x).mgt = s.mgt := rfl
@[simp] theorem State.setTile_flt (s : State) (t : Nat) (x : Tile) : (s.setTile t x).flt = s.flt := rfl
@[simp] theorem State.setTile_start (s : State) (t : Nat) (x : Tile) : (s.setTile t x).start = s.start := rfl
@[simp] theorem State.setTile_port (s : State) (t : Nat) (x : Tile) : (s.setTile t x).port = s.port := rfl
@[simp] theorem State.setTile_dbg (s : State) (t : Nat) (x : Tile) : (s.setTile t x).dbg = s.dbg := rfl
@[simp] theorem State.setTile_pkg (s : State) (t : Nat) (x : Tile) : (s.setTile t x).pkg = s.pkg := rfl
@[simp] theorem State.setTile_freeCount (s : State) (t : Nat) (x : Tile) : (s.setTile t x).freeCount = s.freeCount := rfl
@[simp] theorem State.setTile_out (s : State) (t : Nat) (x : Tile) : (s.setTile t x).out = s.out := rfl

@[simp] theorem State.modTile_pending (s : State) (t : Nat) (f : Tile → Tile) : (s.modTile t f).pending = s.pending := rfl
@[simp] theorem State.modTile_clock (s : State) (t : Nat) (f : Tile → Tile) : (s.modTile t f).clock = s.clock := rfl
@[simp] theorem State.modTile_rf (s : State) (t : Nat) (f : Tile → Tile) : (s.modTile t f).rf = s.rf := rfl
@[simp] theorem State.modTile_parts (s : State) (t : Nat) (f : Tile → Tile) : (s.modTile t f).parts = s.parts := rfl
@[simp] theorem State.modTile_mem (s : State) (t : Nat) (f : Tile → Tile) : (s.modTile t f).mem = s.mem := rfl
@[simp] theorem State.modTile_loupe (s : State) (t : Nat) (f : Tile → Tile) : (s.modTile t f).loupe = s.loupe := rfl
@[simp] theorem State.modTile_prism (s : State) (t : Nat) (f : Tile → Tile) : (s.modTile t f).prism = s.prism := rfl
@[simp] theorem State.modTile_kal (s : State) (t : Nat) (f : Tile → Tile) : (s.modTile t f).kal = s.kal := rfl
@[simp] theorem State.modTile_apt (s : State) (t : Nat) (f : Tile → Tile) : (s.modTile t f).apt = s.apt := rfl
@[simp] theorem State.modTile_chan (s : State) (t : Nat) (f : Tile → Tile) : (s.modTile t f).chan = s.chan := rfl
@[simp] theorem State.modTile_ing (s : State) (t : Nat) (f : Tile → Tile) : (s.modTile t f).ing = s.ing := rfl
@[simp] theorem State.modTile_net (s : State) (t : Nat) (f : Tile → Tile) : (s.modTile t f).net = s.net := rfl
@[simp] theorem State.modTile_mgt (s : State) (t : Nat) (f : Tile → Tile) : (s.modTile t f).mgt = s.mgt := rfl
@[simp] theorem State.modTile_flt (s : State) (t : Nat) (f : Tile → Tile) : (s.modTile t f).flt = s.flt := rfl
@[simp] theorem State.modTile_start (s : State) (t : Nat) (f : Tile → Tile) : (s.modTile t f).start = s.start := rfl
@[simp] theorem State.modTile_port (s : State) (t : Nat) (f : Tile → Tile) : (s.modTile t f).port = s.port := rfl
@[simp] theorem State.modTile_dbg (s : State) (t : Nat) (f : Tile → Tile) : (s.modTile t f).dbg = s.dbg := rfl
@[simp] theorem State.modTile_pkg (s : State) (t : Nat) (f : Tile → Tile) : (s.modTile t f).pkg = s.pkg := rfl
@[simp] theorem State.modTile_freeCount (s : State) (t : Nat) (f : Tile → Tile) : (s.modTile t f).freeCount = s.freeCount := rfl
@[simp] theorem State.modTile_out (s : State) (t : Nat) (f : Tile → Tile) : (s.modTile t f).out = s.out := rfl

@[simp] theorem State.setPart_pending (s : State) (p : Nat) (x : Part) : (s.setPart p x).pending = s.pending := rfl
@[simp] theorem State.setPart_clock (s : State) (p : Nat) (x : Part) : (s.setPart p x).clock = s.clock := rfl
@[simp] theorem State.setPart_rf (s : State) (p : Nat) (x : Part) : (s.setPart p x).rf = s.rf := rfl
@[simp] theorem State.setPart_tiles (s : State) (p : Nat) (x : Part) : (s.setPart p x).tiles = s.tiles := rfl
@[simp] theorem State.setPart_mem (s : State) (p : Nat) (x : Part) : (s.setPart p x).mem = s.mem := rfl
@[simp] theorem State.setPart_loupe (s : State) (p : Nat) (x : Part) : (s.setPart p x).loupe = s.loupe := rfl
@[simp] theorem State.setPart_prism (s : State) (p : Nat) (x : Part) : (s.setPart p x).prism = s.prism := rfl
@[simp] theorem State.setPart_kal (s : State) (p : Nat) (x : Part) : (s.setPart p x).kal = s.kal := rfl
@[simp] theorem State.setPart_apt (s : State) (p : Nat) (x : Part) : (s.setPart p x).apt = s.apt := rfl
@[simp] theorem State.setPart_chan (s : State) (p : Nat) (x : Part) : (s.setPart p x).chan = s.chan := rfl
@[simp] theorem State.setPart_ing (s : State) (p : Nat) (x : Part) : (s.setPart p x).ing = s.ing := rfl
@[simp] theorem State.setPart_net (s : State) (p : Nat) (x : Part) : (s.setPart p x).net = s.net := rfl
@[simp] theorem State.setPart_mgt (s : State) (p : Nat) (x : Part) : (s.setPart p x).mgt = s.mgt := rfl
@[simp] theorem State.setPart_flt (s : State) (p : Nat) (x : Part) : (s.setPart p x).flt = s.flt := rfl
@[simp] theorem State.setPart_start (s : State) (p : Nat) (x : Part) : (s.setPart p x).start = s.start := rfl
@[simp] theorem State.setPart_port (s : State) (p : Nat) (x : Part) : (s.setPart p x).port = s.port := rfl
@[simp] theorem State.setPart_dbg (s : State) (p : Nat) (x : Part) : (s.setPart p x).dbg = s.dbg := rfl
@[simp] theorem State.setPart_pkg (s : State) (p : Nat) (x : Part) : (s.setPart p x).pkg = s.pkg := rfl
@[simp] theorem State.setPart_freeCount (s : State) (p : Nat) (x : Part) : (s.setPart p x).freeCount = s.freeCount := rfl
@[simp] theorem State.setPart_out (s : State) (p : Nat) (x : Part) : (s.setPart p x).out = s.out := rfl

@[simp] theorem State.modPart_pending (s : State) (p : Nat) (f : Part → Part) : (s.modPart p f).pending = s.pending := rfl
@[simp] theorem State.modPart_clock (s : State) (p : Nat) (f : Part → Part) : (s.modPart p f).clock = s.clock := rfl
@[simp] theorem State.modPart_rf (s : State) (p : Nat) (f : Part → Part) : (s.modPart p f).rf = s.rf := rfl
@[simp] theorem State.modPart_tiles (s : State) (p : Nat) (f : Part → Part) : (s.modPart p f).tiles = s.tiles := rfl
@[simp] theorem State.modPart_mem (s : State) (p : Nat) (f : Part → Part) : (s.modPart p f).mem = s.mem := rfl
@[simp] theorem State.modPart_loupe (s : State) (p : Nat) (f : Part → Part) : (s.modPart p f).loupe = s.loupe := rfl
@[simp] theorem State.modPart_prism (s : State) (p : Nat) (f : Part → Part) : (s.modPart p f).prism = s.prism := rfl
@[simp] theorem State.modPart_kal (s : State) (p : Nat) (f : Part → Part) : (s.modPart p f).kal = s.kal := rfl
@[simp] theorem State.modPart_apt (s : State) (p : Nat) (f : Part → Part) : (s.modPart p f).apt = s.apt := rfl
@[simp] theorem State.modPart_chan (s : State) (p : Nat) (f : Part → Part) : (s.modPart p f).chan = s.chan := rfl
@[simp] theorem State.modPart_ing (s : State) (p : Nat) (f : Part → Part) : (s.modPart p f).ing = s.ing := rfl
@[simp] theorem State.modPart_net (s : State) (p : Nat) (f : Part → Part) : (s.modPart p f).net = s.net := rfl
@[simp] theorem State.modPart_mgt (s : State) (p : Nat) (f : Part → Part) : (s.modPart p f).mgt = s.mgt := rfl
@[simp] theorem State.modPart_flt (s : State) (p : Nat) (f : Part → Part) : (s.modPart p f).flt = s.flt := rfl
@[simp] theorem State.modPart_start (s : State) (p : Nat) (f : Part → Part) : (s.modPart p f).start = s.start := rfl
@[simp] theorem State.modPart_port (s : State) (p : Nat) (f : Part → Part) : (s.modPart p f).port = s.port := rfl
@[simp] theorem State.modPart_dbg (s : State) (p : Nat) (f : Part → Part) : (s.modPart p f).dbg = s.dbg := rfl
@[simp] theorem State.modPart_pkg (s : State) (p : Nat) (f : Part → Part) : (s.modPart p f).pkg = s.pkg := rfl
@[simp] theorem State.modPart_freeCount (s : State) (p : Nat) (f : Part → Part) : (s.modPart p f).freeCount = s.freeCount := rfl
@[simp] theorem State.modPart_out (s : State) (p : Nat) (f : Part → Part) : (s.modPart p f).out = s.out := rfl

@[simp] theorem State.modTenant_pending (s : State) (v : Nat) (f : Tenant → Tenant) : (s.modTenant v f).pending = s.pending := rfl
@[simp] theorem State.modTenant_clock (s : State) (v : Nat) (f : Tenant → Tenant) : (s.modTenant v f).clock = s.clock := rfl
@[simp] theorem State.modTenant_rf (s : State) (v : Nat) (f : Tenant → Tenant) : (s.modTenant v f).rf = s.rf := rfl
@[simp] theorem State.modTenant_tiles (s : State) (v : Nat) (f : Tenant → Tenant) : (s.modTenant v f).tiles = s.tiles := rfl
@[simp] theorem State.modTenant_parts (s : State) (v : Nat) (f : Tenant → Tenant) : (s.modTenant v f).parts = s.parts := rfl
@[simp] theorem State.modTenant_mem (s : State) (v : Nat) (f : Tenant → Tenant) : (s.modTenant v f).mem = s.mem := rfl
@[simp] theorem State.modTenant_loupe (s : State) (v : Nat) (f : Tenant → Tenant) : (s.modTenant v f).loupe = s.loupe := rfl
@[simp] theorem State.modTenant_prism (s : State) (v : Nat) (f : Tenant → Tenant) : (s.modTenant v f).prism = s.prism := rfl
@[simp] theorem State.modTenant_kal (s : State) (v : Nat) (f : Tenant → Tenant) : (s.modTenant v f).kal = s.kal := rfl
@[simp] theorem State.modTenant_apt (s : State) (v : Nat) (f : Tenant → Tenant) : (s.modTenant v f).apt = s.apt := rfl
@[simp] theorem State.modTenant_ing (s : State) (v : Nat) (f : Tenant → Tenant) : (s.modTenant v f).ing = s.ing := rfl
@[simp] theorem State.modTenant_net (s : State) (v : Nat) (f : Tenant → Tenant) : (s.modTenant v f).net = s.net := rfl
@[simp] theorem State.modTenant_mgt (s : State) (v : Nat) (f : Tenant → Tenant) : (s.modTenant v f).mgt = s.mgt := rfl
@[simp] theorem State.modTenant_flt (s : State) (v : Nat) (f : Tenant → Tenant) : (s.modTenant v f).flt = s.flt := rfl
@[simp] theorem State.modTenant_start (s : State) (v : Nat) (f : Tenant → Tenant) : (s.modTenant v f).start = s.start := rfl
@[simp] theorem State.modTenant_port (s : State) (v : Nat) (f : Tenant → Tenant) : (s.modTenant v f).port = s.port := rfl
@[simp] theorem State.modTenant_dbg (s : State) (v : Nat) (f : Tenant → Tenant) : (s.modTenant v f).dbg = s.dbg := rfl
@[simp] theorem State.modTenant_pkg (s : State) (v : Nat) (f : Tenant → Tenant) : (s.modTenant v f).pkg = s.pkg := rfl
@[simp] theorem State.modTenant_freeCount (s : State) (v : Nat) (f : Tenant → Tenant) : (s.modTenant v f).freeCount = s.freeCount := rfl
@[simp] theorem State.modTenant_out (s : State) (v : Nat) (f : Tenant → Tenant) : (s.modTenant v f).out = s.out := rfl
@[simp] theorem State.modTenant_chan_chans (s : State) (v : Nat) (f : Tenant → Tenant) : (s.modTenant v f).chan.chans = s.chan.chans := rfl
@[simp] theorem State.modTenant_chan_lastFetch (s : State) (v : Nat) (f : Tenant → Tenant) : (s.modTenant v f).chan.lastFetch = s.chan.lastFetch := rfl
@[simp] theorem State.modTenant_chan_bells (s : State) (v : Nat) (f : Tenant → Tenant) : (s.modTenant v f).chan.bells = s.chan.bells := rfl
@[simp] theorem State.modTenant_chan_bellsHeld (s : State) (v : Nat) (f : Tenant → Tenant) : (s.modTenant v f).chan.bellsHeld = s.chan.bellsHeld := rfl
@[simp] theorem State.modTenant_chan_cache (s : State) (v : Nat) (f : Tenant → Tenant) : (s.modTenant v f).chan.cache = s.chan.cache := rfl
@[simp] theorem State.modTenant_chan_cmds (s : State) (v : Nat) (f : Tenant → Tenant) : (s.modTenant v f).chan.cmds = s.chan.cmds := rfl
@[simp] theorem State.modTenant_chan_sems (s : State) (v : Nat) (f : Tenant → Tenant) : (s.modTenant v f).chan.sems = s.chan.sems := rfl
@[simp] theorem State.modTenant_chan_contexts (s : State) (v : Nat) (f : Tenant → Tenant) : (s.modTenant v f).chan.contexts = s.chan.contexts := rfl
@[simp] theorem State.modTenant_chan_images (s : State) (v : Nat) (f : Tenant → Tenant) : (s.modTenant v f).chan.images = s.chan.images := rfl
@[simp] theorem State.modTenant_chan_credit (s : State) (v : Nat) (f : Tenant → Tenant) : (s.modTenant v f).chan.credit = s.chan.credit := rfl
@[simp] theorem State.modTenant_chan_msixAddr (s : State) (v : Nat) (f : Tenant → Tenant) : (s.modTenant v f).chan.msixAddr = s.chan.msixAddr := rfl
@[simp] theorem State.modTenant_chan_msixData (s : State) (v : Nat) (f : Tenant → Tenant) : (s.modTenant v f).chan.msixData = s.chan.msixData := rfl
@[simp] theorem State.modTenant_chan_msixMask (s : State) (v : Nat) (f : Tenant → Tenant) : (s.modTenant v f).chan.msixMask = s.chan.msixMask := rfl
@[simp] theorem State.modTenant_chan_msixPend (s : State) (v : Nat) (f : Tenant → Tenant) : (s.modTenant v f).chan.msixPend = s.chan.msixPend := rfl

@[simp] theorem State.modLink_pending (s : State) (l : Nat) (f : Link → Link) : (s.modLink l f).pending = s.pending := rfl
@[simp] theorem State.modLink_clock (s : State) (l : Nat) (f : Link → Link) : (s.modLink l f).clock = s.clock := rfl
@[simp] theorem State.modLink_rf (s : State) (l : Nat) (f : Link → Link) : (s.modLink l f).rf = s.rf := rfl
@[simp] theorem State.modLink_tiles (s : State) (l : Nat) (f : Link → Link) : (s.modLink l f).tiles = s.tiles := rfl
@[simp] theorem State.modLink_parts (s : State) (l : Nat) (f : Link → Link) : (s.modLink l f).parts = s.parts := rfl
@[simp] theorem State.modLink_mem (s : State) (l : Nat) (f : Link → Link) : (s.modLink l f).mem = s.mem := rfl
@[simp] theorem State.modLink_loupe (s : State) (l : Nat) (f : Link → Link) : (s.modLink l f).loupe = s.loupe := rfl
@[simp] theorem State.modLink_prism (s : State) (l : Nat) (f : Link → Link) : (s.modLink l f).prism = s.prism := rfl
@[simp] theorem State.modLink_kal (s : State) (l : Nat) (f : Link → Link) : (s.modLink l f).kal = s.kal := rfl
@[simp] theorem State.modLink_apt (s : State) (l : Nat) (f : Link → Link) : (s.modLink l f).apt = s.apt := rfl
@[simp] theorem State.modLink_chan (s : State) (l : Nat) (f : Link → Link) : (s.modLink l f).chan = s.chan := rfl
@[simp] theorem State.modLink_ing (s : State) (l : Nat) (f : Link → Link) : (s.modLink l f).ing = s.ing := rfl
@[simp] theorem State.modLink_mgt (s : State) (l : Nat) (f : Link → Link) : (s.modLink l f).mgt = s.mgt := rfl
@[simp] theorem State.modLink_flt (s : State) (l : Nat) (f : Link → Link) : (s.modLink l f).flt = s.flt := rfl
@[simp] theorem State.modLink_start (s : State) (l : Nat) (f : Link → Link) : (s.modLink l f).start = s.start := rfl
@[simp] theorem State.modLink_port (s : State) (l : Nat) (f : Link → Link) : (s.modLink l f).port = s.port := rfl
@[simp] theorem State.modLink_dbg (s : State) (l : Nat) (f : Link → Link) : (s.modLink l f).dbg = s.dbg := rfl
@[simp] theorem State.modLink_pkg (s : State) (l : Nat) (f : Link → Link) : (s.modLink l f).pkg = s.pkg := rfl
@[simp] theorem State.modLink_freeCount (s : State) (l : Nat) (f : Link → Link) : (s.modLink l f).freeCount = s.freeCount := rfl
@[simp] theorem State.modLink_out (s : State) (l : Nat) (f : Link → Link) : (s.modLink l f).out = s.out := rfl

@[simp] theorem State.setContext_pending (s : State) (v p : Nat) (c : Option Context) : (s.setContext v p c).pending = s.pending := rfl
@[simp] theorem State.setContext_clock (s : State) (v p : Nat) (c : Option Context) : (s.setContext v p c).clock = s.clock := rfl
@[simp] theorem State.setContext_rf (s : State) (v p : Nat) (c : Option Context) : (s.setContext v p c).rf = s.rf := rfl
@[simp] theorem State.setContext_tiles (s : State) (v p : Nat) (c : Option Context) : (s.setContext v p c).tiles = s.tiles := rfl
@[simp] theorem State.setContext_parts (s : State) (v p : Nat) (c : Option Context) : (s.setContext v p c).parts = s.parts := rfl
@[simp] theorem State.setContext_mem (s : State) (v p : Nat) (c : Option Context) : (s.setContext v p c).mem = s.mem := rfl
@[simp] theorem State.setContext_loupe (s : State) (v p : Nat) (c : Option Context) : (s.setContext v p c).loupe = s.loupe := rfl
@[simp] theorem State.setContext_prism (s : State) (v p : Nat) (c : Option Context) : (s.setContext v p c).prism = s.prism := rfl
@[simp] theorem State.setContext_kal (s : State) (v p : Nat) (c : Option Context) : (s.setContext v p c).kal = s.kal := rfl
@[simp] theorem State.setContext_apt (s : State) (v p : Nat) (c : Option Context) : (s.setContext v p c).apt = s.apt := rfl
@[simp] theorem State.setContext_ing (s : State) (v p : Nat) (c : Option Context) : (s.setContext v p c).ing = s.ing := rfl
@[simp] theorem State.setContext_net (s : State) (v p : Nat) (c : Option Context) : (s.setContext v p c).net = s.net := rfl
@[simp] theorem State.setContext_mgt (s : State) (v p : Nat) (c : Option Context) : (s.setContext v p c).mgt = s.mgt := rfl
@[simp] theorem State.setContext_flt (s : State) (v p : Nat) (c : Option Context) : (s.setContext v p c).flt = s.flt := rfl
@[simp] theorem State.setContext_start (s : State) (v p : Nat) (c : Option Context) : (s.setContext v p c).start = s.start := rfl
@[simp] theorem State.setContext_port (s : State) (v p : Nat) (c : Option Context) : (s.setContext v p c).port = s.port := rfl
@[simp] theorem State.setContext_dbg (s : State) (v p : Nat) (c : Option Context) : (s.setContext v p c).dbg = s.dbg := rfl
@[simp] theorem State.setContext_pkg (s : State) (v p : Nat) (c : Option Context) : (s.setContext v p c).pkg = s.pkg := rfl
@[simp] theorem State.setContext_freeCount (s : State) (v p : Nat) (c : Option Context) : (s.setContext v p c).freeCount = s.freeCount := rfl
@[simp] theorem State.setContext_out (s : State) (v p : Nat) (c : Option Context) : (s.setContext v p c).out = s.out := rfl
@[simp] theorem State.setContext_chan_tenants (s : State) (v p : Nat) (c : Option Context) : (s.setContext v p c).chan.tenants = s.chan.tenants := rfl
@[simp] theorem State.setContext_chan_chans (s : State) (v p : Nat) (c : Option Context) : (s.setContext v p c).chan.chans = s.chan.chans := rfl
@[simp] theorem State.setContext_chan_lastFetch (s : State) (v p : Nat) (c : Option Context) : (s.setContext v p c).chan.lastFetch = s.chan.lastFetch := rfl
@[simp] theorem State.setContext_chan_bells (s : State) (v p : Nat) (c : Option Context) : (s.setContext v p c).chan.bells = s.chan.bells := rfl
@[simp] theorem State.setContext_chan_bellsHeld (s : State) (v p : Nat) (c : Option Context) : (s.setContext v p c).chan.bellsHeld = s.chan.bellsHeld := rfl
@[simp] theorem State.setContext_chan_cache (s : State) (v p : Nat) (c : Option Context) : (s.setContext v p c).chan.cache = s.chan.cache := rfl
@[simp] theorem State.setContext_chan_cmds (s : State) (v p : Nat) (c : Option Context) : (s.setContext v p c).chan.cmds = s.chan.cmds := rfl
@[simp] theorem State.setContext_chan_sems (s : State) (v p : Nat) (c : Option Context) : (s.setContext v p c).chan.sems = s.chan.sems := rfl
@[simp] theorem State.setContext_chan_images (s : State) (v p : Nat) (c : Option Context) : (s.setContext v p c).chan.images = s.chan.images := rfl
@[simp] theorem State.setContext_chan_credit (s : State) (v p : Nat) (c : Option Context) : (s.setContext v p c).chan.credit = s.chan.credit := rfl
@[simp] theorem State.setContext_chan_msixAddr (s : State) (v p : Nat) (c : Option Context) : (s.setContext v p c).chan.msixAddr = s.chan.msixAddr := rfl
@[simp] theorem State.setContext_chan_msixData (s : State) (v p : Nat) (c : Option Context) : (s.setContext v p c).chan.msixData = s.chan.msixData := rfl
@[simp] theorem State.setContext_chan_msixMask (s : State) (v p : Nat) (c : Option Context) : (s.setContext v p c).chan.msixMask = s.chan.msixMask := rfl
@[simp] theorem State.setContext_chan_msixPend (s : State) (v p : Nat) (c : Option Context) : (s.setContext v p c).chan.msixPend = s.chan.msixPend := rfl

@[simp] theorem State.emit_pending (s : State) (o : Out) : (s.emit o).pending = s.pending := rfl
@[simp] theorem State.emit_clock (s : State) (o : Out) : (s.emit o).clock = s.clock := rfl
@[simp] theorem State.emit_rf (s : State) (o : Out) : (s.emit o).rf = s.rf := rfl
@[simp] theorem State.emit_tiles (s : State) (o : Out) : (s.emit o).tiles = s.tiles := rfl
@[simp] theorem State.emit_parts (s : State) (o : Out) : (s.emit o).parts = s.parts := rfl
@[simp] theorem State.emit_mem (s : State) (o : Out) : (s.emit o).mem = s.mem := rfl
@[simp] theorem State.emit_loupe (s : State) (o : Out) : (s.emit o).loupe = s.loupe := rfl
@[simp] theorem State.emit_prism (s : State) (o : Out) : (s.emit o).prism = s.prism := rfl
@[simp] theorem State.emit_kal (s : State) (o : Out) : (s.emit o).kal = s.kal := rfl
@[simp] theorem State.emit_apt (s : State) (o : Out) : (s.emit o).apt = s.apt := rfl
@[simp] theorem State.emit_chan (s : State) (o : Out) : (s.emit o).chan = s.chan := rfl
@[simp] theorem State.emit_ing (s : State) (o : Out) : (s.emit o).ing = s.ing := rfl
@[simp] theorem State.emit_net (s : State) (o : Out) : (s.emit o).net = s.net := rfl
@[simp] theorem State.emit_mgt (s : State) (o : Out) : (s.emit o).mgt = s.mgt := rfl
@[simp] theorem State.emit_flt (s : State) (o : Out) : (s.emit o).flt = s.flt := rfl
@[simp] theorem State.emit_start (s : State) (o : Out) : (s.emit o).start = s.start := rfl
@[simp] theorem State.emit_port (s : State) (o : Out) : (s.emit o).port = s.port := rfl
@[simp] theorem State.emit_dbg (s : State) (o : Out) : (s.emit o).dbg = s.dbg := rfl
@[simp] theorem State.emit_pkg (s : State) (o : Out) : (s.emit o).pkg = s.pkg := rfl
@[simp] theorem State.emit_freeCount (s : State) (o : Out) : (s.emit o).freeCount = s.freeCount := rfl

@[simp] theorem State.reach_pending (s : State) (g : Nat) : (s.reach g).pending = s.pending := by unfold State.reach; split <;> rfl
@[simp] theorem State.reach_rf (s : State) (g : Nat) : (s.reach g).rf = s.rf := by unfold State.reach; split <;> rfl
@[simp] theorem State.reach_tiles (s : State) (g : Nat) : (s.reach g).tiles = s.tiles := by unfold State.reach; split <;> rfl
@[simp] theorem State.reach_parts (s : State) (g : Nat) : (s.reach g).parts = s.parts := by unfold State.reach; split <;> rfl
@[simp] theorem State.reach_mem (s : State) (g : Nat) : (s.reach g).mem = s.mem := by unfold State.reach; split <;> rfl
@[simp] theorem State.reach_loupe (s : State) (g : Nat) : (s.reach g).loupe = s.loupe := by unfold State.reach; split <;> rfl
@[simp] theorem State.reach_prism (s : State) (g : Nat) : (s.reach g).prism = s.prism := by unfold State.reach; split <;> rfl
@[simp] theorem State.reach_kal (s : State) (g : Nat) : (s.reach g).kal = s.kal := by unfold State.reach; split <;> rfl
@[simp] theorem State.reach_apt (s : State) (g : Nat) : (s.reach g).apt = s.apt := by unfold State.reach; split <;> rfl
@[simp] theorem State.reach_chan (s : State) (g : Nat) : (s.reach g).chan = s.chan := by unfold State.reach; split <;> rfl
@[simp] theorem State.reach_ing (s : State) (g : Nat) : (s.reach g).ing = s.ing := by unfold State.reach; split <;> rfl
@[simp] theorem State.reach_net (s : State) (g : Nat) : (s.reach g).net = s.net := by unfold State.reach; split <;> rfl
@[simp] theorem State.reach_mgt (s : State) (g : Nat) : (s.reach g).mgt = s.mgt := by unfold State.reach; split <;> rfl
@[simp] theorem State.reach_flt (s : State) (g : Nat) : (s.reach g).flt = s.flt := by unfold State.reach; split <;> rfl
@[simp] theorem State.reach_start (s : State) (g : Nat) : (s.reach g).start = s.start := by unfold State.reach; split <;> rfl
@[simp] theorem State.reach_port (s : State) (g : Nat) : (s.reach g).port = s.port := by unfold State.reach; split <;> rfl
@[simp] theorem State.reach_dbg (s : State) (g : Nat) : (s.reach g).dbg = s.dbg := by unfold State.reach; split <;> rfl
@[simp] theorem State.reach_pkg (s : State) (g : Nat) : (s.reach g).pkg = s.pkg := by unfold State.reach; split <;> rfl
@[simp] theorem State.reach_freeCount (s : State) (g : Nat) : (s.reach g).freeCount = s.freeCount := by unfold State.reach; split <;> rfl
@[simp] theorem State.reach_out (s : State) (g : Nat) : (s.reach g).out = s.out := by unfold State.reach; split <;> rfl

/-- Only the count moves, and what is left of the offset with it. -/
theorem State.reach_clock (s : State) (g : Nat) :
    ∃ n k a, (s.reach g).clock = { s.clock with gtc := n, slewLeft := k, slewAcc := a } := by
  unfold State.reach
  split
  · exact ⟨_, _, _, rfl⟩
  · exact ⟨s.clock.gtc, s.clock.slewLeft, s.clock.slewAcc, rfl⟩

/-- A count that has passed is reached already. -/
theorem State.reach_passed (s : State) {g : Nat} (h : g ≤ s.clock.gtc.toNat) : s.reach g = s := by
  unfold State.reach
  rw [if_neg (by omega)]

/-- What is left of an offset never grows in size. -/
theorem Clock.slew_le (c : Clock) (n : Nat) : (c.slew n).slewLeft.natAbs ≤ c.slewLeft.natAbs := by
  unfold Clock.slew
  dsimp only
  split <;> omega

/-- With nothing to slew the counts only pass. -/
theorem Clock.slew_zero (c : Clock) (n : Nat) (h : c.slewLeft = 0) : (c.slew n).slewLeft = 0 := by
  have := Clock.slew_le c n
  rw [h] at this
  simpa using this

@[simp] theorem State.reach_clock_joined (s : State) (g : Nat) : (s.reach g).clock.joined = s.clock.joined := by unfold State.reach; split <;> rfl
@[simp] theorem State.reach_clock_largeOffsets (s : State) (g : Nat) : (s.reach g).clock.largeOffsets = s.clock.largeOffsets := by unfold State.reach; split <;> rfl
@[simp] theorem State.reach_clock_lastExchange (s : State) (g : Nat) : (s.reach g).clock.lastExchange = s.clock.lastExchange := by unfold State.reach; split <;> rfl
@[simp] theorem State.reach_clock_reformHold (s : State) (g : Nat) : (s.reach g).clock.reformHold = s.clock.reformHold := by unfold State.reach; split <;> rfl
@[simp] theorem State.reach_clock_reformAt (s : State) (g : Nat) : (s.reach g).clock.reformAt = s.clock.reformAt := by unfold State.reach; split <;> rfl
@[simp] theorem State.reach_clock_wrappedSeeds (s : State) (g : Nat) : (s.reach g).clock.wrappedSeeds = s.clock.wrappedSeeds := by unfold State.reach; split <;> rfl

/-! ### Readings that an operation leaves -/

@[simp] theorem State.reach_rd (s : State) (g : Nat) (q : Nat) : (s.reach g).rd q = s.rd q := by unfold State.reach; split <;> rfl
@[simp] theorem State.reach_rdFld (s : State) (g : Nat) (q h l : Nat) : (s.reach g).rdFld q h l = s.rdFld q h l := by unfold State.reach; split <;> rfl
@[simp] theorem State.reach_rdBit (s : State) (g : Nat) (q j : Nat) : (s.reach g).rdBit q j = s.rdBit q j := by unfold State.reach; split <;> rfl
@[simp] theorem State.reach_tile (s : State) (g : Nat) (t' : Nat) : (s.reach g).tile t' = s.tile t' := by unfold State.reach; split <;> rfl
@[simp] theorem State.reach_part (s : State) (g : Nat) (p' : Nat) : (s.reach g).part p' = s.part p' := by unfold State.reach; split <;> rfl
@[simp] theorem State.reach_tenant (s : State) (g : Nat) (v' : Nat) : (s.reach g).tenant v' = s.tenant v' := by unfold State.reach; split <;> rfl
@[simp] theorem State.reach_link (s : State) (g : Nat) (l' : Nat) : (s.reach g).link l' = s.link l' := by unfold State.reach; split <;> rfl
@[simp] theorem State.reach_context (s : State) (g : Nat) (v' p' : Nat) : (s.reach g).context v' p' = s.context v' p' := by unfold State.reach; split <;> rfl
@[simp] theorem State.reach_layout (s : State) (g : Nat) : (s.reach g).layout = s.layout := by unfold State.reach; split <;> rfl
@[simp] theorem State.reach_partSize (s : State) (g : Nat) (p' : Nat) : (s.reach g).partSize p' = s.partSize p' := by unfold State.reach; split <;> rfl
@[simp] theorem State.reach_partOf (s : State) (g : Nat) (t' : Nat) : (s.reach g).partOf t' = s.partOf t' := by unfold State.reach; split <;> rfl
@[simp] theorem State.reach_hasPart (s : State) (g : Nat) (p' : Nat) : (s.reach g).hasPart p' = s.hasPart p' := by unfold State.reach; split <;> rfl
@[simp] theorem State.reach_blockOn (s : State) (g : Nat) (b : Nat) : (s.reach g).blockOn b = s.blockOn b := by unfold State.reach; split <;> rfl
@[simp] theorem State.reach_self (s : State) (g : Nat) : (s.reach g).self = s.self := by unfold State.reach; split <;> rfl
@[simp] theorem State.reach_halted (s : State) (g : Nat) : (s.reach g).halted = s.halted := by unfold State.reach; split <;> rfl
@[simp] theorem State.reach_lsByte (s : State) (g : Nat) (t' a : Nat) : (s.reach g).lsByte t' a = s.lsByte t' a := by unfold State.reach; split <;> rfl
@[simp] theorem State.reach_devByte (s : State) (g : Nat) (a : Nat) : (s.reach g).devByte a = s.devByte a := by unfold State.reach; split <;> rfl

@[simp] theorem State.wr_tile (s : State) (p : Nat) (v : Word) (t' : Nat) : (s.wr p v).tile t' = s.tile t' := rfl
@[simp] theorem State.wr_part (s : State) (p : Nat) (v : Word) (p' : Nat) : (s.wr p v).part p' = s.part p' := rfl
@[simp] theorem State.wr_tenant (s : State) (p : Nat) (v : Word) (v' : Nat) : (s.wr p v).tenant v' = s.tenant v' := rfl
@[simp] theorem State.wr_link (s : State) (p : Nat) (v : Word) (l' : Nat) : (s.wr p v).link l' = s.link l' := rfl
@[simp] theorem State.wr_context (s : State) (p : Nat) (v : Word) (v' p' : Nat) : (s.wr p v).context v' p' = s.context v' p' := rfl
@[simp] theorem State.wr_now (s : State) (p : Nat) (v : Word) : (s.wr p v).now = s.now := rfl
@[simp] theorem State.wr_lsByte (s : State) (p : Nat) (v : Word) (t' a : Nat) : (s.wr p v).lsByte t' a = s.lsByte t' a := rfl
@[simp] theorem State.wr_devByte (s : State) (p : Nat) (v : Word) (a : Nat) : (s.wr p v).devByte a = s.devByte a := rfl

@[simp] theorem State.wrFld_tile (s : State) (p hi lo v : Nat) (t' : Nat) : (s.wrFld p hi lo v).tile t' = s.tile t' := rfl
@[simp] theorem State.wrFld_part (s : State) (p hi lo v : Nat) (p' : Nat) : (s.wrFld p hi lo v).part p' = s.part p' := rfl
@[simp] theorem State.wrFld_tenant (s : State) (p hi lo v : Nat) (v' : Nat) : (s.wrFld p hi lo v).tenant v' = s.tenant v' := rfl
@[simp] theorem State.wrFld_link (s : State) (p hi lo v : Nat) (l' : Nat) : (s.wrFld p hi lo v).link l' = s.link l' := rfl
@[simp] theorem State.wrFld_context (s : State) (p hi lo v : Nat) (v' p' : Nat) : (s.wrFld p hi lo v).context v' p' = s.context v' p' := rfl
@[simp] theorem State.wrFld_now (s : State) (p hi lo v : Nat) : (s.wrFld p hi lo v).now = s.now := rfl
@[simp] theorem State.wrFld_lsByte (s : State) (p hi lo v : Nat) (t' a : Nat) : (s.wrFld p hi lo v).lsByte t' a = s.lsByte t' a := rfl
@[simp] theorem State.wrFld_devByte (s : State) (p hi lo v : Nat) (a : Nat) : (s.wrFld p hi lo v).devByte a = s.devByte a := rfl

@[simp] theorem State.setBit_tile (s : State) (p i : Nat) (t' : Nat) : (s.setBit p i).tile t' = s.tile t' := rfl
@[simp] theorem State.setBit_part (s : State) (p i : Nat) (p' : Nat) : (s.setBit p i).part p' = s.part p' := rfl
@[simp] theorem State.setBit_tenant (s : State) (p i : Nat) (v' : Nat) : (s.setBit p i).tenant v' = s.tenant v' := rfl
@[simp] theorem State.setBit_link (s : State) (p i : Nat) (l' : Nat) : (s.setBit p i).link l' = s.link l' := rfl
@[simp] theorem State.setBit_context (s : State) (p i : Nat) (v' p' : Nat) : (s.setBit p i).context v' p' = s.context v' p' := rfl
@[simp] theorem State.setBit_now (s : State) (p i : Nat) : (s.setBit p i).now = s.now := rfl
@[simp] theorem State.setBit_lsByte (s : State) (p i : Nat) (t' a : Nat) : (s.setBit p i).lsByte t' a = s.lsByte t' a := rfl
@[simp] theorem State.setBit_devByte (s : State) (p i : Nat) (a : Nat) : (s.setBit p i).devByte a = s.devByte a := rfl

@[simp] theorem State.clrBit_tile (s : State) (p i : Nat) (t' : Nat) : (s.clrBit p i).tile t' = s.tile t' := rfl
@[simp] theorem State.clrBit_part (s : State) (p i : Nat) (p' : Nat) : (s.clrBit p i).part p' = s.part p' := rfl
@[simp] theorem State.clrBit_tenant (s : State) (p i : Nat) (v' : Nat) : (s.clrBit p i).tenant v' = s.tenant v' := rfl
@[simp] theorem State.clrBit_link (s : State) (p i : Nat) (l' : Nat) : (s.clrBit p i).link l' = s.link l' := rfl
@[simp] theorem State.clrBit_context (s : State) (p i : Nat) (v' p' : Nat) : (s.clrBit p i).context v' p' = s.context v' p' := rfl
@[simp] theorem State.clrBit_now (s : State) (p i : Nat) : (s.clrBit p i).now = s.now := rfl
@[simp] theorem State.clrBit_lsByte (s : State) (p i : Nat) (t' a : Nat) : (s.clrBit p i).lsByte t' a = s.lsByte t' a := rfl
@[simp] theorem State.clrBit_devByte (s : State) (p i : Nat) (a : Nat) : (s.clrBit p i).devByte a = s.devByte a := rfl

@[simp] theorem State.setTile_rd (s : State) (t : Nat) (x : Tile) (q : Nat) : (s.setTile t x).rd q = s.rd q := rfl
@[simp] theorem State.setTile_rdFld (s : State) (t : Nat) (x : Tile) (q h l : Nat) : (s.setTile t x).rdFld q h l = s.rdFld q h l := rfl
@[simp] theorem State.setTile_rdBit (s : State) (t : Nat) (x : Tile) (q j : Nat) : (s.setTile t x).rdBit q j = s.rdBit q j := rfl
@[simp] theorem State.setTile_part (s : State) (t : Nat) (x : Tile) (p' : Nat) : (s.setTile t x).part p' = s.part p' := rfl
@[simp] theorem State.setTile_tenant (s : State) (t : Nat) (x : Tile) (v' : Nat) : (s.setTile t x).tenant v' = s.tenant v' := rfl
@[simp] theorem State.setTile_link (s : State) (t : Nat) (x : Tile) (l' : Nat) : (s.setTile t x).link l' = s.link l' := rfl
@[simp] theorem State.setTile_context (s : State) (t : Nat) (x : Tile) (v' p' : Nat) : (s.setTile t x).context v' p' = s.context v' p' := rfl
@[simp] theorem State.setTile_now (s : State) (t : Nat) (x : Tile) : (s.setTile t x).now = s.now := rfl
@[simp] theorem State.setTile_layout (s : State) (t : Nat) (x : Tile) : (s.setTile t x).layout = s.layout := rfl
@[simp] theorem State.setTile_partSize (s : State) (t : Nat) (x : Tile) (p' : Nat) : (s.setTile t x).partSize p' = s.partSize p' := rfl
@[simp] theorem State.setTile_partOf (s : State) (t : Nat) (x : Tile) (t' : Nat) : (s.setTile t x).partOf t' = s.partOf t' := rfl
@[simp] theorem State.setTile_hasPart (s : State) (t : Nat) (x : Tile) (p' : Nat) : (s.setTile t x).hasPart p' = s.hasPart p' := rfl
@[simp] theorem State.setTile_blockOn (s : State) (t : Nat) (x : Tile) (b : Nat) : (s.setTile t x).blockOn b = s.blockOn b := rfl
@[simp] theorem State.setTile_self (s : State) (t : Nat) (x : Tile) : (s.setTile t x).self = s.self := rfl
@[simp] theorem State.setTile_halted (s : State) (t : Nat) (x : Tile) : (s.setTile t x).halted = s.halted := rfl
@[simp] theorem State.setTile_lsByte (s : State) (t : Nat) (x : Tile) (t' a : Nat) : (s.setTile t x).lsByte t' a = s.lsByte t' a := rfl
@[simp] theorem State.setTile_devByte (s : State) (t : Nat) (x : Tile) (a : Nat) : (s.setTile t x).devByte a = s.devByte a := rfl

@[simp] theorem State.modTile_rd (s : State) (t : Nat) (f : Tile → Tile) (q : Nat) : (s.modTile t f).rd q = s.rd q := rfl
@[simp] theorem State.modTile_rdFld (s : State) (t : Nat) (f : Tile → Tile) (q h l : Nat) : (s.modTile t f).rdFld q h l = s.rdFld q h l := rfl
@[simp] theorem State.modTile_rdBit (s : State) (t : Nat) (f : Tile → Tile) (q j : Nat) : (s.modTile t f).rdBit q j = s.rdBit q j := rfl
@[simp] theorem State.modTile_part (s : State) (t : Nat) (f : Tile → Tile) (p' : Nat) : (s.modTile t f).part p' = s.part p' := rfl
@[simp] theorem State.modTile_tenant (s : State) (t : Nat) (f : Tile → Tile) (v' : Nat) : (s.modTile t f).tenant v' = s.tenant v' := rfl
@[simp] theorem State.modTile_link (s : State) (t : Nat) (f : Tile → Tile) (l' : Nat) : (s.modTile t f).link l' = s.link l' := rfl
@[simp] theorem State.modTile_context (s : State) (t : Nat) (f : Tile → Tile) (v' p' : Nat) : (s.modTile t f).context v' p' = s.context v' p' := rfl
@[simp] theorem State.modTile_now (s : State) (t : Nat) (f : Tile → Tile) : (s.modTile t f).now = s.now := rfl
@[simp] theorem State.modTile_layout (s : State) (t : Nat) (f : Tile → Tile) : (s.modTile t f).layout = s.layout := rfl
@[simp] theorem State.modTile_partSize (s : State) (t : Nat) (f : Tile → Tile) (p' : Nat) : (s.modTile t f).partSize p' = s.partSize p' := rfl
@[simp] theorem State.modTile_partOf (s : State) (t : Nat) (f : Tile → Tile) (t' : Nat) : (s.modTile t f).partOf t' = s.partOf t' := rfl
@[simp] theorem State.modTile_hasPart (s : State) (t : Nat) (f : Tile → Tile) (p' : Nat) : (s.modTile t f).hasPart p' = s.hasPart p' := rfl
@[simp] theorem State.modTile_blockOn (s : State) (t : Nat) (f : Tile → Tile) (b : Nat) : (s.modTile t f).blockOn b = s.blockOn b := rfl
@[simp] theorem State.modTile_self (s : State) (t : Nat) (f : Tile → Tile) : (s.modTile t f).self = s.self := rfl
@[simp] theorem State.modTile_halted (s : State) (t : Nat) (f : Tile → Tile) : (s.modTile t f).halted = s.halted := rfl
@[simp] theorem State.modTile_lsByte (s : State) (t : Nat) (f : Tile → Tile) (t' a : Nat) : (s.modTile t f).lsByte t' a = s.lsByte t' a := rfl
@[simp] theorem State.modTile_devByte (s : State) (t : Nat) (f : Tile → Tile) (a : Nat) : (s.modTile t f).devByte a = s.devByte a := rfl

@[simp] theorem State.setPart_rd (s : State) (p : Nat) (x : Part) (q : Nat) : (s.setPart p x).rd q = s.rd q := rfl
@[simp] theorem State.setPart_rdFld (s : State) (p : Nat) (x : Part) (q h l : Nat) : (s.setPart p x).rdFld q h l = s.rdFld q h l := rfl
@[simp] theorem State.setPart_rdBit (s : State) (p : Nat) (x : Part) (q j : Nat) : (s.setPart p x).rdBit q j = s.rdBit q j := rfl
@[simp] theorem State.setPart_tile (s : State) (p : Nat) (x : Part) (t' : Nat) : (s.setPart p x).tile t' = s.tile t' := rfl
@[simp] theorem State.setPart_tenant (s : State) (p : Nat) (x : Part) (v' : Nat) : (s.setPart p x).tenant v' = s.tenant v' := rfl
@[simp] theorem State.setPart_link (s : State) (p : Nat) (x : Part) (l' : Nat) : (s.setPart p x).link l' = s.link l' := rfl
@[simp] theorem State.setPart_context (s : State) (p : Nat) (x : Part) (v' p' : Nat) : (s.setPart p x).context v' p' = s.context v' p' := rfl
@[simp] theorem State.setPart_now (s : State) (p : Nat) (x : Part) : (s.setPart p x).now = s.now := rfl
@[simp] theorem State.setPart_layout (s : State) (p : Nat) (x : Part) : (s.setPart p x).layout = s.layout := rfl
@[simp] theorem State.setPart_partSize (s : State) (p : Nat) (x : Part) (p' : Nat) : (s.setPart p x).partSize p' = s.partSize p' := rfl
@[simp] theorem State.setPart_partOf (s : State) (p : Nat) (x : Part) (t' : Nat) : (s.setPart p x).partOf t' = s.partOf t' := rfl
@[simp] theorem State.setPart_hasPart (s : State) (p : Nat) (x : Part) (p' : Nat) : (s.setPart p x).hasPart p' = s.hasPart p' := rfl
@[simp] theorem State.setPart_blockOn (s : State) (p : Nat) (x : Part) (b : Nat) : (s.setPart p x).blockOn b = s.blockOn b := rfl
@[simp] theorem State.setPart_self (s : State) (p : Nat) (x : Part) : (s.setPart p x).self = s.self := rfl
@[simp] theorem State.setPart_halted (s : State) (p : Nat) (x : Part) : (s.setPart p x).halted = s.halted := rfl
@[simp] theorem State.setPart_lsByte (s : State) (p : Nat) (x : Part) (t' a : Nat) : (s.setPart p x).lsByte t' a = s.lsByte t' a := rfl
@[simp] theorem State.setPart_devByte (s : State) (p : Nat) (x : Part) (a : Nat) : (s.setPart p x).devByte a = s.devByte a := rfl

@[simp] theorem State.modPart_rd (s : State) (p : Nat) (f : Part → Part) (q : Nat) : (s.modPart p f).rd q = s.rd q := rfl
@[simp] theorem State.modPart_rdFld (s : State) (p : Nat) (f : Part → Part) (q h l : Nat) : (s.modPart p f).rdFld q h l = s.rdFld q h l := rfl
@[simp] theorem State.modPart_rdBit (s : State) (p : Nat) (f : Part → Part) (q j : Nat) : (s.modPart p f).rdBit q j = s.rdBit q j := rfl
@[simp] theorem State.modPart_tile (s : State) (p : Nat) (f : Part → Part) (t' : Nat) : (s.modPart p f).tile t' = s.tile t' := rfl
@[simp] theorem State.modPart_tenant (s : State) (p : Nat) (f : Part → Part) (v' : Nat) : (s.modPart p f).tenant v' = s.tenant v' := rfl
@[simp] theorem State.modPart_link (s : State) (p : Nat) (f : Part → Part) (l' : Nat) : (s.modPart p f).link l' = s.link l' := rfl
@[simp] theorem State.modPart_context (s : State) (p : Nat) (f : Part → Part) (v' p' : Nat) : (s.modPart p f).context v' p' = s.context v' p' := rfl
@[simp] theorem State.modPart_now (s : State) (p : Nat) (f : Part → Part) : (s.modPart p f).now = s.now := rfl
@[simp] theorem State.modPart_layout (s : State) (p : Nat) (f : Part → Part) : (s.modPart p f).layout = s.layout := rfl
@[simp] theorem State.modPart_partSize (s : State) (p : Nat) (f : Part → Part) (p' : Nat) : (s.modPart p f).partSize p' = s.partSize p' := rfl
@[simp] theorem State.modPart_partOf (s : State) (p : Nat) (f : Part → Part) (t' : Nat) : (s.modPart p f).partOf t' = s.partOf t' := rfl
@[simp] theorem State.modPart_hasPart (s : State) (p : Nat) (f : Part → Part) (p' : Nat) : (s.modPart p f).hasPart p' = s.hasPart p' := rfl
@[simp] theorem State.modPart_blockOn (s : State) (p : Nat) (f : Part → Part) (b : Nat) : (s.modPart p f).blockOn b = s.blockOn b := rfl
@[simp] theorem State.modPart_self (s : State) (p : Nat) (f : Part → Part) : (s.modPart p f).self = s.self := rfl
@[simp] theorem State.modPart_halted (s : State) (p : Nat) (f : Part → Part) : (s.modPart p f).halted = s.halted := rfl
@[simp] theorem State.modPart_lsByte (s : State) (p : Nat) (f : Part → Part) (t' a : Nat) : (s.modPart p f).lsByte t' a = s.lsByte t' a := rfl
@[simp] theorem State.modPart_devByte (s : State) (p : Nat) (f : Part → Part) (a : Nat) : (s.modPart p f).devByte a = s.devByte a := rfl

@[simp] theorem State.modTenant_rd (s : State) (v : Nat) (f : Tenant → Tenant) (q : Nat) : (s.modTenant v f).rd q = s.rd q := rfl
@[simp] theorem State.modTenant_rdFld (s : State) (v : Nat) (f : Tenant → Tenant) (q h l : Nat) : (s.modTenant v f).rdFld q h l = s.rdFld q h l := rfl
@[simp] theorem State.modTenant_rdBit (s : State) (v : Nat) (f : Tenant → Tenant) (q j : Nat) : (s.modTenant v f).rdBit q j = s.rdBit q j := rfl
@[simp] theorem State.modTenant_tile (s : State) (v : Nat) (f : Tenant → Tenant) (t' : Nat) : (s.modTenant v f).tile t' = s.tile t' := rfl
@[simp] theorem State.modTenant_part (s : State) (v : Nat) (f : Tenant → Tenant) (p' : Nat) : (s.modTenant v f).part p' = s.part p' := rfl
@[simp] theorem State.modTenant_link (s : State) (v : Nat) (f : Tenant → Tenant) (l' : Nat) : (s.modTenant v f).link l' = s.link l' := rfl
@[simp] theorem State.modTenant_context (s : State) (v : Nat) (f : Tenant → Tenant) (v' p' : Nat) : (s.modTenant v f).context v' p' = s.context v' p' := rfl
@[simp] theorem State.modTenant_now (s : State) (v : Nat) (f : Tenant → Tenant) : (s.modTenant v f).now = s.now := rfl
@[simp] theorem State.modTenant_layout (s : State) (v : Nat) (f : Tenant → Tenant) : (s.modTenant v f).layout = s.layout := rfl
@[simp] theorem State.modTenant_partSize (s : State) (v : Nat) (f : Tenant → Tenant) (p' : Nat) : (s.modTenant v f).partSize p' = s.partSize p' := rfl
@[simp] theorem State.modTenant_partOf (s : State) (v : Nat) (f : Tenant → Tenant) (t' : Nat) : (s.modTenant v f).partOf t' = s.partOf t' := rfl
@[simp] theorem State.modTenant_hasPart (s : State) (v : Nat) (f : Tenant → Tenant) (p' : Nat) : (s.modTenant v f).hasPart p' = s.hasPart p' := rfl
@[simp] theorem State.modTenant_blockOn (s : State) (v : Nat) (f : Tenant → Tenant) (b : Nat) : (s.modTenant v f).blockOn b = s.blockOn b := rfl
@[simp] theorem State.modTenant_self (s : State) (v : Nat) (f : Tenant → Tenant) : (s.modTenant v f).self = s.self := rfl
@[simp] theorem State.modTenant_halted (s : State) (v : Nat) (f : Tenant → Tenant) : (s.modTenant v f).halted = s.halted := rfl
@[simp] theorem State.modTenant_lsByte (s : State) (v : Nat) (f : Tenant → Tenant) (t' a : Nat) : (s.modTenant v f).lsByte t' a = s.lsByte t' a := rfl
@[simp] theorem State.modTenant_devByte (s : State) (v : Nat) (f : Tenant → Tenant) (a : Nat) : (s.modTenant v f).devByte a = s.devByte a := rfl

@[simp] theorem State.modLink_rd (s : State) (l : Nat) (f : Link → Link) (q : Nat) : (s.modLink l f).rd q = s.rd q := rfl
@[simp] theorem State.modLink_rdFld (s : State) (l : Nat) (f : Link → Link) (q h l : Nat) : (s.modLink l f).rdFld q h l = s.rdFld q h l := rfl
@[simp] theorem State.modLink_rdBit (s : State) (l : Nat) (f : Link → Link) (q j : Nat) : (s.modLink l f).rdBit q j = s.rdBit q j := rfl
@[simp] theorem State.modLink_tile (s : State) (l : Nat) (f : Link → Link) (t' : Nat) : (s.modLink l f).tile t' = s.tile t' := rfl
@[simp] theorem State.modLink_part (s : State) (l : Nat) (f : Link → Link) (p' : Nat) : (s.modLink l f).part p' = s.part p' := rfl
@[simp] theorem State.modLink_tenant (s : State) (l : Nat) (f : Link → Link) (v' : Nat) : (s.modLink l f).tenant v' = s.tenant v' := rfl
@[simp] theorem State.modLink_context (s : State) (l : Nat) (f : Link → Link) (v' p' : Nat) : (s.modLink l f).context v' p' = s.context v' p' := rfl
@[simp] theorem State.modLink_now (s : State) (l : Nat) (f : Link → Link) : (s.modLink l f).now = s.now := rfl
@[simp] theorem State.modLink_layout (s : State) (l : Nat) (f : Link → Link) : (s.modLink l f).layout = s.layout := rfl
@[simp] theorem State.modLink_partSize (s : State) (l : Nat) (f : Link → Link) (p' : Nat) : (s.modLink l f).partSize p' = s.partSize p' := rfl
@[simp] theorem State.modLink_partOf (s : State) (l : Nat) (f : Link → Link) (t' : Nat) : (s.modLink l f).partOf t' = s.partOf t' := rfl
@[simp] theorem State.modLink_hasPart (s : State) (l : Nat) (f : Link → Link) (p' : Nat) : (s.modLink l f).hasPart p' = s.hasPart p' := rfl
@[simp] theorem State.modLink_blockOn (s : State) (l : Nat) (f : Link → Link) (b : Nat) : (s.modLink l f).blockOn b = s.blockOn b := rfl
@[simp] theorem State.modLink_self (s : State) (l : Nat) (f : Link → Link) : (s.modLink l f).self = s.self := rfl
@[simp] theorem State.modLink_halted (s : State) (l : Nat) (f : Link → Link) : (s.modLink l f).halted = s.halted := rfl
@[simp] theorem State.modLink_lsByte (s : State) (l : Nat) (f : Link → Link) (t' a : Nat) : (s.modLink l f).lsByte t' a = s.lsByte t' a := rfl
@[simp] theorem State.modLink_devByte (s : State) (l : Nat) (f : Link → Link) (a : Nat) : (s.modLink l f).devByte a = s.devByte a := rfl

@[simp] theorem State.setContext_rd (s : State) (v p : Nat) (c : Option Context) (q : Nat) : (s.setContext v p c).rd q = s.rd q := rfl
@[simp] theorem State.setContext_rdFld (s : State) (v p : Nat) (c : Option Context) (q h l : Nat) : (s.setContext v p c).rdFld q h l = s.rdFld q h l := rfl
@[simp] theorem State.setContext_rdBit (s : State) (v p : Nat) (c : Option Context) (q j : Nat) : (s.setContext v p c).rdBit q j = s.rdBit q j := rfl
@[simp] theorem State.setContext_tile (s : State) (v p : Nat) (c : Option Context) (t' : Nat) : (s.setContext v p c).tile t' = s.tile t' := rfl
@[simp] theorem State.setContext_part (s : State) (v p : Nat) (c : Option Context) (p' : Nat) : (s.setContext v p c).part p' = s.part p' := rfl
@[simp] theorem State.setContext_tenant (s : State) (v p : Nat) (c : Option Context) (v' : Nat) : (s.setContext v p c).tenant v' = s.tenant v' := rfl
@[simp] theorem State.setContext_link (s : State) (v p : Nat) (c : Option Context) (l' : Nat) : (s.setContext v p c).link l' = s.link l' := rfl
@[simp] theorem State.setContext_now (s : State) (v p : Nat) (c : Option Context) : (s.setContext v p c).now = s.now := rfl
@[simp] theorem State.setContext_layout (s : State) (v p : Nat) (c : Option Context) : (s.setContext v p c).layout = s.layout := rfl
@[simp] theorem State.setContext_partSize (s : State) (v p : Nat) (c : Option Context) (p' : Nat) : (s.setContext v p c).partSize p' = s.partSize p' := rfl
@[simp] theorem State.setContext_partOf (s : State) (v p : Nat) (c : Option Context) (t' : Nat) : (s.setContext v p c).partOf t' = s.partOf t' := rfl
@[simp] theorem State.setContext_hasPart (s : State) (v p : Nat) (c : Option Context) (p' : Nat) : (s.setContext v p c).hasPart p' = s.hasPart p' := rfl
@[simp] theorem State.setContext_blockOn (s : State) (v p : Nat) (c : Option Context) (b : Nat) : (s.setContext v p c).blockOn b = s.blockOn b := rfl
@[simp] theorem State.setContext_self (s : State) (v p : Nat) (c : Option Context) : (s.setContext v p c).self = s.self := rfl
@[simp] theorem State.setContext_halted (s : State) (v p : Nat) (c : Option Context) : (s.setContext v p c).halted = s.halted := rfl
@[simp] theorem State.setContext_lsByte (s : State) (v p : Nat) (c : Option Context) (t' a : Nat) : (s.setContext v p c).lsByte t' a = s.lsByte t' a := rfl
@[simp] theorem State.setContext_devByte (s : State) (v p : Nat) (c : Option Context) (a : Nat) : (s.setContext v p c).devByte a = s.devByte a := rfl

@[simp] theorem State.emit_rd (s : State) (o : Out) (q : Nat) : (s.emit o).rd q = s.rd q := rfl
@[simp] theorem State.emit_rdFld (s : State) (o : Out) (q h l : Nat) : (s.emit o).rdFld q h l = s.rdFld q h l := rfl
@[simp] theorem State.emit_rdBit (s : State) (o : Out) (q j : Nat) : (s.emit o).rdBit q j = s.rdBit q j := rfl
@[simp] theorem State.emit_tile (s : State) (o : Out) (t' : Nat) : (s.emit o).tile t' = s.tile t' := rfl
@[simp] theorem State.emit_part (s : State) (o : Out) (p' : Nat) : (s.emit o).part p' = s.part p' := rfl
@[simp] theorem State.emit_tenant (s : State) (o : Out) (v' : Nat) : (s.emit o).tenant v' = s.tenant v' := rfl
@[simp] theorem State.emit_link (s : State) (o : Out) (l' : Nat) : (s.emit o).link l' = s.link l' := rfl
@[simp] theorem State.emit_context (s : State) (o : Out) (v' p' : Nat) : (s.emit o).context v' p' = s.context v' p' := rfl
@[simp] theorem State.emit_now (s : State) (o : Out) : (s.emit o).now = s.now := rfl
@[simp] theorem State.emit_layout (s : State) (o : Out) : (s.emit o).layout = s.layout := rfl
@[simp] theorem State.emit_partSize (s : State) (o : Out) (p' : Nat) : (s.emit o).partSize p' = s.partSize p' := rfl
@[simp] theorem State.emit_partOf (s : State) (o : Out) (t' : Nat) : (s.emit o).partOf t' = s.partOf t' := rfl
@[simp] theorem State.emit_hasPart (s : State) (o : Out) (p' : Nat) : (s.emit o).hasPart p' = s.hasPart p' := rfl
@[simp] theorem State.emit_blockOn (s : State) (o : Out) (b : Nat) : (s.emit o).blockOn b = s.blockOn b := rfl
@[simp] theorem State.emit_self (s : State) (o : Out) : (s.emit o).self = s.self := rfl
@[simp] theorem State.emit_halted (s : State) (o : Out) : (s.emit o).halted = s.halted := rfl
@[simp] theorem State.emit_lsByte (s : State) (o : Out) (t' a : Nat) : (s.emit o).lsByte t' a = s.lsByte t' a := rfl
@[simp] theorem State.emit_devByte (s : State) (o : Out) (a : Nat) : (s.emit o).devByte a = s.devByte a := rfl

/-! ### Reading after writing -/

@[simp] theorem Sparse.get_set_self {α : Type} [DecidableEq α] (d : α) (m : Sparse α) (i : Nat) (v : α) :
    Sparse.get d (Sparse.set d m i v) i = v := by simp

theorem Sparse.get_set_ne {α : Type} [DecidableEq α] (d : α) (m : Sparse α) {i j : Nat} (v : α) (h : j ≠ i) :
    Sparse.get d (Sparse.set d m i v) j = Sparse.get d m j := by simp [h]

theorem State.rd_get (s : State) (p : Nat) : s.rd p = Sparse.get (Reg.resetValue p) s.rf.file p := rfl

/-- A register reads as last written; every other one as before. -/
theorem State.rd_wr (s : State) (p q : Nat) (v : Word) : (s.wr p v).rd q = if q = p then v else s.rd q := by
  simp only [State.rd_get, State.wr]
  by_cases h : q = p
  · subst h; simp
  · simp only [Sparse.get, h, if_false]
    rw [Sparse.find_set_ne _ _ _ h]

@[simp] theorem State.rd_wr_self (s : State) (p : Nat) (v : Word) : (s.wr p v).rd p = v := by simp [State.rd_wr]

theorem State.rd_wr_ne (s : State) {p q : Nat} (v : Word) (h : q ≠ p) : (s.wr p v).rd q = s.rd q := by simp [State.rd_wr, h]

@[simp] theorem State.tile_setTile_self (s : State) (t : Nat) (x : Tile) : (s.setTile t x).tile t = x := by
  simp [State.tile, State.setTile]

theorem State.tile_setTile_ne (s : State) {t u : Nat} (x : Tile) (h : u ≠ t) : (s.setTile t x).tile u = s.tile u := by
  simp [State.tile, State.setTile, h]

@[simp] theorem State.tile_modTile_self (s : State) (t : Nat) (f : Tile → Tile) : (s.modTile t f).tile t = f (s.tile t) := by
  simp [State.modTile]

theorem State.tile_modTile_ne (s : State) {t u : Nat} (f : Tile → Tile) (h : u ≠ t) :
    (s.modTile t f).tile u = s.tile u := State.tile_setTile_ne s _ h

@[simp] theorem State.part_setPart_self (s : State) (p : Nat) (x : Part) : (s.setPart p x).part p = x := by
  simp [State.part, State.setPart]

theorem State.part_setPart_ne (s : State) {p q : Nat} (x : Part) (h : q ≠ p) : (s.setPart p x).part q = s.part q := by
  simp [State.part, State.setPart, h]

@[simp] theorem State.part_modPart_self (s : State) (p : Nat) (f : Part → Part) : (s.modPart p f).part p = f (s.part p) := by
  simp [State.modPart]

theorem State.part_modPart_ne (s : State) {p q : Nat} (f : Part → Part) (h : q ≠ p) :
    (s.modPart p f).part q = s.part q := State.part_setPart_ne s _ h

@[simp] theorem State.tenant_modTenant_self (s : State) (v : Nat) (f : Tenant → Tenant) :
    (s.modTenant v f).tenant v = f (s.tenant v) := by simp [State.tenant, State.modTenant]

theorem State.tenant_modTenant_ne (s : State) {v w : Nat} (f : Tenant → Tenant) (h : w ≠ v) :
    (s.modTenant v f).tenant w = s.tenant w := by simp [State.tenant, State.modTenant, h]

@[simp] theorem State.link_modLink_self (s : State) (l : Nat) (f : Link → Link) : (s.modLink l f).link l = f (s.link l) := by
  simp [State.link, State.modLink]

theorem State.link_modLink_ne (s : State) {l k : Nat} (f : Link → Link) (h : k ≠ l) : (s.modLink l f).link k = s.link k := by
  simp [State.link, State.modLink, h]

@[simp] theorem State.context_setContext_self (s : State) (v p : Nat) (c : Option Context) :
    (s.setContext v p c).context v p = c := by simp [State.context, State.setContext]

@[simp] theorem State.emit_out (s : State) (o : Out) : (s.emit o).out = s.out ++ [o] := rfl

/-- The GTC reaches the count, if it was below. -/
theorem State.reach_gtc (s : State) {g : Nat} (h : s.clock.gtc.toNat < g) : (s.reach g).clock.gtc = BitVec.ofNat 64 g := by
  simp [State.reach, h]

/-- Only the clock moves. -/
theorem State.reach_eq (s : State) (g : Nat) : ∃ c, s.reach g = { s with clock := c } := by
  unfold State.reach
  split
  · exact ⟨_, rfl⟩
  · exact ⟨s.clock, rfl⟩

end Sys2Proof.Machine
end

