-- ==== Sys2Proof/Laws/Registers.lean ====
section
/-!
SUPPORT. Bits and fields of registers after an operation that writes one: the field written reads as written, every other
bit of the register, and every other register, reads as before.
-/

-- One declaration after another: the package as one text then needs few threads at a time.
set_option Elab.async false

namespace Sys2Proof.Machine

theorem fld_testBit (w hi lo i : Nat) : (fld w hi lo).testBit i = (decide (i < hi - lo + 1) && w.testBit (lo + i)) := by
  unfold fld
  rw [Nat.testBit_mod_two_pow, Nat.testBit_div_two_pow, Nat.add_comm i lo]

/-- A replaced field is made of what lies above it, the new value and what lies below it. -/
theorem setFld_eq (w hi lo v : Nat) :
    setFld w hi lo v = w / 2 ^ lo / 2 ^ (hi - lo + 1) * 2 ^ (hi - lo + 1) * 2 ^ lo + v % 2 ^ (hi - lo + 1) * 2 ^ lo
      + w % 2 ^ lo := by
  unfold setFld fld
  have a := Nat.div_add_mod w (2 ^ lo)
  have b := Nat.div_add_mod (w / 2 ^ lo) (2 ^ (hi - lo + 1))
  generalize w / 2 ^ lo / 2 ^ (hi - lo + 1) = x at *
  generalize w / 2 ^ lo % 2 ^ (hi - lo + 1) = y at *
  generalize v % 2 ^ (hi - lo + 1) = z
  rw [← b, Nat.mul_comm, Nat.add_mul, Nat.mul_comm (2 ^ (hi - lo + 1)) x] at a
  omega

theorem setFld_testBit (w v : Nat) {hi lo : Nat} (i : Nat) (h : lo ≤ hi) :
    (setFld w hi lo v).testBit i = if lo ≤ i ∧ i ≤ hi then v.testBit (i - lo) else w.testBit i := by
  have e : setFld w hi lo v = 2 ^ lo * (2 ^ (hi - lo + 1) * (w / 2 ^ lo / 2 ^ (hi - lo + 1)) + v % 2 ^ (hi - lo + 1))
      + w % 2 ^ lo := by
    rw [setFld_eq, Nat.mul_add]
    congr 2
    · rw [Nat.mul_comm _ (2 ^ lo), Nat.mul_comm (_ / _) _]
    · rw [Nat.mul_comm]
  rw [e, Nat.testBit_two_pow_mul_add _ (Nat.mod_lt _ (Nat.two_pow_pos lo))]
  by_cases a : i < lo
  · rw [if_pos a, if_neg (by omega), Nat.testBit_mod_two_pow]; simp [a]
  · rw [if_neg a, Nat.testBit_two_pow_mul_add _ (Nat.mod_lt _ (Nat.two_pow_pos _))]
    by_cases b : i ≤ hi
    · rw [if_pos (by omega), if_pos (by omega), Nat.testBit_mod_two_pow]
      have : i - lo < hi - lo + 1 := by omega
      simp [this]
    · rw [if_neg (by omega), if_neg (by omega), Nat.testBit_div_two_pow, Nat.testBit_div_two_pow]
      congr 1; omega

/-! ### wrFld -/

theorem State.rd_wrFld_ne (s : State) {p q : Nat} (hi lo v : Nat) (h : q ≠ p) : (s.wrFld p hi lo v).rd q = s.rd q :=
  State.rd_wr_ne s _ h

theorem State.rdFld_wrFld_ne (s : State) {p q : Nat} (hi lo v h l : Nat) (n : q ≠ p) :
    (s.wrFld p hi lo v).rdFld q h l = s.rdFld q h l := by
  rw [State.rdFld, State.rd_wrFld_ne s _ _ _ n]; rfl

theorem State.rdBit_wrFld_ne (s : State) {p q : Nat} (hi lo v i : Nat) (n : q ≠ p) :
    (s.wrFld p hi lo v).rdBit q i = s.rdBit q i := by
  rw [State.rdBit, State.rd_wrFld_ne s _ _ _ n]; rfl

/-- Each bit of the register: of the value inside the field, as before outside it. -/
theorem State.rdBit_wrFld (s : State) (p v : Nat) {hi lo i : Nat} (h : lo ≤ hi) (hi' : i < 32) :
    (s.wrFld p hi lo v).rdBit p i = if lo ≤ i ∧ i ≤ hi then v.testBit (i - lo) else s.rdBit p i := by
  unfold State.rdBit State.wrFld
  rw [State.rd_wr_self, BitVec.getLsbD_ofNat, setFld_testBit _ _ _ h]
  simp [hi', BitVec.getLsbD]

theorem State.rdFld_wrFld_self (s : State) (p v : Nat) {hi lo : Nat} (h : lo ≤ hi) (b : hi < 32) :
    (s.wrFld p hi lo v).rdFld p hi lo = v % 2 ^ (hi - lo + 1) := by
  apply Nat.eq_of_testBit_eq
  intro i
  unfold State.rdFld State.wrFld
  rw [State.rd_wr_self, fld_testBit, Nat.testBit_mod_two_pow, BitVec.toNat_ofNat, Nat.testBit_mod_two_pow]
  by_cases c : i < hi - lo + 1
  · rw [setFld_testBit _ _ _ h, if_pos (by omega)]
    have : lo + i < 32 := by omega
    simp [c, this]
  · simp [c]

theorem State.rdFld_wrFld_apart (s : State) (p v : Nat) {hi lo h l : Nat} (a : lo ≤ hi) (b : h < 32) (c : l ≤ h)
    (d : h < lo ∨ hi < l) : (s.wrFld p hi lo v).rdFld p h l = s.rdFld p h l := by
  apply Nat.eq_of_testBit_eq
  intro i
  unfold State.rdFld State.wrFld
  rw [State.rd_wr_self, fld_testBit, fld_testBit, BitVec.toNat_ofNat, Nat.testBit_mod_two_pow]
  by_cases e : i < h - l + 1
  · rw [setFld_testBit _ _ _ a, if_neg (by omega)]
    have : l + i < 32 := by omega
    simp [e, this]
  · simp [e]

/-! ### setBit and clrBit -/

theorem State.rd_setBit_ne (s : State) {p q : Nat} (i : Nat) (h : q ≠ p) : (s.setBit p i).rd q = s.rd q :=
  State.rd_wr_ne s _ h

theorem State.rd_clrBit_ne (s : State) {p q : Nat} (i : Nat) (h : q ≠ p) : (s.clrBit p i).rd q = s.rd q :=
  State.rd_wr_ne s _ h

theorem State.rdBit_setBit_ne (s : State) {p q : Nat} (i j : Nat) (h : q ≠ p) :
    (s.setBit p i).rdBit q j = s.rdBit q j := by rw [State.rdBit, State.rd_setBit_ne s _ h]; rfl

theorem State.rdBit_clrBit_ne (s : State) {p q : Nat} (i j : Nat) (h : q ≠ p) :
    (s.clrBit p i).rdBit q j = s.rdBit q j := by rw [State.rdBit, State.rd_clrBit_ne s _ h]; rfl

theorem State.rdFld_setBit_ne (s : State) {p q : Nat} (i h l : Nat) (n : q ≠ p) :
    (s.setBit p i).rdFld q h l = s.rdFld q h l := by rw [State.rdFld, State.rd_setBit_ne s _ n]; rfl

theorem State.rdFld_clrBit_ne (s : State) {p q : Nat} (i h l : Nat) (n : q ≠ p) :
    (s.clrBit p i).rdFld q h l = s.rdFld q h l := by rw [State.rdFld, State.rd_clrBit_ne s _ n]; rfl

theorem bit_testBit {i j : Nat} (h : j < 32) : (BitVec.ofNat 32 (2 ^ i)).getLsbD j = decide (i = j) := by
  rw [BitVec.getLsbD_ofNat, Nat.testBit_two_pow]; simp [h]

/-- A set bit reads 1, every other one as before. -/
theorem State.rdBit_setBit (s : State) (p i : Nat) {j : Nat} (h : j < 32) :
    (s.setBit p i).rdBit p j = (s.rdBit p j || decide (i = j)) := by
  unfold State.rdBit State.setBit
  rw [State.rd_wr_self, BitVec.getLsbD_or, bit_testBit h]

theorem State.rdBit_clrBit (s : State) (p i : Nat) {j : Nat} (h : j < 32) :
    (s.clrBit p i).rdBit p j = (s.rdBit p j && !decide (i = j)) := by
  unfold State.rdBit State.clrBit
  rw [State.rd_wr_self, BitVec.getLsbD_and, BitVec.getLsbD_not, bit_testBit h]
  simp [h]

theorem State.rdFld_setBit_apart (s : State) (p i : Nat) {h l : Nat} (b : h < 32) (c : l ≤ h) (d : i < l ∨ h < i) :
    (s.setBit p i).rdFld p h l = s.rdFld p h l := by
  apply Nat.eq_of_testBit_eq
  intro k
  unfold State.rdFld
  rw [fld_testBit, fld_testBit]
  by_cases e : k < h - l + 1
  · have := State.rdBit_setBit s p i (j := l + k) (by omega)
    unfold State.rdBit at this
    rw [← BitVec.testBit_toNat, ← BitVec.testBit_toNat] at this
    have n : decide (i = l + k) = false := by simp; omega
    rw [this, n, Bool.or_false]
  · simp [e]

theorem State.rdFld_clrBit_apart (s : State) (p i : Nat) {h l : Nat} (b : h < 32) (c : l ≤ h) (d : i < l ∨ h < i) :
    (s.clrBit p i).rdFld p h l = s.rdFld p h l := by
  apply Nat.eq_of_testBit_eq
  intro k
  unfold State.rdFld
  rw [fld_testBit, fld_testBit]
  by_cases e : k < h - l + 1
  · have := State.rdBit_clrBit s p i (j := l + k) (by omega)
    unfold State.rdBit at this
    rw [← BitVec.testBit_toNat, ← BitVec.testBit_toNat] at this
    have n : decide (i = l + k) = false := by simp; omega
    rw [this, n, Bool.not_false, Bool.and_true]
  · simp [e]

theorem State.rdBit_putBit (s : State) (p i : Nat) (b : Bool) {j : Nat} (h : j < 32) :
    (s.putBit p i b).rdBit p j = if i = j then b else s.rdBit p j := by
  unfold State.putBit
  cases b <;> by_cases e : i = j <;> simp [State.rdBit_setBit _ _ _ h, State.rdBit_clrBit _ _ _ h, e]

end Sys2Proof.Machine
end

