-- ==== Sys2Proof/Laws/Touches.lean ====
section
/-!
SUPPORT. What every operation of the model can do to the state: `Touches l s t` says that t differs from s only in the
components of l, and is canonical if s is. The files Laws/Touches<part>.lean give one lemma for each operation of a part of
the machine, named after the operation; the queue of waiting commands is in no list.
-/

-- One declaration after another: the package as one text then needs few threads at a time.
set_option Elab.async false

namespace Sys2Proof.Machine

open Safety (Component Same Frame Canonical)

structure Touches (l : List Component) (s t : State) : Prop where
  frame : Frame l s t
  canonical : Canonical s = true → Canonical t = true

theorem Same.refl (s : State) (c : Component) : Same s s c := by cases c <;> exact rfl

theorem Same.trans {a b d : State} {c : Component} (h : Same a b c) (k : Same b d c) : Same a d c := by
  cases c <;> exact Eq.trans k h

theorem Touches.refl (l : List Component) (s : State) : Touches l s s := ⟨fun c _ => Same.refl s c, id⟩

/-- One operation after another. -/
theorem Touches.via {l m : List Component} {a s t : State} (h : Touches l s t) (k : Touches m a s)
    (sub : ∀ c ∈ l, c ∈ m := by decide) : Touches m a t :=
  ⟨fun c hc => Same.trans (k.frame c hc) (h.frame c fun hl => hc (sub c hl)), fun x => h.canonical (k.canonical x)⟩

theorem Touches.within {k l m : List Component} {a s t : State} (h : Touches k s t) (hl : ∀ c ∈ l, c ∈ m)
    (sub : ∀ c ∈ k, c ∈ l := by decide) (x : Touches m a s) : Touches m a t := .via h x fun c hc => hl c (sub c hc)

theorem Touches.mono {l m : List Component} {s t : State} (h : Touches l s t)
    (sub : ∀ c ∈ l, c ∈ m := by decide) : Touches m s t := .via h (.refl _ _) sub

/-- The same of the components that it speaks of, apart. -/
def TouchesParts (l : List Component) (a : State) (pending : List Instr) (clock : Clock) (rf : RegFile) (tiles : Sparse Tile)
    (parts : Sparse Part) (mem : Store) (loupe : Sparse (Option Loupe)) (prism : Prism) (kal : Kal) (apt : AptUnit)
    (chan : ChanUnit) (ing : Ingress) (net : Net) (mgt : Mgt) (flt : Flt) (start : Start) (port : Port) (dbg : Dbg)
    (pkg : Pkg) (freeCount : Nat) (out : List Out) : Prop :=
  Touches l a (State.mk pending clock rf tiles parts mem loupe prism kal apt chan ing net mgt flt start port dbg pkg
    freeCount out)

theorem Touches.mk_iff (l : List Component) (a : State) (pending : List Instr) (clock : Clock) (rf : RegFile)
    (tiles : Sparse Tile) (parts : Sparse Part) (mem : Store) (loupe : Sparse (Option Loupe)) (prism : Prism) (kal : Kal)
    (apt : AptUnit) (chan : ChanUnit) (ing : Ingress) (net : Net) (mgt : Mgt) (flt : Flt) (start : Start) (port : Port)
    (dbg : Dbg) (pkg : Pkg) (freeCount : Nat) (out : List Out) :
    Touches l a (State.mk pending clock rf tiles parts mem loupe prism kal apt chan ing net mgt flt start port dbg pkg
      freeCount out) ↔ TouchesParts l a pending clock rf tiles parts mem loupe prism kal apt chan ing net mgt flt start port
      dbg pkg freeCount out := Iff.rfl

/-- A record update of a state: each component is in the list or stands, and the canonical maps stand. -/
theorem TouchesParts.upd {l : List Component} {a s : State} {pending : List Instr} {clock : Clock} {rf : RegFile}
    {tiles : Sparse Tile} {parts : Sparse Part} {mem : Store} {loupe : Sparse (Option Loupe)} {prism : Prism} {kal : Kal}
    {apt : AptUnit} {chan : ChanUnit} {ing : Ingress} {net : Net} {mgt : Mgt} {flt : Flt} {start : Start} {port : Port}
    {dbg : Dbg} {pkg : Pkg} {freeCount : Nat} {out : List Out} (h : Touches l a s)
    (e1 : pending = s.pending := by with_reducible exact rfl)
    (e2 : rf.file = s.rf.file := by with_reducible exact rfl)
    (e3 : mem.ls = s.mem.ls := by with_reducible exact rfl)
    (e4 : mem.dram = s.mem.dram := by with_reducible exact rfl)
    (e5 : start.flash = s.start.flash := by with_reducible exact rfl)
    (e6 : tiles = s.tiles := by with_reducible exact rfl)
    (e7 : parts = s.parts := by with_reducible exact rfl)
    (f1 : clock = s.clock ∨ Component.clock ∈ l := by first | exact .inr (by decide) | with_reducible exact .inl rfl)
    (f2 : rf = s.rf ∨ Component.rf ∈ l := by first | exact .inr (by decide) | with_reducible exact .inl rfl)
    (f3 : ({ mem with ls := [], dram := [] } : Store) = { s.mem with ls := [], dram := [] } ∨ Component.store ∈ l := by
      first | exact .inr (by decide) | with_reducible exact .inl rfl)
    (f4 : loupe = s.loupe ∨ Component.loupe ∈ l := by first | exact .inr (by decide) | with_reducible exact .inl rfl)
    (f5 : prism = s.prism ∨ Component.prism ∈ l := by first | exact .inr (by decide) | with_reducible exact .inl rfl)
    (f6 : kal = s.kal ∨ Component.kal ∈ l := by first | exact .inr (by decide) | with_reducible exact .inl rfl)
    (f7 : apt = s.apt ∨ Component.apt ∈ l := by first | exact .inr (by decide) | with_reducible exact .inl rfl)
    (f8 : chan = s.chan ∨ Component.chan ∈ l := by first | exact .inr (by decide) | with_reducible exact .inl rfl)
    (f9 : ing = s.ing ∨ Component.ing ∈ l := by first | exact .inr (by decide) | with_reducible exact .inl rfl)
    (f10 : net = s.net ∨ Component.net ∈ l := by first | exact .inr (by decide) | with_reducible exact .inl rfl)
    (f11 : mgt = s.mgt ∨ Component.mgt ∈ l := by first | exact .inr (by decide) | with_reducible exact .inl rfl)
    (f12 : flt = s.flt ∨ Component.flt ∈ l := by first | exact .inr (by decide) | with_reducible exact .inl rfl)
    (f13 : ({ start with flash := [] } : Start) = { s.start with flash := [] } ∨ Component.start ∈ l := by
      first | exact .inr (by decide) | with_reducible exact .inl rfl)
    (f14 : port = s.port ∨ Component.port ∈ l := by first | exact .inr (by decide) | with_reducible exact .inl rfl)
    (f15 : dbg = s.dbg ∨ Component.dbg ∈ l := by first | exact .inr (by decide) | with_reducible exact .inl rfl)
    (f16 : pkg = s.pkg ∨ Component.pkg ∈ l := by first | exact .inr (by decide) | with_reducible exact .inl rfl)
    (f17 : freeCount = s.freeCount ∨ Component.freeCount ∈ l := by first | exact .inr (by decide) | with_reducible exact .inl rfl)
    (f18 : out = s.out ∨ Component.out ∈ l := by first | exact .inr (by decide) | with_reducible exact .inl rfl) :
    TouchesParts l a pending clock rf tiles parts mem loupe prism kal apt chan ing net mgt flt start port dbg pkg
      freeCount out := by
  refine ⟨fun c hc => Same.trans (h.frame c hc) ?_, fun x => ?_⟩
  · cases c <;> first
      | assumption
      | exact Or.resolve_right (by assumption) hc
  · have := h.canonical x
    simpa only [Canonical, Memory.wf, e2, e3, e4, e5, e6, e7] using this

theorem Touches.ite {l : List Component} {a s t : State} {c : Prop} [Decidable c] (h : Touches l a s)
    (k : Touches l a t) : Touches l a (if c then s else t) := by split <;> assumption

theorem Touches.iteFst {β : Type} {l : List Component} {a : State} {s t : State × β} {c : Prop} [Decidable c]
    (h : Touches l a s.1) (k : Touches l a t.1) : Touches l a (if c then s else t).1 := by split <;> assumption

theorem Touches.iteSnd {β : Type} {l : List Component} {a : State} {s t : β × State} {c : Prop} [Decidable c]
    (h : Touches l a s.2) (k : Touches l a t.2) : Touches l a (if c then s else t).2 := by split <;> assumption

theorem Touches.iteRead {l : List Component} {a : State} {s t : ReadOut} {c : Prop} [Decidable c]
    (h : Touches l a s.st) (k : Touches l a t.st) : Touches l a (if c then s else t).st := by split <;> assumption

theorem Touches.iteGet {l : List Component} {a : State} {s t : GetOut} {c : Prop} [Decidable c]
    (h : Touches l a s.st) (k : Touches l a t.st) : Touches l a (if c then s else t).st := by split <;> assumption

theorem Touches.iteExtent {l : List Component} {a : State} {s t : ExtentOut} {c : Prop} [Decidable c]
    (h : Touches l a s.st) (k : Touches l a t.st) : Touches l a (if c then s else t).st := by split <;> assumption

theorem Touches.ofFst {β : Type} {l : List Component} {a t : State} {x : β} {p : State × β} (e : p = (t, x))
    (h : Touches l a p.1) : Touches l a t := by rw [e] at h; exact h

theorem Touches.ofSnd {β : Type} {l : List Component} {a t : State} {x : β} {p : β × State} (e : p = (x, t))
    (h : Touches l a p.2) : Touches l a t := by rw [e] at h; exact h

theorem Touches.ofMid {β γ : Type} {l : List Component} {a t : State} {x : β} {y : γ} {p : β × State × γ}
    (e : p = (x, t, y)) (h : Touches l a p.2.1) : Touches l a t := by rw [e] at h; exact h

theorem Touches.ofThird {β γ : Type} {l : List Component} {a t : State} {x : β} {y : γ} {p : β × γ × State}
    (e : p = (x, y, t)) (h : Touches l a p.2.2) : Touches l a t := by rw [e] at h; exact h

theorem Touches.foldl {β : Type} {l : List Component} {a : State} {f : State → β → State} (xs : List β)
    (hf : ∀ s x, Touches l s (f s x)) : ∀ {s : State}, Touches l a s → Touches l a (xs.foldl f s) := by
  induction xs with
  | nil => exact fun h => h
  | cons x xs ih => exact fun h => ih (.via (hf _ x) h fun _ => id)

theorem Touches.foldlSnd {β γ : Type} {l : List Component} {a : State} {f : γ × State → β → γ × State} (xs : List β)
    (hf : ∀ s x, Touches l s.2 (f s x).2) : ∀ {s : γ × State}, Touches l a s.2 → Touches l a (xs.foldl f s).2 := by
  induction xs with
  | nil => exact fun h => h
  | cons x xs ih => exact fun h => ih (.via (hf _ x) h fun _ => id)

theorem Touches.foldlFst {β γ : Type} {l : List Component} {a : State} {f : State × γ → β → State × γ} (xs : List β)
    (hf : ∀ s x, Touches l s.1 (f s x).1) : ∀ {s : State × γ}, Touches l a s.1 → Touches l a (xs.foldl f s).1 := by
  induction xs with
  | nil => exact fun h => h
  | cons x xs ih => exact fun h => ih (.via (hf _ x) h fun _ => id)

theorem Touches.foldlExtent {β : Type} {l : List Component} {a : State} {f : ExtentOut → β → ExtentOut} (xs : List β)
    (hf : ∀ r x, Touches l r.st (f r x).st) : ∀ {r : ExtentOut}, Touches l a r.st → Touches l a (xs.foldl f r).st := by
  induction xs with
  | nil => exact fun h => h
  | cons x xs ih => exact fun h => ih (.via (hf _ x) h fun _ => id)

/-! ### Writes of the canonical maps -/

theorem Touches.setFile (s : State) (p : Nat) (v : Word) : Touches [.rf] s (s.wr p v) := by
  refine ⟨fun c hc => by cases c <;> first | rfl | exact absurd (by decide) hc, fun x => ?_⟩
  simp only [Canonical, Bool.and_eq_true] at x ⊢
  exact ⟨⟨⟨x.1.1.1, Sparse.wf_set p v x.1.1.2⟩, x.1.2⟩, x.2⟩

theorem Touches.setTile (s : State) (t : Nat) (v : Tile) : Touches [.tiles] s (s.setTile t v) := by
  refine ⟨fun c hc => by cases c <;> first | rfl | exact absurd (by decide) hc, fun x => ?_⟩
  simp only [Canonical, Bool.and_eq_true] at x ⊢
  exact ⟨⟨x.1.1, Sparse.wf_setC t v x.1.2⟩, x.2⟩

theorem Touches.setPart (s : State) (p : Nat) (v : Part) : Touches [.parts] s (s.setPart p v) := by
  refine ⟨fun c hc => by cases c <;> first | rfl | exact absurd (by decide) hc, fun x => ?_⟩
  simp only [Canonical, Bool.and_eq_true] at x ⊢
  exact ⟨x.1, Sparse.wf_setC p v x.2⟩

/-- A new store whose byte lists are canonical if the old one's are. -/
theorem Touches.setMem {l : List Component} (s : State) (m : Store) (hm : Memory.wf s.mem = true → Memory.wf m = true)
    (f1 : m.ls = s.mem.ls ∨ Component.ls ∈ l := by first | exact .inr (by decide) | with_reducible exact .inl rfl)
    (f2 : m.dram = s.mem.dram ∨ Component.dram ∈ l := by first | exact .inr (by decide) | with_reducible exact .inl rfl)
    (f3 : ({ m with ls := [], dram := [] } : Store) = { s.mem with ls := [], dram := [] } ∨ Component.store ∈ l := by
      first | exact .inr (by decide) | with_reducible exact .inl rfl) :
    Touches l s { s with mem := m } := by
  refine ⟨fun c hc => by cases c <;> first | rfl | exact Or.resolve_right (by assumption) hc, fun x => ?_⟩
  simp only [Canonical, Bool.and_eq_true] at x ⊢
  exact ⟨⟨⟨⟨hm x.1.1.1.1, x.1.1.1.2⟩, x.1.1.2⟩, x.1.2⟩, x.2⟩

theorem Touches.setFlash {l : List Component} (s : State) (m : Start)
    (hm : Sparse.wf (fun _ => (0xFF : Byte)) s.start.flash = true → Sparse.wf (fun _ => (0xFF : Byte)) m.flash = true)
    (f1 : m.flash = s.start.flash ∨ Component.flash ∈ l := by first | exact .inr (by decide) | with_reducible exact .inl rfl)
    (f2 : ({ m with flash := [] } : Start) = { s.start with flash := [] } ∨ Component.start ∈ l := by
      first | exact .inr (by decide) | with_reducible exact .inl rfl) :
    Touches l s { s with start := m } := by
  refine ⟨fun c hc => by cases c <;> first | rfl | exact Or.resolve_right (by assumption) hc, fun x => ?_⟩
  simp only [Canonical, Bool.and_eq_true] at x ⊢
  exact ⟨⟨⟨⟨x.1.1.1.1, hm x.1.1.1.2⟩, x.1.1.2⟩, x.1.2⟩, x.2⟩

/-! ### Outcomes -/

/-- What a command's outcome touches, whatever next state it answers. -/
structure TouchesOut (l : List Component) (a : State) (o : Host.Outcome State Fault Refusal) : Prop where
  of : ∀ t, o = .next t → Touches l a t

theorem TouchesOut.next {l : List Component} {a t : State} (h : Touches l a t) : TouchesOut l a (.next t) := by
  constructor; intro u e; cases e; exact h

theorem TouchesOut.ite {l : List Component} {a : State} {o p : Host.Outcome State Fault Refusal} {c : Prop}
    [Decidable c] (h : TouchesOut l a o) (k : TouchesOut l a p) : TouchesOut l a (if c then o else p) := by
  split <;> assumption

theorem TouchesOut.mono {l m : List Component} {a : State} {o : Host.Outcome State Fault Refusal}
    (h : TouchesOut l a o) (sub : ∀ c ∈ l, c ∈ m := by decide) : TouchesOut m a o := ⟨fun t e => (h.of t e).mono sub⟩

/-- The same of a state that may be absent. -/
structure TouchesOpt (l : List Component) (a : State) (o : Option State) : Prop where
  of : ∀ t, o = some t → Touches l a t

theorem TouchesOpt.some {l : List Component} {a t : State} (h : Touches l a t) : TouchesOpt l a (some t) := by
  constructor; intro u e; cases e; exact h

theorem TouchesOpt.none {l : List Component} {a : State} : TouchesOpt l a none := by constructor; intro u e; cases e

theorem TouchesOpt.ite {l : List Component} {a : State} {o p : Option State} {c : Prop} [Decidable c]
    (h : TouchesOpt l a o) (k : TouchesOpt l a p) : TouchesOpt l a (if c then o else p) := by split <;> assumption

end Sys2Proof.Machine
end

