-- ==== Sys2Proof/Laws/TouchesOps.lean ====
section
/-!
SUPPORT. Registers, faults and memories:
what each operation touches (`Touches`): the components it may change, the queue never, and that it keeps the canonical form.
-/

-- One declaration after another: the package as one text then needs few threads at a time.
set_option Elab.async false

set_option linter.unusedVariables false
set_option linter.unusedSimpArgs false

namespace Sys2Proof.Machine

open Safety (Component)

theorem State.wr_touches (s : State) (p : Nat) (v : Word) : Touches [.rf] s (s.wr p v) := Touches.setFile s p v

theorem State.wrFld_touches (s : State) (p hi lo v : Nat) :
    Touches [.rf] s (State.wrFld s p hi lo v) := by
  delta State.wrFld
  with_reducible repeat' first | exact Touches.refl _ _ | apply Touches.via (State.wr_touches ..)

theorem State.setBit_touches (s : State) (p i : Nat) :
    Touches [.rf] s (State.setBit s p i) := by
  delta State.setBit
  with_reducible repeat' first | exact Touches.refl _ _ | apply Touches.via (State.wr_touches ..)

theorem State.clrBit_touches (s : State) (p i : Nat) :
    Touches [.rf] s (State.clrBit s p i) := by
  delta State.clrBit
  with_reducible repeat' first | exact Touches.refl _ _ | apply Touches.via (State.wr_touches ..)

theorem State.putBit_touches (s : State) (p i : Nat) (b : Bool) :
    Touches [.rf] s (State.putBit s p i b) := by
  delta State.putBit
  with_reducible repeat' first
    | exact Touches.refl _ _ | apply Touches.ite | apply Touches.via (State.setBit_touches ..)
    | apply Touches.via (State.clrBit_touches ..)

theorem State.bumpFld_touches (s : State) (p hi lo n : Nat) :
    Touches [.rf] s (State.bumpFld s p hi lo n) := by
  delta State.bumpFld
  with_reducible repeat' first | exact Touches.refl _ _ | apply Touches.via (State.wrFld_touches ..)

theorem State.bump_touches (s : State) (p n : Nat) :
    Touches [.rf] s (State.bump s p n) := by
  delta State.bump
  with_reducible repeat' first | exact Touches.refl _ _ | apply Touches.via (State.bumpFld_touches ..)

theorem State.reach_touches (s : State) (g : Nat) :
    Touches [.clock] s (State.reach s g) := by
  delta State.reach
  with_reducible repeat' first
    | exact Touches.refl _ _ | (simp only [Touches.mk_iff]; refine TouchesParts.upd ?_) | apply Touches.ite

theorem State.emit_touches (s : State) (o : Out) :
    Touches [.out] s (State.emit s o) := by
  delta State.emit
  with_reducible repeat' first | exact Touches.refl _ _ | (simp only [Touches.mk_iff]; refine TouchesParts.upd ?_)

theorem State.fresh_touches (s : State) :
    Touches [.freeCount] s (State.fresh s).2 := by
  delta State.fresh
  with_reducible repeat' first | exact Touches.refl _ _ | (simp only [Touches.mk_iff]; refine TouchesParts.upd ?_)

theorem State.pmcAt_touches (s : State) (code v c : Nat) :
    Touches [.rf, .dbg] s (State.pmcAt s code v c) := by
  delta State.pmcAt
  with_reducible repeat' first
    | exact Touches.refl _ _ | (simp only [Touches.mk_iff]; refine TouchesParts.upd ?_) | apply Touches.ite
    | apply Touches.via (State.setBit_touches ..)

theorem State.pmcRange_touches (s : State) (first n code v : Nat) :
    Touches [.rf, .dbg] s (State.pmcRange s first n code v) := by
  delta State.pmcRange
  with_reducible repeat' first
    | exact Touches.refl _ _ | apply Touches.via (State.pmcAt_touches ..) | refine Touches.foldl _ ?_ ?_ | intro _ _

theorem State.pmcTile_touches (s : State) (t code v : Nat) :
    Touches [.rf, .dbg] s (State.pmcTile s t code v) := by
  delta State.pmcTile
  with_reducible repeat' first | exact Touches.refl _ _ | apply Touches.via (State.pmcRange_touches ..)

theorem State.pmcHbm_touches (s : State) (k code v : Nat) :
    Touches [.rf, .dbg] s (State.pmcHbm s k code v) := by
  delta State.pmcHbm
  with_reducible repeat' first | exact Touches.refl _ _ | apply Touches.via (State.pmcRange_touches ..)

theorem State.pmcLink_touches (s : State) (l code v : Nat) :
    Touches [.rf, .dbg] s (State.pmcLink s l code v) := by
  delta State.pmcLink
  with_reducible repeat' first | exact Touches.refl _ _ | apply Touches.via (State.pmcRange_touches ..)

theorem State.pmcPrism_touches (s : State) (die code v : Nat) :
    Touches [.rf, .dbg] s (State.pmcPrism s die code v) := by
  delta State.pmcPrism
  with_reducible repeat' first | exact Touches.refl _ _ | apply Touches.via (State.pmcRange_touches ..)

theorem State.setTile_touches (s : State) (t : Nat) (x : Tile) : Touches [.tiles] s (s.setTile t x) :=
  Touches.setTile s t x

theorem State.modTile_touches (s : State) (t : Nat) (f : Tile → Tile) :
    Touches [.tiles] s (State.modTile s t f) := by
  delta State.modTile
  with_reducible repeat' first | exact Touches.refl _ _ | apply Touches.via (State.setTile_touches ..)

theorem State.setPart_touches (s : State) (p : Nat) (x : Part) : Touches [.parts] s (s.setPart p x) :=
  Touches.setPart s p x

theorem State.modPart_touches (s : State) (p : Nat) (f : Part → Part) :
    Touches [.parts] s (State.modPart s p f) := by
  delta State.modPart
  with_reducible repeat' first | exact Touches.refl _ _ | apply Touches.via (State.setPart_touches ..)

theorem State.modTenant_touches (s : State) (v : Nat) (f : Tenant → Tenant) :
    Touches [.chan] s (State.modTenant s v f) := by
  delta State.modTenant
  with_reducible repeat' first | exact Touches.refl _ _ | (simp only [Touches.mk_iff]; refine TouchesParts.upd ?_)

theorem State.modLink_touches (s : State) (l : Nat) (f : Link → Link) :
    Touches [.net] s (State.modLink s l f) := by
  delta State.modLink
  with_reducible repeat' first | exact Touches.refl _ _ | (simp only [Touches.mk_iff]; refine TouchesParts.upd ?_)

theorem State.setContext_touches (s : State) (v p : Nat) (c : Option Context) :
    Touches [.chan] s (State.setContext s v p c) := by
  delta State.setContext
  with_reducible repeat' first | exact Touches.refl _ _ | (simp only [Touches.mk_iff]; refine TouchesParts.upd ?_)

theorem State.report_touches (s : State) (unit p tensor : Nat) (es : List (Val × Bool)) :
    Touches [.loupe] s (State.report s unit p tensor es) := by
  delta State.report
  with_reducible repeat' first
    | exact Touches.refl _ _ | (simp only [Touches.mk_iff]; refine TouchesParts.upd ?_) | apply Touches.ite

theorem State.clearLoupe_touches (s : State) (p : Nat) :
    Touches [.loupe] s (State.clearLoupe s p) := by
  delta State.clearLoupe
  with_reducible repeat' first | exact Touches.refl _ _ | (simp only [Touches.mk_iff]; refine TouchesParts.upd ?_)

theorem State.tellDm_touches (s : State) (kind : String) (args : List Nat) :
    Touches [.out] s (State.tellDm s kind args) := by
  delta State.tellDm
  with_reducible repeat' first | exact Touches.refl _ _ | apply Touches.via (State.emit_touches ..)

theorem State.ibi_touches (s : State) (cause : Byte) :
    Touches [.mgt, .out] s (State.ibi s cause) := by
  delta State.ibi
  with_reducible repeat' first
    | exact Touches.refl _ _ | (simp only [Touches.mk_iff]; refine TouchesParts.upd ?_) | apply Touches.ite
    | apply Touches.via (State.emit_touches ..)

theorem State.logEvent_touches (s : State) (r : EvRec) :
    Touches [.rf, .flt] s (State.logEvent s r) := by
  delta State.logEvent
  with_reducible repeat' first
    | exact Touches.refl _ _ | (simp only [Touches.mk_iff]; refine TouchesParts.upd ?_) | apply Touches.ite
    | apply Touches.via (State.setBit_touches ..) | apply Touches.via (State.bump_touches ..)

theorem State.warn_touches (s : State) (source : Nat) :
    Touches [.rf, .mgt, .flt, .out] s (State.warn s source) := by
  delta State.warn
  with_reducible repeat' first
    | exact Touches.refl _ _ | (simp only [Touches.mk_iff]; refine TouchesParts.upd ?_) | apply Touches.ite
    | apply Touches.via (State.setBit_touches ..) | apply Touches.via (State.tellDm_touches ..)
    | apply Touches.via (State.ibi_touches ..) | apply Touches.via (State.logEvent_touches ..)

theorem State.sendMsix_touches (s : State) (fn vec : Nat) :
    Touches [.chan, .out] s (State.sendMsix s fn vec) := by
  delta State.sendMsix
  with_reducible repeat' first
    | exact Touches.refl _ _ | (simp only [Touches.mk_iff]; refine TouchesParts.upd ?_) | apply Touches.ite
    | apply Touches.via (State.emit_touches ..)

theorem State.fenceVectors_touches (s : State) :
    Touches [.chan, .out] s (State.fenceVectors s) := by
  delta State.fenceVectors
  with_reducible repeat' first
    | exact Touches.refl _ _ | apply Touches.via (State.sendMsix_touches ..) | refine Touches.foldl _ ?_ ?_
    | intro _ _

theorem State.startReset_touches (s : State) (guilty : Option Nat) (tenant : Option Nat) (admin : Bool) :
    Touches [.rf, .chan, .flt, .out] s (State.startReset s guilty tenant admin) := by
  delta State.startReset
  with_reducible repeat' first
    | exact Touches.refl _ _ | (simp only [Touches.mk_iff]; refine TouchesParts.upd ?_) | apply Touches.ite
    | apply Touches.via (State.wrFld_touches ..) | apply Touches.via (State.bumpFld_touches ..)
    | apply Touches.via (State.tellDm_touches ..) | apply Touches.via (State.fenceVectors_touches ..) | split

theorem State.faultTile_touches (s : State) (t : Nat) (r : EvRec) :
    Touches [.rf, .tiles, .chan, .flt, .out] s (State.faultTile s t r) := by
  delta State.faultTile
  with_reducible repeat' first
    | exact Touches.refl _ _ | apply Touches.via (State.modTile_touches ..)
    | apply Touches.via (State.logEvent_touches ..) | apply Touches.via (State.startReset_touches ..)

theorem State.faultTileAt_touches (s : State) (t source space addr : Nat) :
    Touches [.rf, .tiles, .chan, .flt, .out] s (State.faultTileAt s t source space addr) := by
  delta State.faultTileAt
  with_reducible repeat' first | exact Touches.refl _ _ | apply Touches.via (State.faultTile_touches ..)

theorem State.noteLsCe_touches (s : State) (t : Nat) :
    Touches [.rf, .store, .mgt, .flt, .out] s (State.noteLsCe s t) := by
  delta State.noteLsCe
  with_reducible repeat' first
    | exact Touches.refl _ _ | (simp only [Touches.mk_iff]; refine TouchesParts.upd ?_) | apply Touches.ite
    | apply Touches.via (State.bump_touches ..) | apply Touches.via (State.warn_touches ..)

theorem State.noteHbmCe_touches (s : State) (k : Nat) :
    Touches [.rf, .store, .mgt, .flt, .dbg, .out] s (State.noteHbmCe s k) := by
  delta State.noteHbmCe
  with_reducible repeat' first
    | exact Touches.refl _ _ | (simp only [Touches.mk_iff]; refine TouchesParts.upd ?_) | apply Touches.ite
    | apply Touches.via (State.setBit_touches ..) | apply Touches.via (State.bump_touches ..)
    | apply Touches.via (State.pmcHbm_touches ..) | apply Touches.via (State.warn_touches ..)

theorem State.noteHbmUe_touches (s : State) (da : Nat) :
    Touches [.rf, .store] s (State.noteHbmUe s da) := by
  delta State.noteHbmUe
  with_reducible repeat' first
    | exact Touches.refl _ _ | (simp only [Touches.mk_iff]; refine TouchesParts.upd ?_)
    | apply Touches.via (State.setBit_touches ..) | apply Touches.via (State.bump_touches ..)

theorem State.readLs_touches (s : State) (t : Nat) (as : List Nat) :
    Touches [.rf, .store, .mgt, .flt, .out] s (State.readLs s t as).st := by
  delta State.readLs
  with_reducible repeat' first
    | exact Touches.refl _ _ | (simp only [Touches.mk_iff]; refine TouchesParts.upd ?_) | apply Touches.ite
    | apply Touches.via (State.noteLsCe_touches ..) | refine Touches.foldl _ ?_ ?_ | intro _ _ | split

theorem State.pokeLs_touches (s : State) (t : Nat) (l : List (Nat × Byte)) : Touches [.ls] s (s.pokeLs t l) := by
  refine Touches.setMem s _ fun h => ?_
  have key : ∀ (l : List (Nat × Byte)) (m : List Host.Cell), Sparse.wf (fun _ => 0) m = true →
      Sparse.wf (fun _ => 0) (l.foldl (fun (m : Sparse Byte) e => Sparse.set 0 m (lsKey t e.1) e.2) m) = true := by
    intro l
    induction l with
    | nil => exact fun m h => h
    | cons e l ih => exact fun m h => ih _ (Sparse.wf_setC _ _ h)
  simp only [Memory.wf, Bool.and_eq_true] at h ⊢
  exact ⟨key l _ h.1, h.2⟩

theorem State.writeLs_touches (s : State) (t : Nat) (l : List (Nat × Byte)) :
    Touches [.rf, .ls, .store, .mgt, .flt, .out] s (State.writeLs s t l).2 := by
  delta State.writeLs
  with_reducible repeat' first
    | exact Touches.refl _ _ | (simp only [Touches.mk_iff]; refine TouchesParts.upd ?_)
    | apply Touches.via (State.noteLsCe_touches ..) | apply Touches.via (State.pokeLs_touches ..)
    | refine Touches.foldl _ ?_ ?_ | intro _ _ | dsimp only | split

theorem State.correctDev_touches (s : State) (das : List Nat) :
    Touches [.rf, .store, .mgt, .flt, .dbg, .out] s (State.correctDev s das) := by
  delta State.correctDev
  with_reducible repeat' first
    | exact Touches.refl _ _ | (simp only [Touches.mk_iff]; refine TouchesParts.upd ?_) | apply Touches.ite
    | apply Touches.via (State.noteHbmCe_touches ..) | refine Touches.foldl _ ?_ ?_ | intro _ _

theorem State.readDev_touches (s : State) (das : List Nat) :
    Touches [.rf, .store, .mgt, .flt, .dbg, .out] s (State.readDev s das).st := by
  delta State.readDev
  with_reducible repeat' first
    | exact Touches.refl _ _ | apply Touches.via (State.setBit_touches ..)
    | apply Touches.via (State.noteHbmUe_touches ..) | apply Touches.via (State.correctDev_touches ..) | dsimp only
    | split

theorem State.pokeDev_touches (s : State) (l : List (Nat × Byte)) : Touches [.dram] s (s.pokeDev l) := by
  refine Touches.setMem s _ fun h => ?_
  have key : ∀ (l : List (Nat × Byte)) (m : List Host.Cell), Sparse.wf (fun _ => 0) m = true →
      Sparse.wf (fun _ => 0) (l.foldl (fun (m : Sparse Byte) e => if isHole e.1 then m else Sparse.set 0 m e.1 e.2) m)
        = true := by
    intro l
    induction l with
    | nil => exact fun m h => h
    | cons e l ih =>
      refine fun m h => ih _ ?_
      show Sparse.wf _ (if isHole e.1 then m else Sparse.set 0 m e.1 e.2) = true
      split
      · exact h
      · exact Sparse.wf_setC _ _ h
  simp only [Memory.wf, Bool.and_eq_true] at h ⊢
  exact ⟨h.1, key l _ h.2⟩

theorem State.writeDev_touches (s : State) (l : List (Nat × Byte)) :
    Touches [.rf, .dram, .store, .mgt, .flt, .dbg, .out] s (State.writeDev s l).2 := by
  delta State.writeDev
  with_reducible repeat' first
    | exact Touches.refl _ _ | (simp only [Touches.mk_iff]; refine TouchesParts.upd ?_) | apply Touches.ite
    | apply Touches.iteSnd | apply Touches.via (State.setBit_touches ..)
    | apply Touches.via (State.noteHbmCe_touches ..) | apply Touches.via (State.noteHbmUe_touches ..)
    | apply Touches.via (State.pokeDev_touches ..) | refine Touches.foldl _ ?_ ?_ | intro _ _

theorem State.inject_touches (l : List CellError) : ∀ (s : State), Touches [.dram, .store, .freeCount] s (s.inject l) := by
  induction l with
  | nil => exact fun s => .refl _ s
  | cons e l ih =>
    intro s
    refine .via (ih _) ?_
    cases e with
    | hbmMiscorrected da =>
      have := Touches.via (m := [.dram, .store, .freeCount]) (State.pokeDev_touches s.fresh.2
        ((List.range 64).map fun i => (da.toNat / 64 * 64 + i, Config.miscorrected s.fresh.1 i)))
        (.mono (State.fresh_touches s))
      exact TouchesParts.upd this
    | _ => exact TouchesParts.upd (.refl _ s)

theorem State.readTen_touches (s : State) (v a n : Nat) :
    Touches [.rf, .store, .mgt, .flt, .dbg, .out] s (State.readTen s v a n).st := by
  delta State.readTen
  with_reducible repeat' first | exact Touches.refl _ _ | apply Touches.via (State.readDev_touches ..) | split

theorem State.meet_touches (s : State) (v a n : Nat) :
    Touches [.rf, .store, .mgt, .flt, .dbg, .out] s (State.meet s v a n) := by
  delta State.meet
  with_reducible repeat' first | exact Touches.refl _ _ | apply Touches.via (State.readTen_touches ..)

theorem State.writeTen_touches (s : State) (v a : Nat) (bytes : List Byte) :
    Touches [.rf, .dram, .store, .mgt, .flt, .dbg, .out] s (State.writeTen s v a bytes).2 := by
  delta State.writeTen
  with_reducible repeat' first | exact Touches.refl _ _ | apply Touches.via (State.writeDev_touches ..) | split

end Sys2Proof.Machine
end

