-- ==== Sys2Proof/Laws/TouchesTile.lean ====
section
/-!
SUPPORT. A tile and its slots, Apertures, the boot flash:
what each operation touches (`Touches`): the components it may change, the queue never, and that it keeps the canonical form.
-/

-- One declaration after another: the package as one text then needs few threads at a time.
set_option Elab.async false

set_option linter.unusedVariables false
set_option linter.unusedSimpArgs false

namespace Sys2Proof.Machine

open Safety (Component)

theorem State.lsUe_touches (s : State) (t a : Nat) :
    Touches [.rf, .tiles, .chan, .flt, .out] s (State.lsUe s t a) := by
  delta State.lsUe
  with_reducible repeat' first
    | exact Touches.refl _ _ | apply Touches.ite | apply Touches.via (State.wr_touches ..)
    | apply Touches.via (State.setBit_touches ..) | apply Touches.via (State.faultTileAt_touches ..)

theorem State.trouble_touches (s : State) (t : Nat) (x : Trouble) :
    Touches [.rf, .tiles, .chan, .flt, .out] s (s.trouble t x) := by
  cases x with
  | ls o b => exact Touches.mono (State.lsUe_touches s o b)
  | mem da => exact Touches.mono (State.faultTileAt_touches s t 0x03 3 da)
  | gone b => exact Touches.mono (State.faultTile_touches s t _)

theorem State.getBytes_touches (s : State) (t : Nat) (d : Desc) (a n : Nat) :
    Touches [.rf, .store, .mgt, .flt, .dbg, .out] s (State.getBytes s t d a n).st := by
  delta State.getBytes
  with_reducible repeat' first
    | exact Touches.refl _ _ | apply Touches.via (State.readLs_touches ..)
    | apply Touches.via (State.readDev_touches ..) | split

theorem State.getAll_touches (l : List (Nat × Nat)) : ∀ (s : State) (t : Nat) (d : Desc),
    Touches [.rf, .store, .mgt, .flt, .dbg, .out] s (s.getAll t d l).st := by
  induction l with
  | nil => exact fun s t d => .refl _ s
  | cons e l ih =>
    intro s t d
    have h := State.getBytes_touches s t d e.1 e.2
    simp only [State.getAll]
    split
    · exact h
    · exact .via (ih _ _ _) h

theorem State.putBytes_touches (s : State) (t : Nat) (d : Desc) (a : Nat) (bytes : List Byte) :
    Touches [.rf, .ls, .dram, .store, .mgt, .flt, .dbg, .out] s (State.putBytes s t d a bytes).2 := by
  delta State.putBytes
  with_reducible repeat' first
    | exact Touches.refl _ _ | apply Touches.via (State.writeLs_touches ..)
    | apply Touches.via (State.writeDev_touches ..) | split

theorem State.putAll_touches (l : List (Nat × List Byte)) : ∀ (s : State) (t : Nat) (d : Desc),
    Touches [.rf, .ls, .dram, .store, .mgt, .flt, .dbg, .out] s (s.putAll t d l).2 := by
  induction l with
  | nil => exact fun s t d => .refl _ s
  | cons e l ih =>
    intro s t d
    have h := State.putBytes_touches s t d e.1 e.2
    simp only [State.putAll]
    split <;> rename_i e2 <;> rw [e2] at h
    · exact h
    · exact .via (ih _ _ _) h

theorem State.unitPut_touches (s : State) (t : Nat) (d : Desc) (l : List (Nat × List Byte)) :
    Touches [.rf, .ls, .dram, .store, .mgt, .flt, .dbg, .freeCount, .out] s (State.unitPut s t d l).2 := by
  delta State.unitPut
  with_reducible repeat' first
    | exact Touches.refl _ _ | apply Touches.via (State.fresh_touches ..)
    | apply Touches.via (State.putAll_touches ..) | split

theorem State.startOp_touches (s : State) (t : Nat) (o : NewOp) :
    Touches [.tiles] s (State.startOp s t o) := by
  delta State.startOp
  with_reducible repeat' first | exact Touches.refl _ _ | apply Touches.via (State.modTile_touches ..)

theorem State.digest_touches (s : State) (t op : Nat) (bytes : List Byte) (done : Bool) :
    Touches [.tiles] s (State.digest s t op bytes done) := by
  delta State.digest
  with_reducible repeat' first | exact Touches.refl _ _ | apply Touches.via (State.modTile_touches ..)

theorem State.digestFill_touches (s : State) (t op : Nat) (bytes : List Byte) :
    Touches [.tiles] s (State.digestFill s t op bytes) := by
  delta State.digestFill
  with_reducible repeat' first | exact Touches.refl _ _ | apply Touches.via (State.modTile_touches ..)

theorem State.reportTile_touches (s : State) (t : Nat) (d : Desc) (es : List (Val × Bool)) :
    Touches [.loupe] s (State.reportTile s t d es) := by
  delta State.reportTile
  with_reducible repeat' first
    | exact Touches.refl _ _ | apply Touches.ite | apply Touches.via (State.report_touches ..)

theorem State.exception_touches (s : State) (t : Nat) (code : Nat) (b : Bundle) :
    Touches [.rf, .tiles, .chan, .flt, .out] s (State.exception s t code b) := by
  delta State.exception
  with_reducible repeat' first | exact Touches.refl _ _ | apply Touches.via (State.faultTile_touches ..)

theorem State.mapGranules_touches (s : State) (d : Nat) (gs : List Nat) (add : Bool) :
    Touches [.apt] s (State.mapGranules s d gs add) := by
  delta State.mapGranules
  with_reducible repeat' first | exact Touches.refl _ _ | (simp only [Touches.mk_iff]; refine TouchesParts.upd ?_)

theorem State.installApt_touches (s : State) (key : Nat) (d : BitVec 512) (entries : List Dword) :
    Touches [.apt] s (State.installApt s key d entries) := by
  delta State.installApt
  with_reducible repeat' first
    | exact Touches.refl _ _ | (simp only [Touches.mk_iff]; refine TouchesParts.upd ?_)
    | apply Touches.via (State.mapGranules_touches ..)

theorem State.aptBusy_touches (s : State) (b : Bool) :
    Touches [.rf] s (State.aptBusy s b) := by
  delta State.aptBusy
  with_reducible repeat' first | exact Touches.refl _ _ | apply Touches.via (State.putBit_touches ..)

theorem State.installOrWait_touches (s : State) (key : Nat) (new : Option (BitVec 512 × List Dword)) :
    Touches [.apt] s (State.installOrWait s key new) := by
  delta State.installOrWait
  with_reducible repeat' first
    | exact Touches.refl _ _ | (simp only [Touches.mk_iff]; refine TouchesParts.upd ?_)
    | apply Touches.via (State.installApt_touches ..) | split

theorem State.lineView_touches (s : State) (t line : Nat) :
    Touches [.apt] s (State.lineView s t line) := by
  delta State.lineView
  with_reducible repeat' first
    | exact Touches.refl _ _ | (simp only [Touches.mk_iff]; refine TouchesParts.upd ?_) | split

theorem State.finishDrain_touches (s : State) (x : AptDrain) :
    Touches [.rf, .apt] s (State.finishDrain s x) := by
  delta State.finishDrain
  with_reducible repeat' first
    | exact Touches.refl _ _ | (simp only [Touches.mk_iff]; refine TouchesParts.upd ?_) | apply Touches.ite
    | apply Touches.via (State.setBit_touches ..) | apply Touches.via (State.mapGranules_touches ..)
    | apply Touches.via (State.aptBusy_touches ..) | apply Touches.via (State.installOrWait_touches ..)

theorem State.aptSettle_touches (s : State) :
    Touches [.rf, .apt] s (State.aptSettle s) := by
  delta State.aptSettle
  with_reducible repeat' first
    | exact Touches.refl _ _ | apply Touches.ite | apply Touches.via (State.finishDrain_touches ..) | split

theorem State.beginDrain_touches (s : State) (key : Nat) (new : Option (BitVec 512 × List Dword)) (keep : Bool) :
    Touches [.rf, .apt] s (State.beginDrain s key new keep) := by
  delta State.beginDrain
  with_reducible repeat' first
    | exact Touches.refl _ _ | (simp only [Touches.mk_iff]; refine TouchesParts.upd ?_)
    | apply Touches.via (State.aptSettle_touches ..)

theorem State.aptDrop_touches (s : State) (v i : Nat) (keep : Bool) :
    Touches [.rf, .apt] s (State.aptDrop s v i keep) := by
  delta State.aptDrop
  with_reducible repeat' first
    | exact Touches.refl _ _ | apply Touches.ite | apply Touches.via (State.aptBusy_touches ..)
    | apply Touches.via (State.beginDrain_touches ..)

theorem State.aptCommit_touches (s : State) (v i d : Nat) :
    Touches [.rf, .store, .apt, .mgt, .flt, .dbg, .out] s (State.aptCommit s v i d).2 := by
  delta State.aptCommit
  with_reducible repeat' first
    | exact Touches.refl _ _ | apply Touches.via (State.readDev_touches ..)
    | apply Touches.via (State.aptBusy_touches ..) | apply Touches.via (State.installOrWait_touches ..)
    | apply Touches.via (State.beginDrain_touches ..) | apply Touches.via (State.aptDrop_touches ..) | dsimp only
    | split

theorem State.flashWrite_touches (s : State) (a : Nat) (l : List Byte) : Touches [.flash] s (s.flashWrite a l) :=
  Touches.setFlash s _ (fun h => Sparse.wf_setRange l a h)

theorem State.flashErase_touches (s : State) (a n : Nat) : Touches [.flash] s (s.flashErase a n) :=
  Touches.setFlash s _ (fun h => Sparse.wf_clear a n h)

theorem State.writeBcb_touches (s : State) (pref trial : Bool) (tries : Nat) :
    Touches [.flash] s (State.writeBcb s pref trial tries) := by
  delta State.writeBcb
  with_reducible repeat' first
    | exact Touches.refl _ _ | apply Touches.via (State.flashWrite_touches ..)
    | apply Touches.via (State.flashErase_touches ..)

theorem State.replayJournal_touches (s : State) : Touches [.rf, .ing, .start] s s.replayJournal := by
  delta State.replayJournal
  split
  · exact TouchesParts.upd (.refl _ s)
  · exact TouchesParts.upd (.mono (State.setBit_touches s Reg.otpEvent 2)) (e5 := rfl)

theorem State.compactJournal_touches (s : State) (i : Nat) :
    Touches [.flash] s (State.compactJournal s i) := by
  delta State.compactJournal
  with_reducible repeat' first
    | exact Touches.refl _ _ | apply Touches.via (State.flashWrite_touches ..)
    | apply Touches.via (State.flashErase_touches ..)

theorem State.appendJournal_touches (s : State) (slot gen floor : Nat) :
    Touches [.flash] s (State.appendJournal s slot gen floor).2 := by
  delta State.appendJournal
  with_reducible repeat' first
    | exact Touches.refl _ _ | apply Touches.via (State.flashWrite_touches ..)
    | apply Touches.via (State.compactJournal_touches ..) | split

theorem State.semPut_touches (s : State) (v k : Nat) (n : Word) :
    Touches [.chan] s (State.semPut s v k n) := by
  delta State.semPut
  with_reducible repeat' first | exact Touches.refl _ _ | (simp only [Touches.mk_iff]; refine TouchesParts.upd ?_)

theorem State.semAdd_touches (s : State) (v k n : Nat) :
    Touches [.chan] s (State.semAdd s v k n) := by
  delta State.semAdd
  with_reducible repeat' first | exact Touches.refl _ _ | apply Touches.via (State.semPut_touches ..)

theorem State.s0Effect_touches (s : State) (t : Nat) (x : Tile) (w : Nat) :
    Touches [.tiles, .chan] s (State.s0Effect s t x w) := by
  delta State.s0Effect
  with_reducible repeat' first
    | exact Touches.refl _ _ | apply Touches.via (State.modTile_touches ..)
    | apply Touches.via (State.semPut_touches ..) | apply Touches.via (State.semAdd_touches ..) | split

theorem State.readRows_touches (s : State) (t : Nat) (d : Desc) (f : Fmt) (rows : Nat) :
    Touches [.rf, .store, .mgt, .flt, .dbg, .out] s (State.readRows s t d f rows).2.2 := by
  delta State.readRows
  with_reducible repeat' first
    | exact Touches.refl _ _ | apply Touches.via (State.getBytes_touches ..)
    | apply Touches.via (State.getAll_touches ..) | dsimp only | split

theorem State.accPe_touches (s : State) (t : Nat) :
    Touches [.rf, .tiles, .chan, .flt, .out] s (State.accPe s t) := by
  delta State.accPe
  with_reducible repeat' first
    | exact Touches.refl _ _ | apply Touches.via (State.setBit_touches ..)
    | apply Touches.via (State.faultTile_touches ..)

theorem State.mmaBlock_touches (s : State) (t : Nat) (o : MmaOp) (fa fb : Fmt) (as bs : List RowData) (j : Nat) :
    Touches [.tiles, .store] s (State.mmaBlock s t o fa fb as bs j).2 := by
  delta State.mmaBlock
  with_reducible repeat' first
    | exact Touches.refl _ _ | (simp only [Touches.mk_iff]; refine TouchesParts.upd ?_) | apply Touches.ite
    | apply Touches.via (State.modTile_touches ..)

theorem State.drawCycles_touches (s : State) (p n : Nat) :
    Touches [.parts] s (State.drawCycles s p n).2 := by
  delta State.drawCycles
  with_reducible repeat' first | exact Touches.refl _ _ | apply Touches.via (State.modPart_touches ..)

theorem mmaDrain_touches (t : Nat) (o : MmaOp) (fa fb fc : Fmt) (as bs : List RowData) (js : List Nat) :
    ∀ (s : State), Touches [.tiles, .store] s (mmaDrain t o fa fb fc as bs s js).2 := by
  induction js with
  | nil => exact fun s => .refl _ s
  | cons j js ih =>
    intro s
    have h := State.mmaBlock_touches s t o fa fb as bs j
    simp only [mmaDrain]
    split
    · exact h
    · exact .via (ih _) h

theorem State.mmaKeep_touches (s : State) (t : Nat) (o : MmaOp) (fa fb : Fmt) (as bs : List RowData) :
    Touches [.tiles, .store] s (State.mmaKeep s t o fa fb as bs).2 := by
  delta State.mmaKeep
  with_reducible repeat' first
    | exact Touches.refl _ _ | apply Touches.via (State.mmaBlock_touches ..) | refine Touches.foldlSnd _ ?_ ?_
    | intro _ _

theorem State.mmaProducts_touches (s : State) (t : Nat) (o : MmaOp) :
    Touches [.rf, .tiles, .ls, .dram, .store, .mgt, .flt, .dbg, .out] s (State.mmaProducts s t o).2.2.2 := by
  delta State.mmaProducts
  with_reducible repeat' first
    | exact Touches.refl _ _ | apply Touches.via (State.readRows_touches ..) | apply Touches.via (mmaDrain_touches ..)
    | apply Touches.via (State.mmaKeep_touches ..) | dsimp only | split

end Sys2Proof.Machine
end

