-- ==== Sys2Proof/Laws/TouchesPrism.lean ====
section
/-!
SUPPORT. Prism, the register interface and the optimiser:
what each operation touches (`Touches`): the components it may change, the queue never, and that it keeps the canonical form.
-/

-- One declaration after another: the package as one text then needs few threads at a time.
set_option Elab.async false

set_option linter.unusedVariables false
set_option linter.unusedSimpArgs false

namespace Sys2Proof.Machine

open Safety (Component)

theorem State.meetList_touches (s : State) (v a : Nat) :
    Touches [.rf, .store, .mgt, .flt, .dbg, .out] s (State.meetList s v a) := by
  delta State.meetList
  with_reducible repeat' first
    | exact Touches.refl _ _ | apply Touches.ite | apply Touches.via (State.meet_touches ..)

theorem State.markItems_touches (s : State) (v item : Nat) :
    Touches [.parts] s (State.markItems s v item) := by
  delta State.markItems
  with_reducible repeat' first
    | exact Touches.refl _ _ | apply Touches.ite | apply Touches.via (State.modPart_touches ..)
    | refine Touches.foldl _ ?_ ?_ | intro _ _

theorem State.putGroup_touches (s : State) (i : Nat) (e : BitVec 1024) :
    Touches [.parts, .prism] s (State.putGroup s i e) := by
  delta State.putGroup
  with_reducible repeat' first
    | exact Touches.refl _ _ | (simp only [Touches.mk_iff]; refine TouchesParts.upd ?_)
    | apply Touches.via (State.markItems_touches ..)

theorem State.setGroup_touches (s : State) (i : Nat) (e : BitVec 1024) :
    Touches [.parts, .prism] s (State.setGroup s i e) := by
  delta State.setGroup
  with_reducible repeat' first
    | exact Touches.refl _ _ | (simp only [Touches.mk_iff]; refine TouchesParts.upd ?_) | apply Touches.ite
    | apply Touches.via (State.putGroup_touches ..)

theorem State.applyGroups_touches (s : State) (p : Nat) :
    Touches [.parts, .prism] s (State.applyGroups s p) := by
  delta State.applyGroups
  with_reducible repeat' first
    | exact Touches.refl _ _ | (simp only [Touches.mk_iff]; refine TouchesParts.upd ?_)
    | apply Touches.via (State.putGroup_touches ..) | refine Touches.foldl _ ?_ ?_ | intro _ _

theorem State.setColl_touches (s : State) (c : Coll) :
    Touches [.prism] s (State.setColl s c) := by
  delta State.setColl
  with_reducible repeat' first | exact Touches.refl _ _ | (simp only [Touches.mk_iff]; refine TouchesParts.upd ?_)

theorem State.dropColl_touches (s : State) (id : CollId) :
    Touches [.prism] s (State.dropColl s id) := by
  delta State.dropColl
  with_reducible repeat' first | exact Touches.refl _ _ | (simp only [Touches.mk_iff]; refine TouchesParts.upd ?_)

theorem State.modColl_touches (s : State) (id : CollId) (f : Coll → Coll) :
    Touches [.prism] s (State.modColl s id f) := by
  delta State.modColl
  with_reducible repeat' first | exact Touches.refl _ _ | apply Touches.via (State.setColl_touches ..) | split

theorem State.collRun_touches (s : State) (c : Coll) (r : Run) :
    Touches [.rf, .store, .mgt, .flt, .dbg, .out] s (State.collRun s c r).1.st := by
  delta State.collRun
  with_reducible repeat' first
    | exact Touches.refl _ _ | apply Touches.via (State.getBytes_touches ..) | dsimp only | split

theorem State.collSource_touches (l : List Run) : ∀ (s : State) (c : Coll),
    Touches [.rf, .store, .mgt, .flt, .dbg, .out] s (s.collSource c l).1.st := by
  induction l with
  | nil => exact fun s c => .refl _ s
  | cons r l ih =>
    intro s c
    have h := State.collRun_touches s c r
    simp only [State.collSource]
    split
    · exact h
    · exact .via (ih _ _) h

theorem State.decide'_touches (s : State) (p : Nat) (d : Decision) :
    Touches [.parts] s (State.decide' s p d) := by
  unfold State.decide'
  with_reducible repeat' first | exact Touches.refl _ _ | apply Touches.via (State.modPart_touches ..)

theorem State.decideColl_touches (s : State) (c : Coll) (member : Nat) (kind : BitVec 4) (late : Word) (slot : BitVec 40) :
    Touches [.parts] s (State.decideColl s c member kind late slot) := by
  delta State.decideColl
  with_reducible repeat' first | exact Touches.refl _ _ | apply Touches.via (State.decide'_touches ..)

theorem State.failColl_touches (s : State) (c : Coll) (code : BitVec 8) :
    Touches [.rf, .prism] s (State.failColl s c code) := by
  delta State.failColl
  with_reducible repeat' first
    | exact Touches.refl _ _ | apply Touches.via (State.setBit_touches ..)
    | apply Touches.via (State.setColl_touches ..) | split

theorem State.toMembers_touches (s : State) (c : Coll) (kind : String) (args : List Nat) :
    Touches [.out] s (State.toMembers s c kind args) := by
  delta State.toMembers
  with_reducible repeat' first
    | exact Touches.refl _ _ | apply Touches.via (State.emit_touches ..) | refine Touches.foldl _ ?_ ?_ | intro _ _

theorem State.toRank_touches (s : State) (c : Coll) (r : Nat) (kind : String) (args : List Nat) (data side : List Byte) :
    Touches [.rf, .dbg, .out] s (State.toRank s c r kind args data side) := by
  delta State.toRank
  with_reducible repeat' first
    | exact Touches.refl _ _ | apply Touches.via (State.emit_touches ..)
    | apply Touches.via (State.pmcPrism_touches ..) | split

theorem State.slotMeet_touches (s : State) (c : Coll) (step : Nat) :
    Touches [.rf, .store, .mgt, .flt, .dbg, .out] s (State.slotMeet s c step).2 := by
  delta State.slotMeet
  with_reducible repeat' first | exact Touches.refl _ _ | apply Touches.via (State.getBytes_touches ..)

theorem State.slotStore_touches (s : State) (c : Coll) (data side : List Byte) :
    Touches [.rf, .tiles, .parts, .ls, .dram, .store, .chan, .mgt, .flt, .dbg, .freeCount, .out] s (State.slotStore s c data side) := by
  delta State.slotStore
  with_reducible repeat' first
    | exact Touches.refl _ _ | apply Touches.via (State.trouble_touches ..)
    | apply Touches.via (State.unitPut_touches ..) | apply Touches.via (State.decideColl_touches ..)
    | apply Touches.via (State.slotMeet_touches ..) | dsimp only | split

theorem State.slotCheck_touches (s : State) (c : Coll) :
    Touches [.rf, .parts, .ls, .dram, .store, .mgt, .flt, .dbg, .freeCount, .out] s (State.slotCheck s c).2 := by
  delta State.slotCheck
  with_reducible repeat' first
    | exact Touches.refl _ _ | apply Touches.ite | apply Touches.iteSnd | apply Touches.via (State.unitPut_touches ..)
    | apply Touches.via (State.decideColl_touches ..) | apply Touches.via (State.slotMeet_touches ..)

theorem State.formAnchors_touches (s : State) (id : CollId) :
    Touches [.rf, .prism, .dbg, .out] s (State.formAnchors s id) := by
  delta State.formAnchors
  with_reducible repeat' first
    | exact Touches.refl _ _ | apply Touches.via (State.pmcPrism_touches ..)
    | apply Touches.via (State.modColl_touches ..) | apply Touches.via (State.toRank_touches ..)
    | refine Touches.foldl _ ?_ ?_ | intro _ _ | split

theorem State.writeRuns_touches (s : State) (c : Coll) (rs : List Run) (data side : List Byte) :
    Touches [.rf, .ls, .dram, .store, .mgt, .flt, .dbg, .freeCount, .out] s (State.writeRuns s c rs data side).2.1 := by
  delta State.writeRuns
  with_reducible repeat' first | exact Touches.refl _ _ | apply Touches.via (State.unitPut_touches ..)

theorem State.deliver_touches (s : State) (c : Coll) (rs : List Run) (data side : List Byte) :
    Touches [.rf, .tiles, .ls, .dram, .store, .loupe, .prism, .chan, .mgt, .flt, .dbg, .freeCount, .out] s (State.deliver s c rs data side) := by
  delta State.deliver
  with_reducible repeat' first
    | exact Touches.refl _ _ | apply Touches.via (State.report_touches ..)
    | apply Touches.via (State.trouble_touches ..) | apply Touches.via (State.modColl_touches ..)
    | apply Touches.via (State.writeRuns_touches ..) | dsimp only | split

theorem State.hold_touches (s : State) (i : Instr) :
    Touches [.prism] s (State.hold s i) := by
  delta State.hold
  with_reducible repeat' first | exact Touches.refl _ _ | (simp only [Touches.mk_iff]; refine TouchesParts.upd ?_)

theorem State.keepEarly_touches (s : State) (id : CollId) (i : Instr) :
    Touches [.prism] s (State.keepEarly s id i) := by
  delta State.keepEarly
  with_reducible repeat' first
    | exact Touches.refl _ _ | apply Touches.ite | apply Touches.via (State.hold_touches ..)

theorem State.noteLate_touches (s : State) (die n : Nat) :
    Touches [.rf, .dbg] s (State.noteLate s die n) := by
  delta State.noteLate
  with_reducible repeat' first
    | exact Touches.refl _ _ | apply Touches.ite | apply Touches.via (State.setBit_touches ..)
    | apply Touches.via (State.bump_touches ..) | apply Touches.via (State.pmcPrism_touches ..)

theorem State.noteFailure_touches (s : State) :
    Touches [.rf] s (State.noteFailure s) := by
  delta State.noteFailure
  with_reducible repeat' first
    | exact Touches.refl _ _ | apply Touches.via (State.setBit_touches ..) | apply Touches.via (State.bump_touches ..)

theorem State.decideFailure_touches (s : State) (c : Coll) (r : Nat) (kind : BitVec 4) :
    Touches [.parts] s (State.decideFailure s c r kind) := by
  delta State.decideFailure
  with_reducible repeat' first
    | exact Touches.refl _ _ | apply Touches.via (State.modPart_touches ..)
    | apply Touches.via (State.decideColl_touches ..)

theorem State.memberFails_touches (s : State) (c : Coll) (r : Nat) :
    Touches [.rf, .parts, .prism, .dbg, .out] s (State.memberFails s c r) := by
  delta State.memberFails
  with_reducible repeat' first
    | exact Touches.refl _ _ | apply Touches.ite | apply Touches.via (State.emit_touches ..)
    | apply Touches.via (State.setColl_touches ..) | apply Touches.via (State.failColl_touches ..)
    | apply Touches.via (State.formAnchors_touches ..) | apply Touches.via (State.noteFailure_touches ..)
    | apply Touches.via (State.decideFailure_touches ..)

theorem State.peerFailsPrism_touches (s : State) (chip : ChipId) :
    Touches [.rf, .parts, .prism, .dbg, .out] s (State.peerFailsPrism s chip) := by
  delta State.peerFailsPrism
  with_reducible repeat' first
    | exact Touches.refl _ _ | apply Touches.via (State.memberFails_touches ..) | refine Touches.foldl _ ?_ ?_
    | intro _ _ | split

theorem State.takeLate_touches (s : State) (id : CollId) (r : Nat) :
    Touches [.parts, .prism] s (State.takeLate s id r) := by
  delta State.takeLate
  with_reducible repeat' first
    | exact Touches.refl _ _ | apply Touches.via (State.setColl_touches ..)
    | apply Touches.via (State.decideColl_touches ..) | split

theorem State.passDeadline_touches (s : State) (c : Coll) :
    Touches [.rf, .parts, .prism, .dbg, .out] s (State.passDeadline s c) := by
  delta State.passDeadline
  with_reducible repeat' first
    | exact Touches.refl _ _ | apply Touches.ite | apply Touches.via (State.setColl_touches ..)
    | apply Touches.via (State.formAnchors_touches ..) | apply Touches.via (State.noteLate_touches ..)
    | apply Touches.via (State.takeLate_touches ..) | refine Touches.foldl _ ?_ ?_ | intro _ _

theorem State.dueDeadline_touches (s : State) (id : CollId) :
    Touches [.rf, .parts, .prism, .dbg, .out] s (State.dueDeadline s id) := by
  delta State.dueDeadline
  with_reducible repeat' first | exact Touches.refl _ _ | apply Touches.via (State.passDeadline_touches ..) | split

theorem State.forget_touches (s : State) (id : CollId) :
    Touches [.prism] s (State.forget s id) := by
  delta State.forget
  with_reducible repeat' first | exact Touches.refl _ _ | apply Touches.via (State.dropColl_touches ..) | split

theorem State.lateArrives_touches (s : State) (c : Coll) (r : Nat) (data side : List Byte) :
    Touches [.rf, .tiles, .parts, .ls, .dram, .store, .prism, .chan, .mgt, .flt, .dbg, .freeCount, .out] s (State.lateArrives s c r data side) := by
  delta State.lateArrives
  with_reducible repeat' first
    | exact Touches.refl _ _ | apply Touches.ite | apply Touches.via (State.modPart_touches ..)
    | apply Touches.via (State.setColl_touches ..) | apply Touches.via (State.decideColl_touches ..)
    | apply Touches.via (State.slotStore_touches ..) | apply Touches.via (State.noteLate_touches ..)
    | apply Touches.via (State.forget_touches ..)

theorem State.onMismatch_touches (s : State) (id : CollId) :
    Touches [.rf, .prism] s (State.onMismatch s id) := by
  delta State.onMismatch
  with_reducible repeat' first
    | exact Touches.refl _ _ | apply Touches.via (State.failColl_touches ..)
    | apply Touches.via (State.keepEarly_touches ..) | split

theorem State.onEc_touches (s : State) (id : CollId) (rank : ChipId) (block : Nat) (ec : BitVec 16) :
    Touches [.rf, .parts, .prism, .dbg, .out] s (State.onEc s id rank block ec) := by
  delta State.onEc
  with_reducible repeat' first
    | exact Touches.refl _ _ | apply Touches.via (State.pmcPrism_touches ..)
    | apply Touches.via (State.setColl_touches ..) | apply Touches.via (State.toRank_touches ..)
    | apply Touches.via (State.formAnchors_touches ..) | apply Touches.via (State.keepEarly_touches ..)
    | apply Touches.via (State.dueDeadline_touches ..) | dsimp only | split

theorem State.onReply_touches (s : State) (id : CollId) (owner : ChipId) (block : Nat) (anchor : BitVec 16) :
    Touches [.rf, .tiles, .store, .prism, .chan, .mgt, .flt, .dbg, .out] s (State.onReply s id owner block anchor) := by
  delta State.onReply
  with_reducible repeat' first
    | exact Touches.refl _ _ | apply Touches.via (State.trouble_touches ..)
    | apply Touches.via (State.setColl_touches ..) | apply Touches.via (State.collSource_touches ..)
    | apply Touches.via (State.toRank_touches ..) | dsimp only | split

theorem State.onContribution_touches (s : State) (id : CollId) (rank : ChipId) (data side : List Byte) :
    Touches [.rf, .tiles, .parts, .ls, .dram, .store, .loupe, .prism, .chan, .mgt, .flt, .dbg, .freeCount, .out] s (State.onContribution s id rank data side) := by
  delta State.onContribution
  with_reducible repeat' first
    | exact Touches.refl _ _ | apply Touches.via (State.setColl_touches ..)
    | apply Touches.via (State.deliver_touches ..) | apply Touches.via (State.hold_touches ..)
    | apply Touches.via (State.keepEarly_touches ..) | apply Touches.via (State.dueDeadline_touches ..)
    | apply Touches.via (State.lateArrives_touches ..) | dsimp only | split

theorem State.onResult_touches (s : State) (id : CollId) (owner : ChipId) (data side : List Byte) (present : List ChipId) :
    Touches [.rf, .tiles, .ls, .dram, .store, .loupe, .prism, .chan, .mgt, .flt, .dbg, .freeCount, .out] s (State.onResult s id owner data side present) := by
  delta State.onResult
  with_reducible repeat' first
    | exact Touches.refl _ _ | apply Touches.ite | apply Touches.via (State.setColl_touches ..)
    | apply Touches.via (State.deliver_touches ..) | apply Touches.via (State.keepEarly_touches ..) | split

theorem State.sendCounts_touches (s : State) (c : Coll) :
    Touches [.rf, .store, .mgt, .flt, .dbg, .out] s (State.sendCounts s c).st := by
  delta State.sendCounts
  with_reducible repeat' first | exact Touches.refl _ _ | apply Touches.via (State.getBytes_touches ..)

theorem State.sendBlock_touches (s : State) (c : Coll) (counts : List Nat) (r : Nat) :
    Touches [.rf, .store, .mgt, .flt, .dbg, .out] s (State.sendBlock s c counts r).st := by
  delta State.sendBlock
  with_reducible repeat' first | exact Touches.refl _ _ | apply Touches.via (State.getBytes_touches ..)

theorem State.sendBlocks_touches (s : State) (c : Coll) (counts : List Nat) :
    Touches [.rf, .tiles, .parts, .ls, .dram, .store, .loupe, .prism, .chan, .mgt, .flt, .dbg, .freeCount, .out] s (State.sendBlocks s c counts) := by
  delta State.sendBlocks
  with_reducible repeat' first
    | exact Touches.refl _ _ | apply Touches.via (State.trouble_touches ..)
    | apply Touches.via (State.toRank_touches ..) | apply Touches.via (State.onContribution_touches ..)
    | apply Touches.via (State.sendBlock_touches ..) | refine Touches.foldl _ ?_ ?_ | intro _ _ | dsimp only | split

theorem State.replayContribs_touches (s : State) (id : CollId) :
    Touches [.rf, .tiles, .parts, .ls, .dram, .store, .loupe, .prism, .chan, .mgt, .flt, .dbg, .freeCount, .out] s (State.replayContribs s id) := by
  delta State.replayContribs
  with_reducible repeat' first
    | exact Touches.refl _ _ | (simp only [Touches.mk_iff]; refine TouchesParts.upd ?_)
    | apply Touches.via (State.onContribution_touches ..) | refine Touches.foldl _ ?_ ?_ | intro _ _ | split

theorem State.sendHeader_touches (s : State) (c : Coll) :
    Touches [.rf, .dbg, .out] s (State.sendHeader s c) := by
  delta State.sendHeader
  with_reducible repeat' first
    | exact Touches.refl _ _ | apply Touches.via (State.toRank_touches ..) | refine Touches.foldl _ ?_ ?_ | intro _ _

theorem State.movePayload_touches (s : State) (id : CollId) :
    Touches [.rf, .tiles, .parts, .ls, .dram, .store, .loupe, .prism, .chan, .mgt, .flt, .dbg, .freeCount, .out] s (State.movePayload s id) := by
  delta State.movePayload
  with_reducible repeat' first
    | exact Touches.refl _ _ | apply Touches.via (State.trouble_touches ..)
    | apply Touches.via (State.sendCounts_touches ..) | apply Touches.via (State.sendBlocks_touches ..)
    | apply Touches.via (State.replayContribs_touches ..) | dsimp only | split

theorem State.onHeader_touches (s : State) (id : CollId) (rank : ChipId) (h : LaunchHeader) :
    Touches [.rf, .tiles, .parts, .ls, .dram, .store, .loupe, .prism, .chan, .mgt, .flt, .dbg, .freeCount, .out] s (State.onHeader s id rank h) := by
  delta State.onHeader
  with_reducible repeat' first
    | exact Touches.refl _ _ | apply Touches.via (State.setColl_touches ..)
    | apply Touches.via (State.failColl_touches ..) | apply Touches.via (State.toMembers_touches ..)
    | apply Touches.via (State.keepEarly_touches ..) | apply Touches.via (State.movePayload_touches ..) | split

theorem State.onCount_touches (s : State) (id : CollId) (rank : ChipId) (count : Word) :
    Touches [.rf, .tiles, .parts, .ls, .dram, .store, .loupe, .prism, .chan, .mgt, .flt, .dbg, .freeCount, .out] s (State.onCount s id rank count) := by
  delta State.onCount
  with_reducible repeat' first
    | exact Touches.refl _ _ | apply Touches.via (State.trouble_touches ..)
    | apply Touches.via (State.putBytes_touches ..) | apply Touches.via (State.setColl_touches ..)
    | apply Touches.via (State.modColl_touches ..) | apply Touches.via (State.failColl_touches ..)
    | apply Touches.via (State.toMembers_touches ..) | apply Touches.via (State.keepEarly_touches ..)
    | apply Touches.via (State.sendHeader_touches ..) | apply Touches.via (State.movePayload_touches ..) | dsimp only
    | split

theorem State.onCapacity_touches (s : State) (id : CollId) :
    Touches [.rf, .prism] s (State.onCapacity s id) := by
  delta State.onCapacity
  with_reducible repeat' first
    | exact Touches.refl _ _ | apply Touches.via (State.failColl_touches ..)
    | apply Touches.via (State.hold_touches ..) | apply Touches.via (State.keepEarly_touches ..) | split

theorem State.arrive_touches (s : State) (i : Instr) :
    Touches [.rf, .tiles, .parts, .ls, .dram, .store, .loupe, .prism, .chan, .mgt, .flt, .dbg, .freeCount, .out] s (State.arrive s i) := by
  delta State.arrive
  with_reducible repeat' first
    | exact Touches.refl _ _ | apply Touches.via (State.onMismatch_touches ..)
    | apply Touches.via (State.onEc_touches ..) | apply Touches.via (State.onContribution_touches ..)
    | apply Touches.via (State.onResult_touches ..) | apply Touches.via (State.onHeader_touches ..)
    | apply Touches.via (State.onCount_touches ..) | apply Touches.via (State.onCapacity_touches ..) | split

theorem State.phaseList_touches (s : State) (g group phase : Nat) (step : BitVec 40) :
    Touches [.rf, .store, .prism, .mgt, .flt, .dbg, .out] s (State.phaseList s g group phase step).2 := by
  delta State.phaseList
  with_reducible repeat' first
    | exact Touches.refl _ _ | (simp only [Touches.mk_iff]; refine TouchesParts.upd ?_)
    | apply Touches.via (State.meetList_touches ..) | split

theorem State.sendShard_touches (s : State) (c : Coll) (j : Nat) :
    Touches [.rf, .tiles, .store, .prism, .chan, .mgt, .flt, .dbg, .out] s (State.sendShard s c j) := by
  delta State.sendShard
  with_reducible repeat' first
    | exact Touches.refl _ _ | apply Touches.via (State.trouble_touches ..)
    | apply Touches.via (State.modColl_touches ..) | apply Touches.via (State.collSource_touches ..)
    | apply Touches.via (State.toRank_touches ..) | refine Touches.foldl _ ?_ ?_ | intro _ _ | dsimp only | split

theorem State.sendPiece_touches (s : State) (c : Coll) (r first : Nat) :
    Touches [.rf, .tiles, .parts, .ls, .dram, .store, .loupe, .prism, .chan, .mgt, .flt, .dbg, .freeCount, .out] s (State.sendPiece s c r first) := by
  delta State.sendPiece
  with_reducible repeat' first
    | exact Touches.refl _ _ | apply Touches.via (State.trouble_touches ..)
    | apply Touches.via (State.collRun_touches ..) | apply Touches.via (State.toRank_touches ..)
    | apply Touches.via (State.onContribution_touches ..) | dsimp only | split

theorem State.sendAll_touches (s : State) (c : Coll) :
    Touches [.rf, .tiles, .parts, .ls, .dram, .store, .loupe, .prism, .chan, .mgt, .flt, .dbg, .freeCount, .out] s (State.sendAll s c) := by
  delta State.sendAll
  with_reducible repeat' first
    | exact Touches.refl _ _ | apply Touches.via (State.emit_touches ..)
    | apply Touches.via (State.trouble_touches ..) | apply Touches.via (State.formAnchors_touches ..)
    | apply Touches.via (State.sendCounts_touches ..) | apply Touches.via (State.sendHeader_touches ..)
    | apply Touches.via (State.onCount_touches ..) | apply Touches.via (State.sendShard_touches ..)
    | apply Touches.via (State.sendPiece_touches ..) | refine Touches.foldl _ ?_ ?_ | intro _ _ | dsimp only | split

theorem State.forceLate_touches (s : State) (c : Coll) :
    Touches [.rf, .parts, .prism, .dbg] s (State.forceLate s c) := by
  delta State.forceLate
  with_reducible repeat' first
    | exact Touches.refl _ _ | apply Touches.via (State.modColl_touches ..)
    | apply Touches.via (State.decideColl_touches ..) | apply Touches.via (State.noteLate_touches ..)
    | apply Touches.via (State.noteFailure_touches ..) | refine Touches.foldl _ ?_ ?_ | intro _ _

theorem State.slotContend_touches (s : State) :
    Touches [.rf] s (State.slotContend s) := by
  delta State.slotContend
  with_reducible repeat' first
    | exact Touches.refl _ _ | apply Touches.ite | apply Touches.via (State.setBit_touches ..)

theorem State.launchColl_touches (s : State) (q : LaunchReq) :
    Touches [.rf, .tiles, .parts, .ls, .dram, .store, .loupe, .prism, .chan, .mgt, .flt, .dbg, .freeCount, .out] s (State.launchColl s q) := by
  delta State.launchColl
  with_reducible repeat' first
    | exact Touches.refl _ _ | (simp only [Touches.mk_iff]; refine TouchesParts.upd ?_) | apply Touches.ite
    | apply Touches.via (State.failColl_touches ..) | apply Touches.via (State.arrive_touches ..)
    | apply Touches.via (State.phaseList_touches ..) | apply Touches.via (State.sendAll_touches ..)
    | apply Touches.via (State.forceLate_touches ..) | apply Touches.via (State.slotContend_touches ..)
    | refine Touches.foldl _ ?_ ?_ | intro _ _

theorem State.pumpQueue_touches (s : State) :
    Touches [.rf, .tiles, .parts, .ls, .dram, .store, .loupe, .prism, .chan, .mgt, .flt, .dbg, .freeCount, .out] s (State.pumpQueue s) := by
  delta State.pumpQueue
  with_reducible repeat' first
    | exact Touches.refl _ _ | (simp only [Touches.mk_iff]; refine TouchesParts.upd ?_) | apply Touches.iteSnd
    | apply Touches.via (State.launchColl_touches ..) | refine Touches.foldlSnd _ ?_ ?_ | intro _ _

theorem State.launch_touches (s : State) (q : LaunchReq) :
    Touches [.rf, .tiles, .parts, .ls, .dram, .store, .loupe, .prism, .chan, .mgt, .flt, .dbg, .freeCount, .out] s (State.launch s q) := by
  delta State.launch
  with_reducible repeat' first
    | exact Touches.refl _ _ | (simp only [Touches.mk_iff]; refine TouchesParts.upd ?_)
    | apply Touches.via (State.pumpQueue_touches ..)

theorem State.joinBarrier_touches (s : State) (t : Nat) :
    Touches [.rf, .tiles, .parts, .ls, .dram, .store, .loupe, .prism, .chan, .mgt, .flt, .dbg, .freeCount, .out] s (State.joinBarrier s t) := by
  delta State.joinBarrier
  with_reducible repeat' first
    | exact Touches.refl _ _ | apply Touches.via (State.modTile_touches ..)
    | apply Touches.via (State.startOp_touches ..) | apply Touches.via (State.launch_touches ..) | dsimp only | split

theorem State.finishOp_touches (s : State) (t id : Nat) :
    Touches [.rf, .tiles, .parts, .ls, .dram, .store, .loupe, .prism, .apt, .chan, .mgt, .flt, .dbg, .freeCount, .out] s (State.finishOp s t id) := by
  delta State.finishOp
  with_reducible repeat' first
    | exact Touches.refl _ _ | apply Touches.via (State.modTile_touches ..)
    | apply Touches.via (State.aptSettle_touches ..) | apply Touches.via (State.joinBarrier_touches ..) | split

theorem State.flagErr_touches (s : State) (p : Path) (off bit : Nat) :
    Touches [.rf] s (State.flagErr s p off bit) := by
  delta State.flagErr
  with_reducible repeat' first
    | exact Touches.refl _ _ | apply Touches.ite | apply Touches.via (State.wrFld_touches ..)
    | apply Touches.via (State.setBit_touches ..) | split

theorem State.applyPower_touches (s : State) (p : Nat) :
    Touches [.rf, .parts] s (State.applyPower s p) := by
  delta State.applyPower
  with_reducible repeat' first
    | exact Touches.refl _ _ | apply Touches.via (State.wrFld_touches ..)
    | apply Touches.via (State.modPart_touches ..)

theorem State.freshPart_touches (s : State) (p : Nat) :
    Touches [.rf, .parts] s (State.freshPart s p) := by
  delta State.freshPart
  with_reducible repeat' first
    | exact Touches.refl _ _ | apply Touches.via (State.wr_touches ..) | apply Touches.via (State.setPart_touches ..)
    | apply Touches.via (State.applyPower_touches ..) | refine Touches.foldl _ ?_ ?_ | intro _ _

theorem State.applyLayout_touches (s : State) (start : Nat) :
    Touches [.rf, .parts] s (State.applyLayout s start) := by
  delta State.applyLayout
  with_reducible repeat' first
    | exact Touches.refl _ _ | apply Touches.ite | apply Touches.via (State.wrFld_touches ..)
    | apply Touches.via (State.setBit_touches ..) | apply Touches.via (State.freshPart_touches ..)
    | refine Touches.foldl _ ?_ ?_ | intro _ _

theorem State.applyShare_touches (s : State) (share : Nat) :
    Touches [.rf] s (State.applyShare s share) := by
  delta State.applyShare
  with_reducible repeat' first
    | exact Touches.refl _ _ | apply Touches.ite | apply Touches.via (State.setBit_touches ..)
    | apply Touches.via (State.putBit_touches ..) | refine Touches.foldl _ ?_ ?_ | intro _ _

theorem State.applyRws_touches (s : State) (p : Nat) (m v : Word) :
    Touches [.rf, .parts] s (State.applyRws s p m v) := by
  delta State.applyRws
  with_reducible repeat' first
    | exact Touches.refl _ _ | apply Touches.ite | apply Touches.via (State.wr_touches ..)
    | apply Touches.via (State.applyPower_touches ..) | apply Touches.via (State.applyLayout_touches ..)
    | apply Touches.via (State.applyShare_touches ..) | refine Touches.foldl _ ?_ ?_ | intro _ _

theorem State.applyPending_touches (s : State) (due : Nat → Bool) :
    Touches [.rf, .parts] s (State.applyPending s due) := by
  delta State.applyPending
  with_reducible repeat' first
    | exact Touches.refl _ _ | (simp only [Touches.mk_iff]; refine TouchesParts.upd ?_)
    | apply Touches.via (State.applyRws_touches ..) | refine Touches.foldl _ ?_ ?_ | intro _ _ | split

theorem State.strobe_touches (s : State) (mask : Nat) :
    Touches [.rf, .parts] s (State.strobe s mask) := by
  delta State.strobe
  with_reducible repeat' first
    | exact Touches.refl _ _ | (simp only [Touches.mk_iff]; refine TouchesParts.upd ?_) | apply Touches.ite
    | apply Touches.via (State.applyPending_touches ..)

theorem State.tickPending_touches (s : State) (p : Nat) :
    Touches [.rf, .parts] s (State.tickPending s p) := by
  delta State.tickPending
  with_reducible repeat' first | exact Touches.refl _ _ | apply Touches.via (State.applyPending_touches ..)

theorem State.settlePending_touches (s : State) :
    Touches [.rf, .parts] s (State.settlePending s) := by
  delta State.settlePending
  with_reducible repeat' first
    | exact Touches.refl _ _ | apply Touches.ite | apply Touches.via (State.applyPending_touches ..)

theorem State.zeroIsOne_touches (s : State) :
    Touches [.rf] s (State.zeroIsOne s) := by
  delta State.zeroIsOne
  with_reducible repeat' first
    | exact Touches.refl _ _ | apply Touches.ite | apply Touches.via (State.wrFld_touches ..)
    | refine Touches.foldl _ ?_ ?_ | intro _ _

theorem State.writeFields_touches (s : State) (path : Path) (p : Nat) (v keep : Word) :
    Touches [.rf, .parts, .port, .out] s (State.writeFields s path p v keep) := by
  delta State.writeFields
  with_reducible repeat' first
    | exact Touches.refl _ _ | (simp only [Touches.mk_iff]; refine TouchesParts.upd ?_) | apply Touches.ite
    | apply Touches.via (State.wr_touches ..) | apply Touches.via (State.tellDm_touches ..)
    | apply Touches.via (State.flagErr_touches ..) | apply Touches.via (State.applyRws_touches ..)
    | apply Touches.via (State.zeroIsOne_touches ..) | split

theorem State.via_touches {l : List Component} (s : State) (path : Path) (p : Nat) (f : State → State) (hf0 : ∀ s, Touches l s (f s)) :
    Touches l s (State.via s path p f) := by
  delta State.via
  with_reducible repeat' first | exact Touches.refl _ _ | apply Touches.ite | apply hf0

theorem State.tableReads_touches (s : State) (v a : Nat) :
    Touches [.rf, .store, .mgt, .flt, .dbg, .out] s (State.tableReads s v a) := by
  delta State.tableReads
  with_reducible repeat' first
    | exact Touches.refl _ _ | apply Touches.via (State.meet_touches ..) | refine Touches.foldl _ ?_ ?_ | intro _ _
    | split

theorem State.applyReload_touches (s : State) (p v : Nat) :
    Touches [.rf, .parts, .store, .mgt, .flt, .dbg, .out] s (State.applyReload s p v) := by
  delta State.applyReload
  with_reducible repeat' first
    | exact Touches.refl _ _ | apply Touches.via (State.wrFld_touches ..)
    | apply Touches.via (State.setBit_touches ..) | apply Touches.via (State.clrBit_touches ..)
    | apply Touches.via (State.modPart_touches ..) | apply Touches.via (State.meet_touches ..) | dsimp only | split

theorem State.startNorm_touches (s : State) (p : Nat) :
    Touches [.rf, .tiles, .parts, .ls, .dram, .store, .loupe, .prism, .chan, .mgt, .flt, .dbg, .freeCount, .out] s (State.startNorm s p) := by
  delta State.startNorm
  with_reducible repeat' first
    | exact Touches.refl _ _ | apply Touches.via (State.modPart_touches ..)
    | apply Touches.via (State.clearLoupe_touches ..) | apply Touches.via (State.launch_touches ..)
    | apply Touches.via (State.applyReload_touches ..) | dsimp only | split

theorem State.normDone_touches (s : State) (p : Nat) :
    Touches [.parts] s (State.normDone s p) := by
  delta State.normDone
  with_reducible repeat' first
    | exact Touches.refl _ _ | apply Touches.ite | apply Touches.via (State.modPart_touches ..)

theorem State.afterColl_touches (s : State) (p : Nat) :
    Touches [.rf, .tiles, .parts, .ls, .dram, .store, .loupe, .prism, .chan, .mgt, .flt, .dbg, .freeCount, .out] s (State.afterColl s p) := by
  delta State.afterColl
  with_reducible repeat' first
    | exact Touches.refl _ _ | apply Touches.via (State.startNorm_touches ..)
    | apply Touches.via (State.normDone_touches ..)

theorem State.tenWords_touches (s : State) (v a n : Nat) :
    Touches [.rf, .store, .mgt, .flt, .dbg, .out] s (State.tenWords s v a n).1 := by
  delta State.tenWords
  with_reducible repeat' first | exact Touches.refl _ _ | apply Touches.via (State.readTen_touches ..)

theorem State.gradOf_touches (s : State) (v d : Nat) :
    Touches [.rf, .store, .mgt, .flt, .dbg, .out] s (State.gradOf s v d).1 := by
  delta State.gradOf
  with_reducible repeat' first
    | exact Touches.refl _ _ | apply Touches.iteRead | apply Touches.via (State.readTen_touches ..)

theorem State.readGroup_touches (s : State) (v d : Nat) :
    Touches [.rf, .store, .mgt, .flt, .dbg, .out] s (State.readGroup s v d).1 := by
  delta State.readGroup
  with_reducible repeat' first
    | exact Touches.refl _ _ | apply Touches.iteFst | apply Touches.via (State.tenWords_touches ..)
    | apply Touches.via (State.gradOf_touches ..)

theorem State.putArray_touches (s : State) (v d off : Nat) (bytes : List Byte) (used : Bool) :
    Touches [.rf, .dram, .store, .mgt, .flt, .dbg, .out] s (State.putArray s v d off bytes used) := by
  delta State.putArray
  with_reducible repeat' first
    | exact Touches.refl _ _ | apply Touches.ite | apply Touches.via (State.writeTen_touches ..)

theorem State.writeGroup_touches (s : State) (v d : Nat) (x : GroupData) (wc : List Byte × List Byte) :
    Touches [.rf, .dram, .store, .mgt, .flt, .dbg, .out] s (State.writeGroup s v d x wc) := by
  delta State.writeGroup
  with_reducible repeat' first | exact Touches.refl _ _ | apply Touches.via (State.putArray_touches ..)

theorem State.updateGroup_touches (s : State) (p v step : Nat) (kind : PassKind) (gscale lr : Word) (g d : Nat) :
    Touches [.rf, .dram, .store, .mgt, .flt, .dbg, .out] s (State.updateGroup s p v step kind gscale lr g d) := by
  delta State.updateGroup
  with_reducible repeat' first
    | exact Touches.refl _ _ | apply Touches.via (State.readGroup_touches ..)
    | apply Touches.via (State.writeGroup_touches ..)

theorem State.abandonPass_touches (s : State) (p : Nat) :
    Touches [.parts] s (State.abandonPass s p) := by
  delta State.abandonPass
  with_reducible repeat' first | exact Touches.refl _ _ | apply Touches.via (State.modPart_touches ..)

theorem State.passUe_touches (s : State) (p da : Nat) :
    Touches [.rf, .parts, .store, .flt, .out] s (State.passUe s p da) := by
  delta State.passUe
  with_reducible repeat' first
    | exact Touches.refl _ _ | apply Touches.via (State.tellDm_touches ..)
    | apply Touches.via (State.logEvent_touches ..) | apply Touches.via (State.noteHbmUe_touches ..)
    | apply Touches.via (State.abandonPass_touches ..)

theorem State.closePass_touches (s : State) (p : Nat) (kind : PassKind) (norm lr : Word) (moved framesTaken : Nat) :
    Touches [.rf, .parts] s (State.closePass s p kind norm lr moved framesTaken) := by
  delta State.closePass
  with_reducible repeat' first
    | exact Touches.refl _ _ | apply Touches.via (State.wr_touches ..) | apply Touches.via (State.wrFld_touches ..)
    | apply Touches.via (State.setBit_touches ..) | apply Touches.via (State.bump_touches ..)
    | apply Touches.via (State.modPart_touches ..) | split

theorem State.passOver_touches (s : State) (p v : Nat) (x : PassPlan) (ds : List (Nat × Nat)) :
    Touches [.rf, .dram, .store, .mgt, .flt, .dbg, .out] s (State.passOver s p v x ds) := by
  delta State.passOver
  with_reducible repeat' first
    | exact Touches.refl _ _ | apply Touches.via (State.updateGroup_touches ..) | refine Touches.foldl _ ?_ ?_
    | intro _ _

theorem State.passPart_touches (s : State) (p v : Nat) (x : PassPlan) (ds : List Nat) :
    Touches [.rf, .dram, .store, .mgt, .flt, .dbg, .freeCount, .out] s (State.passPart s p v x ds) := by
  delta State.passPart
  with_reducible repeat' first
    | exact Touches.refl _ _ | apply Touches.via (State.fresh_touches ..)
    | apply Touches.via (State.passOver_touches ..)

theorem State.runPass_touches (s : State) (p v : Nat) (ds : List Nat) (g2 : Word) (framesTaken : Nat) :
    Touches [.rf, .parts, .dram, .store, .mgt, .flt, .dbg, .freeCount, .out] s (State.runPass s p v ds g2 framesTaken) := by
  delta State.runPass
  with_reducible repeat' first
    | exact Touches.refl _ _ | apply Touches.ite | apply Touches.via (State.passUe_touches ..)
    | apply Touches.via (State.closePass_touches ..) | apply Touches.via (State.passOver_touches ..)
    | apply Touches.via (State.passPart_touches ..) | split

theorem State.correctDescs_touches (s : State) (v a n : Nat) :
    Touches [.rf, .store, .mgt, .flt, .dbg, .out] s (State.correctDescs s v a n) := by
  delta State.correctDescs
  with_reducible repeat' first
    | exact Touches.refl _ _ | apply Touches.via (State.correctDev_touches ..) | refine Touches.foldl _ ?_ ?_
    | intro _ _ | split

theorem State.cutPass_touches (s : State) (p : Nat) :
    Touches [.rf, .dram, .store, .mgt, .flt, .dbg, .freeCount, .out] s (State.cutPass s p) := by
  delta State.cutPass
  with_reducible repeat' first
    | exact Touches.refl _ _ | apply Touches.ite | apply Touches.via (State.passPart_touches ..) | split

theorem execOuuReload_touches (path : Path) (p : Fin 8) (s : State) :
    TouchesOut [.rf] s (execOuuReload path p s) := by
  delta execOuuReload
  with_reducible repeat' first
    | apply TouchesOut.next | exact Touches.refl _ _ | apply Touches.via (State.setBit_touches ..)
    | apply State.via_touches | intro _

theorem execOuuTblWrite_touches (path : Path) (p : Fin 8) (high : Bool) (value : Word) (s : State) :
    TouchesOut [.rf, .parts, .port, .out] s (execOuuTblWrite path p high value s) := by
  delta execOuuTblWrite
  with_reducible repeat' first
    | apply TouchesOut.next | exact Touches.refl _ _ | apply Touches.ite | apply Touches.via (State.setBit_touches ..)
    | apply Touches.via (State.writeFields_touches ..) | apply State.via_touches | intro _

theorem State.ownContribution_touches (s : State) (c : Coll) :
    Touches [.rf, .store, .prism, .mgt, .flt, .dbg, .out] s (State.ownContribution s c).2 := by
  delta State.ownContribution
  with_reducible repeat' first
    | exact Touches.refl _ _ | apply Touches.via (State.modColl_touches ..)
    | apply Touches.via (State.collSource_touches ..) | dsimp only | split

theorem State.completeShard_touches (s : State) (id : CollId) :
    Touches [.rf, .tiles, .parts, .ls, .dram, .store, .loupe, .prism, .chan, .mgt, .flt, .dbg, .freeCount, .out] s (State.completeShard s id) := by
  delta State.completeShard
  with_reducible repeat' first
    | exact Touches.refl _ _ | apply Touches.via (State.setBit_touches ..) | apply Touches.via (State.bump_touches ..)
    | apply Touches.via (State.trouble_touches ..) | apply Touches.via (State.modColl_touches ..)
    | apply Touches.via (State.decideColl_touches ..) | apply Touches.via (State.failColl_touches ..)
    | apply Touches.via (State.toRank_touches ..) | apply Touches.via (State.slotCheck_touches ..)
    | apply Touches.via (State.onResult_touches ..) | refine Touches.foldl _ ?_ ?_ | intro _ _ | dsimp only | split

theorem State.creditColl_touches (s : State) (c : Coll) :
    Touches [.rf, .tiles, .parts, .ls, .dram, .store, .loupe, .prism, .apt, .chan, .mgt, .flt, .dbg, .freeCount, .out] s (State.creditColl s c) := by
  delta State.creditColl
  with_reducible repeat' first
    | exact Touches.refl _ _ | apply Touches.ite | apply Touches.via (State.modTile_touches ..)
    | apply Touches.via (State.modPart_touches ..) | apply Touches.via (State.digestFill_touches ..)
    | apply Touches.via (State.finishOp_touches ..)

theorem State.completeColl_touches (s : State) (c : Coll) :
    Touches [.rf, .tiles, .parts, .ls, .dram, .store, .loupe, .prism, .apt, .chan, .mgt, .flt, .dbg, .freeCount, .out] s (State.completeColl s c) := by
  delta State.completeColl
  with_reducible repeat' first
    | exact Touches.refl _ _ | apply Touches.via (State.setBit_touches ..)
    | apply Touches.via (State.trouble_touches ..) | apply Touches.via (State.unitPut_touches ..)
    | apply Touches.via (State.modColl_touches ..) | apply Touches.via (State.forget_touches ..)
    | apply Touches.via (State.pumpQueue_touches ..) | apply Touches.via (State.creditColl_touches ..) | dsimp only
    | split

theorem State.setResult_touches (s : State) (status result errHi errOff : Nat) :
    Touches [.rf] s (State.setResult s status result errHi errOff) := by
  delta State.setResult
  with_reducible repeat' first | exact Touches.refl _ _ | apply Touches.via (State.wrFld_touches ..)

theorem State.stage_touches (s : State) (first n w : Nat) :
    Touches [.rf] s (State.stage s first n w) := by
  delta State.stage
  with_reducible repeat' first
    | exact Touches.refl _ _ | apply Touches.via (State.wr_touches ..) | refine Touches.foldl _ ?_ ?_ | intro _ _

theorem State.commitGroup_touches (s : State) (i g : Nat) :
    Touches [.rf, .parts, .store, .prism, .mgt, .flt, .dbg, .out] s (State.commitGroup s i g).2 := by
  delta State.commitGroup
  with_reducible repeat' first
    | exact Touches.refl _ _ | apply Touches.iteSnd | apply Touches.via (State.meetList_touches ..)
    | apply Touches.via (State.setGroup_touches ..) | refine Touches.foldl _ ?_ ?_ | intro _ _

theorem State.dropGroup_touches (s : State) (i : Nat) :
    Touches [.prism] s (State.dropGroup s i).2 := by
  delta State.dropGroup
  with_reducible repeat' first
    | exact Touches.refl _ _ | (simp only [Touches.mk_iff]; refine TouchesParts.upd ?_) | apply Touches.iteSnd

theorem State.gtw_touches {l : List Component} (s : State) (path : Path) (f : State → State) (hf0 : ∀ s, Touches l s (f s)) (hl : ∀ c ∈ ([.rf] : List Component), c ∈ l) :
    Touches l s (State.gtw s path f) := by
  delta State.gtw
  with_reducible repeat' first
    | exact Touches.refl _ _ | apply Touches.ite | apply hf0 | apply Touches.within (State.setBit_touches ..) hl
    | apply State.via_touches | intro _

theorem execGtwCommit_touches (path : Path) (s : State) :
    TouchesOut [.rf, .parts, .store, .prism, .mgt, .flt, .dbg, .out] s (execGtwCommit path s) := by
  delta execGtwCommit
  with_reducible repeat' first
    | apply TouchesOut.next | exact Touches.refl _ _ | apply Touches.via (State.setResult_touches ..)
    | apply Touches.via (State.commitGroup_touches ..) | apply State.gtw_touches | decide | intro _

theorem execGtwInvalidate_touches (path : Path) (s : State) :
    TouchesOut [.rf, .prism] s (execGtwInvalidate path s) := by
  delta execGtwInvalidate
  with_reducible repeat' first
    | apply TouchesOut.next | exact Touches.refl _ _ | apply Touches.via (State.setResult_touches ..)
    | apply Touches.via (State.dropGroup_touches ..) | apply State.gtw_touches | decide | intro _

theorem execGtwRead_touches (path : Path) (s : State) :
    TouchesOut [.rf] s (execGtwRead path s) := by
  delta execGtwRead
  with_reducible repeat' first
    | apply TouchesOut.next | exact Touches.refl _ _ | apply Touches.via (State.setResult_touches ..)
    | apply Touches.via (State.stage_touches ..) | apply State.gtw_touches | decide | intro _

end Sys2Proof.Machine
end

