-- ==== Sys2Proof/Laws/TouchesChan.lean ====
section
/-!
SUPPORT. Kaleidoscope and channels:
what each operation touches (`Touches`): the components it may change, the queue never, and that it keeps the canonical form.
-/

-- One declaration after another: the package as one text then needs few threads at a time.
set_option Elab.async false

set_option linter.unusedVariables false
set_option linter.unusedSimpArgs false

namespace Sys2Proof.Machine

open Safety (Component)

theorem State.commitRing_touches (s : State) (r e : Nat) :
    Touches [.parts, .kal] s (State.commitRing s r e).2 := by
  delta State.commitRing
  with_reducible repeat' first
    | exact Touches.refl _ _ | (simp only [Touches.mk_iff]; refine TouchesParts.upd ?_) | apply Touches.iteSnd
    | apply Touches.via (State.markItems_touches ..)

theorem State.dropRing_touches (s : State) (r : Nat) :
    Touches [.kal] s (State.dropRing s r).2 := by
  delta State.dropRing
  with_reducible repeat' first
    | exact Touches.refl _ _ | (simp only [Touches.mk_iff]; refine TouchesParts.upd ?_) | apply Touches.iteSnd

theorem State.setKrot_touches (s : State) (k : Krot) :
    Touches [.kal] s (State.setKrot s k) := by
  delta State.setKrot
  with_reducible repeat' first | exact Touches.refl _ _ | (simp only [Touches.mk_iff]; refine TouchesParts.upd ?_)

theorem State.krotSend_touches (s : State) (r : Nat) :
    Touches [.rf, .tiles, .store, .kal, .chan, .mgt, .flt, .dbg, .out] s (State.krotSend s r) := by
  delta State.krotSend
  with_reducible repeat' first
    | exact Touches.refl _ _ | (simp only [Touches.mk_iff]; refine TouchesParts.upd ?_)
    | apply Touches.via (State.emit_touches ..) | apply Touches.via (State.trouble_touches ..)
    | apply Touches.via (State.getBytes_touches ..) | apply Touches.via (State.setKrot_touches ..) | dsimp only
    | split

theorem State.krotEffect_touches (s : State) (t : Nat) (x : Tile) (w : Nat) :
    Touches [.rf, .tiles, .store, .kal, .chan, .mgt, .flt, .dbg, .out] s (State.krotEffect s t x w) := by
  delta State.krotEffect
  with_reducible repeat' first
    | exact Touches.refl _ _ | (simp only [Touches.mk_iff]; refine TouchesParts.upd ?_)
    | apply Touches.via (State.emit_touches ..) | apply Touches.via (State.startOp_touches ..)
    | apply Touches.via (State.digest_touches ..) | apply Touches.via (State.krotSend_touches ..)

theorem State.krotReport_touches (s : State) (k : Krot) :
    Touches [.loupe] s (State.krotReport s k) := by
  delta State.krotReport
  with_reducible repeat' first
    | exact Touches.refl _ _ | apply Touches.via (State.report_touches ..) | dsimp only | split

theorem State.krotFinish_touches (s : State) (k : Krot) :
    Touches [.rf, .tiles, .parts, .ls, .dram, .store, .loupe, .prism, .kal, .apt, .chan, .mgt, .flt, .dbg, .freeCount, .out] s (State.krotFinish s k) := by
  delta State.krotFinish
  with_reducible repeat' first
    | exact Touches.refl _ _ | (simp only [Touches.mk_iff]; refine TouchesParts.upd ?_)
    | apply Touches.via (State.setBit_touches ..) | apply Touches.via (State.bump_touches ..)
    | apply Touches.via (State.tellDm_touches ..) | apply Touches.via (State.trouble_touches ..)
    | apply Touches.via (State.unitPut_touches ..) | apply Touches.via (State.digestFill_touches ..)
    | apply Touches.via (State.finishOp_touches ..) | apply Touches.via (State.krotReport_touches ..) | dsimp only
    | split

theorem State.krotSettle_touches (n : Nat) : ∀ (s : State) (r : Nat), Touches [.rf, .tiles, .parts, .ls, .dram, .store, .loupe, .prism, .kal, .apt, .chan, .mgt, .flt, .dbg, .freeCount, .out] s (s.krotSettle r n) := by
  induction n with
  | zero => exact fun s r => .refl _ s
  | succ n ih =>
    intro s r
    simp only [State.krotSettle]
    split
    · split
      · exact .via (ih _ _) (.via (State.krotSend_touches ..) (.mono (State.krotFinish_touches ..)))
      · exact .refl _ s
    · exact .refl _ s

theorem State.settleRing_touches (s : State) (r : Nat) :
    Touches [.rf, .tiles, .parts, .ls, .dram, .store, .loupe, .prism, .kal, .apt, .chan, .mgt, .flt, .dbg, .freeCount, .out] s (State.settleRing s r) := by
  delta State.settleRing
  with_reducible repeat' first | exact Touches.refl _ _ | apply Touches.via (State.krotSettle_touches ..)

theorem State.krotFail_touches (s : State) (k : Krot) (status : BitVec 8) :
    Touches [.kal] s (State.krotFail s k status) := by
  delta State.krotFail
  with_reducible repeat' first
    | exact Touches.refl _ _ | apply Touches.ite | apply Touches.via (State.setKrot_touches ..)

theorem State.peerFailsKal_touches (s : State) (chip : ChipId) :
    Touches [.rf, .tiles, .parts, .ls, .dram, .store, .loupe, .prism, .kal, .apt, .chan, .mgt, .flt, .dbg, .freeCount, .out] s (State.peerFailsKal s chip) := by
  delta State.peerFailsKal
  with_reducible repeat' first
    | exact Touches.refl _ _ | apply Touches.ite | apply Touches.via (State.settleRing_touches ..)
    | apply Touches.via (State.krotFail_touches ..) | refine Touches.foldl _ ?_ ?_ | intro _ _

theorem State.peerFails_touches (s : State) (chip : ChipId) :
    Touches [.rf, .tiles, .parts, .ls, .dram, .store, .loupe, .prism, .kal, .apt, .chan, .mgt, .flt, .dbg, .freeCount, .out] s (State.peerFails s chip) := by
  delta State.peerFails
  with_reducible repeat' first
    | exact Touches.refl _ _ | apply Touches.via (State.peerFailsPrism_touches ..)
    | apply Touches.via (State.peerFailsKal_touches ..)

theorem State.rtw_touches {l : List Component} (s : State) (path : Path) (f : State → State) (hf0 : ∀ s, Touches l s (f s)) (hl : ∀ c ∈ ([.rf] : List Component), c ∈ l) :
    Touches l s (State.rtw s path f) := by
  delta State.rtw
  with_reducible repeat' first
    | exact Touches.refl _ _ | apply Touches.ite | apply hf0 | apply Touches.within (State.setBit_touches ..) hl
    | apply State.via_touches | intro _

theorem execRtwCommit_touches (path : Path) (s : State) :
    TouchesOut [.rf, .parts, .kal] s (execRtwCommit path s) := by
  delta execRtwCommit
  with_reducible repeat' first
    | apply TouchesOut.next | exact Touches.refl _ _ | apply Touches.via (State.setResult_touches ..)
    | apply Touches.via (State.commitRing_touches ..) | apply State.rtw_touches | decide | intro _

theorem execRtwInvalidate_touches (path : Path) (s : State) :
    TouchesOut [.rf, .kal] s (execRtwInvalidate path s) := by
  delta execRtwInvalidate
  with_reducible repeat' first
    | apply TouchesOut.next | exact Touches.refl _ _ | apply Touches.via (State.setResult_touches ..)
    | apply Touches.via (State.dropRing_touches ..) | apply State.rtw_touches | decide | intro _

theorem execRtwRead_touches (path : Path) (s : State) :
    TouchesOut [.rf] s (execRtwRead path s) := by
  delta execRtwRead
  with_reducible repeat' first
    | apply TouchesOut.next | exact Touches.refl _ _ | apply Touches.via (State.setResult_touches ..)
    | apply Touches.via (State.stage_touches ..) | apply State.rtw_touches | decide | intro _

theorem State.setCh_touches (s : State) (ch e : Nat) :
    Touches [.chan] s (State.setCh s ch e) := by
  delta State.setCh
  with_reducible repeat' first | exact Touches.refl _ _ | (simp only [Touches.mk_iff]; refine TouchesParts.upd ?_)

theorem State.chError_touches (s : State) (ch code index : Nat) :
    Touches [.rf, .chan, .out] s (State.chError s ch code index) := by
  delta State.chError
  with_reducible repeat' first
    | exact Touches.refl _ _ | apply Touches.via (State.setBit_touches ..)
    | apply Touches.via (State.sendMsix_touches ..) | apply Touches.via (State.setCh_touches ..)

theorem State.setCmd_touches (s : State) (c : ExecCmd) :
    Touches [.chan] s (State.setCmd s c) := by
  delta State.setCmd
  with_reducible repeat' first | exact Touches.refl _ _ | (simp only [Touches.mk_iff]; refine TouchesParts.upd ?_)

theorem State.dropCmd_touches (s : State) (ch : Nat) (index : Word) :
    Touches [.chan] s (State.dropCmd s ch index) := by
  delta State.dropCmd
  with_reducible repeat' first | exact Touches.refl _ _ | (simp only [Touches.mk_iff]; refine TouchesParts.upd ?_)

theorem State.account_touches (s : State) (v k n : Nat) :
    Touches [.chan] s (State.account s v k n) := by
  delta State.account
  with_reducible repeat' first
    | exact Touches.refl _ _ | apply Touches.ite | apply Touches.via (State.modTenant_touches ..)

theorem State.charge_touches (s : State) (ch : Nat) (index : Word) (k n : Nat) :
    Touches [.chan] s (State.charge s ch index k n) := by
  delta State.charge
  with_reducible repeat' first
    | exact Touches.refl _ _ | apply Touches.via (State.setCmd_touches ..)
    | apply Touches.via (State.account_touches ..) | dsimp only | split

theorem State.acctRecord_touches (s : State) (ch index : Nat) (acct : List Nat) :
    Touches [.rf, .dram, .store, .chan, .mgt, .flt, .dbg, .out] s (State.acctRecord s ch index acct) := by
  delta State.acctRecord
  with_reducible repeat' first
    | exact Touches.refl _ _ | apply Touches.via (State.readTen_touches ..)
    | apply Touches.via (State.writeTen_touches ..) | apply Touches.via (State.chError_touches ..) | dsimp only
    | split

theorem State.complete_touches (s : State) (ch : Nat) (index : Word) (status detail result : Nat) :
    Touches [.rf, .dram, .store, .chan, .mgt, .flt, .dbg, .out] s (State.complete s ch index status detail result) := by
  delta State.complete
  with_reducible repeat' first
    | exact Touches.refl _ _ | apply Touches.via (State.sendMsix_touches ..)
    | apply Touches.via (State.writeTen_touches ..) | apply Touches.via (State.setCh_touches ..)
    | apply Touches.via (State.chError_touches ..) | apply Touches.via (State.setCmd_touches ..)
    | apply Touches.via (State.dropCmd_touches ..) | apply Touches.via (State.acctRecord_touches ..) | dsimp only
    | split

theorem State.writeWaiting_touches (n : Nat) : ∀ (s : State) (ch : Nat), Touches [.rf, .dram, .store, .chan, .mgt, .flt, .dbg, .out] s (s.writeWaiting ch n) := by
  induction n with
  | zero => exact fun s ch => .refl _ s
  | succ n ih =>
    intro s ch
    simp only [State.writeWaiting]
    split
    · split
      · split
        · exact .via (ih _ _) (State.complete_touches ..)
        · exact .refl _ s
      · exact .refl _ s
    · exact .refl _ s

theorem State.runCmd_touches {l : List Component} (s : State) (ch : Nat) (index : Word) (opc : Nat) (f : ExecCmd → State → State) (hf0 : ∀ x s, Touches l s (f x s)) (hl : ∀ c ∈ ([.rf, .dram, .store, .chan, .mgt, .flt, .dbg, .out] : List Component), c ∈ l) :
    Touches l s (State.runCmd s ch index opc f) := by
  delta State.runCmd
  with_reducible repeat' first
    | exact Touches.refl _ _ | apply Touches.via (hf0 ..) (sub := fun _ h => h)
    | apply Touches.within (State.setCmd_touches ..) hl | apply Touches.within (State.complete_touches ..) hl | split

theorem State.cacheTake_touches (s : State) (ch : Nat) :
    TouchesOpt [.chan] s (State.cacheTake s ch) := by
  delta State.cacheTake
  with_reducible repeat' first
    | apply TouchesOpt.ite | apply TouchesOpt.some | exact .none | exact Touches.refl _ _
    | (simp only [Touches.mk_iff]; refine TouchesParts.upd ?_) | split

theorem State.noteMiss_touches (s : State) (ch : Nat) :
    Touches [.rf] s (State.noteMiss s ch) := by
  delta State.noteMiss
  with_reducible repeat' first
    | exact Touches.refl _ _ | apply Touches.ite | apply Touches.via (State.bump_touches ..)

theorem State.dropBell_touches (s : State) (v bit : Nat) (ch : Option Nat) :
    Touches [.rf, .chan] s (State.dropBell s v bit ch) := by
  delta State.dropBell
  with_reducible repeat' first
    | exact Touches.refl _ _ | apply Touches.via (State.setBit_touches ..) | apply Touches.via (State.bump_touches ..)
    | apply Touches.via (State.setCh_touches ..) | split

theorem State.bellSq_touches (s : State) (v ch index : Nat) :
    Touches [.rf, .chan] s (State.bellSq s v ch index) := by
  delta State.bellSq
  with_reducible repeat' first
    | exact Touches.refl _ _ | (simp only [Touches.mk_iff]; refine TouchesParts.upd ?_) | apply Touches.ite
    | apply Touches.via (State.setCh_touches ..) | apply Touches.via (State.dropBell_touches ..)

theorem State.bellCq_touches (s : State) (v ch index : Nat) :
    Touches [.rf, .dram, .store, .chan, .mgt, .flt, .dbg, .out] s (State.bellCq s v ch index) := by
  delta State.bellCq
  with_reducible repeat' first
    | exact Touches.refl _ _ | apply Touches.ite | apply Touches.via (State.setCh_touches ..)
    | apply Touches.via (State.writeWaiting_touches ..) | apply Touches.via (State.dropBell_touches ..)

theorem State.bell_touches (s : State) (v : Nat) (cq : Bool) (high low : Word) :
    Touches [.rf, .dram, .store, .chan, .mgt, .flt, .dbg, .out] s (State.bell s v cq high low) := by
  delta State.bell
  with_reducible repeat' first
    | exact Touches.refl _ _ | (simp only [Touches.mk_iff]; refine TouchesParts.upd ?_)
    | apply Touches.via (State.setBit_touches ..)
    | refine Touches.via ((State.cacheTake_touches ..).of _ (by assumption)) ?_
    | apply Touches.via (State.dropBell_touches ..) | apply Touches.via (State.bellSq_touches ..)
    | apply Touches.via (State.bellCq_touches ..) | dsimp only | split

theorem State.retryBells_touches (s : State) :
    Touches [.rf, .dram, .store, .chan, .mgt, .flt, .dbg, .out] s (State.retryBells s) := by
  delta State.retryBells
  with_reducible repeat' first
    | exact Touches.refl _ _ | (simp only [Touches.mk_iff]; refine TouchesParts.upd ?_)
    | apply Touches.via (State.bell_touches ..) | refine Touches.foldl _ ?_ ?_ | intro _ _ | split

theorem State.bellWrite_touches (s : State) (fn : Fin 512) (cq : Bool) (high : Word) (low : Option Word) :
    Touches [.rf, .dram, .store, .chan, .mgt, .flt, .dbg, .out] s (State.bellWrite s fn cq high low) := by
  delta State.bellWrite
  with_reducible repeat' first
    | exact Touches.refl _ _ | apply Touches.ite | apply Touches.via (State.modTenant_touches ..)
    | apply Touches.via (State.noteMiss_touches ..) | apply Touches.via (State.bell_touches ..)
    | apply Touches.via (State.retryBells_touches ..)

theorem execDoorbellSq_touches (fn : Fin 512) (high : Word) (low : Option Word) (s : State) :
    TouchesOut [.rf, .dram, .store, .chan, .mgt, .flt, .dbg, .out] s (execDoorbellSq fn high low s) := by
  delta execDoorbellSq
  with_reducible repeat' first
    | apply TouchesOut.next | exact Touches.refl _ _ | apply Touches.via (State.bellWrite_touches ..)

theorem execDoorbellCq_touches (fn : Fin 512) (high : Word) (low : Option Word) (s : State) :
    TouchesOut [.rf, .dram, .store, .chan, .mgt, .flt, .dbg, .out] s (execDoorbellCq fn high low s) := by
  delta execDoorbellCq
  with_reducible repeat' first
    | apply TouchesOut.next | exact Touches.refl _ _ | apply Touches.via (State.bellWrite_touches ..)

theorem execDoorbellLowHalf_touches (fn : Fin 512) (cq : Bool) (low : Word) (s : State) :
    TouchesOut [.chan] s (execDoorbellLowHalf fn cq low s) := by
  delta execDoorbellLowHalf
  with_reducible repeat' first
    | apply TouchesOut.next | exact Touches.refl _ _ | apply Touches.ite
    | apply Touches.via (State.modTenant_touches ..)

theorem State.tableWrite_touches {l : List Component} (s : State) (c : ExecCmd) (n : Nat) (owner held : Nat → Bool) (commit : State → Nat → (Nat × Nat) × State) (drop : State → Nat × State) (entry : Nat) (hf0 : ∀ s n, Touches l s (commit s n).2) (hf1 : ∀ s, Touches l s (drop s).2) (hl : ∀ c ∈ ([.rf, .dram, .store, .chan, .mgt, .flt, .dbg, .out] : List Component), c ∈ l) :
    Touches l s (State.tableWrite s c n owner held commit drop entry) := by
  delta State.tableWrite
  with_reducible repeat' first
    | exact Touches.refl _ _ | apply hf1 | apply Touches.via (hf0 ..) (sub := fun _ h => h)
    | apply Touches.within (State.readTen_touches ..) hl | apply Touches.within (State.writeTen_touches ..) hl
    | apply Touches.within (State.complete_touches ..) hl | dsimp only | split

theorem State.cwResult_touches (s : State) (w result off gen : Nat) :
    Touches [.rf] s (State.cwResult s w result off gen) := by
  delta State.cwResult
  with_reducible repeat' first | exact Touches.refl _ _ | apply Touches.via (State.wrFld_touches ..)

theorem State.cw_touches {l : List Component} (s : State) (path : Path) (f : Nat → Nat → Nat → State → State) (hf0 : ∀ i j k s, Touches l s (f i j k s)) (hl : ∀ c ∈ ([.rf] : List Component), c ∈ l) :
    Touches l s (State.cw s path f) := by
  delta State.cw
  with_reducible repeat' first
    | exact Touches.refl _ _ | apply Touches.ite | apply hf0 | apply Touches.within (State.setBit_touches ..) hl
    | apply State.via_touches | apply Touches.within (State.cwResult_touches ..) hl | intro _

theorem execCwCreate_touches (path : Path) (s : State) :
    TouchesOut [.rf, .chan] s (execCwCreate path s) := by
  delta execCwCreate
  with_reducible repeat' first
    | apply TouchesOut.next | exact Touches.refl _ _ | (simp only [Touches.mk_iff]; refine TouchesParts.upd ?_)
    | apply Touches.ite | apply Touches.via (State.setCh_touches ..) | apply Touches.via (State.cwResult_touches ..)
    | apply State.cw_touches | decide | intro _ _ _ _

theorem execCwDestroy_touches (path : Path) (s : State) :
    TouchesOut [.rf, .chan] s (execCwDestroy path s) := by
  delta execCwDestroy
  with_reducible repeat' first
    | apply TouchesOut.next | exact Touches.refl _ _ | apply Touches.via (State.setCh_touches ..)
    | apply Touches.via (State.cwResult_touches ..) | apply State.cw_touches | decide | intro _ _ _ _ | dsimp only
    | split

theorem State.cwMove_touches (s : State) (path : Path) (source dest : Nat) :
    Touches [.rf, .chan] s (State.cwMove s path source dest) := by
  delta State.cwMove
  with_reducible repeat' first
    | exact Touches.refl _ _ | apply Touches.ite | apply Touches.via (State.setCh_touches ..)
    | apply Touches.via (State.cwResult_touches ..) | apply State.cw_touches | decide | intro _ _ _ _

theorem execCwStop_touches (path : Path) (s : State) :
    TouchesOut [.rf, .chan] s (execCwStop path s) := by
  delta execCwStop
  with_reducible repeat' first
    | apply TouchesOut.next | exact Touches.refl _ _ | apply Touches.via (State.cwMove_touches ..)

theorem execCwResume_touches (path : Path) (s : State) :
    TouchesOut [.rf, .chan] s (execCwResume path s) := by
  delta execCwResume
  with_reducible repeat' first
    | apply TouchesOut.next | exact Touches.refl _ _ | (simp only [Touches.mk_iff]; refine TouchesParts.upd ?_)
    | apply Touches.ite | apply Touches.via (State.setCh_touches ..) | apply Touches.via (State.cwResult_touches ..)
    | apply State.cw_touches | decide | intro _ _ _ _

theorem execCwRead_touches (path : Path) (s : State) :
    TouchesOut [.rf] s (execCwRead path s) := by
  delta execCwRead
  with_reducible repeat' first
    | apply TouchesOut.next | exact Touches.refl _ _ | apply Touches.via (State.stage_touches ..)
    | apply Touches.via (State.cwResult_touches ..) | apply State.cw_touches | decide | intro _ _ _ _

theorem State.tCmd_touches {l : List Component} (s : State) (path : Path) (f : State → State) (hf0 : ∀ s, Touches l s (f s)) (hl : ∀ c ∈ ([.rf] : List Component), c ∈ l) :
    Touches l s (State.tCmd s path f) := by
  delta State.tCmd
  with_reducible repeat' first
    | exact Touches.refl _ _ | apply Touches.ite | apply hf0 | apply Touches.within (State.setBit_touches ..) hl
    | apply State.via_touches | intro _

theorem execTCommit_touches (path : Path) (s : State) :
    TouchesOut [.rf, .chan] s (execTCommit path s) := by
  delta execTCommit
  with_reducible repeat' first
    | apply TouchesOut.next | exact Touches.refl _ _ | apply Touches.ite | apply Touches.via (State.wrFld_touches ..)
    | apply Touches.via (State.modTenant_touches ..) | apply State.tCmd_touches | decide | intro _

theorem execTRead_touches (path : Path) (s : State) :
    TouchesOut [.rf] s (execTRead path s) := by
  delta execTRead
  with_reducible repeat' first
    | apply TouchesOut.next | exact Touches.refl _ _ | apply Touches.via (State.wrFld_touches ..)
    | apply State.tCmd_touches | decide | intro _

theorem State.semWord_touches {l : List Component} (s : State) (fn : Fin 512) (k : Nat) (f : State → State) (hf0 : ∀ s, Touches l s (f s)) (hl : ∀ c ∈ ([.rf] : List Component), c ∈ l) :
    Touches l s (State.semWord s fn k f) := by
  delta State.semWord
  with_reducible repeat' first
    | exact Touches.refl _ _ | apply Touches.ite | apply hf0 | apply Touches.within (State.setBit_touches ..) hl

theorem execSemSignalWrite_touches (fn : Fin 512) (k : BitVec 13) (v : Word) (s : State) :
    TouchesOut [.rf, .chan] s (execSemSignalWrite fn k v s) := by
  delta execSemSignalWrite
  with_reducible repeat' first
    | apply TouchesOut.next | exact Touches.refl _ _ | apply Touches.via (State.semAdd_touches ..)
    | apply State.semWord_touches | decide | intro _

theorem execSemSetWrite_touches (fn : Fin 512) (k : BitVec 13) (v : Word) (s : State) :
    TouchesOut [.rf, .chan] s (execSemSetWrite fn k v s) := by
  delta execSemSetWrite
  with_reducible repeat' first
    | apply TouchesOut.next | exact Touches.refl _ _ | apply Touches.via (State.semPut_touches ..)
    | apply State.semWord_touches | decide | intro _

end Sys2Proof.Machine
end

