-- ==== Sys2Proof/Laws/TouchesIssue.lean ====
section
/-!
SUPPORT. The issue of bundles and the save areas:
what each operation touches (`Touches`): the components it may change, the queue never, and that it keeps the canonical form.
-/

-- One declaration after another: the package as one text then needs few threads at a time.
set_option Elab.async false

set_option linter.unusedVariables false
set_option linter.unusedSimpArgs false

namespace Sys2Proof.Machine

open Safety (Component)

theorem State.addPend_touches (s : State) (t : Nat) (xd : Option (Nat × Dword)) (vd : Option (Nat × List Word)) (reads : List Span) :
    Touches [.tiles] s (State.addPend s t xd vd reads) := by
  delta State.addPend
  with_reducible repeat' first | exact Touches.refl _ _ | apply Touches.via (State.modTile_touches ..)

theorem State.s2Effect_touches (s : State) (t : Nat) (x : Tile) (w : Nat) :
    Touches [.rf, .tiles, .ls, .dram, .store, .loupe, .chan, .mgt, .flt, .dbg, .out] s (State.s2Effect s t x w) := by
  delta State.s2Effect
  with_reducible repeat' first
    | exact Touches.refl _ _ | apply Touches.via (State.pmcTile_touches ..)
    | apply Touches.via (State.trouble_touches ..) | apply Touches.via (State.getBytes_touches ..)
    | apply Touches.via (State.putBytes_touches ..) | apply Touches.via (State.putAll_touches ..)
    | apply Touches.via (State.startOp_touches ..) | apply Touches.via (State.digest_touches ..)
    | apply Touches.via (State.reportTile_touches ..) | apply Touches.via (State.addPend_touches ..) | dsimp only
    | split

theorem State.dmaReport_touches (s : State) (t : Nat) (o : DmaOp) (data aux : List Byte) :
    Touches [.loupe] s (State.dmaReport s t o data aux) := by
  delta State.dmaReport
  with_reducible repeat' first | exact Touches.refl _ _ | apply Touches.via (State.reportTile_touches ..) | split

theorem State.dmaEffect_touches (s : State) (t : Nat) (x : Tile) (w : Nat) :
    Touches [.rf, .tiles, .ls, .dram, .store, .loupe, .chan, .mgt, .flt, .dbg, .out] s (State.dmaEffect s t x w) := by
  delta State.dmaEffect
  with_reducible repeat' first
    | exact Touches.refl _ _ | apply Touches.via (State.trouble_touches ..)
    | apply Touches.via (State.getBytes_touches ..) | apply Touches.via (State.getAll_touches ..)
    | apply Touches.via (State.putAll_touches ..) | apply Touches.via (State.startOp_touches ..)
    | apply Touches.via (State.digest_touches ..) | apply Touches.via (State.dmaReport_touches ..) | dsimp only
    | split

theorem State.semrEffect_touches (s : State) (t : Nat) (x : Tile) (w : Nat) :
    Touches [.tiles, .chan, .out] s (State.semrEffect s t x w) := by
  delta State.semrEffect
  with_reducible repeat' first
    | exact Touches.refl _ _ | apply Touches.ite | apply Touches.via (State.emit_touches ..)
    | apply Touches.via (State.startOp_touches ..) | apply Touches.via (State.semAdd_touches ..)

theorem State.dldEffect_touches (s : State) (t : Nat) (x : Tile) (w : Nat) :
    Touches [.rf, .tiles, .store, .chan, .mgt, .flt, .dbg, .out] s (State.dldEffect s t x w) := by
  delta State.dldEffect
  with_reducible repeat' first
    | exact Touches.refl _ _ | apply Touches.via (State.modTile_touches ..)
    | apply Touches.via (State.trouble_touches ..) | apply Touches.via (State.getBytes_touches ..) | dsimp only
    | split

theorem State.dstrEffect_touches (s : State) (t : Nat) (x : Tile) (w : Nat) :
    Touches [.rf, .tiles, .ls, .dram, .store, .chan, .mgt, .flt, .dbg, .out] s (State.dstrEffect s t x w) := by
  delta State.dstrEffect
  with_reducible repeat' first
    | exact Touches.refl _ _ | apply Touches.via (State.trouble_touches ..)
    | apply Touches.via (State.putBytes_touches ..) | dsimp only | split

theorem State.ipfEffect_touches (s : State) (t : Nat) (x : Tile) (w : Nat) :
    Touches [.tiles] s (State.ipfEffect s t x w) := by
  delta State.ipfEffect
  with_reducible repeat' first | exact Touches.refl _ _ | apply Touches.via (State.modTile_touches ..)

theorem State.pcolEffect_touches (s : State) (t : Nat) (x : Tile) (w : Nat) :
    Touches [.rf, .tiles, .parts, .ls, .dram, .store, .loupe, .prism, .chan, .mgt, .flt, .dbg, .freeCount, .out] s (State.pcolEffect s t x w) := by
  delta State.pcolEffect
  with_reducible repeat' first
    | exact Touches.refl _ _ | apply Touches.ite | apply Touches.via (State.startOp_touches ..)
    | apply Touches.via (State.digest_touches ..) | apply Touches.via (State.launch_touches ..)

theorem State.setAow_touches (s : State) (t id : Nat) (l : List AowReq) :
    Touches [.tiles] s (State.setAow s t id l) := by
  delta State.setAow
  with_reducible repeat' first | exact Touches.refl _ _ | apply Touches.via (State.modTile_touches ..)

theorem State.drainEffect_touches (s : State) (t : Nat) (x : Tile) (w : Nat) (o : MmaOp) (id : Nat) (r : Drained) :
    Touches [.rf, .tiles, .parts, .ls, .dram, .store, .loupe, .prism, .chan, .mgt, .flt, .dbg, .freeCount, .out] s (State.drainEffect s t x w o id r) := by
  delta State.drainEffect
  with_reducible repeat' first
    | exact Touches.refl _ _ | apply Touches.via (State.pmcTile_touches ..)
    | apply Touches.via (State.trouble_touches ..) | apply Touches.via (State.putAll_touches ..)
    | apply Touches.via (State.digest_touches ..) | apply Touches.via (State.reportTile_touches ..)
    | apply Touches.via (State.accPe_touches ..) | apply Touches.via (State.launch_touches ..)
    | apply Touches.via (State.setAow_touches ..) | dsimp only | split

theorem State.s1Effect_touches (s : State) (t : Nat) (x : Tile) (w : Nat) : Touches [.rf, .tiles, .parts, .ls, .dram, .store, .loupe, .prism, .chan, .mgt, .flt, .dbg, .freeCount, .out] s (s.s1Effect t x w) := by
  delta State.s1Effect
  extract_lets o id draw u v p
  have hv : Touches [.rf, .tiles, .parts, .ls, .dram, .store, .loupe, .prism, .chan, .mgt, .flt, .dbg, .freeCount, .out] s v := .via (State.startOp_touches ..) (.mono (State.drawCycles_touches ..))
  have hp : Touches [.rf, .tiles, .parts, .ls, .dram, .store, .loupe, .prism, .chan, .mgt, .flt, .dbg, .freeCount, .out] s p.2.2.2 := by
    dsimp only [p]
    split
    · exact hv
    · exact .via (State.mmaProducts_touches ..) hv
  clear_value p
  split
  · exact .via (State.trouble_touches ..) hp
  · exact .via (State.accPe_touches ..) hp
  · exact .via (State.drainEffect_touches ..) hp

theorem State.s3Effect_touches (s : State) (t : Nat) (x : Tile) (w : Nat) :
    Touches [.rf, .tiles, .parts, .ls, .dram, .store, .loupe, .prism, .kal, .chan, .mgt, .flt, .dbg, .freeCount, .out] s (State.s3Effect s t x w) := by
  delta State.s3Effect
  with_reducible repeat' first
    | exact Touches.refl _ _ | apply Touches.via (State.krotEffect_touches ..)
    | apply Touches.via (State.dmaEffect_touches ..) | apply Touches.via (State.semrEffect_touches ..)
    | apply Touches.via (State.dldEffect_touches ..) | apply Touches.via (State.dstrEffect_touches ..)
    | apply Touches.via (State.ipfEffect_touches ..) | apply Touches.via (State.pcolEffect_touches ..) | split

theorem State.slotEffect_touches (s : State) (t : Nat) (x : Tile) (b : Bundle) (i : Nat) :
    Touches [.rf, .tiles, .parts, .ls, .dram, .store, .loupe, .prism, .kal, .chan, .mgt, .flt, .dbg, .freeCount, .out] s (State.slotEffect s t x b i) := by
  delta State.slotEffect
  with_reducible repeat' first
    | exact Touches.refl _ _ | apply Touches.ite | apply Touches.via (State.s0Effect_touches ..)
    | apply Touches.via (State.s2Effect_touches ..) | apply Touches.via (State.s1Effect_touches ..)
    | apply Touches.via (State.s3Effect_touches ..) | split

theorem State.fetchAt_touches (s : State) (t : Nat) :
    Touches [.rf, .tiles, .chan, .flt, .out] s (State.fetchAt s t) := by
  delta State.fetchAt
  with_reducible repeat' first
    | exact Touches.refl _ _ | apply Touches.ite | apply Touches.via (State.modTile_touches ..)
    | apply Touches.via (State.exception_touches ..)

theorem State.afterBundle_touches (s : State) (t : Nat) (x : Tile) (b : Bundle) :
    Touches [.rf, .tiles, .parts, .ls, .dram, .store, .loupe, .prism, .chan, .mgt, .flt, .dbg, .freeCount, .out] s (State.afterBundle s t x b) := by
  delta State.afterBundle
  with_reducible repeat' first
    | exact Touches.refl _ _ | apply Touches.ite | apply Touches.via (State.pmcTile_touches ..)
    | apply Touches.via (State.modTile_touches ..) | apply Touches.via (State.joinBarrier_touches ..)
    | apply Touches.via (State.fetchAt_touches ..)

theorem State.issue_touches (s : State) (t : Nat) (b : Bundle) :
    Touches [.rf, .tiles, .parts, .ls, .dram, .store, .loupe, .prism, .kal, .chan, .mgt, .flt, .dbg, .freeCount, .out] s (State.issue s t b) := by
  delta State.issue
  with_reducible repeat' first
    | exact Touches.refl _ _ | apply Touches.via (State.setTile_touches ..)
    | apply Touches.via (State.modTile_touches ..) | apply Touches.via (State.inject_touches ..)
    | apply Touches.via (State.exception_touches ..) | apply Touches.via (State.slotEffect_touches ..)
    | apply Touches.via (State.afterBundle_touches ..) | refine Touches.foldl _ ?_ ?_ | intro _ _ | dsimp only | split

theorem State.row_touches (s : State) (t : Nat) (b : Bundle) (i op : Nat) :
    Touches [.rf, .tiles, .parts, .ls, .dram, .store, .loupe, .prism, .kal, .chan, .mgt, .flt, .dbg, .freeCount, .out] s (State.row s t b i op) := by
  delta State.row
  with_reducible repeat' first
    | exact Touches.refl _ _ | apply Touches.ite | apply Touches.via (State.issue_touches ..)

theorem State.lsScan_touches (s : State) (t n : Nat) :
    Touches [.rf, .store, .mgt, .flt, .out] s (State.lsScan s t n).2 := by
  delta State.lsScan
  with_reducible repeat' first
    | exact Touches.refl _ _ | (simp only [Touches.mk_iff]; refine TouchesParts.upd ?_)
    | apply Touches.via (State.noteLsCe_touches ..) | refine Touches.foldl _ ?_ ?_ | intro _ _

/-- Copied bytes go to a canonical map as a range of writes does. -/
theorem wf_copyBytes (src dst : Sparse Byte) (x y n : Nat) (h : Sparse.wf (fun _ => (0 : Byte)) dst = true) :
    Sparse.wf (fun _ => (0 : Byte)) (copyBytes src x dst y n) = true := by
  have key : ∀ (l : List (Nat × Byte)) (m : Sparse Byte), Sparse.wf (fun _ => (0 : Byte)) m = true →
      Sparse.wf (fun _ => (0 : Byte)) (l.foldl (fun m e => Sparse.set 0 m (y + e.1) e.2) m) = true := by
    intro l
    induction l with
    | nil => exact fun m h => h
    | cons e l ih => exact fun m h => ih _ (Sparse.wf_setC _ _ h)
  exact key _ _ (Sparse.wf_clear y n h)

theorem State.lsOut_touches (s : State) (v a t n : Nat) : Touches [.dram, .store] s (s.lsOut v a t n) := by
  refine Touches.foldl _ (fun s e => ?_) (.refl _ s)
  dsimp only
  split
  · exact .refl _ s
  · refine Touches.setMem s _ fun h => ?_
    simp only [Memory.wf, Bool.and_eq_true] at h ⊢
    exact ⟨h.1, wf_copyBytes _ _ _ _ _ h.2⟩

theorem State.lsIn_touches (s : State) (v a t n : Nat) : Touches [.rf, .ls, .store] s (s.lsIn v a t n).2 := by
  refine Touches.foldlSnd _ (fun s e => ?_) (.refl _ s)
  dsimp only
  split
  · split
    · exact .mono (State.noteHbmUe_touches _ _)
    · refine Touches.setMem s.2 _ fun h => ?_
      simp only [Memory.wf, Bool.and_eq_true] at h ⊢
      exact ⟨wf_copyBytes _ _ _ _ _ h.1, h.2⟩
  · exact .refl _ _

theorem State.freeBytes_touches (s : State) (da n : Nat) : Touches [.dram, .freeCount] s (s.freeBytes da n) := by
  refine Touches.via (l := [.dram]) (s := s.fresh.2) (Touches.setMem s.fresh.2 _ fun h => ?_) (.mono (State.fresh_touches s))
  simp only [Memory.wf, Bool.and_eq_true] at h ⊢
  exact ⟨h.1, Sparse.wf_splice _ _ _ h.2⟩

theorem State.saveTile_touches (s : State) (v save t : Nat) :
    Touches [.rf, .tiles, .dram, .store, .chan, .mgt, .flt, .freeCount, .out] s (State.saveTile s v save t) := by
  delta State.saveTile
  with_reducible repeat' first
    | exact Touches.refl _ _ | (simp only [Touches.mk_iff]; refine TouchesParts.upd ?_) | apply Touches.ite
    | apply Touches.via (State.lsUe_touches ..) | apply Touches.via (State.lsScan_touches ..)
    | apply Touches.via (State.lsOut_touches ..) | apply Touches.via (State.freeBytes_touches ..)
    | refine Touches.foldl _ ?_ ?_ | intro _ _ | split

theorem State.restoreTile_touches (s : State) (v save t n : Nat) (full : Bool) :
    Touches [.rf, .tiles, .ls, .store, .chan, .flt, .out] s (State.restoreTile s v save t n full) := by
  delta State.restoreTile
  with_reducible repeat' first
    | exact Touches.refl _ _ | apply Touches.via (State.modTile_touches ..)
    | apply Touches.via (State.faultTileAt_touches ..) | apply Touches.via (State.lsIn_touches ..) | dsimp only
    | split

theorem State.saveAll_touches (s : State) (p v save : Nat) :
    Touches [.rf, .tiles, .dram, .store, .chan, .mgt, .flt, .freeCount, .out] s (State.saveAll s p v save) := by
  delta State.saveAll
  with_reducible repeat' first
    | exact Touches.refl _ _ | apply Touches.via (State.saveTile_touches ..) | refine Touches.foldl _ ?_ ?_
    | intro _ _

theorem State.restoreAll_touches (s : State) (p v save n : Nat) (full : Bool) :
    Touches [.rf, .tiles, .ls, .store, .chan, .flt, .out] s (State.restoreAll s p v save n full) := by
  delta State.restoreAll
  with_reducible repeat' first
    | exact Touches.refl _ _ | apply Touches.via (State.restoreTile_touches ..) | refine Touches.foldl _ ?_ ?_
    | intro _ _

theorem State.pokeNat_touches (s : State) (da n x : Nat) :
    Touches [.dram] s (State.pokeNat s da n x) := by
  delta State.pokeNat
  with_reducible repeat' first | exact Touches.refl _ _ | apply Touches.via (State.pokeDev_touches ..)

theorem State.openDump_touches (s : State) :
    Touches [.dram, .flt] s (State.openDump s) := by
  delta State.openDump
  with_reducible repeat' first
    | exact Touches.refl _ _ | (simp only [Touches.mk_iff]; refine TouchesParts.upd ?_)
    | apply Touches.via (State.pokeNat_touches ..)

theorem State.dumpLs_touches (s : State) (base t : Nat) : Touches [.rf, .tiles, .ls, .dram, .store, .chan, .mgt, .flt, .freeCount, .out] s (s.dumpLs base t) := by
  delta State.dumpLs
  have cpy : Touches [.rf, .tiles, .ls, .dram, .store, .chan, .mgt, .flt, .freeCount, .out] s { (s.lsScan t lsBytes).2 with mem := { (s.lsScan t lsBytes).2.mem with
      dram := copyBytes (s.lsScan t lsBytes).2.mem.ls (lsKey t 0) (s.lsScan t lsBytes).2.mem.dram (base + 0x10000) lsBytes } } := by
    refine .via (l := [.dram]) (Touches.setMem _ _ fun h => ?_) (.mono (State.lsScan_touches s t lsBytes))
    simp only [Memory.wf, Bool.and_eq_true] at h ⊢
    exact ⟨h.1, wf_copyBytes _ _ _ _ _ h.2⟩
  dsimp only
  split
  · exact cpy
  · exact .via (State.lsUe_touches ..) (Touches.foldl _ (fun s w => .mono (State.freeBytes_touches ..)) cpy)

theorem State.writeDump_touches (s : State) (seq : Word) (tile : Option Nat) :
    Touches [.rf, .tiles, .ls, .dram, .store, .chan, .mgt, .flt, .freeCount, .out] s (s.writeDump seq tile) := by
  have clr : ∀ (u : State) (x n : Nat), Touches [.dram] u { u with mem := { u.mem with dram := Sparse.clear u.mem.dram x n } } := by
    intro u x n
    refine Touches.setMem u _ fun h => ?_
    simp only [Memory.wf, Bool.and_eq_true] at h ⊢
    exact ⟨h.1, Sparse.wf_clear _ _ h.2⟩
  delta State.writeDump
  refine .via (State.pokeNat_touches ..) (.via (State.freeBytes_touches ..) (TouchesParts.upd ?_))
  have h : Touches [.rf, .tiles, .ls, .dram, .store, .chan, .mgt, .flt, .freeCount, .out] s _ := .via (clr _ (dumpAt s.flt.dumpB + 0x10000) (0x10000000 - 0x10000))
    (.via (State.freeBytes_touches _ (dumpAt s.flt.dumpB + 0x9000) 0x7000)
      (.mono (State.pokeNat_touches s (dumpAt s.flt.dumpB + 0x1000) 0x8000
        (packFields (s.flt.events.mapIdx fun i r => (1024 * i, 1024, r.toNat))))))
  split
  · exact .via (State.freeBytes_touches ..) (.via (State.dumpLs_touches ..) h)
  · exact h

end Sys2Proof.Machine
end

