-- ==== Sys2Proof/Laws/TouchesFrames.lean ====
section
/-!
SUPPORT. The ledger, frames, steps, weight ingress, checkpoints, jobs and time:
what each operation touches (`Touches`): the components it may change, the queue never, and that it keeps the canonical form.
-/

-- One declaration after another: the package as one text then needs few threads at a time.
set_option Elab.async false

set_option linter.unusedVariables false
set_option linter.unusedSimpArgs false

namespace Sys2Proof.Machine

open Safety (Component)

theorem State.modLed_touches (s : State) (p : Nat) (f : Ledger → Ledger) :
    Touches [.parts] s (State.modLed s p f) := by
  delta State.modLed
  with_reducible repeat' first | exact Touches.refl _ _ | apply Touches.via (State.modPart_touches ..)

theorem State.discard_touches (s : State) (p n : Nat) :
    Touches [.parts] s (State.discard s p n) := by
  delta State.discard
  with_reducible repeat' first | exact Touches.refl _ _ | apply Touches.via (State.modLed_touches ..)

theorem State.ringWrite_touches (s : State) (p v : Nat) (l : Ledger) (bytes : List Byte) (isPad : Bool) :
    Touches [.rf, .parts, .dram, .store, .mgt, .flt, .dbg, .out] s (State.ringWrite s p v l bytes isPad).2 := by
  delta State.ringWrite
  with_reducible repeat' first
    | exact Touches.refl _ _ | apply Touches.via (State.writeTen_touches ..)
    | apply Touches.via (State.modLed_touches ..) | dsimp only | split

theorem State.writeRecord_touches (s : State) (p v len : Nat) (mk : Nat → Nat → List Byte) (pad : Nat → Nat → List Byte) :
    Touches [.rf, .parts, .dram, .store, .mgt, .flt, .dbg, .out] s (State.writeRecord s p v len mk pad) := by
  delta State.writeRecord
  with_reducible repeat' first
    | exact Touches.refl _ _ | apply Touches.ite | apply Touches.via (State.readTen_touches ..)
    | apply Touches.via (State.discard_touches ..) | apply Touches.via (State.ringWrite_touches ..) | split

theorem State.record_touches (s : State) (p kind flags step : Nat) (h : Option StepHead) (body : List Byte) :
    Touches [.rf, .parts, .dram, .store, .mgt, .flt, .dbg, .freeCount, .out] s (State.record s p kind flags step h body) := by
  delta State.record
  with_reducible repeat' first
    | exact Touches.refl _ _ | apply Touches.via (State.fresh_touches ..)
    | apply Touches.via (State.writeRecord_touches ..) | split

theorem State.itemsRecord_touches (s : State) (p kind step : Nat) :
    Touches [.rf, .parts, .dram, .store, .mgt, .flt, .dbg, .freeCount, .out] s (State.itemsRecord s p kind step) := by
  delta State.itemsRecord
  with_reducible repeat' first | exact Touches.refl _ _ | apply Touches.via (State.record_touches ..) | split

theorem State.endRecord_touches (s : State) (p status detail : Nat) :
    Touches [.rf, .parts, .dram, .store, .mgt, .flt, .dbg, .freeCount, .out] s (State.endRecord s p status detail) := by
  delta State.endRecord
  with_reducible repeat' first | exact Touches.refl _ _ | apply Touches.via (State.record_touches ..)

theorem State.readLoss_touches (s : State) (v a : Nat) :
    Touches [.rf, .store, .mgt, .flt, .dbg, .out] s (State.readLoss s v a).2.2 := by
  delta State.readLoss
  with_reducible repeat' first
    | exact Touches.refl _ _ | apply Touches.via (State.readTen_touches ..) | dsimp only | split

theorem State.stepRecord_touches (s : State) (p kind : Nat) (j : Job) (l : Ledger) :
    Touches [.rf, .parts, .dram, .store, .mgt, .flt, .dbg, .freeCount, .out] s (State.stepRecord s p kind j l).2 := by
  delta State.stepRecord
  with_reducible repeat' first
    | exact Touches.refl _ _ | apply Touches.ite | apply Touches.via (State.logEvent_touches ..)
    | apply Touches.via (State.modLed_touches ..) | apply Touches.via (State.record_touches ..)
    | apply Touches.via (State.readLoss_touches ..)

theorem State.clearStep_touches (s : State) (p : Nat) :
    Touches [.tiles, .parts] s (State.clearStep s p) := by
  delta State.clearStep
  with_reducible repeat' first
    | exact Touches.refl _ _ | apply Touches.via (State.modTile_touches ..)
    | apply Touches.via (State.modPart_touches ..) | refine Touches.foldl _ ?_ ?_ | intro _ _

theorem State.refreshItems_touches (s : State) (p : Nat) (j : Job) :
    Touches [.rf, .parts, .dram, .store, .mgt, .flt, .dbg, .freeCount, .out] s (State.refreshItems s p j) := by
  delta State.refreshItems
  with_reducible repeat' first
    | exact Touches.refl _ _ | apply Touches.ite | apply Touches.via (State.modLed_touches ..)
    | apply Touches.via (State.itemsRecord_touches ..) | split

theorem State.loadSource_touches (s : State) (p step : Nat) :
    Touches [.rf, .parts, .store, .mgt, .flt, .dbg, .out] s (State.loadSource s p step) := by
  delta State.loadSource
  with_reducible repeat' first
    | exact Touches.refl _ _ | apply Touches.via (State.modPart_touches ..)
    | apply Touches.via (State.meet_touches ..) | apply Touches.via (State.modLed_touches ..) | dsimp only | split

theorem State.meetSource_touches (s : State) (p v : Nat) (l : Ledger) (f : Nat) :
    Touches [.rf, .store, .mgt, .flt, .dbg, .out] s (State.meetSource s p v l f) := by
  delta State.meetSource
  with_reducible repeat' first
    | exact Touches.refl _ _ | apply Touches.ite | apply Touches.via (State.meet_touches ..)

theorem State.settleFreeze_touches (s : State) (p : Nat) :
    Touches [.rf, .tiles, .parts, .ls, .dram, .store, .chan, .mgt, .flt, .dbg, .freeCount, .out] s (State.settleFreeze s p) := by
  delta State.settleFreeze
  with_reducible repeat' first
    | exact Touches.refl _ _ | apply Touches.via (State.emit_touches ..)
    | apply Touches.via (State.modPart_touches ..) | apply Touches.via (State.tellDm_touches ..)
    | apply Touches.via (State.openDump_touches ..) | apply Touches.via (State.writeDump_touches ..)
    | apply Touches.via (State.modLed_touches ..) | apply Touches.via (State.endRecord_touches ..) | split

theorem State.freezeAt_touches (s : State) (p f : Nat) (own other : List (BitVec 128)) :
    Touches [.rf, .tiles, .parts, .ls, .dram, .store, .chan, .mgt, .flt, .dbg, .freeCount, .out] s (State.freezeAt s p f own other) := by
  delta State.freezeAt
  with_reducible repeat' first
    | exact Touches.refl _ _ | apply Touches.via (State.logEvent_touches ..)
    | apply Touches.via (State.modLed_touches ..) | apply Touches.via (State.settleFreeze_touches ..)

theorem State.compareFrames_touches (n : Nat) : ∀ (s : State) (p : Nat), Touches [.rf, .tiles, .parts, .ls, .dram, .store, .loupe, .chan, .mgt, .flt, .dbg, .freeCount, .out] s (s.compareFrames p n) := by
  induction n with
  | zero => exact fun s p => .refl _ s
  | succ n ih =>
    intro s p
    simp only [State.compareFrames]
    with_reducible repeat' first
      | exact Touches.refl _ _ | apply Touches.ite | apply Touches.via (State.freezeAt_touches ..) | (refine Touches.via (ih _ _) ?_)
      | apply Touches.via (State.modLed_touches ..) | apply Touches.via (State.meetSource_touches ..) | split | decide

theorem State.compareAll_touches (s : State) (p : Nat) :
    Touches [.rf, .tiles, .parts, .ls, .dram, .store, .loupe, .chan, .mgt, .flt, .dbg, .freeCount, .out] s (State.compareAll s p) := by
  delta State.compareAll
  with_reducible repeat' first | exact Touches.refl _ _ | apply Touches.via (State.compareFrames_touches ..)

theorem State.writeDigestEntry_touches (s : State) (p f : Nat) :
    Touches [.rf, .dram, .store, .mgt, .flt, .dbg, .out] s (State.writeDigestEntry s p f) := by
  delta State.writeDigestEntry
  with_reducible repeat' first
    | exact Touches.refl _ _ | apply Touches.via (State.writeTen_touches ..) | dsimp only | split

theorem State.keepDigest_touches (s : State) (t : Nat) (frame : BitVec 48) (v : BitVec 128) :
    Touches [.rf, .tiles, .parts, .ls, .dram, .store, .loupe, .chan, .mgt, .flt, .dbg, .freeCount, .out] s (State.keepDigest s t frame v) := by
  delta State.keepDigest
  with_reducible repeat' first
    | exact Touches.refl _ _ | apply Touches.via (State.emit_touches ..)
    | apply Touches.via (State.modTile_touches ..) | apply Touches.via (State.modLed_touches ..)
    | apply Touches.via (State.compareAll_touches ..) | apply Touches.via (State.writeDigestEntry_touches ..)
    | dsimp only | split

theorem State.loseMirror_touches (s : State) (p : Nat) :
    Touches [.rf, .tiles, .parts, .ls, .dram, .store, .loupe, .chan, .mgt, .flt, .dbg, .freeCount, .out] s (State.loseMirror s p) := by
  delta State.loseMirror
  with_reducible repeat' first
    | exact Touches.refl _ _ | apply Touches.via (State.emit_touches ..) | apply Touches.via (State.modLed_touches ..)
    | apply Touches.via (State.compareAll_touches ..) | split

theorem State.closeRoutines_touches (s : State) (p : Nat) :
    Touches [.tiles] s (State.closeRoutines s p) := by
  delta State.closeRoutines
  with_reducible repeat' first
    | exact Touches.refl _ _ | apply Touches.via (State.modTile_touches ..) | refine Touches.foldl _ ?_ ?_ | intro _ _

theorem State.sendCopy_touches (s : State) :
    Touches [.mgt, .out] s (State.sendCopy s) := by
  delta State.sendCopy
  with_reducible repeat' first
    | exact Touches.refl _ _ | (simp only [Touches.mk_iff]; refine TouchesParts.upd ?_) | apply Touches.ite
    | apply Touches.via (State.emit_touches ..)

theorem State.copyAt_touches (s : State) (p : Nat) (jobId : Word) :
    Touches [.mgt, .out] s (State.copyAt s p jobId) := by
  delta State.copyAt
  with_reducible repeat' first
    | exact Touches.refl _ _ | apply Touches.ite | apply Touches.via (State.sendCopy_touches ..)

theorem State.dispatchTile_touches (s : State) (p t : Nat) (cause : Option Cause) :
    Touches [.rf, .tiles, .parts, .chan, .flt, .out] s (State.dispatchTile s p t cause) := by
  delta State.dispatchTile
  with_reducible repeat' first
    | exact Touches.refl _ _ | apply Touches.via (State.modTile_touches ..)
    | apply Touches.via (State.modPart_touches ..) | apply Touches.via (State.fetchAt_touches ..)

theorem State.logLate_touches (s : State) (p t : Nat) (now : Dword) (cause : Cause) :
    Touches [.rf, .parts] s (State.logLate s p t now cause) := by
  delta State.logLate
  with_reducible repeat' first
    | exact Touches.refl _ _ | apply Touches.ite | apply Touches.via (State.wr_touches ..)
    | apply Touches.via (State.setBit_touches ..) | apply Touches.via (State.bump_touches ..)
    | apply Touches.via (State.modPart_touches ..)

theorem State.lostTick_touches (s : State) (p : Nat) :
    Touches [.rf, .tiles, .parts] s (State.lostTick s p) := by
  delta State.lostTick
  with_reducible repeat' first
    | exact Touches.refl _ _ | apply Touches.via (State.setBit_touches ..)
    | apply Touches.via (State.modTile_touches ..) | apply Touches.via (State.modPart_touches ..) | split

theorem State.takeDeferred_touches (s : State) (p t cyclesLeft : Nat) :
    Touches [.rf, .tiles, .chan, .flt, .dbg, .freeCount, .out] s (State.takeDeferred s p t cyclesLeft) := by
  delta State.takeDeferred
  with_reducible repeat' first
    | exact Touches.refl _ _ | apply Touches.via (State.fresh_touches ..)
    | apply Touches.via (State.pmcTile_touches ..) | apply Touches.via (State.modTile_touches ..)
    | apply Touches.via (State.fetchAt_touches ..) | dsimp only | split

theorem State.closeFrame_touches (s : State) (p t : Nat) (c : Closing) :
    Touches [.tiles] s (State.closeFrame s p t c) := by
  delta State.closeFrame
  with_reducible repeat' first | exact Touches.refl _ _ | apply Touches.via (State.modTile_touches ..)

theorem State.thermalReturn_touches (s : State) (p : Nat) :
    Touches [.rf, .parts, .pkg] s (State.thermalReturn s p) := by
  delta State.thermalReturn
  with_reducible repeat' first
    | exact Touches.refl _ _ | (simp only [Touches.mk_iff]; refine TouchesParts.upd ?_) | apply Touches.ite
    | apply Touches.via (State.clrBit_touches ..) | apply Touches.via (State.applyPower_touches ..)

theorem State.clearSseqs_touches (s : State) (p : Nat) :
    Touches [.prism] s (State.clearSseqs s p) := by
  delta State.clearSseqs
  with_reducible repeat' first | exact Touches.refl _ _ | (simp only [Touches.mk_iff]; refine TouchesParts.upd ?_)

theorem State.openStep_touches (s : State) (p : Nat) :
    Touches [.rf, .parts, .prism, .pkg] s (State.openStep s p) := by
  delta State.openStep
  with_reducible repeat' first
    | exact Touches.refl _ _ | apply Touches.via (State.modPart_touches ..)
    | apply Touches.via (State.applyPower_touches ..) | apply Touches.via (State.thermalReturn_touches ..)
    | apply Touches.via (State.clearSseqs_touches ..)

theorem State.advanceBoundary_touches (s : State) (p : Nat) :
    Touches [.parts] s (State.advanceBoundary s p) := by
  delta State.advanceBoundary
  with_reducible repeat' first
    | exact Touches.refl _ _ | apply Touches.ite | apply Touches.via (State.modPart_touches ..)

theorem State.bindFrame_touches (s : State) (p : Nat) (hold : Option Cause) :
    Touches [.rf, .tiles, .parts, .chan, .flt, .out] s (State.bindFrame s p hold) := by
  delta State.bindFrame
  with_reducible repeat' first
    | exact Touches.refl _ _ | apply Touches.ite | apply Touches.via (State.modTile_touches ..)
    | apply Touches.via (State.dispatchTile_touches ..) | refine Touches.foldl _ ?_ ?_ | intro _ _

theorem State.loseTick_touches (s : State) (p : Nat) :
    Touches [.rf, .tiles, .parts, .chan, .flt, .dbg, .freeCount, .out] s (State.loseTick s p) := by
  delta State.loseTick
  with_reducible repeat' first
    | exact Touches.refl _ _ | apply Touches.via (State.lostTick_touches ..)
    | apply Touches.via (State.takeDeferred_touches ..) | refine Touches.foldl _ ?_ ?_ | intro _ _

theorem State.jobTick_touches (s : State) (p : Nat) :
    Touches [.rf, .tiles, .parts, .prism, .chan, .flt, .dbg, .pkg, .freeCount, .out] s (State.jobTick s p) := by
  delta State.jobTick
  with_reducible repeat' first
    | exact Touches.refl _ _ | apply Touches.ite | apply Touches.via (State.modPart_touches ..)
    | apply Touches.via (State.openStep_touches ..) | apply Touches.via (State.advanceBoundary_touches ..)
    | apply Touches.via (State.bindFrame_touches ..) | apply Touches.via (State.loseTick_touches ..)

theorem State.wrapSeed_touches (s : State) (seed : Dword) :
    Touches [.clock] s (State.wrapSeed s seed) := by
  delta State.wrapSeed
  with_reducible repeat' first | exact Touches.refl _ _ | (simp only [Touches.mk_iff]; refine TouchesParts.upd ?_)

theorem State.failQueued_touches (s : State) (c : Context) (status : Nat) :
    Touches [.rf, .dram, .store, .chan, .mgt, .flt, .dbg, .out] s (State.failQueued s c status) := by
  delta State.failQueued
  with_reducible repeat' first
    | exact Touches.refl _ _ | apply Touches.via (State.complete_touches ..) | refine Touches.foldl _ ?_ ?_
    | intro _ _

theorem State.completeStops_touches (s : State) (v p kind : Nat) :
    Touches [.rf, .dram, .store, .chan, .mgt, .flt, .dbg, .out] s (State.completeStops s v p kind) := by
  delta State.completeStops
  with_reducible repeat' first
    | exact Touches.refl _ _ | apply Touches.via (State.complete_touches ..) | refine Touches.foldl _ ?_ ?_
    | intro _ _

theorem State.stopTicks_touches (s : State) (p : Nat) :
    Touches [.rf, .parts, .pkg, .out] s (State.stopTicks s p) := by
  delta State.stopTicks
  with_reducible repeat' first
    | exact Touches.refl _ _ | apply Touches.ite | apply Touches.via (State.emit_touches ..)
    | apply Touches.via (State.modPart_touches ..) | apply Touches.via (State.settlePending_touches ..)
    | apply Touches.via (State.thermalReturn_touches ..)

theorem State.endContext_touches (s : State) (v p status : Nat) :
    Touches [.rf, .parts, .dram, .store, .chan, .mgt, .flt, .dbg, .pkg, .out] s (State.endContext s v p status) := by
  delta State.endContext
  with_reducible repeat' first
    | exact Touches.refl _ _ | apply Touches.via (State.modPart_touches ..)
    | apply Touches.via (State.setContext_touches ..) | apply Touches.via (State.complete_touches ..)
    | apply Touches.via (State.retryBells_touches ..) | apply Touches.via (State.failQueued_touches ..)
    | apply Touches.via (State.completeStops_touches ..) | apply Touches.via (State.stopTicks_touches ..) | split

theorem State.endInvocation_touches (s : State) (p : Nat) :
    Touches [.clock, .rf, .parts, .dram, .store, .chan, .mgt, .flt, .dbg, .pkg, .out] s (State.endInvocation s p) := by
  delta State.endInvocation
  with_reducible repeat' first
    | exact Touches.refl _ _ | apply Touches.via (State.setBit_touches ..)
    | apply Touches.via (State.modPart_touches ..) | apply Touches.via (State.setContext_touches ..)
    | apply Touches.via (State.complete_touches ..) | apply Touches.via (State.retryBells_touches ..)
    | apply Touches.via (State.thermalReturn_touches ..) | apply Touches.via (State.wrapSeed_touches ..)
    | apply Touches.via (State.endContext_touches ..) | split

theorem State.preemptOut_touches (s : State) (p : Nat) :
    Touches [.rf, .tiles, .parts, .dram, .store, .chan, .mgt, .flt, .freeCount, .out] s (State.preemptOut s p) := by
  delta State.preemptOut
  with_reducible repeat' first
    | exact Touches.refl _ _ | apply Touches.via (State.modPart_touches ..)
    | apply Touches.via (State.setContext_touches ..) | apply Touches.via (State.charge_touches ..)
    | apply Touches.via (State.saveAll_touches ..) | split

theorem State.recallCredits_touches (s : State) (p v : Nat) :
    Touches [.chan] s (State.recallCredits s p v) := by
  delta State.recallCredits
  with_reducible repeat' first | exact Touches.refl _ _ | (simp only [Touches.mk_iff]; refine TouchesParts.upd ?_)

theorem State.mapTiles_touches (s : State) (p : Nat) (f : Tile → Tile) :
    Touches [.tiles] s (State.mapTiles s p f) := by
  delta State.mapTiles
  with_reducible repeat' first
    | exact Touches.refl _ _ | apply Touches.via (State.modTile_touches ..) | refine Touches.foldl _ ?_ ?_ | intro _ _

theorem State.bringIn_touches (s : State) (p v : Nat) (c : Context) :
    Touches [.rf, .tiles, .parts, .ls, .store, .chan, .flt, .out] s (State.bringIn s p v c) := by
  delta State.bringIn
  with_reducible repeat' first
    | exact Touches.refl _ _ | apply Touches.via (State.modPart_touches ..)
    | apply Touches.via (State.setContext_touches ..) | apply Touches.via (State.restoreAll_touches ..)
    | apply Touches.via (State.mapTiles_touches ..)

theorem State.startInvocation_touches (s : State) (p v : Nat) (c : Context) :
    Touches [.rf, .tiles, .parts, .prism, .chan, .pkg] s (State.startInvocation s p v c) := by
  delta State.startInvocation
  with_reducible repeat' first
    | exact Touches.refl _ _ | apply Touches.via (State.modTile_touches ..)
    | apply Touches.via (State.setContext_touches ..) | apply Touches.via (State.charge_touches ..)
    | apply Touches.via (State.openStep_touches ..) | refine Touches.foldl _ ?_ ?_ | intro _ _ | split

theorem State.chargeFrame_touches (s : State) (p v : Nat) (swap : Bool) :
    Touches [.parts, .chan] s (State.chargeFrame s p v swap) := by
  delta State.chargeFrame
  with_reducible repeat' first
    | exact Touches.refl _ _ | apply Touches.via (State.modPart_touches ..)
    | apply Touches.via (State.setContext_touches ..) | apply Touches.via (State.charge_touches ..) | dsimp only
    | split

theorem State.runFrame_touches (s : State) (p v : Nat) :
    Touches [.rf, .tiles, .parts, .prism, .chan, .flt, .pkg, .freeCount, .out] s (State.runFrame s p v) := by
  delta State.runFrame
  with_reducible repeat' first
    | exact Touches.refl _ _ | apply Touches.via (State.fresh_touches ..)
    | apply Touches.via (State.modPart_touches ..) | apply Touches.via (State.bindFrame_touches ..)
    | apply Touches.via (State.startInvocation_touches ..) | apply Touches.via (State.chargeFrame_touches ..)
    | dsimp only | split

theorem State.nextInFrame_touches (s : State) (p cyclesLeft : Nat) :
    Touches [.rf, .tiles, .parts, .prism, .chan, .flt, .pkg, .freeCount, .out] s (State.nextInFrame s p cyclesLeft) := by
  delta State.nextInFrame
  with_reducible repeat' first
    | exact Touches.refl _ _ | apply Touches.ite | apply Touches.via (State.fresh_touches ..)
    | apply Touches.via (State.setContext_touches ..) | apply Touches.via (State.bindFrame_touches ..)
    | apply Touches.via (State.startInvocation_touches ..) | split

theorem State.turnFrame_touches (s : State) (p v : Nat) :
    Touches [.rf, .tiles, .parts, .ls, .dram, .store, .prism, .chan, .mgt, .flt, .pkg, .freeCount, .out] s (State.turnFrame s p v) := by
  delta State.turnFrame
  with_reducible repeat' first
    | exact Touches.refl _ _ | apply Touches.ite | apply Touches.via (State.modPart_touches ..)
    | apply Touches.via (State.preemptOut_touches ..) | apply Touches.via (State.recallCredits_touches ..)
    | apply Touches.via (State.bringIn_touches ..) | apply Touches.via (State.chargeFrame_touches ..)
    | apply Touches.via (State.runFrame_touches ..) | split

theorem State.endStopped_touches (s : State) (p : Nat) :
    Touches [.rf, .parts, .dram, .store, .chan, .mgt, .flt, .dbg, .pkg, .out] s (State.endStopped s p) := by
  delta State.endStopped
  with_reducible repeat' first
    | exact Touches.refl _ _ | apply Touches.ite | apply Touches.via (State.endContext_touches ..)
    | refine Touches.foldl _ ?_ ?_ | intro _ _

theorem State.serveTick_touches (s : State) (p : Nat) :
    Touches [.clock, .rf, .tiles, .parts, .ls, .dram, .store, .prism, .chan, .mgt, .flt, .dbg, .pkg, .freeCount, .out] s (State.serveTick s p) := by
  delta State.serveTick
  with_reducible repeat' first
    | exact Touches.refl _ _ | apply Touches.via (State.modPart_touches ..)
    | apply Touches.via (State.loseTick_touches ..) | apply Touches.via (State.endInvocation_touches ..)
    | apply Touches.via (State.chargeFrame_touches ..) | apply Touches.via (State.turnFrame_touches ..)
    | apply Touches.via (State.endStopped_touches ..) | dsimp only | split

theorem State.setWset_touches (s : State) (k : Nat) (w : Option WSet) :
    Touches [.ing] s (State.setWset s k w) := by
  delta State.setWset
  with_reducible repeat' first | exact Touches.refl _ _ | (simp only [Touches.mk_iff]; refine TouchesParts.upd ?_)

theorem State.modCopy_touches (s : State) (k : Nat) (b : Bool) (f : WCopy → WCopy) :
    Touches [.ing] s (State.modCopy s k b f) := by
  delta State.modCopy
  with_reducible repeat' first | exact Touches.refl _ _ | apply Touches.via (State.setWset_touches ..) | split

theorem State.settleFlip_touches (s : State) (k : Nat) :
    Touches [.rf, .dram, .store, .chan, .ing, .mgt, .flt, .dbg, .out] s (State.settleFlip s k) := by
  delta State.settleFlip
  with_reducible repeat' first
    | exact Touches.refl _ _ | apply Touches.via (State.complete_touches ..)
    | apply Touches.via (State.retryBells_touches ..) | apply Touches.via (State.setWset_touches ..) | split

theorem State.writeFlip_touches (s : State) (k v : Nat) :
    Touches [.rf, .dram, .store, .chan, .ing, .mgt, .flt, .dbg, .out] s (State.writeFlip s k v) := by
  delta State.writeFlip
  with_reducible repeat' first
    | exact Touches.refl _ _ | apply Touches.via (State.writeTen_touches ..)
    | apply Touches.via (State.setWset_touches ..) | apply Touches.via (State.settleFlip_touches ..) | split

theorem State.writeFlips_touches (s : State) (p : Nat) :
    Touches [.rf, .dram, .store, .chan, .ing, .mgt, .flt, .dbg, .out] s (State.writeFlips s p) := by
  delta State.writeFlips
  with_reducible repeat' first
    | exact Touches.refl _ _ | apply Touches.via (State.writeFlip_touches ..) | refine Touches.foldl _ ?_ ?_
    | intro _ _

theorem State.setKey_touches (s : State) (k : Nat) (x : KeySlot) :
    Touches [.ing] s (State.setKey s k x) := by
  delta State.setKey
  with_reducible repeat' first | exact Touches.refl _ _ | (simp only [Touches.mk_iff]; refine TouchesParts.upd ?_)

theorem State.clearKey_touches (s : State) (k : Nat) :
    Touches [.ing] s (State.clearKey s k) := by
  delta State.clearKey
  with_reducible repeat' first
    | exact Touches.refl _ _ | (simp only [Touches.mk_iff]; refine TouchesParts.upd ?_)
    | apply Touches.via (State.setKey_touches ..)

theorem State.beginExtents_touches (s : State) :
    Touches [.ing, .out] s (State.beginExtents s) := by
  delta State.beginExtents
  with_reducible repeat' first
    | exact Touches.refl _ _ | (simp only [Touches.mk_iff]; refine TouchesParts.upd ?_) | apply Touches.ite
    | apply Touches.via (State.emit_touches ..) | refine Touches.foldl _ ?_ ?_ | intro _ _

theorem State.refuse_touches (s : State) (c : ExecCmd) (reason : Nat) :
    Touches [.rf, .dram, .store, .chan, .mgt, .flt, .dbg, .out] s (State.refuse s c reason) := by
  delta State.refuse
  with_reducible repeat' first | exact Touches.refl _ _ | apply Touches.via (State.complete_touches ..)

theorem State.writeCopy_touches (s : State) (f : FetchRun) (l : List (Nat × List Byte)) :
    Touches [.rf, .dram, .store, .mgt, .flt, .dbg, .out] s (State.writeCopy s f l).st := by
  delta State.writeCopy
  with_reducible repeat' first
    | exact Touches.refl _ _ | apply Touches.iteExtent | refine Touches.foldlExtent _ ?_ ?_
    | apply Touches.via (State.writeDev_touches ..) | intro _ _

theorem State.zeroCopy_touches (s : State) (f : FetchRun) (e status : Nat) :
    Touches [.rf, .dram, .store, .mgt, .flt, .dbg, .out] s (State.zeroCopy s f e status).st := by
  delta State.zeroCopy
  with_reducible repeat' first | exact Touches.refl _ _ | apply Touches.via (State.writeCopy_touches ..)

theorem State.runExtent_touches (s : State) (f : FetchRun) (e : Nat) (b : BegunKey) (wire : List Byte) :
    Touches [.rf, .dram, .store, .mgt, .flt, .dbg, .freeCount, .out] s (State.runExtent s f e b wire).st := by
  delta State.runExtent
  with_reducible repeat' first
    | exact Touches.refl _ _ | apply Touches.iteExtent | apply Touches.via (State.bump_touches ..)
    | apply Touches.via (State.fresh_touches ..) | apply Touches.via (State.writeCopy_touches ..)
    | apply Touches.via (State.zeroCopy_touches ..)

theorem State.settleFetch_touches (s : State) (f : FetchRun) :
    Touches [.rf, .dram, .store, .chan, .ing, .mgt, .flt, .dbg, .out] s (State.settleFetch s f) := by
  delta State.settleFetch
  with_reducible repeat' first
    | exact Touches.refl _ _ | (simp only [Touches.mk_iff]; refine TouchesParts.upd ?_) | apply Touches.ite
    | apply Touches.via (State.complete_touches ..) | apply Touches.via (State.retryBells_touches ..)
    | apply Touches.via (State.modCopy_touches ..)

theorem State.noteExtent_touches (s : State) (f : FetchRun) (i status wrote : Nat) :
    Touches [.rf, .dram, .store, .ing, .mgt, .flt, .dbg, .out] s (State.noteExtent s f i status wrote).2 := by
  delta State.noteExtent
  with_reducible repeat' first
    | exact Touches.refl _ _ | (simp only [Touches.mk_iff]; refine TouchesParts.upd ?_) | apply Touches.ite
    | apply Touches.via (State.setBit_touches ..) | apply Touches.via (State.bump_touches ..)
    | apply Touches.via (State.writeTen_touches ..) | apply Touches.via (State.modCopy_touches ..)

theorem State.endExtent_touches (s : State) (f : FetchRun) (i status wrote : Nat) :
    Touches [.rf, .dram, .store, .chan, .ing, .mgt, .flt, .dbg, .out] s (State.endExtent s f i status wrote) := by
  delta State.endExtent
  with_reducible repeat' first
    | exact Touches.refl _ _ | apply Touches.via (State.beginExtents_touches ..)
    | apply Touches.via (State.settleFetch_touches ..) | apply Touches.via (State.noteExtent_touches ..)

theorem State.refuseKey_touches (s : State) (c : ExecCmd) (reason : Nat) :
    Touches [.rf, .dram, .store, .chan, .mgt, .flt, .dbg, .out] s (State.refuseKey s c reason) := by
  delta State.refuseKey
  with_reducible repeat' first
    | exact Touches.refl _ _ | apply Touches.via (State.setBit_touches ..)
    | apply Touches.via (State.refuse_touches ..)

theorem State.closeStep_touches (s : State) (p : Nat) :
    Touches [.rf, .tiles, .parts, .ls, .dram, .store, .loupe, .prism, .chan, .mgt, .flt, .dbg, .freeCount, .out] s (State.closeStep s p) := by
  delta State.closeStep
  with_reducible repeat' first
    | exact Touches.refl _ _ | apply Touches.ite | apply Touches.via (State.setBit_touches ..)
    | apply Touches.via (State.emit_touches ..) | apply Touches.via (State.modPart_touches ..)
    | apply Touches.via (State.startNorm_touches ..) | apply Touches.via (State.mapTiles_touches ..)

theorem State.snapshots_touches (s : State) (p : Nat) :
    Touches [.dbg] s (State.snapshots s p) := by
  delta State.snapshots
  with_reducible repeat' first
    | exact Touches.refl _ _ | (simp only [Touches.mk_iff]; refine TouchesParts.upd ?_) | apply Touches.ite

theorem State.refill_touches (s : State) (p : Nat) :
    Touches [.tiles, .parts] s (State.refill s p) := by
  delta State.refill
  with_reducible repeat' first
    | exact Touches.refl _ _ | apply Touches.via (State.modTile_touches ..)
    | apply Touches.via (State.modPart_touches ..) | refine Touches.foldlSnd _ ?_ ?_ | intro _ _

theorem State.countWatchdogs_touches (s : State) (p : Nat) :
    Touches [.tiles] s (State.countWatchdogs s p) := by
  delta State.countWatchdogs
  with_reducible repeat' first
    | exact Touches.refl _ _ | apply Touches.ite | apply Touches.via (State.mapTiles_touches ..)

theorem State.countCredits_touches (s : State) (p : Nat) :
    Touches [.chan] s (State.countCredits s p) := by
  delta State.countCredits
  with_reducible repeat' first | exact Touches.refl _ _ | (simp only [Touches.mk_iff]; refine TouchesParts.upd ?_)

theorem State.atTick_touches (s : State) (p : Nat) :
    Touches [.rf, .tiles, .parts, .ls, .dram, .store, .prism, .chan, .mgt, .flt, .dbg, .freeCount, .out] s (State.atTick s p) := by
  delta State.atTick
  with_reducible repeat' first
    | exact Touches.refl _ _ | apply Touches.via (State.modPart_touches ..)
    | apply Touches.via (State.applyGroups_touches ..) | apply Touches.via (State.slotContend_touches ..)
    | apply Touches.via (State.tickPending_touches ..) | apply Touches.via (State.settleFreeze_touches ..)
    | apply Touches.via (State.snapshots_touches ..) | apply Touches.via (State.refill_touches ..)
    | apply Touches.via (State.countWatchdogs_touches ..) | apply Touches.via (State.countCredits_touches ..)

theorem State.startJobTiles_touches (s : State) (p : Nat) :
    Touches [.rf, .tiles, .parts, .ls, .store, .chan, .flt, .out] s (State.startJobTiles s p) := by
  delta State.startJobTiles
  with_reducible repeat' first
    | exact Touches.refl _ _ | apply Touches.via (State.modTile_touches ..)
    | apply Touches.via (State.modPart_touches ..) | apply Touches.via (State.charge_touches ..)
    | apply Touches.via (State.restoreAll_touches ..) | apply Touches.via (State.mapTiles_touches ..)
    | refine Touches.foldl _ ?_ ?_ | intro _ _ | split

theorem State.beginJob_touches (s : State) (p g : Nat) :
    Touches [.rf, .tiles, .parts, .ls, .dram, .store, .prism, .chan, .mgt, .flt, .dbg, .freeCount, .out] s (State.beginJob s p g) := by
  delta State.beginJob
  with_reducible repeat' first
    | exact Touches.refl _ _ | apply Touches.ite | apply Touches.via (State.wr_touches ..)
    | apply Touches.via (State.modPart_touches ..) | apply Touches.via (State.recallCredits_touches ..)
    | apply Touches.via (State.mapTiles_touches ..) | apply Touches.via (State.atTick_touches ..)
    | apply Touches.via (State.startJobTiles_touches ..) | split

theorem State.tick_touches (s : State) (p : Nat) :
    Touches [.clock, .rf, .tiles, .parts, .ls, .dram, .store, .loupe, .prism, .chan, .ing, .mgt, .flt, .dbg, .pkg, .freeCount, .out] s (State.tick s p) := by
  delta State.tick
  with_reducible repeat' first
    | exact Touches.refl _ _ | apply Touches.via (State.setBit_touches ..)
    | apply Touches.via (State.reach_touches ..) | apply Touches.via (State.modPart_touches ..)
    | apply Touches.via (State.charge_touches ..) | apply Touches.via (State.jobTick_touches ..)
    | apply Touches.via (State.endInvocation_touches ..) | apply Touches.via (State.endStopped_touches ..)
    | apply Touches.via (State.serveTick_touches ..) | apply Touches.via (State.writeFlips_touches ..)
    | apply Touches.via (State.closeStep_touches ..) | apply Touches.via (State.atTick_touches ..)
    | apply Touches.via (State.beginJob_touches ..) | dsimp only | split

theorem State.lateDispatch_touches (s : State) (t : Nat) (now : Dword) (own : Nat) (block wait : Option Cause) :
    Touches [.clock, .rf, .tiles, .parts, .ls, .dram, .store, .prism, .chan, .mgt, .flt, .pkg, .freeCount, .out] s (State.lateDispatch s t now own block wait) := by
  delta State.lateDispatch
  with_reducible repeat' first
    | exact Touches.refl _ _ | apply Touches.ite | apply Touches.via (State.reach_touches ..)
    | apply Touches.via (State.dispatchTile_touches ..) | apply Touches.via (State.logLate_touches ..)
    | apply Touches.via (State.openStep_touches ..) | apply Touches.via (State.advanceBoundary_touches ..)
    | apply Touches.via (State.preemptOut_touches ..) | apply Touches.via (State.startJobTiles_touches ..)

theorem State.finishJob_touches (s : State) (p status : Nat) (j : Job) :
    Touches [.clock, .rf, .parts, .dram, .store, .chan, .mgt, .flt, .dbg, .pkg, .out] s (State.finishJob s p status j) := by
  delta State.finishJob
  with_reducible repeat' first
    | exact Touches.refl _ _ | apply Touches.ite | apply Touches.via (State.modPart_touches ..)
    | apply Touches.via (State.complete_touches ..) | apply Touches.via (State.retryBells_touches ..)
    | apply Touches.via (State.wrapSeed_touches ..) | apply Touches.via (State.completeStops_touches ..)
    | apply Touches.via (State.stopTicks_touches ..)

theorem State.endJob_touches (s : State) (p : Nat) :
    Touches [.clock, .rf, .tiles, .parts, .ls, .dram, .store, .loupe, .prism, .chan, .mgt, .flt, .dbg, .pkg, .freeCount, .out] s (State.endJob s p) := by
  delta State.endJob
  with_reducible repeat' first
    | exact Touches.refl _ _ | apply Touches.via (State.endRecord_touches ..)
    | apply Touches.via (State.stepRecord_touches ..) | apply Touches.via (State.advanceBoundary_touches ..)
    | apply Touches.via (State.closeStep_touches ..) | apply Touches.via (State.finishJob_touches ..) | dsimp only
    | split

theorem State.modJob_touches (s : State) (p : Nat) (f : Job → Job) :
    Touches [.parts] s (State.modJob s p f) := by
  delta State.modJob
  with_reducible repeat' first | exact Touches.refl _ _ | apply Touches.via (State.modPart_touches ..)

theorem State.sendFingerprint_touches (s : State) (p : Nat) :
    Touches [.out] s (State.sendFingerprint s p) := by
  delta State.sendFingerprint
  with_reducible repeat' first | exact Touches.refl _ _ | apply Touches.via (State.emit_touches ..) | split

theorem execPeriodWrite_touches (path : Path) (p : Fin 8) (value : Word) (s : State) :
    TouchesOut [.rf, .parts, .port, .out] s (execPeriodWrite path p value s) := by
  delta execPeriodWrite
  with_reducible repeat' first
    | apply TouchesOut.next | exact Touches.refl _ _ | apply Touches.ite | apply Touches.via (State.setBit_touches ..)
    | apply Touches.via (State.writeFields_touches ..) | apply State.via_touches | intro _

theorem State.meetCkpt_touches (s : State) (p v : Nat) :
    Touches [.rf, .store, .mgt, .flt, .dbg, .out] s (State.meetCkpt s p v) := by
  delta State.meetCkpt
  with_reducible repeat' first | exact Touches.refl _ _ | apply Touches.via (State.meet_touches ..)

theorem State.ckptState_touches (s : State) (p st : Nat) :
    Touches [.rf] s (State.ckptState s p st) := by
  delta State.ckptState
  with_reducible repeat' first | exact Touches.refl _ _ | apply Touches.via (State.wrFld_touches ..)

theorem State.ckptLast_touches (s : State) (p last ext : Nat) :
    Touches [.rf] s (State.ckptLast s p last ext) := by
  delta State.ckptLast
  with_reducible repeat' first
    | exact Touches.refl _ _ | apply Touches.ite | apply Touches.via (State.wrFld_touches ..)

theorem State.ckptOutcome_touches (s : State) (p : Nat) (failed : Option Nat) :
    Touches [.rf, .flt] s (State.ckptOutcome s p failed) := by
  delta State.ckptOutcome
  with_reducible repeat' first
    | exact Touches.refl _ _ | apply Touches.via (State.logEvent_touches ..)
    | apply Touches.via (State.ckptLast_touches ..)

theorem State.tellCut_touches (s : State) (jobId : Word) (failed : Bool) :
    Touches [.rf, .out] s (State.tellCut s jobId failed) := by
  delta State.tellCut
  with_reducible repeat' first
    | exact Touches.refl _ _ | apply Touches.ite | apply Touches.via (State.setBit_touches ..)
    | apply Touches.via (State.tellDm_touches ..)

theorem State.finishCut_touches (s : State) (p v : Nat) (jobId : Word) (bs head : List Byte) (sources : List Nat) (codes : List Nat) :
    Touches [.rf, .parts, .dram, .store, .mgt, .flt, .dbg, .out] s (State.finishCut s p v jobId bs head sources codes) := by
  delta State.finishCut
  with_reducible repeat' first
    | exact Touches.refl _ _ | apply Touches.via (State.modPart_touches ..)
    | apply Touches.via (State.writeTen_touches ..) | apply Touches.via (State.ckptOutcome_touches ..)
    | apply Touches.via (State.tellCut_touches ..)

theorem State.modCkpt_touches (s : State) (p : Nat) (f : Ckpt → Ckpt) :
    Touches [.parts] s (State.modCkpt s p f) := by
  delta State.modCkpt
  with_reducible repeat' first | exact Touches.refl _ _ | apply Touches.via (State.modPart_touches ..)

theorem State.stageExtent_touches (s : State) (v : Nat) (e a : Nat) :
    Touches [.rf, .dram, .store, .mgt, .flt, .dbg, .out] s (State.stageExtent s v e a).2 := by
  delta State.stageExtent
  with_reducible repeat' first
    | exact Touches.refl _ _ | apply Touches.via (State.meet_touches ..)
    | apply Touches.via (State.writeTen_touches ..) | dsimp only | split

theorem State.cut_touches (s : State) (p : Nat) (j : Job) (wire : List (BitVec 8)) :
    Touches [.rf, .parts, .dram, .store, .mgt, .flt, .dbg, .out] s (State.cut s p j wire) := by
  delta State.cut
  with_reducible repeat' first
    | exact Touches.refl _ _ | apply Touches.via (State.emit_touches ..) | apply Touches.via (State.tellDm_touches ..)
    | apply Touches.via (State.meet_touches ..) | apply Touches.via (State.ckptState_touches ..)
    | apply Touches.via (State.ckptOutcome_touches ..) | apply Touches.via (State.tellCut_touches ..)
    | apply Touches.via (State.finishCut_touches ..) | apply Touches.via (State.modCkpt_touches ..)
    | apply Touches.via (State.stageExtent_touches ..) | refine Touches.foldl _ ?_ ?_
    | refine Touches.foldlSnd _ ?_ ?_ | intro _ _ | dsimp only | split

theorem State.beginRestore_touches (s : State) (p : Nat) (j : Job) (fp : BitVec 256) (t : State)
    (e : s.beginRestore p j fp = .ok (some t)) : Touches [.rf, .out] s t := by
  unfold State.beginRestore at e
  repeat' split at e
  all_goals first
    | (cases e; done)
    | skip
  dsimp only at e
  repeat' split at e
  all_goals cases e
  exact .via (State.ckptState_touches ..) (Touches.foldl _ (fun s x => .mono (State.emit_touches s _)) (.refl _ s))

theorem State.restoreExtents_touches (s : State) (v : Nat) (es : List Nat) (wire : List WireResult) :
    Touches [.rf, .dram, .store, .mgt, .flt, .dbg, .out] s (State.restoreExtents s v es wire) := by
  delta State.restoreExtents
  with_reducible repeat' first
    | exact Touches.refl _ _ | apply Touches.via (State.writeTen_touches ..) | refine Touches.foldl _ ?_ ?_
    | intro _ _ | split

theorem State.admissionRecord_touches (s : State) (p code : Nat) (da : Option (BitVec 40)) :
    Touches [.rf, .flt] s (State.admissionRecord s p code da) := by
  delta State.admissionRecord
  with_reducible repeat' first | exact Touches.refl _ _ | apply Touches.via (State.logEvent_touches ..)

theorem State.dropCopied_touches (s : State) (p v : Nat) (es : List Nat) :
    Touches [.rf, .parts, .dram, .store, .mgt, .flt, .dbg, .out] s (State.dropCopied s p v es) := by
  delta State.dropCopied
  with_reducible repeat' first
    | exact Touches.refl _ _ | apply Touches.via (State.writeTen_touches ..)
    | apply Touches.via (State.modCkpt_touches ..) | refine Touches.foldl _ ?_ ?_ | intro _ _

theorem State.launchLast_touches (s : State) (p : Nat) (a : LaunchArgs) (j : Job) (l : Ledger) (x : Bool)
    (t : State) (e : s.launchLast p a j l = .ok (x, t)) : Touches [.rf, .out] s t := by
  unfold State.launchLast at e
  dsimp only at e
  repeat' split at e
  all_goals cases e
  · exact .refl _ s
  · exact State.beginRestore_touches _ _ _ _ _ (by assumption)

theorem State.clearSeqs_touches (s : State) (p v : Nat) :
    Touches [.prism] s (State.clearSeqs s p v) := by
  delta State.clearSeqs
  with_reducible repeat' first | exact Touches.refl _ _ | (simp only [Touches.mk_iff]; refine TouchesParts.upd ?_)

theorem State.placeJob_touches (s : State) (p : Nat) (a : LaunchArgs) (j : Job) (t : OuuCopy) (l : Ledger) :
    Touches [.rf, .parts, .loupe, .prism] s (State.placeJob s p a j t l) := by
  delta State.placeJob
  with_reducible repeat' first
    | exact Touches.refl _ _ | apply Touches.via (State.wr_touches ..) | apply Touches.via (State.modPart_touches ..)
    | apply Touches.via (State.clearLoupe_touches ..) | apply Touches.via (State.clearSeqs_touches ..)

theorem State.withItems_touches (s : State) (p : Nat) (j : Job) :
    Touches [.parts] s (State.withItems s p j) := by
  delta State.withItems
  with_reducible repeat' first | exact Touches.refl _ _ | apply Touches.via (State.modLed_touches ..)

theorem State.meetImage_touches (s : State) (p v a : Nat) :
    Touches [.rf, .store, .mgt, .flt, .dbg, .out] s (State.meetImage s p v a) := by
  delta State.meetImage
  with_reducible repeat' first | exact Touches.refl _ _ | apply Touches.via (State.meet_touches ..)

theorem State.meetLaunch_touches (s : State) (v : Nat) (a : LaunchArgs) (code : Option Nat) :
    Touches [.rf, .store, .mgt, .flt, .dbg, .out] s (State.meetLaunch s v a code) := by
  delta State.meetLaunch
  with_reducible repeat' first
    | exact Touches.refl _ _ | apply Touches.ite | apply Touches.via (State.meet_touches ..)
    | apply Touches.via (State.tableReads_touches ..) | apply Touches.via (State.meetImage_touches ..)

theorem State.launchJob_touches (s : State) (c : ExecCmd) :
    Touches [.rf, .parts, .dram, .store, .loupe, .prism, .chan, .mgt, .flt, .dbg, .freeCount, .out] s (State.launchJob s c) := by
  delta State.launchJob
  with_reducible repeat' first
    | exact Touches.refl _ _ | apply Touches.via (State.wrFld_touches ..)
    | apply Touches.via (State.tellDm_touches ..) | apply Touches.via (State.meet_touches ..)
    | apply Touches.via (State.complete_touches ..) | apply Touches.via (State.modLed_touches ..)
    | apply Touches.via (State.itemsRecord_touches ..) | apply Touches.via (State.loadSource_touches ..)
    | apply Touches.via (State.modJob_touches ..) | apply Touches.via (State.placeJob_touches ..)
    | apply Touches.via (State.withItems_touches ..) | apply Touches.via (State.meetLaunch_touches ..)
    | refine Touches.via (State.launchLast_touches _ _ _ _ _ _ _ (by assumption)) ?_ | dsimp only | split

theorem State.startContext_touches (s : State) (c : ExecCmd) :
    Touches [.rf, .parts, .dram, .store, .chan, .mgt, .flt, .dbg, .out] s (State.startContext s c) := by
  delta State.startContext
  with_reducible repeat' first
    | exact Touches.refl _ _ | apply Touches.via (State.modPart_touches ..)
    | apply Touches.via (State.setContext_touches ..) | apply Touches.via (State.complete_touches ..)
    | apply Touches.via (State.meetImage_touches ..) | dsimp only | split

theorem State.modDm_touches (s : State) (jobId : Word) (f : DmJob → DmJob) :
    Touches [.mgt] s (State.modDm s jobId f) := by
  delta State.modDm
  with_reducible repeat' first | exact Touches.refl _ _ | (simp only [Touches.mk_iff]; refine TouchesParts.upd ?_)

theorem State.tellWorkers_touches (s : State) (d : DmJob) (kind : String) (args : List Nat) :
    Touches [.out] s (State.tellWorkers s d kind args) := by
  delta State.tellWorkers
  with_reducible repeat' first
    | exact Touches.refl _ _ | apply Touches.via (State.emit_touches ..) | refine Touches.foldl _ ?_ ?_ | intro _ _

theorem State.requestCut_touches (s : State) (d : DmJob) (req : List (Nat × Word)) (preempt : Bool) :
    Touches [.mgt, .out] s (State.requestCut s d req preempt) := by
  delta State.requestCut
  with_reducible repeat' first
    | exact Touches.refl _ _ | apply Touches.via (State.modDm_touches ..)
    | apply Touches.via (State.tellWorkers_touches ..) | split

theorem State.endCut_touches (s : State) (d : DmJob) :
    Touches [.rf, .dram, .store, .chan, .mgt, .flt, .dbg, .out] s (State.endCut s d) := by
  delta State.endCut
  with_reducible repeat' first
    | exact Touches.refl _ _ | apply Touches.via (State.complete_touches ..)
    | apply Touches.via (State.retryBells_touches ..) | apply Touches.via (State.modDm_touches ..)
    | apply Touches.via (State.requestCut_touches ..) | refine Touches.foldl _ ?_ ?_ | intro _ _ | dsimp only | split

theorem State.flr_touches (s : State) (v : Nat) :
    Touches [.clock, .rf, .tiles, .parts, .ls, .dram, .store, .loupe, .prism, .apt, .chan, .ing, .mgt, .flt, .dbg, .pkg, .freeCount, .out] s (State.flr s v) := by
  delta State.flr
  with_reducible repeat' first
    | exact Touches.refl _ _ | (simp only [Touches.mk_iff]; refine TouchesParts.upd ?_)
    | apply Touches.via (State.emit_touches ..) | apply Touches.via (State.setContext_touches ..)
    | apply Touches.via (State.aptSettle_touches ..) | apply Touches.via (State.setCh_touches ..)
    | apply Touches.via (State.retryBells_touches ..) | apply Touches.via (State.endContext_touches ..)
    | apply Touches.via (State.clearKey_touches ..) | apply Touches.via (State.endJob_touches ..)
    | apply Touches.via (State.modJob_touches ..) | refine Touches.foldl _ ?_ ?_ | intro _ _ | split

theorem State.stepGtc_touches (s : State) (offset : Int) :
    Touches [.clock, .rf] s (State.stepGtc s offset) := by
  delta State.stepGtc
  with_reducible repeat' first
    | exact Touches.refl _ _ | (simp only [Touches.mk_iff]; refine TouchesParts.upd ?_)
    | apply Touches.via (State.setBit_touches ..)

theorem State.holdOver_touches (s : State) :
    Touches [.rf, .out] s (State.holdOver s) := by
  delta State.holdOver
  with_reducible repeat' first
    | exact Touches.refl _ _ | apply Touches.via (State.setBit_touches ..)
    | apply Touches.via (State.tellDm_touches ..)

end Sys2Proof.Machine
end

