-- ==== Sys2Proof/Laws/TouchesLinks.lean ====
section
/-!
SUPPORT. Flits, links, start-up, the commands of bundles, counters and debug halts:
what each operation touches (`Touches`): the components it may change, the queue never, and that it keeps the canonical form.
-/

-- One declaration after another: the package as one text then needs few threads at a time.
set_option Elab.async false

set_option linter.unusedVariables false
set_option linter.unusedSimpArgs false

namespace Sys2Proof.Machine

open Safety (Component)

theorem State.takeReserve_touches (s : State) (l v : Nat) :
    Touches [.rf, .net] s (State.takeReserve s l v) := by
  delta State.takeReserve
  with_reducible repeat' first
    | exact Touches.refl _ _ | apply Touches.ite | apply Touches.via (State.setBit_touches ..)
    | apply Touches.via (State.modLink_touches ..)

theorem State.takeCredit_touches (s : State) (l : Nat) (f : DataFlit) :
    TouchesOpt [.rf, .net] s (State.takeCredit s l f) := by
  delta State.takeCredit
  with_reducible repeat' first
    | apply TouchesOpt.ite | apply TouchesOpt.some | exact .none | exact Touches.refl _ _
    | apply Touches.via (State.modLink_touches ..) | apply Touches.via (State.takeReserve_touches ..)

theorem State.creditBack_touches (s : State) (l vl : Nat) :
    Touches [.net] s (State.creditBack s l vl) := by
  delta State.creditBack
  with_reducible repeat' first
    | exact Touches.refl _ _ | apply Touches.via (State.modLink_touches ..) | dsimp only | split

theorem State.credited_touches (s : State) (l cvl n : Nat) :
    Touches [.net] s (State.credited s l cvl n) := by
  delta State.credited
  with_reducible repeat' first
    | exact Touches.refl _ _ | apply Touches.ite | apply Touches.via (State.modLink_touches ..)
    | apply Touches.via (State.creditBack_touches ..) | refine Touches.foldl _ ?_ ?_ | intro _ _

theorem State.pickFlit_touches (s : State) (l i : Nat) (f : DataFlit) (t : State) (e : s.pickFlit l = some (i, f, t)) :
    Touches [.rf, .net] s t := by
  unfold State.pickFlit at e
  obtain ⟨x, -, e⟩ := List.exists_of_findSome?_eq_some e
  rw [Option.bind_eq_some_iff] at e
  obtain ⟨n, -, e⟩ := e
  rw [Option.map_eq_some_iff] at e
  obtain ⟨u, hu, e⟩ := e
  cases e
  exact .via (State.modLink_touches ..) (.mono ((State.takeCredit_touches ..).of _ hu))

theorem State.sendWaiting_touches (n : Nat) : ∀ (s : State) (l : Nat), Touches [.rf, .net, .dbg, .out] s (s.sendWaiting l n) := by
  induction n with
  | zero => exact fun s l => .refl _ s
  | succ n ih =>
    intro s l
    simp only [State.sendWaiting]
    split
    · exact .refl _ s
    · split
      · exact .refl _ s
      · rename_i e
        exact .via (ih _ _) (.via (State.modLink_touches ..) (.via (State.emit_touches ..) (.via (State.pmcLink_touches ..)
          (.mono (State.pickFlit_touches _ _ _ _ _ e)))))

theorem State.drain_touches (s : State) (l : Nat) :
    Touches [.rf, .net, .dbg, .out] s (State.drain s l) := by
  delta State.drain
  with_reducible repeat' first | exact Touches.refl _ _ | apply Touches.via (State.sendWaiting_touches ..)

theorem State.sendPacket_touches (s : State) (b vl : Nat) (coll : Option CollId) (h : PacketHeader) (payload : List Byte) :
    Touches [.net] s (State.sendPacket s b vl coll h payload) := by
  delta State.sendPacket
  with_reducible repeat' first
    | exact Touches.refl _ _ | (simp only [Touches.mk_iff]; refine TouchesParts.upd ?_) | apply Touches.ite
    | apply Touches.via (State.modLink_touches ..)

theorem State.pack_touches (s : State) (o : Out) :
    Touches [.net, .freeCount] s (State.pack s o) := by
  delta State.pack
  with_reducible repeat' first
    | exact Touches.refl _ _ | apply Touches.via (State.fresh_touches ..)
    | apply Touches.via (State.sendPacket_touches ..) | refine Touches.foldl _ ?_ ?_ | intro _ _ | split

theorem State.sendMessages_touches (s : State) :
    Touches [.rf, .net, .dbg, .freeCount, .out] s (State.sendMessages s) := by
  delta State.sendMessages
  with_reducible repeat' first
    | exact Touches.refl _ _ | (simp only [Touches.mk_iff]; refine TouchesParts.upd ?_)
    | apply Touches.via (State.drain_touches ..) | apply Touches.via (State.pack_touches ..)
    | refine Touches.foldl _ ?_ ?_ | intro _ _

theorem State.deliverPacket_touches (s : State) (h : PacketHeader) (payload : List Byte) :
    Touches [.out] s (State.deliverPacket s h payload) := by
  delta State.deliverPacket
  with_reducible repeat' first
    | exact Touches.refl _ _ | apply Touches.ite | apply Touches.via (State.emit_touches ..)

theorem State.mergeLane_touches (n : Nat) : ∀ (s : State) (b vl : Nat), Touches [.net, .out] s (s.mergeLane b vl n) := by
  induction n with
  | zero => exact fun s b vl => .refl _ s
  | succ n ih =>
    intro s b vl
    simp only [State.mergeLane]
    repeat' split
    all_goals first
      | exact .refl _ s
      | exact .via (ih _ _ _) (.via (State.deliverPacket_touches ..) (TouchesParts.upd (.refl _ s)))

theorem State.packetIn_touches (s : State) (l vl : Nat) (h : PacketHeader) (payload : List Byte) :
    Touches [.net, .out] s (State.packetIn s l vl h payload) := by
  delta State.packetIn
  with_reducible repeat' first
    | exact Touches.refl _ _ | (simp only [Touches.mk_iff]; refine TouchesParts.upd ?_) | apply Touches.ite
    | apply Touches.via (State.deliverPacket_touches ..) | apply Touches.via (State.mergeLane_touches ..)

theorem State.clearLanes_touches (s : State) (b : Nat) :
    Touches [.net] s (State.clearLanes s b) := by
  delta State.clearLanes
  with_reducible repeat' first | exact Touches.refl _ _ | (simp only [Touches.mk_iff]; refine TouchesParts.upd ?_)

theorem State.bundleDown_touches (s : State) (b : Nat) :
    Touches [.rf, .tiles, .parts, .ls, .dram, .store, .loupe, .prism, .kal, .apt, .chan, .net, .mgt, .flt, .dbg, .freeCount, .out] s (State.bundleDown s b) := by
  delta State.bundleDown
  with_reducible repeat' first
    | exact Touches.refl _ _ | apply Touches.via (State.peerFails_touches ..)
    | apply Touches.via (State.loseMirror_touches ..) | apply Touches.via (State.clearLanes_touches ..)
    | refine Touches.foldl _ ?_ ?_ | intro _ _ | dsimp only | split

theorem State.dropLink_touches (s : State) (l : Nat) (st : LinkState) :
    Touches [.rf, .tiles, .parts, .ls, .dram, .store, .loupe, .prism, .kal, .apt, .chan, .net, .mgt, .flt, .dbg, .freeCount, .out] s (State.dropLink s l st) := by
  delta State.dropLink
  with_reducible repeat' first
    | exact Touches.refl _ _ | apply Touches.ite | apply Touches.via (State.setBit_touches ..)
    | apply Touches.via (State.modLink_touches ..) | apply Touches.via (State.tellDm_touches ..)
    | apply Touches.via (State.drain_touches ..) | apply Touches.via (State.bundleDown_touches ..) | split

theorem State.retrainLink_touches (s : State) (l : Nat) :
    Touches [.rf, .tiles, .parts, .ls, .dram, .store, .loupe, .prism, .kal, .apt, .chan, .net, .mgt, .flt, .dbg, .freeCount, .out] s (State.retrainLink s l) := by
  delta State.retrainLink
  with_reducible repeat' first
    | exact Touches.refl _ _ | apply Touches.via (State.bumpFld_touches ..)
    | apply Touches.via (State.dropLink_touches ..)

theorem State.fabricReset_touches (s : State) (l : Nat) :
    Touches [.rf, .tiles, .parts, .ls, .dram, .store, .loupe, .prism, .kal, .apt, .chan, .net, .mgt, .flt, .dbg, .freeCount, .out] s (State.fabricReset s l) := by
  delta State.fabricReset
  with_reducible repeat' first
    | exact Touches.refl _ _ | apply Touches.via (State.wrFld_touches ..)
    | apply Touches.via (State.retrainLink_touches ..)

theorem State.linkWarn_touches (s : State) (source : Nat) :
    Touches [.rf, .mgt, .flt, .out] s (State.linkWarn s source) := by
  delta State.linkWarn
  with_reducible repeat' first
    | exact Touches.refl _ _ | apply Touches.via (State.setBit_touches ..) | apply Touches.via (State.warn_touches ..)

theorem State.narrow_touches (s : State) (l : Nat) :
    Touches [.rf, .tiles, .parts, .ls, .dram, .store, .loupe, .prism, .kal, .apt, .chan, .net, .mgt, .flt, .dbg, .freeCount, .out] s (State.narrow s l) := by
  delta State.narrow
  with_reducible repeat' first
    | exact Touches.refl _ _ | apply Touches.ite | apply Touches.via (State.setBit_touches ..)
    | apply Touches.via (State.bumpFld_touches ..) | apply Touches.via (State.modLink_touches ..)
    | apply Touches.via (State.tellDm_touches ..) | apply Touches.via (State.drain_touches ..)
    | apply Touches.via (State.dropLink_touches ..) | apply Touches.via (State.linkWarn_touches ..) | split

theorem State.failLanes_touches (s : State) (l mask : Nat) :
    Touches [.rf, .tiles, .parts, .ls, .dram, .store, .loupe, .prism, .kal, .apt, .chan, .net, .mgt, .flt, .dbg, .freeCount, .out] s (State.failLanes s l mask) := by
  delta State.failLanes
  with_reducible repeat' first
    | exact Touches.refl _ _ | apply Touches.ite | apply Touches.via (State.setBit_touches ..)
    | apply Touches.via (State.bumpFld_touches ..) | apply Touches.via (State.modLink_touches ..)
    | apply Touches.via (State.linkWarn_touches ..) | apply Touches.via (State.narrow_touches ..)

theorem State.noteLaneCe_touches (s : State) (l : Nat) (ces : List (Fin 10 × Nat)) :
    Touches [.rf, .tiles, .parts, .ls, .dram, .store, .loupe, .prism, .kal, .apt, .chan, .net, .mgt, .flt, .dbg, .freeCount, .out] s (State.noteLaneCe s l ces) := by
  delta State.noteLaneCe
  with_reducible repeat' first
    | exact Touches.refl _ _ | apply Touches.ite | apply Touches.via (State.modLink_touches ..)
    | apply Touches.via (State.failLanes_touches ..)

theorem State.firstCredits_touches (s : State) (c : BundleCfg) (vl0 : Nat) :
    Touches [.freeCount] s (State.firstCredits s c vl0).2 := by
  delta State.firstCredits
  with_reducible repeat' first
    | exact Touches.refl _ _ | apply Touches.iteSnd | apply Touches.via (State.fresh_touches ..)

theorem State.stepEight_touches (s : State) (l : Nat) :
    Touches [.net, .freeCount] s (State.stepEight s l) := by
  delta State.stepEight
  with_reducible repeat' first
    | exact Touches.refl _ _ | apply Touches.via (State.modLink_touches ..)
    | apply Touches.via (State.firstCredits_touches ..) | dsimp only | split

theorem execClrLanes_touches (path : Path) (l : Fin 36) (s : State) :
    TouchesOut [.rf, .tiles, .parts, .ls, .dram, .store, .loupe, .prism, .kal, .apt, .chan, .net, .mgt, .flt, .dbg, .freeCount, .out] s (execClrLanes path l s) := by
  delta execClrLanes
  with_reducible repeat' first
    | apply TouchesOut.next | exact Touches.refl _ _ | apply Touches.ite | apply Touches.via (State.setBit_touches ..)
    | apply Touches.via (State.bumpFld_touches ..) | apply Touches.via (State.modLink_touches ..)
    | apply State.via_touches | apply Touches.via (State.dropLink_touches ..)
    | apply Touches.via (State.retrainLink_touches ..) | intro _

theorem execRlmEnable_touches (path : Path) (en : Bool) (s : State) :
    TouchesOut [.rf, .tiles, .parts, .ls, .dram, .store, .loupe, .prism, .kal, .apt, .chan, .net, .mgt, .flt, .port, .dbg, .freeCount, .out] s (execRlmEnable path en s) := by
  delta execRlmEnable
  with_reducible repeat' first
    | apply TouchesOut.next | exact Touches.refl _ _ | apply Touches.ite | apply Touches.via (State.clrBit_touches ..)
    | apply Touches.via (State.emit_touches ..) | apply Touches.via (State.writeFields_touches ..)
    | apply State.via_touches | apply Touches.via (State.dropLink_touches ..) | refine Touches.foldl _ ?_ ?_ | intro _

theorem State.trainFailed_touches (s : State) (l : Nat) :
    Touches [.net] s (State.trainFailed s l) := by
  delta State.trainFailed
  with_reducible repeat' first | exact Touches.refl _ _ | apply Touches.via (State.modLink_touches ..)

theorem State.linkUp_touches (s : State) (l : Nat) (map : Nat) (credits : Sparse Nat) :
    Touches [.rf, .net] s (State.linkUp s l map credits) := by
  delta State.linkUp
  with_reducible repeat' first
    | exact Touches.refl _ _ | apply Touches.via (State.setBit_touches ..)
    | apply Touches.via (State.clrBit_touches ..) | apply Touches.via (State.modLink_touches ..)

theorem State.sendIdentity_touches (s : State) (l : Nat) (c : BundleCfg) :
    Touches [.out] s (State.sendIdentity s l c) := by
  delta State.sendIdentity
  with_reducible repeat' first | exact Touches.refl _ _ | apply Touches.via (State.emit_touches ..)

theorem execLnkRetrain_touches (path : Path) (l : Fin 36) (s : State) :
    TouchesOut [.rf, .tiles, .parts, .ls, .dram, .store, .loupe, .prism, .kal, .apt, .chan, .net, .mgt, .flt, .dbg, .freeCount, .out] s (execLnkRetrain path l s) := by
  delta execLnkRetrain
  with_reducible repeat' first
    | apply TouchesOut.next | exact Touches.refl _ _ | apply Touches.ite
    | apply Touches.via (State.logEvent_touches ..) | apply State.via_touches
    | apply Touches.via (State.fabricReset_touches ..) | intro _

theorem State.enableLink_touches (s : State) (l : Nat) :
    Touches [.net] s (State.enableLink s l) := by
  delta State.enableLink
  with_reducible repeat' first
    | exact Touches.refl _ _ | apply Touches.ite | apply Touches.via (State.modLink_touches ..)

theorem execLinkDisable_touches (path : Path) (l : Fin 36) (disable : Bool) (s : State) :
    TouchesOut [.rf, .tiles, .parts, .ls, .dram, .store, .loupe, .prism, .kal, .apt, .chan, .net, .mgt, .flt, .port, .dbg, .freeCount, .out] s (execLinkDisable path l disable s) := by
  delta execLinkDisable
  with_reducible repeat' first
    | apply TouchesOut.next | exact Touches.refl _ _ | apply Touches.ite
    | apply Touches.via (State.writeFields_touches ..) | apply State.via_touches
    | apply Touches.via (State.dropLink_touches ..) | apply Touches.via (State.enableLink_touches ..) | intro _

theorem State.replayFrom_touches (s : State) (l : Nat) (seq : BitVec 12) :
    Touches [.rf, .tiles, .parts, .ls, .dram, .store, .loupe, .prism, .kal, .apt, .chan, .net, .mgt, .flt, .dbg, .freeCount, .out] s (State.replayFrom s l seq) := by
  delta State.replayFrom
  with_reducible repeat' first
    | exact Touches.refl _ _ | apply Touches.ite | apply Touches.via (State.bump_touches ..)
    | apply Touches.via (State.emit_touches ..) | apply Touches.via (State.pmcLink_touches ..)
    | apply Touches.via (State.modLink_touches ..) | apply Touches.via (State.logEvent_touches ..)
    | apply Touches.via (State.fabricReset_touches ..) | apply Touches.via (State.linkWarn_touches ..)

theorem State.acked_touches (s : State) (l : Nat) (next : BitVec 12) :
    Touches [.net] s (State.acked s l next) := by
  delta State.acked
  with_reducible repeat' first | exact Touches.refl _ _ | apply Touches.via (State.modLink_touches ..)

theorem State.nak_touches (s : State) (l : Nat) :
    Touches [.net, .out] s (State.nak s l) := by
  delta State.nak
  with_reducible repeat' first
    | exact Touches.refl _ _ | apply Touches.ite | apply Touches.via (State.emit_touches ..)
    | apply Touches.via (State.modLink_touches ..)

theorem State.takeFlit_touches (s : State) (l : Nat) (w : Nat) (body : List Byte) :
    Touches [.rf, .net, .dbg, .out] s (State.takeFlit s l w body) := by
  delta State.takeFlit
  with_reducible repeat' first
    | exact Touches.refl _ _ | apply Touches.ite | apply Touches.via (State.emit_touches ..)
    | apply Touches.via (State.pmcLink_touches ..) | apply Touches.via (State.modLink_touches ..)
    | apply Touches.via (State.packetIn_touches ..)

theorem State.flit_touches (s : State) (l : Nat) (flit : List Byte) (uncorrectable : Bool) :
    Touches [.rf, .tiles, .parts, .ls, .dram, .store, .loupe, .prism, .kal, .apt, .chan, .net, .mgt, .flt, .dbg, .freeCount, .out] s (State.flit s l flit uncorrectable) := by
  delta State.flit
  with_reducible repeat' first
    | exact Touches.refl _ _ | apply Touches.ite | apply Touches.via (State.bump_touches ..)
    | apply Touches.via (State.credited_touches ..) | apply Touches.via (State.replayFrom_touches ..)
    | apply Touches.via (State.acked_touches ..) | apply Touches.via (State.nak_touches ..)
    | apply Touches.via (State.takeFlit_touches ..)

theorem State.setQp_touches (s : State) (q c : Nat) :
    Touches [.net] s (State.setQp s q c) := by
  delta State.setQp
  with_reducible repeat' first | exact Touches.refl _ _ | (simp only [Touches.mk_iff]; refine TouchesParts.upd ?_)

theorem State.modQp_touches (s : State) (q : Nat) (f : QpRun → QpRun) :
    Touches [.net] s (State.modQp s q f) := by
  delta State.modQp
  with_reducible repeat' first | exact Touches.refl _ _ | (simp only [Touches.mk_iff]; refine TouchesParts.upd ?_)

theorem State.endQpNet_touches (s : State) (q : Nat) :
    Touches [.rf, .dram, .store, .chan, .ing, .mgt, .flt, .dbg, .out] s (State.endQpNet s q) := by
  delta State.endQpNet
  with_reducible repeat' first
    | exact Touches.refl _ _ | apply Touches.via (State.endExtent_touches ..) | refine Touches.foldl _ ?_ ?_
    | intro _ _ | split

theorem State.qpResult_touches (s : State) (r off : Nat) :
    Touches [.rf] s (State.qpResult s r off) := by
  delta State.qpResult
  with_reducible repeat' first | exact Touches.refl _ _ | apply Touches.via (State.wrFld_touches ..)

theorem State.qpCommit_touches (s : State) (q c : Nat) :
    Touches [.rf, .net] s (State.qpCommit s q c) := by
  delta State.qpCommit
  with_reducible repeat' first
    | exact Touches.refl _ _ | apply Touches.via (State.setQp_touches ..) | apply Touches.via (State.modQp_touches ..)
    | apply Touches.via (State.qpResult_touches ..) | split

theorem execQpCommit_touches (path : Path) (s : State) :
    TouchesOut [.rf, .net] s (execQpCommit path s) := by
  delta execQpCommit
  with_reducible repeat' first
    | apply TouchesOut.next | exact Touches.refl _ _ | apply State.via_touches
    | apply Touches.via (State.qpCommit_touches ..) | intro _

theorem execQpReset_touches (path : Path) (s : State) :
    TouchesOut [.rf, .dram, .store, .chan, .ing, .net, .mgt, .flt, .dbg, .out] s (execQpReset path s) := by
  delta execQpReset
  with_reducible repeat' first
    | apply TouchesOut.next | exact Touches.refl _ _ | apply State.via_touches
    | apply Touches.via (State.setQp_touches ..) | apply Touches.via (State.modQp_touches ..)
    | apply Touches.via (State.endQpNet_touches ..) | apply Touches.via (State.qpResult_touches ..) | intro _

theorem execQpRead_touches (path : Path) (s : State) :
    TouchesOut [.rf] s (execQpRead path s) := by
  delta execQpRead
  with_reducible repeat' first
    | apply TouchesOut.next | exact Touches.refl _ _ | apply Touches.via (State.wr_touches ..)
    | apply State.via_touches | apply Touches.via (State.qpResult_touches ..) | refine Touches.foldl _ ?_ ?_ | intro _

theorem State.qpError_touches (s : State) (q : Nat) :
    Touches [.rf, .dram, .store, .chan, .ing, .net, .mgt, .flt, .dbg, .out] s (State.qpError s q) := by
  delta State.qpError
  with_reducible repeat' first
    | exact Touches.refl _ _ | apply Touches.via (State.setBit_touches ..)
    | apply Touches.via (State.setQp_touches ..) | apply Touches.via (State.endQpNet_touches ..)

theorem State.qpGoBack_touches (s : State) (q : Nat) (psn : BitVec 24) :
    Touches [.rf, .dram, .store, .chan, .ing, .net, .mgt, .flt, .dbg, .out] s (State.qpGoBack s q psn) := by
  delta State.qpGoBack
  with_reducible repeat' first
    | exact Touches.refl _ _ | apply Touches.ite | apply Touches.via (State.emit_touches ..)
    | apply Touches.via (State.modQp_touches ..) | apply Touches.via (State.qpError_touches ..)

theorem State.ethDrop_touches (s : State) :
    Touches [.rf, .net] s (State.ethDrop s) := by
  delta State.ethDrop
  with_reducible repeat' first
    | exact Touches.refl _ _ | (simp only [Touches.mk_iff]; refine TouchesParts.upd ?_)
    | apply Touches.via (State.setBit_touches ..)

theorem State.qpAdvance_touches (s : State) (q : Nat) (psn : BitVec 24) :
    Touches [.net] s (State.qpAdvance s q psn) := by
  delta State.qpAdvance
  with_reducible repeat' first | exact Touches.refl _ _ | apply Touches.via (State.modQp_touches ..)

theorem State.setBoot_touches (s : State) (b : Boot) :
    Touches [.start] s (State.setBoot s b) := by
  delta State.setBoot
  with_reducible repeat' first | exact Touches.refl _ _ | (simp only [Touches.mk_iff]; refine TouchesParts.upd ?_)

theorem State.modBoot_touches (s : State) (f : Boot → Boot) :
    Touches [.start] s (State.modBoot s f) := by
  delta State.modBoot
  with_reducible repeat' first | exact Touches.refl _ _ | apply Touches.via (State.setBoot_touches ..)

theorem State.readFuses_touches (s : State) :
    Touches [.start] s (State.readFuses s) := by
  delta State.readFuses
  with_reducible repeat' first | exact Touches.refl _ _ | apply Touches.via (State.modBoot_touches ..)

theorem State.applyLinks_touches (s : State) (v : List Byte) :
    Touches [.net] s (State.applyLinks s v) := by
  delta State.applyLinks
  with_reducible repeat' first
    | exact Touches.refl _ _ | (simp only [Touches.mk_iff]; refine TouchesParts.upd ?_) | apply Touches.ite
    | apply Touches.via (State.modLink_touches ..) | refine Touches.foldl _ ?_ ?_ | intro _ _

theorem State.applyItem_touches (s : State) (e : Nat × List Byte) :
    Touches [.rf, .parts, .chan, .net, .start] s (State.applyItem s e) := by
  delta State.applyItem
  with_reducible repeat' first
    | exact Touches.refl _ _ | apply Touches.ite | apply Touches.via (State.wr_touches ..)
    | apply Touches.via (State.wrFld_touches ..) | apply Touches.via (State.setBit_touches ..)
    | apply Touches.via (State.modTenant_touches ..) | apply Touches.via (State.applyPower_touches ..)
    | apply Touches.via (State.applyLayout_touches ..) | apply Touches.via (State.applyShare_touches ..)
    | apply Touches.via (State.zeroIsOne_touches ..) | apply Touches.via (State.modBoot_touches ..)
    | apply Touches.via (State.applyLinks_touches ..) | refine Touches.foldl _ ?_ ?_ | intro _ _ | split

theorem State.applyConfig_touches (s : State) (img : List Byte) :
    Touches [.rf, .parts, .chan, .net, .start] s (State.applyConfig s img) := by
  delta State.applyConfig
  with_reducible repeat' first
    | exact Touches.refl _ _ | apply Touches.via (State.wr_touches ..) | apply Touches.via (State.modLink_touches ..)
    | apply Touches.via (State.applyItem_touches ..) | refine Touches.foldl _ ?_ ?_ | intro _ _

theorem State.bootFailed_touches (s : State) (a b : Nat) :
    Touches [.rf, .start, .out] s (State.bootFailed s a b) := by
  delta State.bootFailed
  with_reducible repeat' first
    | exact Touches.refl _ _ | apply Touches.via (State.clrBit_touches ..) | apply Touches.via (State.emit_touches ..)
    | apply Touches.via (State.modBoot_touches ..) | refine Touches.foldl _ ?_ ?_ | intro _ _

theorem State.startFirmware_touches (s : State) (slot fallback trial : Bool) (codes : Nat × Nat) :
    Touches [.rf, .tiles, .parts, .chan, .ing, .net, .start, .freeCount, .out] s (State.startFirmware s slot fallback trial codes) := by
  delta State.startFirmware
  with_reducible repeat' first
    | exact Touches.refl _ _ | apply Touches.ite | apply Touches.via (State.setBit_touches ..)
    | apply Touches.via (State.clrBit_touches ..) | apply Touches.via (State.emit_touches ..)
    | apply Touches.via (State.fresh_touches ..) | apply Touches.via (State.modTile_touches ..)
    | apply Touches.via (State.replayJournal_touches ..) | apply Touches.via (State.modBoot_touches ..)
    | apply Touches.via (State.applyConfig_touches ..) | refine Touches.foldl _ ?_ ?_ | intro _ _

theorem State.startUp_touches (s : State) :
    Touches [.rf, .tiles, .parts, .chan, .ing, .net, .flash, .start, .freeCount, .out] s (State.startUp s) := by
  delta State.startUp
  with_reducible repeat' first
    | exact Touches.refl _ _ | apply Touches.ite | apply Touches.via (State.setBit_touches ..)
    | apply Touches.via (State.writeBcb_touches ..) | apply Touches.via (State.modBoot_touches ..)
    | apply Touches.via (State.readFuses_touches ..) | apply Touches.via (State.bootFailed_touches ..)
    | apply Touches.via (State.startFirmware_touches ..)

theorem State.deviceReset_touches (s : State) (held : Option HeldBy) :
    Touches [.clock, .rf, .tiles, .parts, .ls, .dram, .store, .loupe, .prism, .kal, .apt, .chan, .ing, .net, .mgt, .flt, .start, .port, .dbg, .pkg, .freeCount] s (s.deviceReset held) := by
  refine ⟨fun c hc => by cases c <;> first | rfl | exact absurd (by decide) hc, fun h => ?_⟩
  simp only [Safety.Canonical, Memory.wf, Bool.and_eq_true] at h ⊢
  exact ⟨⟨⟨⟨⟨rfl, Sparse.wf_filter _ h.1.1.1.1.2⟩, h.1.1.1.2⟩, rfl⟩, rfl⟩, rfl⟩

theorem State.sourceNotices_touches (s : State) :
    Touches [.out] s (State.sourceNotices s) := by
  delta State.sourceNotices
  with_reducible repeat' first
    | exact Touches.refl _ _ | apply Touches.via (State.emit_touches ..) | refine Touches.foldl _ ?_ ?_ | intro _ _

theorem State.resetDevice_touches (s : State) (source : Nat) :
    Touches [.clock, .rf, .tiles, .parts, .ls, .dram, .store, .loupe, .prism, .kal, .apt, .chan, .ing, .net, .mgt, .flt, .flash, .start, .port, .dbg, .pkg, .freeCount, .out] s (State.resetDevice s source) := by
  delta State.resetDevice
  with_reducible repeat' first
    | exact Touches.refl _ _ | apply Touches.via (State.logEvent_touches ..)
    | apply Touches.via (State.startUp_touches ..) | apply Touches.via (State.deviceReset_touches ..)

theorem State.escalate_touches (s : State) (source : Nat) :
    Touches [.clock, .rf, .tiles, .parts, .ls, .dram, .store, .loupe, .prism, .kal, .apt, .chan, .ing, .net, .mgt, .flt, .flash, .start, .port, .dbg, .pkg, .freeCount, .out] s (State.escalate s source) := by
  delta State.escalate
  with_reducible repeat' first
    | exact Touches.refl _ _ | apply Touches.via (State.setBit_touches ..)
    | apply Touches.via (State.sourceNotices_touches ..) | apply Touches.via (State.resetDevice_touches ..)

theorem State.opDone_touches (s : State) (t id : Nat) (ks : List OpKind) :
    Touches [.rf, .tiles, .parts, .ls, .dram, .store, .loupe, .prism, .apt, .chan, .mgt, .flt, .dbg, .freeCount, .out] s (State.opDone s t id ks) := by
  delta State.opDone
  with_reducible repeat' first | exact Touches.refl _ _ | apply Touches.via (State.finishOp_touches ..) | split

theorem execCounterClear_touches (path : Path) (c : Fin 712) (s : State) :
    TouchesOut [.dbg] s (execCounterClear path c s) := by
  delta execCounterClear
  with_reducible repeat' first
    | apply TouchesOut.next | exact Touches.refl _ _ | (simp only [Touches.mk_iff]; refine TouchesParts.upd ?_)
    | apply State.via_touches | intro _

theorem State.tdbg_touches {l : List Component} (s : State) (path : Path) (t : Nat) (f : State → State) (hf0 : ∀ s, Touches l s (f s)) (hl : ∀ c ∈ ([.rf] : List Component), c ∈ l) :
    Touches l s (State.tdbg s path t f) := by
  delta State.tdbg
  with_reducible repeat' first
    | exact Touches.refl _ _ | apply Touches.ite | apply hf0 | apply Touches.within (State.setBit_touches ..) hl
    | apply State.via_touches | intro _

theorem execBrkEnWrite_touches (path : Path) (t : Fin 64) (en : Bool) (s : State) :
    TouchesOut [.rf, .parts, .port, .out] s (execBrkEnWrite path t en s) := by
  delta execBrkEnWrite
  with_reducible repeat' first
    | apply TouchesOut.next | exact Touches.refl _ _ | apply Touches.via (State.writeFields_touches ..)
    | apply State.tdbg_touches | decide | intro _

theorem execTileDebugHalt_touches (path : Path) (t : Fin 64) (s : State) :
    TouchesOut [.rf, .tiles] s (execTileDebugHalt path t s) := by
  delta execTileDebugHalt
  with_reducible repeat' first
    | apply TouchesOut.next | exact Touches.refl _ _ | apply Touches.via (State.modTile_touches ..)
    | apply State.tdbg_touches | decide | intro _

theorem execTileDebugResume_touches (path : Path) (t : Fin 64) (s : State) :
    TouchesOut [.rf, .tiles] s (execTileDebugResume path t s) := by
  delta execTileDebugResume
  with_reducible repeat' first
    | apply TouchesOut.next | exact Touches.refl _ _ | apply Touches.via (State.modTile_touches ..)
    | apply State.tdbg_touches | decide | intro _

theorem execTileDebugStep_touches (path : Path) (t : Fin 64) (s : State) :
    TouchesOut [.rf, .tiles] s (execTileDebugStep path t s) := by
  delta execTileDebugStep
  with_reducible repeat' first
    | apply TouchesOut.next | exact Touches.refl _ _ | apply Touches.via (State.modTile_touches ..)
    | apply State.tdbg_touches | decide | intro _

theorem execUartTxWrite_touches (path : Path) (data : Byte) (s : State) :
    TouchesOut [.dbg] s (execUartTxWrite path data s) := by
  delta execUartTxWrite
  with_reducible repeat' first
    | apply TouchesOut.next | exact Touches.refl _ _ | (simp only [Touches.mk_iff]; refine TouchesParts.upd ?_)
    | apply Touches.ite | apply State.via_touches | intro _

theorem State.modJtag_touches (s : State) (f : Jtag → Jtag) :
    Touches [.dbg] s (State.modJtag s f) := by
  delta State.modJtag
  with_reducible repeat' first | exact Touches.refl _ _ | (simp only [Touches.mk_iff]; refine TouchesParts.upd ?_)

end Sys2Proof.Machine
end

