-- ==== Sys2Proof/Laws/TouchesHost.lean ====
section
/-!
SUPPORT. Managers, images, memory commands, resets, the package, the mailbox, register accesses, DMI:
what each operation touches (`Touches`): the components it may change, the queue never, and that it keeps the canonical form.
-/

-- One declaration after another: the package as one text then needs few threads at a time.
set_option Elab.async false

set_option linter.unusedVariables false
set_option linter.unusedSimpArgs false

namespace Sys2Proof.Machine

open Safety (Component)

theorem State.i3cAnswer_touches (s : State) (bytes : List Byte) :
    Touches [.out] s (State.i3cAnswer s bytes) := by
  delta State.i3cAnswer
  with_reducible repeat' first | exact Touches.refl _ _ | apply Touches.via (State.emit_touches ..)

theorem State.setParent_touches (s : State) (c : ChipId) :
    Touches [.rf] s (State.setParent s c) := by
  delta State.setParent
  with_reducible repeat' first | exact Touches.refl _ _ | apply Touches.via (State.wr_touches ..)

theorem State.assignRoles_touches (s : State) (ready : Bool) :
    Touches [.rf] s (State.assignRoles s ready) := by
  delta State.assignRoles
  with_reducible repeat' first
    | exact Touches.refl _ _ | apply Touches.ite | apply Touches.via (State.wr_touches ..)
    | apply Touches.via (State.wrFld_touches ..) | apply Touches.via (State.putBit_touches ..)
    | apply Touches.via (State.setParent_touches ..)

theorem State.commitCoords_touches (s : State) :
    Touches [.rf, .mgt, .start, .out] s (State.commitCoords s) := by
  delta State.commitCoords
  with_reducible repeat' first
    | exact Touches.refl _ _ | apply Touches.ite | apply Touches.via (State.wrFld_touches ..)
    | apply Touches.via (State.setBit_touches ..) | apply Touches.via (State.ibi_touches ..)
    | apply Touches.via (State.modBoot_touches ..) | apply Touches.via (State.assignRoles_touches ..)

theorem execCommit_touches (s : State) :
    TouchesOut [.rf, .mgt, .start, .out] s (execCommit s) := by
  delta execCommit
  with_reducible repeat' first
    | apply TouchesOut.next | apply TouchesOut.ite | exact Touches.refl _ _
    | apply Touches.via (State.setBit_touches ..) | apply Touches.via (State.clrBit_touches ..)
    | apply Touches.via (State.commitCoords_touches ..)

theorem State.notOwner_touches (s : State) (chip : ChipId) :
    Touches [.out] s (State.notOwner s chip) := by
  delta State.notOwner
  with_reducible repeat' first | exact Touches.refl _ _ | apply Touches.via (State.emit_touches ..)

theorem State.sendCount_touches (s : State) (d : DmJob) :
    Touches [.mgt, .freeCount, .out] s (State.sendCount s d) := by
  delta State.sendCount
  with_reducible repeat' first
    | exact Touches.refl _ _ | apply Touches.via (State.fresh_touches ..) | apply Touches.via (State.modDm_touches ..)
    | apply Touches.via (State.tellWorkers_touches ..)

theorem State.countIfAll_touches (s : State) (d : DmJob) :
    Touches [.mgt, .freeCount, .out] s (State.countIfAll s d) := by
  delta State.countIfAll
  with_reducible repeat' first
    | exact Touches.refl _ _ | apply Touches.ite | apply Touches.via (State.sendCount_touches ..)

theorem State.refuseLaunch_touches (s : State) (d : DmJob) (status detail : Nat) :
    Touches [.clock, .rf, .tiles, .parts, .ls, .dram, .store, .loupe, .prism, .chan, .mgt, .flt, .dbg, .pkg, .freeCount, .out] s (State.refuseLaunch s d status detail) := by
  delta State.refuseLaunch
  with_reducible repeat' first
    | exact Touches.refl _ _ | (simp only [Touches.mk_iff]; refine TouchesParts.upd ?_) | apply Touches.ite
    | apply Touches.via (State.endJob_touches ..) | apply Touches.via (State.modJob_touches ..)
    | apply Touches.via (State.tellWorkers_touches ..) | refine Touches.foldl _ ?_ ?_ | intro _ _

theorem State.registerLaunch_touches (s : State) (chip : ChipId) (jobId : Word) (mode : Bool) (stepFrames : Word) :
    Touches [.clock, .rf, .tiles, .parts, .ls, .dram, .store, .loupe, .prism, .chan, .mgt, .flt, .dbg, .pkg, .freeCount, .out] s (State.registerLaunch s chip jobId mode stepFrames) := by
  delta State.registerLaunch
  with_reducible repeat' first
    | exact Touches.refl _ _ | (simp only [Touches.mk_iff]; refine TouchesParts.upd ?_)
    | apply Touches.via (State.modDm_touches ..) | apply Touches.via (State.countIfAll_touches ..)
    | apply Touches.via (State.refuseLaunch_touches ..) | dsimp only | split

theorem State.mustRestart_touches (s : State) (jobId : Word) (inPass : Bool) :
    Touches [.freeCount] s (State.mustRestart s jobId inPass).2 := by
  delta State.mustRestart
  with_reducible repeat' first | exact Touches.refl _ _ | apply Touches.via (State.fresh_touches ..)

theorem State.abandonJob_touches (s : State) (d : DmJob) (chip : ChipId) (inPass : Bool) :
    Touches [.mgt, .freeCount, .out] s (State.abandonJob s d chip inPass) := by
  delta State.abandonJob
  with_reducible repeat' first
    | exact Touches.refl _ _ | apply Touches.ite | apply Touches.via (State.modDm_touches ..)
    | apply Touches.via (State.tellWorkers_touches ..) | apply Touches.via (State.mustRestart_touches ..)

theorem State.tryReform_touches (s : State) :
    Touches [.clock, .freeCount, .out] s (State.tryReform s) := by
  delta State.tryReform
  with_reducible repeat' first
    | exact Touches.refl _ _ | (simp only [Touches.mk_iff]; refine TouchesParts.upd ?_) | apply Touches.ite
    | apply Touches.via (State.emit_touches ..) | apply Touches.via (State.fresh_touches ..)
    | refine Touches.foldl _ ?_ ?_ | intro _ _

theorem State.relay_touches (s : State) (kind : String) (args : List Nat) :
    Touches [.out] s (State.relay s kind args) := by
  delta State.relay
  with_reducible repeat' first
    | exact Touches.refl _ _ | apply Touches.ite | apply Touches.via (State.emit_touches ..)
    | refine Touches.foldl _ ?_ ?_ | intro _ _

theorem State.launchRefused_touches (s : State) (jobId : Word) (status : Byte) (chip : ChipId) :
    Touches [.clock, .rf, .tiles, .parts, .ls, .dram, .store, .loupe, .prism, .chan, .mgt, .flt, .dbg, .pkg, .freeCount, .out] s (State.launchRefused s jobId status chip) := by
  delta State.launchRefused
  with_reducible repeat' first
    | exact Touches.refl _ _ | apply Touches.via (State.endJob_touches ..)
    | apply Touches.via (State.modJob_touches ..) | refine Touches.foldl _ ?_ ?_ | intro _ _

theorem State.haltJob_touches (s : State) (jobId : Word) :
    Touches [.parts] s (State.haltJob s jobId) := by
  delta State.haltJob
  with_reducible repeat' first
    | exact Touches.refl _ _ | apply Touches.ite | apply Touches.via (State.modPart_touches ..)
    | refine Touches.foldl _ ?_ ?_ | intro _ _

theorem State.copyAgreed_touches (s : State) (jobId : Word) :
    Touches [.mgt, .out] s (State.copyAgreed s jobId) := by
  delta State.copyAgreed
  with_reducible repeat' first
    | exact Touches.refl _ _ | apply Touches.ite | apply Touches.via (State.sendCopy_touches ..)

theorem State.answerRequests_touches (s : State) :
    Touches [.rf, .dram, .store, .chan, .mgt, .flt, .dbg, .freeCount, .out] s (State.answerRequests s) := by
  delta State.answerRequests
  with_reducible repeat' first
    | exact Touches.refl _ _ | apply Touches.via (State.fresh_touches ..)
    | apply Touches.via (State.complete_touches ..) | apply Touches.via (State.retryBells_touches ..)
    | apply Touches.via (State.requestCut_touches ..) | refine Touches.foldl _ ?_ ?_ | intro _ _ | split

theorem State.becomeRoot_touches (s : State) :
    Touches [.rf] s (State.becomeRoot s) := by
  delta State.becomeRoot
  with_reducible repeat' first
    | exact Touches.refl _ _ | apply Touches.via (State.wr_touches ..) | apply Touches.via (State.wrFld_touches ..)
    | apply Touches.via (State.setBit_touches ..) | apply Touches.via (State.clrBit_touches ..)

theorem State.loseDm_touches (s : State) :
    Touches [.rf, .dram, .store, .chan, .mgt, .flt, .dbg, .freeCount, .out] s (State.loseDm s) := by
  delta State.loseDm
  with_reducible repeat' first
    | exact Touches.refl _ _ | (simp only [Touches.mk_iff]; refine TouchesParts.upd ?_) | apply Touches.ite
    | apply Touches.via (State.setBit_touches ..) | apply Touches.via (State.clrBit_touches ..)
    | apply Touches.via (State.emit_touches ..) | apply Touches.via (State.fresh_touches ..)
    | apply Touches.via (State.setParent_touches ..) | apply Touches.via (State.countIfAll_touches ..)
    | apply Touches.via (State.answerRequests_touches ..) | apply Touches.via (State.becomeRoot_touches ..)
    | refine Touches.foldl _ ?_ ?_ | intro _ _

theorem State.driveHalt_touches (s : State) :
    Touches [.rf, .mgt] s (State.driveHalt s) := by
  delta State.driveHalt
  with_reducible repeat' first
    | exact Touches.refl _ _ | (simp only [Touches.mk_iff]; refine TouchesParts.upd ?_)
    | apply Touches.via (State.setBit_touches ..)

theorem execHalt_touches (path : Path) (s : State) :
    TouchesOut [.rf, .mgt] s (execHalt path s) := by
  delta execHalt
  with_reducible repeat' first
    | apply TouchesOut.next | exact Touches.refl _ _ | apply Touches.via (State.setBit_touches ..)
    | apply State.via_touches | apply Touches.via (State.driveHalt_touches ..) | intro _

theorem State.fuseResult_touches (s : State) (r : Nat) :
    Touches [.rf] s (State.fuseResult s r) := by
  delta State.fuseResult
  with_reducible repeat' first | exact Touches.refl _ _ | apply Touches.via (State.wrFld_touches ..)

theorem State.otpBusyIgnored_touches (s : State) :
    Touches [.rf] s (State.otpBusyIgnored s) := by
  delta State.otpBusyIgnored
  with_reducible repeat' first | exact Touches.refl _ _ | apply Touches.via (State.setBit_touches ..)

theorem execFuseArm_touches (path : Path) (key : BitVec 16) (s : State) :
    TouchesOut [.start] s (execFuseArm path key s) := by
  delta execFuseArm
  with_reducible repeat' first
    | apply TouchesOut.next | exact Touches.refl _ _ | (simp only [Touches.mk_iff]; refine TouchesParts.upd ?_)
    | apply State.via_touches | intro _

theorem execFuseProgram_touches (path : Path) (s : State) :
    TouchesOut [.rf, .start] s (execFuseProgram path s) := by
  delta execFuseProgram
  with_reducible repeat' first
    | apply TouchesOut.next | exact Touches.refl _ _ | (simp only [Touches.mk_iff]; refine TouchesParts.upd ?_)
    | apply Touches.ite | apply State.via_touches | apply Touches.via (State.fuseResult_touches ..)
    | apply Touches.via (State.otpBusyIgnored_touches ..) | intro _

theorem execFuseRead_touches (path : Path) (s : State) :
    TouchesOut [.rf] s (execFuseRead path s) := by
  delta execFuseRead
  with_reducible repeat' first
    | apply TouchesOut.next | exact Touches.refl _ _ | apply Touches.ite | apply Touches.via (State.wr_touches ..)
    | apply State.via_touches | apply Touches.via (State.fuseResult_touches ..)
    | apply Touches.via (State.otpBusyIgnored_touches ..) | refine Touches.foldl _ ?_ ?_ | intro _

theorem State.imageResult_touches (s : State) (r : Nat) :
    Touches [.rf] s (State.imageResult s r) := by
  delta State.imageResult
  with_reducible repeat' first | exact Touches.refl _ _ | apply Touches.via (State.wrFld_touches ..)

theorem State.modImage_touches (s : State) (f : Staging → Staging) :
    Touches [.start] s (State.modImage s f) := by
  delta State.modImage
  with_reducible repeat' first | exact Touches.refl _ _ | (simp only [Touches.mk_iff]; refine TouchesParts.upd ?_)

theorem execImageStage_touches (path : Path) (s : State) :
    TouchesOut [.rf, .store, .mgt, .flt, .start, .dbg, .out] s (execImageStage path s) := by
  delta execImageStage
  with_reducible repeat' first
    | apply TouchesOut.next | exact Touches.refl _ _ | apply Touches.via (State.meet_touches ..)
    | apply State.via_touches | apply Touches.via (State.otpBusyIgnored_touches ..)
    | apply Touches.via (State.imageResult_touches ..) | apply Touches.via (State.modImage_touches ..) | intro _
    | dsimp only | split

theorem State.holdIdle_touches (s : State) :
    Touches [.parts] s (State.holdIdle s) := by
  delta State.holdIdle
  with_reducible repeat' first
    | exact Touches.refl _ _ | apply Touches.ite | apply Touches.via (State.modPart_touches ..)
    | refine Touches.foldl _ ?_ ?_ | intro _ _

theorem execImageActivate_touches (path : Path) (s : State) :
    TouchesOut [.rf, .parts, .start] s (execImageActivate path s) := by
  delta execImageActivate
  with_reducible repeat' first
    | apply TouchesOut.next | exact Touches.refl _ _ | apply Touches.ite | apply State.via_touches
    | apply Touches.via (State.otpBusyIgnored_touches ..) | apply Touches.via (State.imageResult_touches ..)
    | apply Touches.via (State.modImage_touches ..) | apply Touches.via (State.holdIdle_touches ..) | intro _

theorem State.unfetch_touches (s : State) (ch : Nat) :
    Touches [.chan] s (State.unfetch s ch) := by
  delta State.unfetch
  with_reducible repeat' first
    | exact Touches.refl _ _ | (simp only [Touches.mk_iff]; refine TouchesParts.upd ?_)
    | apply Touches.via (State.setCh_touches ..) | split

theorem State.fenceVersions_touches (s : State) :
    Touches [.rf, .chan, .out] s (State.fenceVersions s) := by
  delta State.fenceVersions
  with_reducible repeat' first
    | exact Touches.refl _ _ | apply Touches.via (State.setBit_touches ..)
    | apply Touches.via (State.sendMsix_touches ..) | apply Touches.via (State.setCh_touches ..)
    | apply Touches.via (State.unfetch_touches ..) | refine Touches.foldl _ ?_ ?_ | intro _ _

theorem State.releaseActivation_touches (s : State) :
    Touches [.parts] s (State.releaseActivation s) := by
  delta State.releaseActivation
  with_reducible repeat' first
    | exact Touches.refl _ _ | apply Touches.via (State.modPart_touches ..) | refine Touches.foldl _ ?_ ?_ | intro _ _

theorem execActivateCancel_touches (path : Path) (s : State) :
    TouchesOut [.parts, .start] s (execActivateCancel path s) := by
  delta execActivateCancel
  with_reducible repeat' first
    | apply TouchesOut.next | exact Touches.refl _ _ | apply Touches.ite | apply State.via_touches
    | apply Touches.via (State.modImage_touches ..) | apply Touches.via (State.releaseActivation_touches ..) | intro _

theorem State.aowFinish_touches (s : State) (t op req status : Nat) :
    Touches [.store] s (State.aowFinish s t op req status) := by
  delta State.aowFinish
  with_reducible repeat' first | exact Touches.refl _ _ | (simp only [Touches.mk_iff]; refine TouchesParts.upd ?_)

theorem State.aowCount_touches (s : State) (n : Nat) :
    Touches [.store] s (State.aowCount s n) := by
  delta State.aowCount
  with_reducible repeat' first | exact Touches.refl _ _ | (simp only [Touches.mk_iff]; refine TouchesParts.upd ?_)

theorem State.aowMeet_touches (s : State) (da n : Nat) :
    Touches [.rf, .store] s (State.aowMeet s da n).2.2 := by
  delta State.aowMeet
  with_reducible repeat' first
    | exact Touches.refl _ _ | apply Touches.via (State.noteHbmUe_touches ..) | refine Touches.foldl _ ?_ ?_
    | intro _ _

theorem State.aowF32_touches (s : State) (t op req : Nat) (r : AowReq) :
    Touches [.rf, .dram, .store, .mgt, .flt, .dbg, .out] s (State.aowF32 s t op req r) := by
  delta State.aowF32
  with_reducible repeat' first
    | exact Touches.refl _ _ | apply Touches.via (State.readDev_touches ..)
    | apply Touches.via (State.writeDev_touches ..) | apply Touches.via (State.aowFinish_touches ..)
    | apply Touches.via (State.aowCount_touches ..) | apply Touches.via (State.aowMeet_touches ..)

theorem State.aowAnchor_touches (s : State) (t op req : Nat) (r : AowReq) :
    Touches [.rf, .dram, .store, .mgt, .flt, .dbg, .out] s (State.aowAnchor s t op req r) := by
  delta State.aowAnchor
  with_reducible repeat' first
    | exact Touches.refl _ _ | (simp only [Touches.mk_iff]; refine TouchesParts.upd ?_)
    | apply Touches.via (State.setBit_touches ..) | apply Touches.via (State.bump_touches ..)
    | apply Touches.via (State.readDev_touches ..) | apply Touches.via (State.writeDev_touches ..)
    | apply Touches.via (State.aowFinish_touches ..) | apply Touches.via (State.aowMeet_touches ..) | dsimp only
    | split

theorem State.aowArrive_touches (s : State) (t op req : Nat) :
    Touches [.rf, .dram, .store, .mgt, .flt, .dbg, .out] s (State.aowArrive s t op req) := by
  delta State.aowArrive
  with_reducible repeat' first
    | exact Touches.refl _ _ | apply Touches.via (State.aowF32_touches ..)
    | apply Touches.via (State.aowAnchor_touches ..) | split

theorem State.pieceDone_touches (s : State) (piece : Nat) :
    Touches [.rf, .dram, .store, .mgt, .flt, .dbg, .out] s (State.pieceDone s piece) := by
  delta State.pieceDone
  with_reducible repeat' first
    | exact Touches.refl _ _ | (simp only [Touches.mk_iff]; refine TouchesParts.upd ?_) | apply Touches.ite
    | apply Touches.via (State.readDev_touches ..) | apply Touches.via (State.writeDev_touches ..)
    | apply Touches.via (State.aowFinish_touches ..) | apply Touches.via (State.aowCount_touches ..)
    | apply Touches.via (State.aowMeet_touches ..) | split

theorem State.settlePiece_touches (s : State) (p : AowPiece) :
    Touches [.rf, .dram, .store, .mgt, .flt, .dbg, .freeCount, .out] s (State.settlePiece s p) := by
  delta State.settlePiece
  with_reducible repeat' first
    | exact Touches.refl _ _ | apply Touches.via (State.fresh_touches ..)
    | apply Touches.via (State.writeDev_touches ..)

theorem State.aptCmd_touches {l : List Component} (s : State) (path : Path) (f : State → State) (hf0 : ∀ s, Touches l s (f s)) (hl : ∀ c ∈ ([.rf] : List Component), c ∈ l) :
    Touches l s (State.aptCmd s path f) := by
  delta State.aptCmd
  with_reducible repeat' first
    | exact Touches.refl _ _ | apply Touches.ite | apply hf0 | apply Touches.within (State.setBit_touches ..) hl
    | apply State.via_touches | intro _

theorem execAptCommit_touches (path : Path) (s : State) :
    TouchesOut [.rf, .store, .apt, .mgt, .flt, .dbg, .out] s (execAptCommit path s) := by
  delta execAptCommit
  with_reducible repeat' first
    | apply TouchesOut.next | exact Touches.refl _ _ | (simp only [Touches.mk_iff]; refine TouchesParts.upd ?_)
    | apply Touches.ite | apply Touches.via (State.wrFld_touches ..) | apply Touches.via (State.aptCommit_touches ..)
    | apply State.aptCmd_touches | decide | intro _

theorem execAptInvalidate_touches (path : Path) (keep : Bool) (s : State) :
    TouchesOut [.rf, .apt] s (execAptInvalidate path keep s) := by
  delta execAptInvalidate
  with_reducible repeat' first
    | apply TouchesOut.next | exact Touches.refl _ _ | apply Touches.via (State.wrFld_touches ..)
    | apply Touches.via (State.aptDrop_touches ..) | apply State.aptCmd_touches | decide | intro _

theorem execAptRead_touches (path : Path) (s : State) :
    TouchesOut [.rf] s (execAptRead path s) := by
  delta execAptRead
  with_reducible repeat' first
    | apply TouchesOut.next | exact Touches.refl _ _ | apply Touches.via (State.wrFld_touches ..)
    | apply Touches.via (State.stage_touches ..) | apply State.aptCmd_touches | decide | intro _

theorem State.cutRequests_touches (s : State) (mine : Nat → Nat → Bool) :
    Touches [.rf, .dram, .store, .mgt, .flt, .dbg, .freeCount, .out] s (State.cutRequests s mine) := by
  delta State.cutRequests
  with_reducible repeat' first
    | exact Touches.refl _ _ | (simp only [Touches.mk_iff]; refine TouchesParts.upd ?_)
    | apply Touches.via (State.settlePiece_touches ..) | refine Touches.foldl _ ?_ ?_ | intro _ _

theorem State.endByAperture_touches (s : State) (t id : Nat) :
    Touches [.rf, .tiles, .parts, .ls, .dram, .store, .loupe, .prism, .apt, .chan, .mgt, .flt, .dbg, .freeCount, .out] s (State.endByAperture s t id) := by
  delta State.endByAperture
  with_reducible repeat' first
    | exact Touches.refl _ _ | apply Touches.via (State.modTile_touches ..)
    | apply Touches.via (State.finishOp_touches ..)

theorem State.zeroGranules_touches (s : State) (hit : Nat → Bool) : Touches [.dram, .store] s (s.zeroGranules hit) := by
  refine Touches.setMem s _ fun h => ?_
  simp only [Memory.wf, Bool.and_eq_true] at h ⊢
  exact ⟨h.1, Sparse.wf_filter _ h.2⟩

theorem State.zeroReleased_touches (s : State) :
    Touches [.rf, .dram, .store, .apt] s (State.zeroReleased s) := by
  delta State.zeroReleased
  with_reducible repeat' first
    | exact Touches.refl _ _ | (simp only [Touches.mk_iff]; refine TouchesParts.upd ?_)
    | apply Touches.via (State.setBit_touches ..) | apply Touches.via (State.clrBit_touches ..)
    | apply Touches.via (State.installApt_touches ..) | apply Touches.via (State.aptBusy_touches ..)
    | apply Touches.via (State.zeroGranules_touches ..) | dsimp only | split

theorem State.orderReset_touches (s : State) (source : Nat) :
    Touches [.rf, .chan, .flt, .out] s (State.orderReset s source) := by
  delta State.orderReset
  with_reducible repeat' first
    | exact Touches.refl _ _ | apply Touches.ite | apply Touches.via (State.logEvent_touches ..)
    | apply Touches.via (State.startReset_touches ..)

theorem State.resetByFault_touches (s : State) :
    Touches [.rf, .chan, .flt, .out] s (State.resetByFault s) := by
  delta State.resetByFault
  with_reducible repeat' first | exact Touches.refl _ _ | apply Touches.via (State.startReset_touches ..) | split

theorem execResetCompute_touches (path : Path) (s : State) :
    TouchesOut [.rf, .chan, .flt, .out] s (execResetCompute path s) := by
  delta execResetCompute
  with_reducible repeat' first
    | apply TouchesOut.next | exact Touches.refl _ _ | apply Touches.via (State.setBit_touches ..)
    | apply State.via_touches | apply Touches.via (State.orderReset_touches ..) | intro _

theorem State.freeSpan_touches (s : State) (v lo n : Nat) :
    Touches [.dram, .freeCount] s (State.freeSpan s v lo n) := by
  delta State.freeSpan
  with_reducible repeat' first
    | exact Touches.refl _ _ | apply Touches.via (State.freeBytes_touches ..) | refine Touches.foldl _ ?_ ?_
    | intro _ _ | split

theorem State.dropRequests_touches (s : State) :
    Touches [.rf, .dram, .store, .mgt, .flt, .dbg, .freeCount, .out] s (State.dropRequests s) := by
  delta State.dropRequests
  with_reducible repeat' first
    | exact Touches.refl _ _ | (simp only [Touches.mk_iff]; refine TouchesParts.upd ?_)
    | apply Touches.via (State.cutPass_touches ..) | apply Touches.via (State.settlePiece_touches ..)
    | apply Touches.via (State.freeSpan_touches ..) | refine Touches.foldl _ ?_ ?_ | intro _ _

theorem State.abortExtents_touches (s : State) :
    Touches [.rf, .dram, .store, .ing, .mgt, .flt, .dbg, .freeCount, .out] s (State.abortExtents s) := by
  delta State.abortExtents
  with_reducible repeat' first
    | exact Touches.refl _ _ | apply Touches.via (State.fresh_touches ..)
    | apply Touches.via (State.noteExtent_touches ..) | apply Touches.via (State.freeSpan_touches ..)
    | refine Touches.foldl _ ?_ ?_ | refine Touches.foldlSnd _ ?_ ?_ | intro _ _

theorem State.abandonedRecord_touches (s : State) (p : Nat) :
    Touches [.rf, .parts, .dram, .store, .mgt, .flt, .dbg, .freeCount, .out] s (State.abandonedRecord s p) := by
  delta State.abandonedRecord
  with_reducible repeat' first
    | exact Touches.refl _ _ | apply Touches.via (State.stepRecord_touches ..) | dsimp only | split

theorem State.abortJob_touches (s : State) (r : ResetRun) (p : Nat) :
    Touches [.clock, .rf, .parts, .dram, .store, .chan, .mgt, .flt, .dbg, .pkg, .freeCount, .out] s (State.abortJob s r p) := by
  delta State.abortJob
  with_reducible repeat' first
    | exact Touches.refl _ _ | apply Touches.via (State.endRecord_touches ..)
    | apply Touches.via (State.finishJob_touches ..) | apply Touches.via (State.ckptState_touches ..)
    | apply Touches.via (State.ckptOutcome_touches ..) | apply Touches.via (State.tellCut_touches ..) | split

theorem State.abortChannel_touches (s : State) (r : ResetRun) (ch : Nat) :
    Touches [.rf, .dram, .store, .chan, .mgt, .flt, .dbg, .out] s (State.abortChannel s r ch) := by
  delta State.abortChannel
  with_reducible repeat' first
    | exact Touches.refl _ _ | (simp only [Touches.mk_iff]; refine TouchesParts.upd ?_) | apply Touches.ite
    | apply Touches.via (State.setCh_touches ..) | apply Touches.via (State.chError_touches ..)
    | apply Touches.via (State.account_touches ..) | apply Touches.via (State.complete_touches ..)
    | refine Touches.foldl _ ?_ ?_ | intro _ _

theorem State.dropStaged_touches (s : State) :
    Touches [.rf] s (State.dropStaged s) := by
  delta State.dropStaged
  with_reducible repeat' first | exact Touches.refl _ _ | (simp only [Touches.mk_iff]; refine TouchesParts.upd ?_)

theorem State.startMemReset_touches (s : State) (source : Nat) :
    Touches [.rf, .flt] s (State.startMemReset s source) := by
  delta State.startMemReset
  with_reducible repeat' first
    | exact Touches.refl _ _ | (simp only [Touches.mk_iff]; refine TouchesParts.upd ?_) | apply Touches.ite
    | apply Touches.via (State.wrFld_touches ..) | apply Touches.via (State.bumpFld_touches ..)
    | apply Touches.via (State.logEvent_touches ..)

theorem State.orderMemReset_touches (s : State) (source : Nat) :
    Touches [.rf, .flt] s (State.orderMemReset s source) := by
  delta State.orderMemReset
  with_reducible repeat' first
    | exact Touches.refl _ _ | (simp only [Touches.mk_iff]; refine TouchesParts.upd ?_)
    | apply Touches.via (State.startMemReset_touches ..) | split

theorem State.restPhase_touches (s : State) :
    Touches [.rf] s (State.restPhase s) := by
  delta State.restPhase
  with_reducible repeat' first | exact Touches.refl _ _ | apply Touches.via (State.wrFld_touches ..)

theorem execResetMemory_touches (path : Path) (s : State) :
    TouchesOut [.rf, .flt] s (execResetMemory path s) := by
  delta execResetMemory
  with_reducible repeat' first
    | apply TouchesOut.next | exact Touches.refl _ _ | apply Touches.via (State.setBit_touches ..)
    | apply State.via_touches | apply Touches.via (State.orderMemReset_touches ..) | intro _

theorem State.passRoles_touches (s : State) :
    Touches [.rf, .mgt] s (State.passRoles s) := by
  delta State.passRoles
  with_reducible repeat' first
    | exact Touches.refl _ _ | (simp only [Touches.mk_iff]; refine TouchesParts.upd ?_) | apply Touches.ite
    | apply Touches.via (State.clrBit_touches ..) | apply Touches.via (State.setParent_touches ..)

theorem State.rejoin_touches (s : State) :
    Touches [.rf, .mgt, .out] s (State.rejoin s) := by
  delta State.rejoin
  with_reducible repeat' first
    | exact Touches.refl _ _ | (simp only [Touches.mk_iff]; refine TouchesParts.upd ?_) | apply Touches.ite
    | apply Touches.via (State.putBit_touches ..) | apply Touches.via (State.emit_touches ..)
    | apply Touches.via (State.becomeRoot_touches ..)

theorem State.startCtlReset_touches (s : State) :
    Touches [.clock, .rf, .tiles, .parts, .ls, .dram, .store, .loupe, .prism, .kal, .apt, .chan, .ing, .net, .mgt, .flt, .flash, .start, .port, .dbg, .pkg, .freeCount, .out] s (State.startCtlReset s) := by
  delta State.startCtlReset
  with_reducible repeat' first
    | exact Touches.refl _ _ | (simp only [Touches.mk_iff]; refine TouchesParts.upd ?_) | apply Touches.ite
    | apply Touches.via (State.wrFld_touches ..) | apply Touches.via (State.setBit_touches ..)
    | apply Touches.via (State.bumpFld_touches ..) | apply Touches.via (State.escalate_touches ..)
    | apply Touches.via (State.restPhase_touches ..) | apply Touches.via (State.passRoles_touches ..)

theorem State.orderCtlReset_touches (s : State) (source : Nat) :
    Touches [.clock, .rf, .tiles, .parts, .ls, .dram, .store, .loupe, .prism, .kal, .apt, .chan, .ing, .net, .mgt, .flt, .flash, .start, .port, .dbg, .pkg, .freeCount, .out] s (State.orderCtlReset s source) := by
  delta State.orderCtlReset
  with_reducible repeat' first
    | exact Touches.refl _ _ | apply Touches.ite | apply Touches.via (State.logEvent_touches ..)
    | apply Touches.via (State.startCtlReset_touches ..)

theorem execResetControl_touches (path : Path) (s : State) :
    TouchesOut [.clock, .rf, .tiles, .parts, .ls, .dram, .store, .loupe, .prism, .kal, .apt, .chan, .ing, .net, .mgt, .flt, .flash, .start, .port, .dbg, .pkg, .freeCount, .out] s (execResetControl path s) := by
  delta execResetControl
  with_reducible repeat' first
    | apply TouchesOut.next | exact Touches.refl _ _ | apply Touches.via (State.setBit_touches ..)
    | apply State.via_touches | apply Touches.via (State.orderCtlReset_touches ..) | intro _

theorem execResetDevice_touches (path : Path) (s : State) :
    TouchesOut [.clock, .rf, .tiles, .parts, .ls, .dram, .store, .loupe, .prism, .kal, .apt, .chan, .ing, .net, .mgt, .flt, .flash, .start, .port, .dbg, .pkg, .freeCount, .out] s (execResetDevice path s) := by
  delta execResetDevice
  with_reducible repeat' first
    | apply TouchesOut.next | exact Touches.refl _ _ | apply State.via_touches
    | apply Touches.via (State.sourceNotices_touches ..) | apply Touches.via (State.resetDevice_touches ..) | intro _

theorem State.holdReset_touches (s : State) (h : HeldBy) (source : Nat) :
    Touches [.clock, .rf, .tiles, .parts, .ls, .dram, .store, .loupe, .prism, .kal, .apt, .chan, .ing, .net, .mgt, .flt, .start, .port, .dbg, .pkg, .freeCount] s (State.holdReset s h source) := by
  delta State.holdReset
  with_reducible repeat' first
    | exact Touches.refl _ _ | apply Touches.via (State.logEvent_touches ..)
    | apply Touches.via (State.deviceReset_touches ..)

theorem State.loseHbm_touches (s : State) : Touches [.dram, .store, .flt] s s.loseHbm := by
  refine TouchesParts.upd (s := { s with mem := { s.mem with dram := s.mem.dram.filter fun e => !isHbm e.1, memBad := [], memSoft := [] } })
    (Touches.setMem s _ fun h => ?_)
  simp only [Memory.wf, Bool.and_eq_true] at h ⊢
  exact ⟨h.1, Sparse.wf_filter _ h.2⟩

theorem State.thermalTrip_touches (s : State) :
    Touches [.rf, .mgt, .flt, .pkg, .out] s (State.thermalTrip s) := by
  delta State.thermalTrip
  with_reducible repeat' first
    | exact Touches.refl _ _ | (simp only [Touches.mk_iff]; refine TouchesParts.upd ?_)
    | apply Touches.via (State.wrFld_touches ..) | apply Touches.via (State.setBit_touches ..)
    | apply Touches.via (State.ibi_touches ..) | apply Touches.via (State.warn_touches ..)
    | refine Touches.foldl _ ?_ ?_ | intro _ _

theorem State.thermalCritical_touches (s : State) :
    Touches [.clock, .rf, .tiles, .parts, .ls, .dram, .store, .loupe, .prism, .kal, .apt, .chan, .ing, .net, .mgt, .flt, .start, .port, .dbg, .pkg, .freeCount, .out] s (State.thermalCritical s) := by
  delta State.thermalCritical
  with_reducible repeat' first
    | exact Touches.refl _ _ | (simp only [Touches.mk_iff]; refine TouchesParts.upd ?_)
    | apply Touches.via (State.ibi_touches ..) | apply Touches.via (State.sourceNotices_touches ..)
    | apply Touches.via (State.holdReset_touches ..)

theorem State.showTemp_touches (s : State) :
    Touches [.rf] s (State.showTemp s) := by
  delta State.showTemp
  with_reducible repeat' first | exact Touches.refl _ _ | apply Touches.via (State.wrFld_touches ..)

theorem execMbxRequest_touches (path : Path) (window : MbxWindow) (value : Word) (s : State) :
    TouchesOut [.rf, .parts, .port, .out] s (execMbxRequest path window value s) := by
  delta execMbxRequest
  with_reducible repeat' first
    | apply TouchesOut.next | exact Touches.refl _ _ | (simp only [Touches.mk_iff]; refine TouchesParts.upd ?_)
    | apply Touches.via (State.wrFld_touches ..) | apply Touches.via (State.setBit_touches ..)
    | apply Touches.via (State.flagErr_touches ..) | apply Touches.via (State.writeFields_touches ..)
    | apply State.via_touches | intro _ | dsimp only | split

theorem settled_touches {l : List Component} (o : Host.Outcome State Fault Refusal) (s : State) (ho : TouchesOut l s o) :
    Touches l s (settled o s) := by
  cases o with
  | next t => exact ho.of t rfl
  | fault r => exact .refl _ s
  | refused r => exact .refl _ s

theorem execPwrApply_touches (path : Path) (s : State) :
    TouchesOut [.rf, .parts] s (execPwrApply path s) := by
  delta execPwrApply
  with_reducible repeat' first
    | apply TouchesOut.next | exact Touches.refl _ _ | apply Touches.via (State.strobe_touches ..)
    | apply State.via_touches | intro _

theorem execPwrCfgWrite_touches (path : Path) (value : Word) (s : State) :
    TouchesOut [.rf, .parts, .port, .out] s (execPwrCfgWrite path value s) := by
  delta execPwrCfgWrite
  with_reducible repeat' first
    | apply TouchesOut.next | exact Touches.refl _ _ | apply Touches.ite
    | apply Touches.via (State.flagErr_touches ..) | apply Touches.via (State.writeFields_touches ..)
    | apply State.via_touches | intro _

theorem execStagingWrite_touches (path : Path) (value : Word) (s : State) :
    TouchesOut [.rf, .parts, .port, .out] s (execStagingWrite path value s) := by
  delta execStagingWrite
  with_reducible repeat' first
    | apply TouchesOut.next | exact Touches.refl _ _ | apply Touches.ite
    | apply Touches.via (State.flagErr_touches ..) | apply Touches.via (State.writeFields_touches ..)
    | apply State.via_touches | intro _

theorem State.blocksChanged_touches (s : State) (old : Nat) :
    Touches [.rf, .tiles, .parts, .ls, .dram, .store, .loupe, .prism, .kal, .apt, .chan, .ing, .net, .mgt, .flt, .dbg, .freeCount, .out] s (State.blocksChanged s old) := by
  delta State.blocksChanged
  with_reducible repeat' first
    | exact Touches.refl _ _ | apply Touches.ite | apply Touches.via (State.beginExtents_touches ..)
    | apply Touches.via (State.holdOver_touches ..) | apply Touches.via (State.dropLink_touches ..)
    | apply Touches.via (State.enableLink_touches ..) | refine Touches.foldl _ ?_ ?_ | intro _ _

theorem execBlockEnableWrite_touches (path : Path) (value : Word) (s : State) :
    TouchesOut [.rf, .tiles, .parts, .ls, .dram, .store, .loupe, .prism, .kal, .apt, .chan, .ing, .net, .mgt, .flt, .port, .dbg, .freeCount, .out] s (execBlockEnableWrite path value s) := by
  delta execBlockEnableWrite
  with_reducible repeat' first
    | apply TouchesOut.next | exact Touches.refl _ _ | apply Touches.ite
    | apply Touches.via (State.flagErr_touches ..) | apply Touches.via (State.writeFields_touches ..)
    | apply State.via_touches | apply Touches.via (State.blocksChanged_touches ..) | intro _

theorem State.bellPage_touches (s : State) (path : Path) (o : Nat) (v : Word) :
    Touches [.rf, .dram, .store, .chan, .mgt, .flt, .dbg, .out] s (State.bellPage s path o v) := by
  delta State.bellPage
  with_reducible repeat' first
    | exact Touches.refl _ _ | apply Touches.via (State.dropBell_touches ..)
    | apply TouchesOut.mono (execDoorbellSq_touches ..) | apply TouchesOut.mono (execDoorbellCq_touches ..)
    | apply TouchesOut.mono (execDoorbellLowHalf_touches ..) | apply settled_touches | split

theorem State.msixWrite_touches (s : State) (fn o : Nat) (v : Word) :
    Touches [.chan, .out] s (State.msixWrite s fn o v) := by
  delta State.msixWrite
  with_reducible repeat' first
    | exact Touches.refl _ _ | (simp only [Touches.mk_iff]; refine TouchesParts.upd ?_) | apply Touches.ite
    | apply Touches.via (State.sendMsix_touches ..) | split

theorem State.coordWrite_touches (s : State) (path : Path) (place : Nat) (v : Word) :
    Touches [.rf, .parts, .port, .out] s (State.coordWrite s path place v) := by
  delta State.coordWrite
  with_reducible repeat' first
    | exact Touches.refl _ _ | apply Touches.ite | apply Touches.via (State.setBit_touches ..)
    | apply Touches.via (State.writeFields_touches ..)

theorem act_touches {l : List Component} {a : State} (c : Bool) (f : State → Host.Outcome State Fault Refusal) (s : State)
    (hf : TouchesOut l s (f s)) (k : Touches l a s) : Touches l a (act c f s) := by
  delta act
  split
  · exact .via (settled_touches _ _ hf) k fun _ h => h
  · exact k

theorem State.actWrite_touches (s : State) (path : Path) (b off i : Nat) (v : Word) :
    Touches [.clock, .rf, .tiles, .parts, .ls, .dram, .store, .loupe, .prism, .kal, .apt, .chan, .ing, .net, .mgt, .flt, .flash, .start, .port, .dbg, .pkg, .freeCount, .out] s (s.actWrite path b off i v) := by
  delta State.actWrite
  with_reducible repeat' first
    | exact Touches.refl _ _ | apply act_touches
    | apply TouchesOut.mono (execPwrApply_touches ..)
    | apply TouchesOut.mono (execHalt_touches ..)
    | apply TouchesOut.mono (execCommit_touches ..)
    | apply TouchesOut.mono (execFuseArm_touches ..)
    | apply TouchesOut.mono (execFuseRead_touches ..)
    | apply TouchesOut.mono (execFuseProgram_touches ..)
    | apply TouchesOut.mono (execActivateCancel_touches ..)
    | apply TouchesOut.mono (execImageActivate_touches ..)
    | apply TouchesOut.mono (execImageStage_touches ..)
    | apply TouchesOut.mono (execResetControl_touches ..)
    | apply TouchesOut.mono (execResetMemory_touches ..)
    | apply TouchesOut.mono (execResetCompute_touches ..)
    | apply TouchesOut.mono (execResetDevice_touches ..)
    | apply TouchesOut.mono (execGtwRead_touches ..)
    | apply TouchesOut.mono (execGtwInvalidate_touches ..)
    | apply TouchesOut.mono (execGtwCommit_touches ..)
    | apply TouchesOut.mono (execRtwRead_touches ..)
    | apply TouchesOut.mono (execRtwCommit_touches ..)
    | apply TouchesOut.mono (execRtwInvalidate_touches ..)
    | apply TouchesOut.mono (execOuuReload_touches ..)
    | apply TouchesOut.mono (execAptRead_touches ..)
    | apply TouchesOut.mono (execAptInvalidate_touches ..)
    | apply TouchesOut.mono (execAptCommit_touches ..)
    | apply TouchesOut.mono (execTRead_touches ..)
    | apply TouchesOut.mono (execTCommit_touches ..)
    | apply TouchesOut.mono (execRlmEnable_touches ..)
    | apply TouchesOut.mono (execQpRead_touches ..)
    | apply TouchesOut.mono (execQpReset_touches ..)
    | apply TouchesOut.mono (execQpCommit_touches ..)
    | apply TouchesOut.mono (execClrLanes_touches ..)
    | apply TouchesOut.mono (execLnkRetrain_touches ..)
    | apply TouchesOut.mono (execLinkDisable_touches ..)
    | apply TouchesOut.mono (execBrkEnWrite_touches ..)
    | apply TouchesOut.mono (execTileDebugStep_touches ..)
    | apply TouchesOut.mono (execTileDebugHalt_touches ..)
    | apply TouchesOut.mono (execTileDebugResume_touches ..)
    | apply TouchesOut.mono (execUartTxWrite_touches ..)
    | apply TouchesOut.mono (execCwCreate_touches ..)
    | apply TouchesOut.mono (execCwDestroy_touches ..)
    | apply TouchesOut.mono (execCwRead_touches ..)
    | apply TouchesOut.mono (execCwStop_touches ..)
    | apply TouchesOut.mono (execCwResume_touches ..)
    | apply TouchesOut.mono (execCounterClear_touches ..)
    | apply Touches.ite | apply Touches.mono (State.strobe_touches ..) | apply Touches.mono (State.holdOver_touches ..)
    | apply Touches.mono (State.setBit_touches ..) | dsimp only | split | decide

theorem State.registerWrite_touches (s : State) (path : Path) (place : Nat) (v : Word) :
    Touches [.clock, .rf, .tiles, .parts, .ls, .dram, .store, .loupe, .prism, .kal, .apt, .chan, .ing, .net, .mgt, .flt, .flash, .start, .port, .dbg, .pkg, .freeCount, .out] s (s.registerWrite path place v) := by
  delta State.registerWrite
  with_reducible repeat' first
    | exact Touches.refl _ _ | apply Touches.mono (State.coordWrite_touches ..)
    | apply Touches.via (State.actWrite_touches ..) | apply Touches.mono (State.writeFields_touches ..)
    | apply settled_touches
    | apply TouchesOut.mono (execStagingWrite_touches ..)
    | apply TouchesOut.mono (execBlockEnableWrite_touches ..)
    | apply TouchesOut.mono (execMbxRequest_touches ..)
    | apply TouchesOut.mono (execPwrCfgWrite_touches ..)
    | apply TouchesOut.mono (execPeriodWrite_touches ..)
    | apply TouchesOut.mono (execOuuTblWrite_touches ..)
    | apply Touches.ite | dsimp only | split | decide

theorem State.writeAccess_touches (s : State) (path : Path) (off : Nat) (en : BitVec 4) (v : Word) :
    Touches [.clock, .rf, .tiles, .parts, .ls, .dram, .store, .loupe, .prism, .kal, .apt, .chan, .ing, .net, .mgt, .flt, .flash, .start, .port, .dbg, .pkg, .freeCount, .out] s (State.writeAccess s path off en v) := by
  delta State.writeAccess
  with_reducible repeat' first
    | exact Touches.refl _ _ | apply Touches.ite | apply Touches.via (State.setBit_touches ..)
    | apply Touches.via (State.flagErr_touches ..) | apply Touches.via (State.dropBell_touches ..)
    | apply TouchesOut.mono (execSemSignalWrite_touches ..) | apply TouchesOut.mono (execSemSetWrite_touches ..)
    | apply settled_touches | apply Touches.via (State.bellPage_touches ..)
    | apply Touches.via (State.msixWrite_touches ..) | apply Touches.via (State.registerWrite_touches ..) | split

theorem State.readValue_touches (s : State) (path : Path) (place : Nat) :
    Touches [.rf, .dbg, .freeCount] s (State.readValue s path place).2 := by
  delta State.readValue
  with_reducible repeat' first
    | exact Touches.refl _ _ | (simp only [Touches.mk_iff]; refine TouchesParts.upd ?_)
    | apply Touches.via (State.bump_touches ..) | apply Touches.via (State.fresh_touches ..) | split

theorem State.registerRead_touches (s : State) (path : Path) (place : Nat) :
    Touches [.rf, .dbg, .freeCount] s (State.registerRead s path place).2 := by
  delta State.registerRead
  with_reducible repeat' first
    | exact Touches.refl _ _ | apply Touches.via (State.wr_touches ..)
    | apply Touches.via (State.readValue_touches ..) | split

theorem State.readAccess_touches (s : State) (path : Path) (off : Nat) (en : BitVec 4) :
    Touches [.rf, .dbg, .freeCount] s (State.readAccess s path off en).2 := by
  delta State.readAccess
  with_reducible repeat' first
    | exact Touches.refl _ _ | apply Touches.iteSnd | apply Touches.via (State.setBit_touches ..)
    | apply Touches.via (State.fresh_touches ..) | apply Touches.via (State.flagErr_touches ..)
    | apply Touches.via (State.readValue_touches ..) | apply Touches.via (State.registerRead_touches ..) | split

theorem State.modDm'_touches (s : State) (f : DebugModule → DebugModule) :
    Touches [.dbg] s (State.modDm' s f) := by
  unfold State.modDm'
  with_reducible repeat' first | exact Touches.refl _ _ | (simp only [Touches.mk_iff]; refine TouchesParts.upd ?_)

theorem State.dmControl_touches (s : State) (w : Word) :
    Touches [.dbg] s (State.dmControl s w) := by
  delta State.dmControl
  with_reducible repeat' first
    | exact Touches.refl _ _ | apply Touches.ite | apply Touches.via (State.modDm'_touches ..)

theorem State.abstractCmd_touches (s : State) (w : Word) :
    Touches [.dbg, .freeCount] s (State.abstractCmd s w) := by
  delta State.abstractCmd
  with_reducible repeat' first
    | exact Touches.refl _ _ | apply Touches.ite | apply Touches.via (State.fresh_touches ..)
    | apply Touches.via (State.modDm'_touches ..)

theorem State.busPut_touches (s : State) (da : Nat) (b : Byte) :
    Touches [.apt, .chan] s (State.busPut s da b) := by
  delta State.busPut
  with_reducible repeat' first
    | exact Touches.refl _ _ | (simp only [Touches.mk_iff]; refine TouchesParts.upd ?_)
    | apply Touches.via (State.setCh_touches ..) | split

theorem State.busRead_touches (s : State) (da n : Nat) :
    Touches [.rf, .store, .mgt, .flt, .dbg, .freeCount, .out] s (s.busRead da n).2 := by
  delta State.busRead
  generalize regOffset da = o
  split
  · extract_lets x
    have hx : Touches [.rf, .store, .mgt, .flt, .dbg, .freeCount, .out] s x.2 := .mono (State.readAccess_touches s _ o _)
    clear_value x
    split
    · exact hx
    · exact .via (State.readAccess_touches x.2 _ (o + 4) _) hx
  · extract_lets r f
    have hr : Touches [.rf, .store, .mgt, .flt, .dbg, .freeCount, .out] s r.st := .mono (State.readDev_touches ..)
    split
    · exact hr
    · split
      · exact hr
      · exact .via (State.fresh_touches ..) hr

theorem State.busWrite_touches (s : State) (da n x : Nat) :
    Touches [.clock, .rf, .tiles, .parts, .ls, .dram, .store, .loupe, .prism, .kal, .apt, .chan, .ing, .net, .mgt, .flt, .flash, .start, .port, .dbg, .pkg, .freeCount, .out] s (State.busWrite s da n x).2 := by
  delta State.busWrite
  with_reducible repeat' first
    | exact Touches.refl _ _ | apply Touches.ite | apply Touches.iteSnd
    | apply Touches.via (State.writeDev_touches ..) | apply Touches.via (State.writeAccess_touches ..)
    | apply Touches.via (State.busPut_touches ..) | refine Touches.foldl _ ?_ ?_ | intro _ _

theorem State.sbError_touches (s : State) (e : Nat) :
    Touches [.dbg] s (State.sbError s e) := by
  delta State.sbError
  with_reducible repeat' first | exact Touches.refl _ _ | apply Touches.via (State.modDm'_touches ..)

theorem State.sbCheck_touches {l : List Component} (s : State) (f : State → Nat → Nat → State) (hf0 : ∀ s i j, Touches l s (f s i j)) (hl : ∀ c ∈ ([.dbg] : List Component), c ∈ l) :
    Touches l s (State.sbCheck s f) := by
  delta State.sbCheck
  with_reducible repeat' first
    | exact Touches.refl _ _ | apply Touches.ite | apply hf0 | apply Touches.within (State.modDm'_touches ..) hl
    | apply Touches.within (State.sbError_touches ..) hl

theorem State.sbRead_touches (s : State) :
    Touches [.rf, .store, .mgt, .flt, .dbg, .freeCount, .out] s (State.sbRead s) := by
  delta State.sbRead
  with_reducible repeat' first
    | exact Touches.refl _ _ | apply Touches.via (State.modDm'_touches ..)
    | apply Touches.via (State.busRead_touches ..) | apply Touches.via (State.sbError_touches ..)
    | apply State.sbCheck_touches | decide | intro _ _ _ | refine Touches.ofSnd (by assumption) ?_ | split

theorem State.sbWrite_touches (s : State) :
    Touches [.clock, .rf, .tiles, .parts, .ls, .dram, .store, .loupe, .prism, .kal, .apt, .chan, .ing, .net, .mgt, .flt, .flash, .start, .port, .dbg, .pkg, .freeCount, .out] s (State.sbWrite s) := by
  delta State.sbWrite
  with_reducible repeat' first
    | exact Touches.refl _ _ | apply Touches.ite | apply Touches.via (State.busWrite_touches ..)
    | apply Touches.via (State.sbError_touches ..) | apply State.sbCheck_touches | decide | intro _ _ _

theorem State.dmiRead_touches (s : State) (a : Nat) :
    Touches [.rf, .store, .mgt, .flt, .dbg, .freeCount, .out] s (State.dmiRead s a).2 := by
  delta State.dmiRead
  with_reducible repeat' first
    | exact Touches.refl _ _ | apply Touches.ite | apply Touches.via (State.sbRead_touches ..) | split

theorem State.dmiWrite_touches (s : State) (a : Nat) (w : Word) :
    Touches [.clock, .rf, .tiles, .parts, .ls, .dram, .store, .loupe, .prism, .kal, .apt, .chan, .ing, .net, .mgt, .flt, .flash, .start, .port, .dbg, .pkg, .freeCount, .out] s (State.dmiWrite s a w) := by
  delta State.dmiWrite
  with_reducible repeat' first
    | exact Touches.refl _ _ | apply Touches.ite | apply Touches.via (State.modDm'_touches ..)
    | apply Touches.via (State.dmControl_touches ..) | apply Touches.via (State.abstractCmd_touches ..)
    | apply Touches.via (State.sbRead_touches ..) | apply Touches.via (State.sbWrite_touches ..) | split

theorem idle_touches (s : State) : Touches [.clock] s (idle s) := by
  delta idle
  split
  · exact TouchesParts.upd (.refl _ s)
  · exact .refl _ s

end Sys2Proof.Machine
end

