-- ==== Sys2Proof/WellFormed.lean ====
section
/-!
DEFINITION. Which commands can come about: the lengths, ranges and alignments that the spec gives an operand where its
type does not already hold it to them. The meanings are total on the others too.
-/

namespace Sys2Proof

/-- The slot of a bundle that holds an opcode (R99): bits [5:0]. -/
def Bundle.holdsOp (b : Bundle) (slot : Fin 4) (op : Nat) : Bool :=
  (match slot with | 0 => b.s0 | 1 => b.s1 | 2 => b.s2 | 3 => b.s3).toNat % 64 == op

/-- FN of a slot S0 (Table 5.6): bits [31:26]. -/
def Bundle.fn0 (b : Bundle) : Nat := b.s0.toNat / 2 ^ 26 % 64

/-- A cell error names a place that exists: a local store word of 8 bytes below 24 MiB (R53), an HBM word of 64 bytes
below device address 0x00C0_0000_0000 (R218, R221). -/
def CellError.wf : CellError → Bool
  | .lsCorrectable _ a | .lsUncorrectable _ a => decide (a.toNat < 24 * 2 ^ 20) && a.toNat % 8 == 0
  | .accParity _ _ _ _ => true
  | .hbmCorrectable a | .hbmUncorrectable a | .hbmMiscorrected a => decide (a.toNat < 0xC000000000) && a.toNat % 64 == 0

/-- The errors that stand when a bundle issues are well formed. -/
def Bundle.wf (b : Bundle) : Bool := b.errs.all CellError.wf

/-- A bundle whose slot holds the row's opcode. -/
def Bundle.rowWf (b : Bundle) (slot : Fin 4) (op : Nat) : Bool := b.wf && b.holdsOp slot op

/-- A packet header as Table 13.8 gives it: LEN is the payload's bytes. -/
def PacketHeader.wf (h : PacketHeader) (payload : List Byte) : Bool := h.len.toNat == payload.length

/-- One access of the debug module interface: operation 3 is reserved. -/
def DmiAccess.wf (a : DmiAccess) : Bool := a.op != 3

/-- Whether a command can come about. -/
def Instr.wf : Instr → Bool
  | .ouuPass _ _ errs | .lineFetchArrive _ _ errs | .aowRequest _ _ _ errs | .copy _ _ errs => errs.all CellError.wf
  | .nop _ b => b.wf
  | .alu _ b => b.rowWf 0 0x01
  | .alui _ b => b.rowWf 0 0x02
  | .li _ b => b.rowWf 0 0x03
  | .lih _ b => b.rowWf 0 0x04
  | .cmp _ b => b.rowWf 0 0x05
  | .plog _ b => b.rowWf 0 0x06
  | .br _ b => b.rowWf 0 0x08
  | .loop _ b => b.rowWf 0 0x09
  | .call _ b => b.rowWf 0 0x0A
  | .ret _ b => b.rowWf 0 0x0B
  | .endf _ b => b.rowWf 0 0x0C
  | .waitc _ b => b.rowWf 0 0x0D
  | .waite _ b => b.rowWf 0 0x0E
  | .semw _ b => b.rowWf 0 0x0F
  | .sems _ b => b.rowWf 0 0x10
  | .fenceT _ b => b.rowWf 0 0x11 && b.fn0 != 1 && b.fn0 != 2
  | .fenceC _ b => b.rowWf 0 0x11 && b.fn0 == 1
  | .fenceG _ b => b.rowWf 0 0x11 && b.fn0 == 2
  | .defp _ b => b.rowWf 0 0x12
  | .defd _ b => b.rowWf 0 0x13
  | .retd _ b => b.rowWf 0 0x14
  | .dset _ b => b.rowWf 0 0x15
  | .dget _ b => b.rowWf 0 0x16
  | .mfs _ b => b.rowWf 0 0x17
  | .brk _ b => b.rowWf 0 0x18
  | .mma _ b => b.rowWf 1 0x01
  | .mdrain _ b => b.rowWf 1 0x02
  | .varith _ b => b.rowWf 2 0x01
  | .vfma _ b => b.rowWf 2 0x02
  | .vbcast _ b => b.rowWf 2 0x03
  | .vred _ b => b.rowWf 2 0x04
  | .vsfu _ b => b.rowWf 2 0x05
  | .vcvt _ b => b.rowWf 2 0x06
  | .vld _ b => b.rowWf 2 0x07
  | .vst _ b => b.rowWf 2 0x08
  | .vrng _ b => b.rowWf 2 0x09
  | .dma _ b => b.rowWf 3 0x01
  | .krot _ b => b.rowWf 3 0x02
  | .pcol _ b => b.rowWf 3 0x03
  | .semr _ b => b.rowWf 3 0x04
  | .dld _ b => b.rowWf 3 0x05
  | .dstr _ b => b.rowWf 3 0x06
  | .ipf _ b => b.rowWf 3 0x07
  | .patrolScrub da _ => decide (da.toNat < 0xC000000000) && da.toNat % 64 == 0
  | .rlmPoll _ _ power pmin _ => power.length == 10 && pmin.length == 10
  | .flitReceive _ flit _ _ => flit.length == 256
  | .packetReceive h payload => h.head.wf payload
  | .registerWrite _ offset _ _ | .rcRead _ offset _ | .registerStallTimeout _ offset _ => offset.toNat % 4 == 0
  | .samplePreload pins preload => pins.length == preload.length
  | .dmi a => a.wf
  | .thermalSample die iod hbm oe => die.length == 32 && iod.length == 4 && hbm.length == 12 && oe.length == 36
  | .launchCount .. | .lockCheck .. | .tick .. | .lateDispatch .. | .frameClose .. | .stepClose .. | .ledgerRecord ..
  | .checkpointCut .. | .jobEnd .. | .timeExchange .. | .holdover | .reformPending | .reform .. | .gtcReform
  | .periodWrite .. | .bundleRelease .. | .deferredReturn .. | .mmaDone .. | .mdrainDone .. | .s2Result .. | .vstDone ..
  | .vcvtMxDone .. | .dmaDone .. | .semrSent .. | .contribHeader .. | .mismatchNotice .. | .anchorEc .. | .anchorReply ..
  | .contribution .. | .deadline .. | .shardComplete .. | .shardResult .. | .collectiveComplete .. | .barrierComplete ..
  | .countExchange .. | .capacityNotice .. | .sourceResetNotice .. | .failDeclaration .. | .memberFailTimeout ..
  | .gtwCommit .. | .gtwInvalidate .. | .gtwRead .. | .krotGrant .. | .krotData .. | .krotAck .. | .krotTimeout ..
  | .rtwCommit .. | .rtwInvalidate .. | .rtwRead .. | .ouuReload .. | .ouuTblWrite .. | .frameDigestFinal ..
  | .mirrorDigest .. | .mirrorTimeout .. | .aowDataPiece .. | .aowInitDone .. | .aowCompletion .. | .aptCommit ..
  | .aptInvalidate .. | .aptRead .. | .aptDrainTimeout | .granuleZeroDone | .doorbellSq .. | .doorbellCq ..
  | .doorbellLowHalf .. | .commandFetch .. | .channelNop .. | .flush .. | .flushDone .. | .launch .. | .start .. | .invoke ..
  | .stop .. | .groupWrite .. | .ringWrite .. | .semSet .. | .copyDone .. | .ckptReq .. | .cwCreate .. | .cwDestroy ..
  | .cwRead .. | .cwStop .. | .cwResume .. | .tCommit .. | .tRead .. | .semSignalWrite .. | .semSetWrite .. | .semrArrive ..
  | .flr .. | .creditRecall .. | .fetch .. | .extentEnd .. | .wsetCreate .. | .wsetBind .. | .wsetUnbind .. | .wsetFlip ..
  | .flipWordWrite .. | .wsetDestroy .. | .keyLoad .. | .keyClear .. | .linkTrain .. | .trainRetry .. | .laneFail ..
  | .narrowRetrainDone .. | .replayTimeout .. | .linkCreditWatchdog .. | .reserveRelease .. | .lnkRetrain .. | .clrLanes ..
  | .linkDisable .. | .rlmEnable .. | .qpCommit .. | .qpReset .. | .qpRead .. | .ethPacketReceive .. | .qpTimeout ..
  | .qpRateRise .. | .entdaa .. | .rstdaa | .enec | .disec | .getpid | .getbcr | .getdcr | .getstatus | .getmwl | .getmrl
  | .rstact .. | .i3cUnsupportedCcc .. | .i3cPrivateWrite .. | .i3cPrivateRead .. | .commit | .halt .. | .haltDriveEnd
  | .boardHalt | .haltNLow | .parentLost .. | .frameWatchdog .. | .channelWatchdog .. | .serviceCoreWatchdog ..
  | .companionCoreWatchdog .. | .resetWatchdog | .computeReset .. | .resetDrainTimeout | .dumpDone | .resetEnd
  | .memoryReset | .hbmRetrainDone .. | .controlReset | .controlRestartDone | .wholeDeviceReset | .resetCompute ..
  | .resetMemory .. | .resetControl .. | .resetDevice .. | .abandon .. | .warningReceive .. | .cutOrder .. | .cutReport ..
  | .cutRelease .. | .cutDrainDone .. | .restoreDone .. | .admissionCopy .. | .resetNRise .. | .chipReady | .flashRelease
  | .fuseArm .. | .fuseProgram .. | .fuseProgramDone .. | .fuseRead .. | .imageStage .. | .imageStageDone ..
  | .imageActivate .. | .activationSwap | .activateCancel .. | .glbStrobe .. | .pwrApply .. | .pwrCfgWrite ..
  | .stagingWrite .. | .blockEnableWrite .. | .mbxRequest .. | .mbxServe .. | .counterClear .. | .brkEnWrite ..
  | .tileDebugHalt .. | .tileDebugResume .. | .tileDebugStep .. | .uartRxChar .. | .uartTxWrite .. | .uartRxRead .. | .idcode
  | .extest | .clamp | .highz | .dtmcs | .bypass | .railMonitorTrip .. | .refclkLoss | .refclkRestore | .thermalRelease
  | .resetNLow | .perstNRise | .haltNRelease | .activationRelease | .gangPreemption .. | .registration .. | .workerReport ..
  | .gtcReformLimit | .holdMinExpiry .. | .uartTxChar => true

end Sys2Proof
end

