-- ==== Sys2Proof/Tests/Slice0.lean ====
section
/-!
SUPPORT. Tests of this package's own: for every statement a state and operands that meet its hypotheses, results worked out by hand
from the spec's rules, ill-formed commands that the checks refuse.
-/

set_option maxRecDepth 4000
set_option Elab.async false

namespace Sys2Proof.Tests

open Sys2Proof Sys2Proof.Machine Sys2Proof.Safety

/-! ### Small states -/

/-- The part after start-up: nothing holds it, the firmware runs, PERST_N is high. -/
def awake : State :=
  { State.reset with
    pkg := { State.reset.pkg with heldBy := none, perstN := true }
    start := { State.reset.start with boot := { State.reset.start.boot with firmware := true } } }

/-- The same with every block enabled. -/
def enabled : State := awake.wr Reg.glbBlkEn 0x3FFFF

/-- A number laid out by fields: position and value. -/
def fieldsOf (l : List (Nat × Nat)) : Nat := l.foldl (fun n e => n + e.2 * 2 ^ e.1) 0

def slotWord (l : List (Nat × Nat)) : Dword := BitVec.ofNat 64 (fieldsOf l)

def bundle0 (w : Dword) : Bundle := { s0 := w, s1 := 0, s2 := 0, s3 := 0 }
def bundle1 (w : Dword) : Bundle := { s0 := 0, s1 := w, s2 := 0, s3 := 0 }
def bundle2 (w : Dword) : Bundle := { s0 := 0, s1 := 0, s2 := w, s3 := 0 }
def bundle3 (w : Dword) : Bundle := { s0 := 0, s1 := 0, s2 := 0, s3 := w }

/-- The bytes of an instruction line that begins with a bundle. -/
def lineOf (b : Bundle) : List Byte :=
  natToBytes 256 (fieldsOf [(0, b.s0.toNat), (64, b.s1.toNat), (128, b.s2.toNat), (192, b.s3.toNat)])

/-- A tile whose frame is open at a bundle. -/
def atBundle (x : Tile) (b : Bundle) : Tile := { x with frameOpen := true, lines := [(0, lineOf b)] }

/-- A state in which tile 0 stands at a bundle, in an image of sixteen. -/
def standing (s : State) (x : Tile) (b : Bundle) : State :=
  (s.modPart 0 fun p => { p with imgLen := 16 }).setTile 0 (atBundle x b)

/-- What lets a bundle issue, as one check. -/
def issuesCheck (s : State) (t : Nat) (b : Bundle) : Bool :=
  s.canIssue t && (s.tile t).bundleAt (s.tile t).pc == some b &&
  !(opc (slotOf b 0) = 0x18 && (s.tile t).live (slotOf b 0) && s.rdBit (Reg.pmcTdbg t) 0 && !(s.tile t).debugPass) &&
  !bundleIllegal (s.tile t).routine.isSome b && !(s.tile t).slotConflict b && !s.holds t (s.tile t) b &&
  ((s.setTile t (unfenced (s.tile t))).slotsCheck t (unfenced (s.tile t)) b).isNone

theorem issues_of_check {s : State} {t : Nat} {b : Bundle} (h : issuesCheck s t b = true) : Issues s t b := by
  simp only [issuesCheck, Bool.and_eq_true, Bool.not_eq_true', beq_iff_eq, Option.isNone_iff_eq_none] at h
  obtain ⟨⟨⟨⟨⟨⟨h1, h2⟩, h3⟩, h4⟩, h5⟩, h6⟩, h7⟩ := h
  exact ⟨h1, h2, h3, h4, h5, h6, h7⟩

/-- One slot alone executes, as one check. -/
def onlyCheck (s : State) (t : Nat) (b : Bundle) (i : Nat) : Bool :=
  issuesCheck s t b && (s.tile t).live (slotOf b i) &&
  (List.range 4).all fun j => j == i || !(s.tile t).live (slotOf b j)

theorem only_of_check {s : State} {t : Nat} {b : Bundle} {i : Nat} (h : onlyCheck s t b i = true) :
    OnlySlot s t b i (slotOf b i) := by
  simp only [onlyCheck, Bool.and_eq_true] at h
  obtain ⟨⟨h1, h2⟩, h3⟩ := h
  refine ⟨issues_of_check h1, rfl, h2, fun j hj hn => ?_⟩
  have := (List.all_eq_true.mp h3) j (List.mem_range.mpr hj)
  simpa [hn] using this

/-- The next state of a command. -/
def nextOf (c : Instr) (s : State) : Option State := match exec c s with
  | .next u => some u
  | _ => none

/-! ### Domain time (R22-R24, R37) -/

/-- A committed chip below the root, that exchanges. -/
def synced : State := (((enabled.wrFld Reg.mgtDm 13 0 7).setBit Reg.mgtStatus 16).wrFld Reg.shtSyncStatus 5 4 1).setBit Reg.shtSyncCfg 0

theorem test_time_exchange_hypotheses :
    (synced.rdBit Reg.shtSyncCfg 0 && synced.syncLevel != 0 && synced.rdBit Reg.mgtStatus 16) = true := by decide +kernel

/-- A chip that has joined, and one whose reform has a count. -/
def joined : State := { synced with clock := { synced.clock with joined := true, reformAt := some 9 } }

theorem test_holdover_and_reform_hypotheses :
    (joined.syncLevel != 0 && joined.clock.joined && !joined.rdBit Reg.shtSyncStatus 1 && joined.clock.reformAt == some 9 &&
      !joined.anyRunning && (joined.setBit Reg.mgtStatus 18).rdBit Reg.mgtStatus 18 && !joined.mgt.refuse) = true := by
  decide +kernel

/-- R22: 100 sent, 150 and 160 at the parent, 130 received make an offset of 40, which a joining chip steps; 100, 114, 116, 122 make
one of 4, which a joined chip slews. -/
theorem test_time_exchange_steps_and_slews :
    (((nextOf (.timeExchange 100 150 160 130 0) synced).map fun u => (u.clock.gtc, u.clock.slewLeft)) =
      some (170, 0)) ∧
    (((nextOf (.timeExchange 100 114 116 122 0) joined).map fun u => (u.clock.gtc, u.clock.slewLeft)) =
      some (122, 4)) := by decide +kernel

theorem test_gtc_reform_zeroes_the_gtc :
    ((nextOf .gtcReform joined).map fun u => (u.clock.gtc, u.rdBit Reg.shtSyncStatus 3)) =
      some (0, true) := by decide +kernel

/-! ### Periods (R26) -/

theorem test_period_write_hypotheses :
    (enabled.busOpen .pf && (Path.pf.offsetOf (Reg.shtPctrl 0)).isSome && enabled.hasPart 0 && !enabled.hasPart 7 &&
      !(enabled.part 0).running && ((enabled.modPart 0 fun x => { x with running := true }).part 0).running) = true := by
  decide +kernel

theorem test_period_bounds :
    (fld (4 : Word).toNat 10 0, fld (1024 : Word).toNat 10 0, fld (1025 : Word).toNat 10 0, fld (3 : Word).toNat 10 0) =
      (4, 1024, 1025, 3) := by decide +kernel

/-! ### Bundles issue (Tables 5.6 to 5.12) -/

/-- Tenant 0 with two semaphores, the first at 5; a group and a ring of its own. -/
def serving : State :=
  { enabled with
    chan := { awake.chan with tenants := [(0, { Tenant.reset with semCnt := 2 })], sems := [(0, 5)] }
    prism := { awake.prism with groups := [(1, 1)] }
    kal := { awake.kal with rings := [(1, 1)] } }

/-- One word of each opcode of S0 but RETD, its operands the registers X1 and X2. -/
def scalarWords : List Dword :=
  [1, 2, 3, 4, 5, 6, 8, 9, 0x0A, 0x0B, 0x0C, 0x0D, 0x0F, 0x10, 0x12, 0x13, 0x15, 0x16, 0x17, 0x18].map fun k =>
    slotWord [(0, k), (11, 3), (16, 1), (21, 2)]

theorem test_scalar_rows_can_issue :
    scalarWords.all (fun w => onlyCheck (standing serving Tile.reset (bundle0 w)) 0 (bundle0 w) 0) = true := by decide +kernel

theorem test_waite_can_issue : onlyCheck (standing serving { Tile.reset with e := [(1, 7)] } (bundle0 (slotWord [(0, 0x0E),
    (26, 1), (32, 7)]))) 0 (bundle0 (slotWord [(0, 0x0E), (26, 1), (32, 7)])) 0 = true := by decide +kernel

theorem test_fences_can_issue : [0, 1, 2].all (fun fn => let b := bundle0 (slotWord [(0, 0x11), (26, fn), (32, 1)])
    onlyCheck (standing serving Tile.reset b) 0 b 0) = true := by decide +kernel

/-- A tile in a deferred routine. -/
def inRoutine : Tile := { Tile.reset with routine := some { returnPc := 4, takenAt := .atDefd, returning := false, run := 0 } }

theorem test_retd_can_issue : onlyCheck (standing serving inRoutine (bundle0 (slotWord [(0, 0x14)]))) 0
    (bundle0 (slotWord [(0, 0x14)])) 0 = true := by decide +kernel

/-- A tile with one entry queued, and with 32. -/
def queued (n : Nat) : Tile := { Tile.reset with queue := List.replicate n { pc := 9, decl := 3, arg := 0x55 } }

theorem test_deferred_rows_can_issue :
    (onlyCheck (standing serving (queued 1) (bundle0 (slotWord [(0, 0x13)]))) 0 (bundle0 (slotWord [(0, 0x13)])) 0 &&
     onlyCheck (standing serving (queued 32) (bundle0 (slotWord [(0, 0x12), (32, 2)]))) 0
       (bundle0 (slotWord [(0, 0x12), (32, 2)])) 0) = true := by decide +kernel

/-- D1 and D2: 1 and 128 rows of 128 bfloat16 elements; D3: one row of 128 binary32 elements; D4: 256 bytes; D5: one row of 128
binary32 elements in memory is not needed here. -/
def descs : Sparse (BitVec 256) :=
  [(1, BitVec.ofNat 256 (fieldsOf [(60, 1), (64, 256), (96, 128), (176, 1)])),
   (2, BitVec.ofNat 256 (fieldsOf [(0, 4096), (60, 1), (64, 256), (96, 128), (176, 128)])),
   (3, BitVec.ofNat 256 (fieldsOf [(0, 65536), (64, 512), (96, 128), (176, 1)])),
   (4, BitVec.ofNat 256 (fieldsOf [(0, 131072), (96, 64), (176, 1)])),
   (5, BitVec.ofNat 256 (fieldsOf [(0, 262144), (96, 64), (176, 1)]))]

def described : Tile := { Tile.reset with d := descs, x := [(5, 256), (6, 64)], tags := [(0, some { path := 1, q := 0 })] }

theorem test_matrix_rows_can_issue :
    ([slotWord [(0, 1), (11, 1), (17, 2), (23, 3), (29, 1), (33, 1), (40, 1)],
      slotWord [(0, 2), (23, 3), (29, 1), (33, 1), (40, 1)]]).all (fun w =>
      onlyCheck (standing serving described (bundle1 w)) 0 (bundle1 w) 1) = true := by decide +kernel

/-- One word of each opcode of S2; VCVT into a lane format, VLD and VST at D3. -/
def vectorWords : List Dword :=
  [1, 2, 3, 4, 5, 6, 7, 8, 9].map fun k => slotWord [(0, k), (11, 2), (15, 3), (19, 4), (23, 5), (43, 7), (48, 3)]

theorem test_vector_rows_can_issue : vectorWords.all (fun w =>
    onlyCheck (standing serving described (bundle2 w)) 0 (bundle2 w) 2) = true := by decide +kernel

/-- DMA from D4 to D5 of X6 bytes, KROT of X5 bytes on ring 1, a barrier PCOL on group 1, SEMR, DLD, DSTR and IPF. -/
def moveWords : List Dword :=
  [slotWord [(0, 1), (11, 4), (17, 5), (23, 6), (28, 2)], slotWord [(0, 2), (11, 4), (17, 5), (23, 5), (33, 1)],
   slotWord [(0, 3), (11, 4), (17, 5), (23, 6), (33, 1), (45, 6)], slotWord [(0, 4), (23, 5), (28, 3), (33, 1)],
   slotWord [(0, 5), (17, 8), (23, 5)], slotWord [(0, 6), (11, 4), (23, 5)], slotWord [(0, 7), (33, 1)]]

theorem test_move_rows_can_issue : moveWords.all (fun w =>
    onlyCheck (standing serving described (bundle3 w)) 0 (bundle3 w) 3) = true := by decide +kernel

theorem test_nop_and_held_bundle_can_issue :
    (issuesCheck (standing serving Tile.reset (bundle0 0)) 0 (bundle0 0) &&
     issuesCheck (standing serving { Tile.reset with held := true } (bundle0 0)) 0 (bundle0 0)) = true := by decide +kernel

/-! ### What S0 computes (Table 5.8) -/

/-- Tile 0 after the command, from a tile with X1 = 2, X2 = 3. -/
def after (c : Instr) (s : State) : Option Tile := match exec c s with
  | .next u => some (u.tile 0)
  | _ => none

def twoThree : Tile := { Tile.reset with x := [(1, 2), (2, 3)] }

/-- Runs one S0 word and reads X3 and the PC. -/
def x3 (row : Fin 64 → Bundle → Instr) (l : List (Nat × Nat)) : Option (Dword × Word) :=
  let b := bundle0 (slotWord l)
  (after (row 0 b) (standing serving twoThree b)).map fun y => (y.getX 3, y.pc)

theorem test_alu_adds_and_multiplies :
    x3 .alu [(0, 1), (11, 3), (16, 1), (21, 2)] = some (5, 1) ∧
    x3 .alu [(0, 1), (11, 3), (16, 1), (21, 2), (26, 8)] = some (6, 1) ∧
    x3 .alui [(0, 2), (11, 3), (16, 1), (26, 1), (32, 0xFFFFFFFF)] = some (3, 1) := by decide +kernel

theorem test_li_extends_and_lih_joins :
    x3 .li [(0, 3), (11, 3), (32, 0xFFFFFFFE)] = some (0xFFFFFFFFFFFFFFFE, 1) ∧
    x3 .lih [(0, 4), (11, 3), (16, 1), (32, 0x7)] = some (0x700000002, 1) := by decide +kernel

theorem test_branches_move_the_pc :
    x3 .br [(0, 8), (32, 5)] = some (0, 5) ∧ x3 .loop [(0, 9), (16, 1), (32, 5)] = some (0, 5) ∧
    x3 .ret [(0, 0x0B), (16, 2)] = some (0, 3) ∧ x3 .loop [(0, 9), (16, 7), (32, 5)] = some (0, 5) := by decide +kernel

theorem test_a_write_to_x0_is_ignored :
    (after (.li 0 (bundle0 (slotWord [(0, 3), (32, 9)]))) (standing serving twoThree (bundle0 (slotWord [(0, 3), (32, 9)])))).map
      (fun y => (y.getX 0, y.x)) = some (0, [(1, 2), (2, 3)]) := by decide +kernel

/-- A guard that is false: only the PC moves. -/
theorem test_a_false_guard_executes_nothing : x3 .li [(0, 3), (6, 1), (11, 3), (32, 9)] = some (0, 1) := by decide +kernel

theorem test_semaphores_count_and_saturate :
    (let b := bundle0 (slotWord [(0, 0x0F), (26, 4)])
     match exec (.semw 0 b) (standing serving Tile.reset b) with | .next u => some (u.semGet 0 0) | _ => none) = some 0 ∧
    (let b := bundle0 (slotWord [(0, 0x10)])
     match exec (.sems 0 b) (standing { serving with chan := { serving.chan with sems := [(0, 0xFFFFFFFF)] } } Tile.reset b) with
      | .next u => some (u.semGet 0 0)
      | _ => none) = some 0xFFFFFFFF := by decide +kernel

theorem test_defd_starts_the_oldest_entry :
    (let b := bundle0 (slotWord [(0, 0x13)])
     (after (.defd 0 b) (standing serving (queued 1) b)).map fun y => (y.pc, y.getX 30, y.queue, y.routine.isSome)) =
      some (9, 0x55, [], true) := by decide +kernel

/-- While a routine runs, X24 to X31 are another bank. -/
theorem test_deferred_bank_is_apart :
    inRoutine.routine.isSome = true ∧ (inRoutine.setX 24 7).getX 24 = 7 ∧ Sparse.get 0 (inRoutine.setX 24 7).x 24 = 0 ∧
      (inRoutine.setD 63 7).getD 63 = 7 ∧ Sparse.get 0 (inRoutine.setD 63 7).d 63 = 0 := by decide +kernel

theorem test_scalar_boundaries_keep_apart :
    ((Tile.reset.setX 31 5).getX 31, (Tile.reset.setX 31 5).getX 30, (Tile.reset.setB 15 true).getB 15,
      (Tile.reset.setD 63 5).getD 63, Tile.reset.getB 0, Tile.reset.getE 0) = (5, 0, true, 5, true, 0) := by decide +kernel

/-! ### Exceptions stop the bundle whole (R118) -/

/-- A reserved opcode; two slots that name X3; a SEMW beyond the allotment. -/
theorem test_exceptions_have_their_states :
    (let b := bundle0 (slotWord [(0, 0x3F)])
     (standing serving Tile.reset b).canIssue 0 && ((standing serving Tile.reset b).tile 0).bundleAt 0 == some b &&
       bundleIllegal false b) = true ∧
    (let b : Bundle := { s0 := slotWord [(0, 3), (11, 3)], s1 := 0, s2 := slotWord [(0, 4), (43, 3)], s3 := 0 }
     !bundleIllegal false b && ((standing serving Tile.reset b).tile 0).bundleAt 0 == some b &&
       ((standing serving Tile.reset b).tile 0).slotConflict b) = true ∧
    (let b := bundle0 (slotWord [(0, 0x10), (32, 2)])
     let s := standing serving Tile.reset b
     !bundleIllegal false b && (s.tile 0).bundleAt 0 == some b && !(s.tile 0).slotConflict b && !s.holds 0 (s.tile 0) b &&
       (s.setTile 0 (unfenced (s.tile 0))).slotsCheck 0 (unfenced (s.tile 0)) b == some exSema) = true := by decide +kernel

theorem test_illegal_opcode_faults_the_tile :
    (let b := bundle0 (slotWord [(0, 0x3F)])
     (after (.nop 0 b) (standing serving Tile.reset b)).map fun y => (y.faulted, y.pc)) = some (true, 0) := by decide +kernel

/-! ### S2, S3 and completions (R105, R110-R112) -/

/-- A VARITH of 1.0 + 2.0 in every lane is 3.0, held back until its S2RESULT. -/
theorem test_varith_adds_lanes :
    (let w := slotWord [(0, 1), (11, 2), (15, 3), (19, 4)]
     let x : Tile := { Tile.reset with v := [(3, List.replicate 1024 0x3F800000), (4, List.replicate 1024 0x40000000)] }
     let b := bundle2 w
     (after (.varith 0 b) (standing serving x b)).map fun y => (y.getV 2 |>.take 2, y.pend.map fun p => (p.vd.map fun e => (e.1, e.2.take 2)))) =
      some ([0, 0], [some (2, [0x40400000, 0x40400000])]) := by decide +kernel

/-- A pending result of V2 and one of X7. -/
def pending : State := awake.setTile 0 { Tile.reset with pend := [
  { id := 4, xd := none, vd := some (2, List.replicate 1024 9), reads := [] }, { id := 5, xd := some (7, 8), vd := none, reads := [] }] }

theorem test_s2_result_hypotheses :
    ((pending.tile 0).pend.find? (·.id == 4)).isSome = true ∧ ((pending.tile 0).pend.find? (·.id == 5)).isSome = true := by
  decide +kernel

theorem test_s2_result_writes_its_register :
    (after (.s2Result 0 4) pending).map (fun y => (y.getV 2).take 1) = some [9] ∧
    (after (.s2Result 0 5) pending).map (fun y => y.getX 7) = some 8 := by decide +kernel

def operation (k : OpKind) : Op :=
  { id := 6, kind := k, ec := 1, span := false, deferred := false, frame := 0, reads := [], writes := [], sink := 0,
    spill := true, owes := 0, aow := [] }

def operating (k : OpKind) : State := enabled.setTile 0 { Tile.reset with ops := [operation k], e := [(1, 0xFFFE)] }

/-- Each kind of operation, owing nothing, completes: its event counter rises and it leaves the tile. -/
theorem test_operations_complete :
    [(OpKind.mma, Instr.mmaDone 0 6), (.mdrain, .mdrainDone 0 6), (.vst, .vstDone 0 6), (.vcvtMx, .vcvtMxDone 0 6),
     (.semr, .semrSent 0 6), (.dma, .dmaDone 0 6 false)].all (fun e =>
      ((operating e.1).tile 0).op 6 == some (operation e.1) && !(operating e.1).flt.memReset &&
      (after e.2 (operating e.1)).any fun y => y.getE 1 == 0xFFFF && y.ops == []) = true := by decide +kernel

theorem test_event_counters_saturate : (({ Tile.reset with e := [(1, 0xFFFF)] } : Tile).bumpE 1).getE 1 = 0xFFFF ∧
    Tile.reset.bumpE 0 = Tile.reset := by decide +kernel

theorem test_a_failed_dma_faults_the_tile : (after (.dmaDone 0 6 true) (operating .dma)).map (·.faulted) = some true := by
  decide +kernel

/-- Tenant 0 maps tenant address 0 to device address 0: a Pinned, writable Aperture of one granule. -/
def mapped : State := { enabled with apt := { enabled.apt with
  desc := [(0, BitVec.ofNat 512 (fieldsOf [(0, 1), (2, 1), (128, 1)]))], entries := [(0, [0])] } }

/-- A tile that waits for line 0 of an image at tenant address 0. -/
def fetching : State := (mapped.modPart 0 fun p => { p with imgLen := 1 }).setTile 0 { Tile.reset with fetching := [0], frameOpen := true }

/-- The line lies in a word that cannot be corrected; no Aperture maps it. -/
def fetchingBad : State := { fetching with mem := { fetching.mem with memBad := [0] } }
def fetchingUnmapped : State := { fetching with apt := enabled.apt }

/-- What the memory holds of line 0, and whether an Aperture maps it. -/
def lineRead (s : State) : Bool × Bool :=
  (((s.lineView 0 0).aptAllows 0 0 32 false false),
   (s.readDev (((s.lineView 0 0).tenAddrs 0 0 32).getD [])).bad.isNone)

theorem test_fetch_hypotheses :
    [fetching, fetchingBad, fetchingUnmapped].all (fun s => (s.inject []).freeCount == s.freeCount &&
      ((s.inject []).tile 0).fetching.contains 0 && decide (8 * 0 < ((s.inject []).part ((s.inject []).partOf 0)).imgLen) &&
      !(s.inject []).flt.memReset) = true ∧
    lineRead (fetching.inject []) = (true, true) ∧ lineRead (fetchingBad.inject []) = (true, false) ∧
    (lineRead (fetchingUnmapped.inject [])).1 = false := by decide +kernel

theorem test_fetch_of_a_readable_line :
    (after (.lineFetchArrive 0 0 []) fetching).map (fun y => (y.fetching, y.lines.map (·.1), y.faulted)) = some ([], [0], false) := by
  decide +kernel

theorem test_fetch_of_an_unreadable_line : [fetchingBad, fetchingUnmapped].all (fun s =>
    ((s.tile 0).pc.toNat / 8 == 0) && (after (.lineFetchArrive 0 0 []) s).any (fun y => y.faulted && y.lines == [])) = true := by
  decide +kernel

/-! ### Jobs, ticks and closes (R10, R25-R34, R105, R115-R117) -/

/-- A job of tenant 0 on partition 0, its LAUNCH at index 0 of channel 0. -/
def aJob : Job :=
  { jobId := 77, tenant := 0, chan := 0, cmdIndex := 0, image := 0, imgLen := 16, entries := [], ledger := 0, utable := 0, save := 0,
    seed := 1, startStep := 0, repro := false, mv2 := false, launchCount := none, lockOk := false, restoring := false,
    preempted := false, resumes := false, leaving := false, ending := none, endDetail := 0, lastClosed := none }

/-- Eight partitions of eight tiles, the counters frozen. -/
def eighths : State := (enabled.wrFld Reg.tilPartStatus 7 0 0xFF).setBit Reg.pmcCtrl 0

/-- Partition 0 with a job. -/
def placed (j : Job) : State := eighths.modPart 0 fun x => { x with job := some j }

theorem test_launch_count_hypotheses : (placed aJob).waitingJobs 77 = [0] ∧ (placed aJob).waitingJobs 78 = [] := by decide +kernel

/-- R10: 2,000,000 counts ahead arm the job, 1,999,999 do not. -/
theorem test_launch_count_boundary :
    ((nextOf (.launchCount 77 2000000) (placed aJob)).bind fun u => (u.part 0).job.map (·.launchCount)) =
      some (some 2000000) ∧
    ((nextOf (.launchCount 77 1999999) (placed aJob)).bind fun u => (u.part 0).job.map (·.launchCount)) =
      some none := by decide +kernel

def armed : Job := { aJob with launchCount := some 3000000 }

/-- A ledger with a descriptor word and nothing else. -/
def aLedger (desc : Nat) : Ledger :=
  { desc := BitVec.ofNat 1024 desc, descAddr := 0, lseq := 0, lastLseq := 0, lost := 0, discarded := 0, wcount := 0, items := [],
    fingerprint := 5, changed := [], mirrorP := 0, divergeStep := 0, replaying := false, replayOff := 0, sourceItems := none,
    source := none, unmirrored := false, frozen := false, uncompared := [], partnerDigests := [], ownDigests := [], sourceNext := none,
    freezing := none }

/-- A descriptor with MIRROR set. -/
def mirrorDesc : Nat := (List.range 1024).foldl (fun n i => if ldMirror (2 ^ i) then 2 ^ i else n) 0

def mirrored (j : Job) : State := (placed j).modPart 0 fun x => { x with led := some (aLedger mirrorDesc) }

theorem test_lock_check_hypotheses :
    let locked := (placed armed).setBit Reg.shtSyncStatus 0
    ((locked.part 0).job, locked.inLock, (placed armed).inLock) = (some armed, true, false) ∧
    ((mirrored armed).part 0).led.any (fun l => ldMirror l.desc.toNat && (none : Option (BitVec 256)) != some l.fingerprint) = true ∧
    ((mirrored armed).part 0).led.any (fun l => ldMirror l.desc.toNat && some 5 != some l.fingerprint) = false := by decide +kernel

/-- Partition 0 runs serving frames with its last tick at 1,000; at 500 it is to start; and a job is to be launched at 3,000,000. -/
def ticking : State := eighths.modPart 0 fun x => { x with running := true, ticked := true, lastTick := 1000 }
def starting : State := eighths.modPart 0 fun x => { x with startAt := some 500 }
def launching : State := placed { armed with lockOk := true }
def jobTicking : State := ticking.modPart 0 fun x => { x with job := some { aJob with lockOk := true } }

theorem test_tick_hypotheses :
    (ticking.pkg.heldBy.isNone && ticking.flt.run.isNone && ((ticking.closeStep 0).nextTick 0).any (·.1 == .next) &&
      ((starting.closeStep 0).nextTick 0 == some (.start, 500)) && ((launching.closeStep 0).nextTick 0 == some (.launch, 3000000)) &&
      ((jobTicking.closeStep 0).nextTick 0).any (·.1 == .next) && (jobTicking.part 0).jobActive && (ticking.part 0).job.isNone &&
      !(ticking.part 0).jobActive && (((launching.reach 3000000).beginJob 0 3000000).part 0).job.isSome) = true := by decide +kernel

/-- R25: the next tick is PERIOD_K times 64 counts on, and F rises by one. -/
theorem test_tick_advances_f : ((nextOf (.tick 0) ticking).map fun u => ((u.part 0).f, u.clock.gtc, (u.part 0).lastTick)) = some (1, BitVec.ofNat 64 (1000 + ticking.period 0), BitVec.ofNat 64 (1000 + ticking.period 0)) := by
  decide +kernel

/-- A waiting tile that is free, one count after its tick. -/
def lateTile : State := ticking.modTile 0 fun x => { x with waiting := true }

/-- The hypotheses of a late dispatch at a count, with `lost` ticks charged to the tile. -/
def lateAt (s : State) (now : Nat) : Bool :=
  (s.part 0).running && (s.tile 0).waiting && (s.nextTick 0).any (fun e => decide (now ≤ e.2)) && s.mayDispatch 0 &&
  !(s.part 0).incoming && !(s.part 0).jobOn && (s.tile 0).isFree && !(s.tile 0).ended && !s.windowHolds 0 &&
  decide (s.now.toNat ≤ now)

/-- At the tick's own count with no tick lost, there with one lost, at the next count, and at the next tick itself. -/
theorem test_late_dispatch_hypotheses :
    (lateAt lateTile 1000 && (lateTile.part 0).lastTick == 1000 && (lateTile.tile 0).lostWaiting == 0 &&
      lateAt (lateTile.modTile 0 fun x => { x with lostWaiting := 1 }) 1000 && lateAt lateTile 1001 &&
      lateAt lateTile (1000 + lateTile.period 0) && !lateAt lateTile (1001 + lateTile.period 0)) = true := by decide +kernel

theorem test_late_dispatch_is_logged :
    ((nextOf (.lateDispatch 0 1000 0 none none) lateTile).map fun u => ((u.tile 0).waiting, u.rd (Reg.shtLastCause 0) == 0)) =
      some (false, true) ∧
    ((nextOf (.lateDispatch 0 1001 0 none none) lateTile).map fun u => ((u.tile 0).waiting, u.rd (Reg.shtLastCause 0) == 0)) =
      some (false, false) := by decide +kernel

/-- A tile whose ENDF is complete; one with an entry queued and a step flag; one whose routine returns. -/
def closingTile (step : Bool) (q : List DefEntry) : State :=
  ticking.modTile 0 fun x => { x with frameOpen := true, closing := some { decl := 4, step := step, last := false }, queue := q }
def returningTile (at' : TakenAt) (q : List DefEntry) : State := ticking.modTile 0 fun x =>
  { x with queue := q, routine := some { returnPc := 4, takenAt := at', returning := true, run := 0 } }

def anEntry : DefEntry := { pc := 9, decl := 3, arg := 1 }

theorem test_close_hypotheses :
    (((closingTile false []).tile 0).closable && ((closingTile true [anEntry]).tile 0).closable && !(closingTile false []).halted &&
      (closingTile false []).flt.run.isNone) = true ∧
    [returningTile .atDefd [anEntry], returningTile .atDefd [], returningTile .afterClose [anEntry]].all (fun s =>
      (s.tile 0).routine.any (·.returning) && !(s.tile 0).ops.any (·.deferred) && (s.tile 0).pend.isEmpty &&
      !(s.tile 0).faulted && !s.halted && s.flt.run.isNone) = true := by decide +kernel

theorem test_frame_close_closes_and_defers :
    (after (.frameClose 0 0) (closingTile false [])).map (·.frameOpen) = some false ∧
    (after (.frameClose 0 0) (closingTile true [anEntry])).map (fun y => (y.pc, y.frameOpen)) = some (9, true) := by
  decide +kernel

/-- Table 5.7: a DEFD's RETD goes on with the next entry, and returns after the last. -/
theorem test_deferred_return_runs_every_entry :
    (after (.deferredReturn 0 0) (returningTile .atDefd [anEntry])).map (fun y => (y.pc, y.queue, y.routine.map (·.returnPc))) =
      some (9, [], some 4) ∧
    (after (.deferredReturn 0 0) (returningTile .atDefd [])).map (fun y => (y.pc, y.routine)) = some (4, none) := by
  decide +kernel

/-- A job whose tiles have all closed the step's last frame, at a step. -/
def stepDone (n : BitVec 40) : State :=
  ((List.range 8).foldl (fun (s : State) t => s.modTile t fun x => { x with closedStep := true })
    jobTicking).modPart 0 fun x =>
    { x with stepOpen := true, step := n }

theorem test_step_close_hypotheses : ((stepDone 3).stepDue 0 && (stepDone (BitVec.allOnes 40)).stepDue 0) = true := by decide +kernel

theorem test_step_close_raises_the_step :
    ((nextOf (.stepClose 0) (stepDone 3)).map fun u => ((u.part 0).step, (u.part 0).closing, (u.part 0).action)) = some (4, 3, 2) ∧
    ((nextOf (.stepClose 0) (stepDone (BitVec.allOnes 40))).bind fun u => (u.part 0).job.map (·.ending)) =
      some (some 0x1B) := by decide +kernel

/-- A job that is to end with STOPPED, without and with a step that was abandoned. -/
def endingJob : State := jobTicking.modPart 0 fun x => { x with job := some { aJob with lockOk := true, ending := some 0x0A } }

theorem test_job_end_hypotheses :
    (!endingJob.stepDue 0 && endingJob.jobOver 0 { aJob with lockOk := true, ending := some 0x0A } &&
      !(endingJob.part 0).abandoned && (endingJob.part 0).led.isNone) = true ∧
    (let s := endingJob.modPart 0 fun x => { x with abandoned := true, led := some (aLedger 0) }
     !s.stepDue 0 && s.jobOver 0 { aJob with lockOk := true, ending := some 0x0A }) = true := by decide +kernel

/-! ### The optimiser, the ledger and checkpoints (R171-R185, R192-R213, R352-R358) -/

/-- A pass of partition 0 is due: its norm has come, boundary frame 2, one group of bfloat16 working copies without elements. -/
def passing : State :=
  let s := (mapped.wrFld Reg.tilPartStatus 7 0 0xFF).modPart 0 fun x =>
    { x with job := some { aJob with lockOk := true }, running := true, norm := some 0, action := 3, boundaryFrame := 2,
             ouu := some { header := 0, segments := [] } }
  { s with mem := { s.mem with dram := [(577, 0x10)] } }

/-- What a pass reads as its descriptors, once their correctable words are corrected. -/
def descsOf (s : State) : Except (Sum Nat Nat) (List Nat) :=
  let u := (s.inject []).correctDescs 0 (s.ouuTable 0) (utGroups (s.ouuHeader 0))
  u.passDescs 0 (u.ouuTable 0) (utGroups (u.ouuHeader 0))

def goodTable (s : State) : Bool := match descsOf s with
  | .ok _ => true
  | .error _ => false
def badWord (s : State) : Bool := match descsOf s with
  | .error (.inl _) => true
  | _ => false
def badPart (s : State) : Bool := match descsOf s with
  | .error (.inr _) => true
  | _ => false

theorem test_ouu_pass_hypotheses :
    (passing.ouuQueue.head? == some 0 && passing.blockOn 9 && !passing.halted && passing.flt.run.isNone &&
      !(passing.part 0).abandoned && !passing.flt.memReset && goodTable passing && badPart { passing with mem := { passing.mem with dram := [] } } &&
      badWord { passing with mem := { passing.mem with memBad := [9] } }) = true := by decide +kernel

/-- R176: a norm above the ceiling skips where on_ceil is set; a norm that is infinite skips always. -/
def skipping : State := enabled.setPart 7 { Part.reset with ouu := some {
  header := BitVec.ofNat 512 (fieldsOf [(20, 1), (64, 0x3F800000), (96, 0x3F800000)]), segments := [] } }

theorem test_skipped_pass_hypotheses :
    (!(f32 (normOf (utGscale (enabled.ouuHeader 0)) 0x7F800000)).isFin &&
      (f32 (utCeil (skipping.ouuHeader 7))).lt (f32 (normOf (utGscale (skipping.ouuHeader 7)) 0x40800000)) &&
      utOnCeil (skipping.ouuHeader 7)) = true := by decide +kernel

theorem test_ouu_register_hypotheses :
    (enabled.busOpen .pf && (Path.pf.offsetOf (Reg.ouuCtrl 7)).isSome && (Path.pf.offsetOf (Reg.ouuTblHi 7)).isSome &&
      ((enabled.modPart 0 fun x => { x with running := true }).part 0).running) = true := by decide +kernel

/-- A stream of tile 0 that is closed and whose parts are done. -/
def aStream : DigestStream := { frame := 5, routine := none, closed := true, parts := [{ op := 1, bytes := [1, 2], done := true }] }
def streamed : State := mirrored { aJob with lockOk := true } |>.modTile 0 fun x => { x with streams := [aStream] }

theorem test_digest_hypotheses :
    ((streamed.tile 0).streams.find? (fun d => d.routine.isNone && d.frame == 5) == some aStream &&
      (streamed.tile 0).streamFinal aStream && ((streamed.part (streamed.partOf 0)).led).any (·.mirrors)) = true := by
  decide +kernel

/-- The record of a step is due: its digests are final. -/
def recording : State := (mirrored { aJob with lockOk := true }).modPart 0 fun x => { x with action := 4, boundaryFrame := 9 }

theorem test_ledger_record_hypotheses :
    ((recording.part 0).job.isSome && (recording.part 0).led.isSome && !(recording.part 0).abandoned &&
      !recording.flt.ctlReset && decide (utAllot (recording.ouuHeader 0) + 2 ≤ (recording.part 0).boundaryFrame) &&
      recording.digestsFinal 0 && !(recording.part 0).led.any (·.frozen) && recording.flt.run.isNone && !recording.flt.memReset &&
      (((recording.closeRoutines 0).refreshItems 0 { aJob with lockOk := true }).part 0).led.isSome) = true := by decide +kernel

/-- The domain manager with a job of two workers whose cut is ordered. -/
def cutting (reports done : List ChipId) : DmJob :=
  { jobId := 77, workers := [1, 2], registered := [], mode := false, stepFrames := 0, launchSent := none, cutStep := some 4,
    cutAgain := false, preemptAfter := false, cutReports := reports, cutDone := done, cutFailed := none, requesters := [],
    nextReq := [], held := false, abandonedAt := none, boundary := [] }
def manager (d : DmJob) : State := { enabled.setBit Reg.mgtStatus 18 with mgt := { enabled.mgt with jobs := [d] } }

theorem test_cut_report_hypotheses :
    (!enabled.isDm && (manager (cutting [] [])).isDm && (manager (cutting [] [])).dmJob 77 == some (cutting [] []) &&
      (1 : ChipId) ∈ (cutting [] []).workers && (2 : ChipId) ∉ (cutting [] []).cutReports &&
      !(cutting [] []).workers.all (cutting [] []).cutDone.contains &&
      (cutting [1, 2] [2]).workers.all fun w => (cutting [1, 2] [2]).cutReports.contains w &&
        ((cutting [1, 2] [2]).cutDone.contains w || w == 1)) = true := by decide +kernel

/-- A step boundary that is to cut, and a staged drain. -/
def cutDue : State := ((placed { aJob with lockOk := true }).modPart 0 fun x => { x with action := 5, closing := 4 }).modCkpt 0 fun k =>
  { k with cutStep := some 4 }

theorem test_cut_hypotheses :
    ((cutDue.part 0).jobOn && (cutDue.part 0).ckpt.cutStep == some (cutDue.part 0).closing && (cutDue.part 0).ckpt.drain.isNone &&
      !cutDue.halted && cutDue.flt.run.isNone && !cutDue.flt.memReset && !(cutDue.part 0).abandoned && cutDue.kal.krots.isEmpty && ((cutDue.modCkpt 0 fun k => { k with drain := some (0, 77, [], []) }).part 0).ckpt.drain
        == some (0, 77, [], [])) = true := by decide +kernel

/-- A job that restores from a checkpoint descriptor without extents. -/
def restoring : State := (mapped.wrFld Reg.tilPartStatus 7 0 0xFF).modPart 0 fun x => { x with job := some { aJob with restoring := true } }

theorem test_restore_hypotheses :
    ((restoring.part 0).job.any (·.restoring) && (restoring.readCkpt 0 0).isSome) = true := by decide +kernel

/-- A descriptor with one extent of one byte, at tenant address 0. -/
def oneExtent : State := { mapped with mem := { mapped.mem with dram := [(0, 1), (72, 1)] } }

theorem test_admission_hypotheses :
    (oneExtent.readCkpt 0 (oneExtent.ckptTenant 0)).any (fun bs => ((ckExtents bs)[0]?).any fun e => ceLen e == 1) = true := by
  decide +kernel

/-! ### Collectives, rings, windows and memory (R119-R160, R221-R242) -/

def anId : CollId := { tag := 3, launcher := 0, seq := 1 }

/-- An operation of two members of which this chip is rank 0, of 64 binary32 elements. -/
def aColl (pop : BitVec 4) : Coll :=
  { id := anId, group := 1, part := 0, tile := 0, op := 9, ec := 1, fused := false, pop := pop, xl := 64, ds := 0, dt := 0, sfmt := 0,
    dfmt := 0, width := 0, fixedAnchor := false, rows := 0, cols := 0, sseq := 0, step := 0, frameF := 0, words := 0, phase := 0, rank := 0,
    members := [⟨0, 0, false⟩, ⟨1, 0, false⟩], slots := [], order := [], forcedAs := [], superseded := false, source := [],
    sourceSide := [], headers := [], ecs := [], anchors := [], replies := [], contribs := [], late := [], lateDone := [], failed := [],
    deadlinePassed := false, shardDone := false, results := [], counts := [], code := 0, clampRank := none, clamped := false,
    deferredFlag := false, droppedFlag := false, lateCount := 0, finished := false, written := [] }

/-- The same over wide sums of 64 bits, 64 elements of each rank's shard to a block, with what is to hold besides. -/
def wideColl (f : Coll → Coll) : Coll := f { aColl 0 with width := 64, sfmt := 9, dfmt := 9, xl := 128 }
def inFlight (c : Coll) : State := { serving with prism := { serving.prism with colls := [c] } }
def aHeader : LaunchHeader := { pop := 0, xl := 64, sfmt := 0, dfmt := 0, n := 2 }

/-- A group that drops at 4 ticks after its launch frame, and fails a member after 1 tick. -/
def dropColl : Coll := { aColl 0 with words := BitVec.ofNat 1024 (fieldsOf [(1, 2), (96, 4), (112, 1)]) }

/-- What every arrival of a collective in progress meets. -/
def arrives (c : Coll) : Bool :=
  (inFlight c).findColl anId == some c && c.code == 0 && !c.finished &&
  (!(inFlight c).hasDeadline c || decide ((inFlight c).now.toNat < (inFlight c).deadlineAt c))

theorem test_arrival_hypotheses :
    (serving.findColl anId).isNone = true ∧ arrives (aColl 0) = true ∧ arrives dropColl = true ∧
    (inFlight dropColl).hasDeadline dropColl = true ∧ arrives (aColl 2) = true ∧ arrives (aColl 5) = true ∧
    (aHeader.pop == (aColl 0).pop && aHeader.xl.toNat == (aColl 0).xl && aHeader.sfmt == (aColl 0).sfmt &&
      aHeader.dfmt == (aColl 0).dfmt && aHeader.n == (aColl 0).n && (aColl 0).reduces && !(aColl 2).reduces &&
      ((aColl 2).pieceRuns 1 64).isSome && ((aColl 5).pieceRuns 1 64).isNone && !(aColl 0).ouu) = true := by decide +kernel

/-- A block without and with an anchor; an owner with one block of two answered; the last one answered, its source readable, and in
words that cannot be corrected. -/
theorem test_anchor_hypotheses :
    (arrives (wideColl id) && (wideColl id).wide && decide (1 < (wideColl id).n) && (wideColl id).anchors.isEmpty &&
      arrives (wideColl fun c => { c with anchors := [(0, 5)] }) &&
      (wideColl fun c => { c with anchors := [(0, 5)] }).anchors.find? (·.1 == 0) == some (0, 5)) = true ∧
    (let c := wideColl fun c => { c with xl := 256 }
     let k := { c with replies := [(1, 0, 5)] }
     arrives c = true ∧ 0 < c.blocks 1 ∧ ((List.range (k.blocks 1)).filterMap fun i =>
       (k.replies.find? fun e => e.1 == 1 && e.2.1 == i).map (·.2.2)).length < k.blocks 1) ∧
    (let c := wideColl id
     let k := { c with replies := [(1, 0, 5)] }
     let s := (inFlight c).setColl k
     let t : State := { s with mem := { s.mem with lsBad := List.range 64 } }
     0 < c.blocks 1 ∧ k.blocks 1 ≤ ((List.range (k.blocks 1)).filterMap fun i =>
       (k.replies.find? fun e => e.1 == 1 && e.2.1 == i).map (·.2.2)).length ∧
     (s.collSource k (k.runs 1)).1.bad = none ∧ (t.collSource k (k.runs 1)).1.bad.isSome = true) := by decide +kernel

/-- Counts of an all-to-all-v of two and of three members: not the last one; the last one, within XL, above it, and with a DT that
cannot be written. -/
def countColl (n : Nat) : Coll :=
  { aColl 5 with members := (List.range n).map fun i => ⟨BitVec.ofNat 14 i, 0, false⟩, counts := [(0, 60)] }

def lastCount (s : State) (n : Word) : Bool × Bool × Bool :=
  let c := countColl 2
  let k := { c with counts := c.counts ++ [(1, n)] }
  let aux := (Desc.ofBits k.dt).aux
  let w := (s.setColl k).putBytes k.tile (Desc.ofBits k.dt) aux (bytes32 [60, n])
  let u := w.2.modColl anId fun c => { c with written := Sparse.put c.written (2 ^ 60 + aux) (bytes32 [60, n]) }
  (w.1.isNone, (u.findColl anId).isSome, u.prism.early.contains (.capacityNotice anId))

theorem test_count_exchange_hypotheses :
    (arrives (countColl 3) && arrives (countColl 2) && (countColl 3).pop == 5 && !(countColl 3).counts.any (·.1 == 1) &&
      decide ((countColl 3).counts.length + 1 < (countColl 3).n) && decide ((countColl 2).counts.length + 1 = (countColl 2).n) &&
      decide (60 + 4 ≤ (countColl 2).xl) && decide ((countColl 2).xl < 60 + 5)) = true ∧
    lastCount (inFlight (countColl 2)) 4 = (true, true, false) ∧ lastCount (inFlight (countColl 2)) 5 = (true, true, false) ∧
    (let d : BitVec 256 := BitVec.ofNat 256 (fieldsOf [(48, 1)])
     let c := { countColl 2 with dt := d }
     ((inFlight c).putBytes 0 (Desc.ofBits d) (Desc.ofBits d).aux (bytes32 [60, 4])).1.isSome = true) ∧
    (arrives { countColl 2 with counts := [(0, 1), (1, 2)] } && decide ((2 : Nat) ≤ [(0, 1), (1, 2)].length)) = true := by
  decide +kernel

/-- R131: a count above XL fails the collective, after the count array is written. -/
theorem test_counts_above_xl_fail : (nextOf (.countExchange anId 1 5) (inFlight (countColl 2))).map (fun u =>
    (u.prism.colls.map fun c => (c.code, c.counts.length, c.written.length))) = some [(0x13, 2, 1)] := by decide +kernel

/-- An all-reduce whose shard is ready, one that is complete, a barrier. -/
def readyShard : Coll := { aColl 0 with contribs := [⟨0, [], []⟩, ⟨1, [], []⟩] }
def completeColl : Coll := { aColl 0 with results := [(0, [0, 1]), (1, [0, 1])] }
def aBarrier : Coll := { aColl 6 with headers := [0, 1] }

theorem test_end_hypotheses :
    (dropColl.reduces && gPolicy dropColl.entry == 2 && !dropColl.deadlinePassed && ((inFlight dropColl).replaySource 0).isNone &&
      decide (dropColl.shardLen dropColl.rank ≠ 0) && decide (({ dropColl with xl := 1, rank := 1 } : Coll).shardLen 1 = 0) &&
      readyShard.shardReady && decide (readyShard.shardLen readyShard.rank ≠ 0) &&
      ((inFlight readyShard).ownContribution readyShard).1.isNone && (inFlight completeColl).inTurn completeColl &&
      completeColl.ready && (inFlight { aColl 0 with code := 0x11 }).inTurn { aColl 0 with code := 0x11 } &&
      (inFlight aBarrier).inTurn aBarrier && aBarrier.ready) = true := by decide +kernel

/-- R137: at the deadline a missing contribution is late, and the ranks whose contributions are there stay. -/
theorem test_deadline_takes_the_missing_as_late :
    (nextOf (.deadline anId) (inFlight { dropColl with contribs := [⟨0, [], []⟩] })).map (fun u => u.prism.colls.map fun c =>
      (c.late, c.deadlinePassed, c.lateCount)) = some [([1], true, 1)] := by decide +kernel

/-- A wide shard whose own elements lie in an uncorrectable word. -/
theorem test_own_contribution_meets_an_error :
    (let c := wideColl fun c => { c with contribs := [⟨1, [], []⟩], anchors := [(0, 5)] }
     let s : State := { inFlight c with mem := { (inFlight c).mem with lsBad := List.range 64 } }
     c.shardReady = true ∧ (s.ownContribution c).1.isSome = true) := by decide +kernel

theorem test_fail_ticks_hypotheses :
    gFailTicks dropColl.entry = 1 ∧ dropColl.headers.contains 1 = false ∧ 1 < dropColl.n := by decide +kernel

def aKrot : Krot :=
  { ring := 1, hop := 0, tile := 0, op := 9, ds := 0, dt := 0, xl := 256, frameF := 0, granted := true, acked := 0, received := 0,
    first := true, origin := 0, bytes := [], status := 0 }
def rotatingWith (k : Krot) : State := { serving with kal := { serving.kal with
  rings := [(1, BitVec.ofNat 256 (1 + (List.range 256).foldl (fun n i => if rFailTicks (2 ^ i) = 1 then 2 ^ i else n) 0))], krots := [k] } }
def rotating : State := rotatingWith aKrot

/-- A first flit that agrees and one whose block is longer; a DT in local store and one that no Aperture maps. -/
theorem test_ring_hypotheses :
    (bitOf (rotating.ring 1) 0 && rotating.krotIncoming 1 == some aKrot && rotating.krotHead 1 == some aKrot && aKrot.granted &&
      decide (rFailTicks (rotating.ring 1) ≠ 0) && rTag (rotating.ring 1) == 0 && aKrot.hop == 0 && aKrot.xl == 256 &&
      (rotating.unitPut 0 (Desc.ofBits 0) [(0, [7])]).1.isNone) = true ∧
    (let d : BitVec 256 := BitVec.ofNat 256 (fieldsOf [(48, 1)])
     (rotatingWith { aKrot with dt := d }).krotIncoming 1 = some { aKrot with dt := d } ∧
     ((rotatingWith { aKrot with dt := d }).unitPut 0 (Desc.ofBits d) [((Desc.ofBits d).base, [7])]).1.isSome = true) := by
  decide +kernel

theorem test_window_hypotheses :
    ([Reg.prmGtwCmd, Reg.kalRtwCmd, Reg.aptWCmd].all fun p => (Path.pf.offsetOf p).isSome) = true ∧ enabled.busOpen .pf = true ∧
    ([Reg.prmGtwStatus, Reg.kalRtwStatus, Reg.aptWStatus].all fun p =>
      !enabled.rdBit p 0 && (enabled.setBit p 0).rdBit p 0 && (enabled.setBit p 0).busOpen .pf) = true := by decide +kernel

/-- An add-on-write request of an operation of tile 0: of binary32 elements, and of a block of wide sums with anchor `n`. -/
def aReq : AowReq := { op := 0, da := 4096, side := 8192, data := [], sideBytes := [], status := none }
def sideBytesOf (n : Nat) : List Byte := natToBytes 16 n
def wideReq (n : Nat) : AowReq := { aReq with op := 1, data := List.replicate 16 1, sideBytes := sideBytesOf n }
def requestingOf (r : AowReq) : State := enabled.setTile 0 { Tile.reset with ops := [{ operation .dma with aow := [r] }] }
def requesting : State := requestingOf aReq

/-- The block's side entry in memory has anchor `n`. -/
def targetAnchor (s : State) (n : Nat) : State :=
  (s.writeDev ((span 8192 16).zip (sideBytesOf n))).2

def remembering : State := { requesting with
  mem := { requesting.mem with aowDone := [{ tile := 0, op := 6, req := 0, status := 2 }], initBlocks := [{ side := 8192, left := 0 }],
                               pieces := [{ tile := 0, op := 6, req := 0, da := 4096, data := [1, 2], width := 4, init := false, side := 8192, ue := false }] }
  apt := { requesting.apt with
    drain := some { key := 0, old := 0, oldEntries := [], new := none, keep := false, since := 0, lines := [] }, zeroing := [3] } }

theorem test_scrub_hypotheses :
    (enabled.rdBit Reg.memScrubCfg 0 && isHbm 64 && !enabled.flt.memReset && enabled.blockOn 10 && enabled.mem.memBad.isEmpty &&
      enabled.mem.memSoft.isEmpty) = true ∧
    (let s : State := { enabled with mem := { enabled.mem with memBad := [1], memSoft := [2] } }
     s.rdBit Reg.memScrubCfg 0 = true ∧ s.mem.memBad.contains (64 / 64) = true ∧ s.mem.memBad.contains (128 / 64) = false ∧
     s.mem.memSoft.contains (128 / 64) = true) := by decide +kernel

/-- Requests: of binary32 elements; of a block that is being initialised; of one whose side entry cannot be read; of one with another
anchor; of one with the same anchor, and of one that is EMPTY. -/
theorem test_request_hypotheses :
    ([requesting, requestingOf (wideReq 5)].all fun s => ((s.inject []).tile 0).op 6 == (s.tile 0).op 6 &&
      !(s.inject []).aowSeen 0 6 0 && !(s.inject []).flt.memReset) = true ∧
    (requesting.tile 0).op 6 = some { operation .dma with aow := [aReq] } ∧ aReq.op = 0 ∧ (wideReq 5).op ≠ 0 ∧
    (remembering.mem.initBlocks.any (·.side == (wideReq 5).side)) = true ∧
    ((targetAnchor (requestingOf (wideReq 5)) 5).readDev (span 8192 16)).bad = none ∧
    (({ requestingOf (wideReq 5) with mem := { enabled.mem with memBad := [128] } } : State).readDev (span 8192 16)).bad.isSome = true ∧
    [5, 6, 0x8000].map (fun n => sideAnchor (BitVec.ofNat 128 (bytesToNat
      ((targetAnchor (requestingOf (wideReq 5)) n).readDev (span 8192 16)).bytes))) = [5, 6, wsEmpty] ∧
    sideAnchor (BitVec.ofNat 128 (bytesToNat (wideReq 5).sideBytes)) = 5 := by decide +kernel

theorem test_memory_hypotheses :
    ((remembering.mem.initBlocks.any fun b => b.side == 8192 && b.left == 0) && remembering.mem.heldAow.isEmpty &&
      (remembering.mem.pieces[0]?).isSome && !remembering.flt.memReset &&
      remembering.mem.aowDone[0]? == some { tile := 0, op := 6, req := 0, status := 2 } && remembering.apt.drain.isSome &&
      remembering.apt.zeroing == [3] && isHbm (3 * 2 ^ 21)) = true := by decide +kernel

theorem test_scrub_keeps_an_uncorrectable_word :
    (nextOf (.patrolScrub 64 .uncorrectable) enabled).map (fun u => (u.mem.memBad, u.rdBit Reg.memEvent 2, u.rd (Reg.memUeCnt 0))) =
      some ([1], true, 1) := by decide +kernel

/-- R234: two anchors that differ end the request with STATUS 1, and the block's first writer sets its anchor. -/
theorem test_requests_join_their_block :
    (nextOf (.aowRequest 0 6 0 []) (targetAnchor (requestingOf (wideReq 5)) 6)).map (fun u =>
      (u.mem.aowDone.map (·.status), u.mem.pieces.length)) = some ([1], 0) ∧
    (nextOf (.aowRequest 0 6 0 []) (targetAnchor (requestingOf (wideReq 5)) 0x8000)).map (fun u =>
      (u.mem.aowDone.map (·.status), u.mem.initBlocks.map (·.side), decide (0 < u.mem.pieces.length))) = some ([], [8192], true) := by
  decide +kernel

theorem test_granules_read_zero_before_busy_clears :
    (nextOf .granuleZeroDone remembering).map (fun u => (u.apt.zeroing, u.rdBit Reg.memStatus 1, u.rdBit Reg.aptEvent 2)) =
      some ([], false, true) := by decide +kernel

/-! ### Channels (R248-R270) -/

/-- A command of channel 5 at index 0, its bytes by position and value. -/
def command (opcode : Nat) (l : List (Nat × Nat)) : ExecCmd :=
  { chan := 5, index := 0, gen := 0, words := BitVec.ofNat 512 (fieldsOf ((0, opcode) :: l)), started := false, rung := 0,
    status := none, acct := [] }

/-- An active channel of tenant 0 with mask 1, logs of 6, as many commands rung as `tail`. -/
def channelEntry (tail : Nat) : Nat := fieldsOf [(0, 1), (80, 6), (88, 6), (256, 1), (384, tail)]

/-- Tenant 0 with channels 0 to 7, groups 0 and 1, two semaphores, and Aperture 0 at tenant address 0. -/
def withCommand (c : ExecCmd) : State := { mapped with chan := { mapped.chan with
  tenants := [(0, { Tenant.reset with chCnt := 8, semCnt := 2, grpCnt := 2, parts := 1 })], cmds := [c]
  chans := [(5, BitVec.ofNat 1024 (channelEntry 1))] } }

def startsCheck (s : State) (opcode : Nat) (c : ExecCmd) : Bool :=
  s.cmd 5 0 == some c && c.opc == opcode && s.mayStart c && (reservedByte (operandFields opcode) c.words.toNat).isNone

/-- Every opcode has a command that starts. -/
theorem test_commands_can_start :
    [0, 1, 2, 3, 4, 5, 6, 7, 8, 9, 0x0A, 0x40, 0x41, 0x42, 0x43, 0x44, 0x45, 0x46, 0x47].all (fun k =>
      startsCheck (withCommand (command k [])) k (command k [])) = true := by decide +kernel

/-- A command that is not fetched yet, in a readable and in an unreadable ring. -/
def rung : State := { withCommand (command 0 []) with chan := { (withCommand (command 0 [])).chan with cmds := [] } }

theorem test_doorbell_hypotheses :
    (mapped.busOpen (.vf 0) && (withCommand (command 0 [])).bellCheck 0 5 0 == none &&
      ((withCommand (command 0 [])).cacheTake 5).isSome && ((withCommand (command 0 [])).bellCheck 0 9 0).isSome &&
      fld (5 : Word).toNat 17 0 == 5 && (withCommand (command 0 [])).chan.bellsHeld.isEmpty) = true := by decide +kernel

/-- A cache full of channel 100, which has a command. -/
def fullCache (s : State) : State := { s with chan := { s.chan with
  cache := List.replicate 8192 100, cmds := s.chan.cmds ++ [{ command 0 [] with chan := 100 }] } }

theorem test_full_cache_hypotheses :
    (let s := fullCache (withCommand (command 0 []))
     (s.cacheTake 5).isNone && s.bellCheck 0 5 0 == none && s.chan.bellsHeld.isEmpty && (fullCache rung).mayFetch 5 &&
       ((fullCache rung).cacheTake 5).isNone) = true := by decide +kernel

theorem test_command_fetch_hypotheses :
    (let s : State := { rung with mem := { rung.mem with memBad := [0] } }
     rung.mayFetch 5 && (rung.cacheTake 5).isSome && (rung.readTen 0 0 64).bad.isNone && (s.readTen 0 0 64).bad.isSome) = true := by
  decide +kernel

theorem test_command_fetch_takes_the_command :
    (nextOf (.commandFetch 5) rung).map (fun u => (u.chan.cmds.map fun c => (c.chan, c.opc), cSqHead (u.chEntry 5))) =
      some ([(5, 0)], 1) := by decide +kernel

theorem test_channel_command_hypotheses :
    (let s := withCommand (command 6 [(32, 1)])
     [(6, [(32, 1)]), (6, [(32, 2)]), (8, [(32, 1)]), (8, [(32, 2)]), (5, [(392, 1)])].all (fun e =>
       startsCheck (withCommand (command e.1 e.2)) e.1 (command e.1 e.2)) && decide ((command 6 [(32, 1)]).arg 4 12 < (s.tenant 0).grpCnt) && decide ((s.tenant 0).grpCnt ≤ (command 6 [(32, 2)]).arg 4 12) &&
       s.semAllotted 0 ((command 8 [(32, 1)]).arg 4 13) && !s.semAllotted 0 ((command 8 [(32, 2)]).arg 4 13)) = true := by
  decide +kernel

/-- A COPY of 4 bytes from 0 to 64, and one beyond the Aperture. -/
def copyWords : List (Nat × Nat) := [(64, 0), (128, 64), (192, 4)]
theorem test_copy_hypotheses :
    (let s := withCommand (command 9 copyWords)
     let c := command 9 copyWords
     s.named 5 (c.arg 8 48) (c.arg 0x18 40) false && s.named 5 (c.arg 0x10 48) (c.arg 0x18 40) true &&
       startsCheck s 9 c && (s.readTen 0 0 4).bad.isNone && (s.writeDev ((span 64 4).zip [1, 2, 3, 4])).1.isNone &&
       (({ s with mem := { s.mem with memBad := [0] } } : State).readTen 0 0 4).bad.isSome &&
       (({ s with mem := { s.mem with memBad := [1] } } : State).writeDev ((span 64 4).zip [1, 2, 3, 4])).1.isSome &&
       !s.named 5 (2 ^ 30) 4 false && !s.named 5 (2 ^ 30) 4 true && !s.flt.memReset) = true := by decide +kernel

theorem test_copy_moves_its_bytes :
    (let s := withCommand (command 9 copyWords)
     (nextOf (.copy 5 0 []) { s with mem := { s.mem with dram := [(0, 7), (3, 9)] } }).map fun u =>
       [0, 3, 64, 67].map u.devByte) = some [7, 9, 7, 9] := by decide +kernel

/-- Commands that have started and run: a FLUSH and a COPY. -/
theorem test_in_execution_hypotheses :
    ([1, 9].all fun k => let c := { command k [] with started := true }
                         (withCommand c).cmd 5 0 == some c && c.opc == k && c.status.isNone && ((withCommand c).earlier c).isEmpty) =
      true := by decide +kernel

theorem test_flush_waits_for_an_earlier_command :
    (let f := { command 1 [] with started := true, index := 1 }
     let s := withCommand (command 0 [])
     let s : State := { s with chan := { s.chan with cmds := [{ command 0 [] with started := true }, f] } }
     ((s.earlier f).length, (nextOf (.flushDone 5 1) s).map fun u => u.chan.cmds.length)) = (1, some 2) := by decide +kernel

def aContext : Context :=
  { jobId := 7, image := 0, imgLen := 16, entries := [], save := 0, lsKeep := 0, seed := 0, step := 0, queued := [], running := none,
    ending := none, rrChan := 0, rrLeft := 0 }

theorem test_job_command_hypotheses :
    (let s := (withCommand (command 4 [])).clrBit Reg.glbCtrl 0
     !s.startsHeld && !s.clock.reformHold && (s.setContext 0 0 (some aContext)).context 0 0 == some aContext && aContext.ending.isNone &&
       (command 5 [(392, 1)]).arg 0x31 1 == 1 && (command 5 []).arg 0x31 1 == 0 && ((placed aJob).part 0).job == some aJob &&
       !s.isDm && (command 0x0A []).arg 8 1 == 0) = true := by decide +kernel

theorem test_ckpt_req_at_the_domain_manager :
    (let s := manager (cutting [] [])
     s.isDm && s.dmJob 77 == some (cutting [] []) && !(s.partsOfJob 77).any fun p => s.ckptAddr p == 0) = true := by decide +kernel

theorem test_channel_window_hypotheses :
    (let s := withCommand (command 0 [])
     let s := s.wr (Reg.tenCwIdx 0) 5
     s.busOpen .pf && (Path.pf.offsetOf (Reg.tenCwCmd 0)).isSome && !s.rdBit (Reg.tenCwStatus 0) 0 &&
       decide ((s.cwTarget .pf).2 < (s.tenant (s.cwTarget .pf).1).chCnt) && chState (s.chEntry 5) == 1 &&
       (s.createCheck 0 5 (s.staged (Reg.tenCwData 0 0) 12)).1 != 0 && (s.setCh 5 0).chEntry 5 == 0 &&
       ((s.setCh 5 (withState (channelEntry 0) 2)).chEntry 5 |> chState) == 2 && (rung.cmdsOf 5).isEmpty &&
       ((s.wr (Reg.tenCwIdx 0) 8).cwTarget .pf).2 == (s.tenant 0).chCnt && cSqHead (channelEntry 0) == cSqTail (channelEntry 0) && (Path.pf.offsetOf Reg.chnTCmd).isSome && !s.rdBit Reg.chnTStatus 0) = true := by
  decide +kernel

/-- A staged entry that passes every check: RVER 1, logs of 6, rings in the first Aperture. -/
theorem test_channel_create_passes :
    (let s := rung.setCh 5 0
     let t := (s.wr (Reg.tenCwIdx 0) 5).stage (Reg.tenCwData 0 0) 12 (fieldsOf [(4, 1), (80, 6), (88, 6), (256, 1)])
     (t.cwTarget .pf, t.createCheck 0 5 (t.staged (Reg.tenCwData 0 0) 12))) = ((0, 5), 0, 0) := by decide +kernel

theorem test_semaphore_word_hypotheses :
    (let s := withCommand (command 0 [])
     s.semAllotted 0 1 && !s.semAllotted 0 2 && (s.setContext 0 0 (some aContext)).inPlace 0 7 && !s.inPlace 0 7) = true := by
  decide +kernel

theorem test_semr_arrives_and_is_dropped :
    (let s := withCommand (command 0 [])
     ((nextOf (.semrArrive 0 7 1 4) (s.setContext 0 0 (some aContext))).map (·.semGet 0 1),
      (nextOf (.semrArrive 0 7 1 4) s).map fun u => (u.semGet 0 1, u.rdBit Reg.chnEvent 1))) =
      (some 4, some (0, true)) := by decide +kernel

/-- A gang pre-emption of a job whose boundary is done; an abandoned job; credits that come due. -/
def betweenSteps : State := (placed { aJob with lockOk := true }).modPart 0 fun x => { x with action := 7 }
theorem test_leaving_hypotheses :
    (let b := (betweenSteps.advanceBoundary 0).writeFlips 0
     betweenSteps.partsOfJob 77 == [0] && (b.part 0).job == some { aJob with lockOk := true } && (b.part 0).jobOn &&
       !(b.part 0).stepOpen && decide (6 ≤ (b.part 0).action) && !(b.part 0).ending && (b.dueFlips 0).isEmpty && b.quiet 0 &&
       b.kal.krots.isEmpty) = true := by decide +kernel

def recalling : State := { enabled with chan := { enabled.chan with credit := [(0, 4, 0)] } }
theorem test_credit_recall_hypotheses : (recalling.chan.credit.any fun e => e.1 == 0 && e.2.1 == 4 && e.2.2 == 0) = true ∧
    (List.range 36).all (fun l => (recalling.link l).waiting.isEmpty) = true := by decide +kernel

/-! ### Ingress (R278-R292) -/

def aSet (f : WSet → WSet) : WSet := f
  { owner := 0, shared := false, len := 64, copy0 := WCopy.fresh 4096, copy1 := WCopy.fresh 8192, activeCopy := some true,
    bindings := [], flip := none }

/-- Tenant 0 with a started FETCH of set 1 copy 0: the list at 0, one entry, the report at 1,024. -/
def fetchWords : List (Nat × Nat) := [(32, 1), (128, 1), (192, 1024)]
def withSet (c : ExecCmd) (w : WSet) : State := { (withCommand c) with
  apt := { mapped.apt with desc := [(0, BitVec.ofNat 512 (fieldsOf [(0, 7), (128, 1)]))] }
  ing := { mapped.ing with wsets := [(1, some w)] } }

/-- The same with an entry at address 0 of LEN 4 and OUT `out`. -/
def listed (out : Nat) : State := let s := withSet (command 0x40 fetchWords) (aSet id)
  { s with mem := { s.mem with dram := [(16, 4), (80, BitVec.ofNat 8 out)] } }

theorem test_fetch_command_hypotheses :
    (let c := command 0x40 fetchWords
     let u := begun (listed 4) c
     startsCheck (listed 4) 0x40 c && (listed 4).ing.fetches.isEmpty && cTenant (u.chEntry 5) == 0 && c.arg 4 10 == 1 &&
       bitOf c.words.toNat 42 == false && (aSet id).activeCopy == some (bitOf (command 0x40 [(42, 1)]).words.toNat 42) &&
       c.arg 0x10 13 == 1 && u.named 5 (c.arg 8 48) 128 false && u.named 5 (c.arg 0x18 48) 32 true &&
       (u.readTen 0 0 128).bad.isNone &&
       ((chunks 128 (u.readTen 0 0 128).bytes).map bytesToNat).all (xValid 64) &&
       !((chunks 128 ((listed 65).readTen 0 0 128).bytes).map bytesToNat).all (xValid 64)) = true := by decide +kernel

theorem test_own_set_hypotheses :
    ((match (listed 4).ownSet 0 1 with
      | .ok w => w == aSet id
      | .error _ => false) &&
     (match (listed 4).ownSet 0 2, (withSet (command 0x40 fetchWords) (aSet fun w => { w with owner := 3 })).ownSet 0 1 with
      | .error a, .error b => a == 1 && b == 2
      | _, _ => false)) = true := by decide +kernel

def aFetch : FetchRun :=
  { chan := 5, index := 0, tenant := 0, set := 1, copy := false, base := 4096, final := true,
    list := [BitVec.ofNat 1024 (fieldsOf [(128, 4), (640, 4)])], keys := [⟨none, 0, false⟩], report := 1024, ended := [],
    failed := 0, bytes := 0 }

/-- The extent of the list is in flight, on queue pair 0, which is ready or not. -/
def extentFlies (ready : Bool) : State := let s := listed 4
  { s with
    ing := { s.ing with fetches := [aFetch] }
    net := { s.net with qps := if ready then [(0, 3)] else [] } }

theorem test_extent_hypotheses :
    ((extentFlies true).ing.fetches.any (fun f => f.chan == 5 && f.index == 0 && f.keys.length == 1 && f.ended.isEmpty &&
      xLen (f.list.getD 0 0).toNat == 4) && (extentFlies true).qpReady 0 0 && !(extentFlies false).qpReady 0 0) = true := by
  decide +kernel

/-- An extent without stages writes its bytes at its destination; with FINAL and no failure the copy is ELIGIBLE. -/
theorem test_extent_writes_its_bytes :
    (nextOf (.extentEnd 5 0 0 (WireResult.data [1, 2, 3, 4])) (extentFlies true)).map (fun u =>
      ((List.range 4).map fun i => u.devByte (4096 + i), (u.wset 1).map (·.copy0.state))) =
      some ([1, 2, 3, 4], some .eligible) := by decide +kernel

def createWords : List (Nat × Nat) := [(32, 2), (64, 4096), (128, 8192), (192, 64)]

theorem test_wset_create_hypotheses :
    (let c := command 0x41 createWords
     let u := begun (withSet c (aSet id)) c
     startsCheck (withSet c (aSet id)) 0x41 c && (u.wset (c.arg 4 10)).isNone && bitOf c.words.toNat 42 == false && c.arg 0x18 48 != 0 &&
       ([c.arg 8 48, c.arg 0x10 48].all fun a => u.aptAllows 0 a 64 true true && u.named 5 a 64 true) &&
       (u.wset ((command 0x41 [(32, 1)]).arg 4 10)).isSome) = true := by decide +kernel

def bindWords : List (Nat × Nat) := [(32, 1), (64, 512)]
def aBinding (due : Bool) : Binding := { tenant := 0, parts := 1, flipWord := 512, flipSeq := 6, due := due }

theorem test_wset_bind_and_unbind_hypotheses :
    (let c := command 0x42 bindWords
     let s := withSet c (aSet id)
     let u := begun s c
     startsCheck s 0x42 c && u.wset 1 == some (aSet id) && c.arg 8 48 % 8 == 0 && u.aptOf 0 512 8 == some 0 &&
       aptWritable (u.aptDesc 0 0) && aptRetained (u.aptDesc 0 0) && !aptSpill (u.aptDesc 0 0) && u.named 5 512 8 true &&
       startsCheck (withSet (command 0x43 [(32, 1)]) (aSet id)) 0x43 (command 0x43 [(32, 1)]) &&
       (aSet fun w => { w with owner := 3 }).owner != 0) = true := by decide +kernel

/-- Copy 0 is eligible; and a flip to it is due at a binding, or written at every binding. -/
def eligibleSet (f : WSet → WSet) : WSet := f (aSet fun w => { w with copy0 := { w.copy0 with state := .eligible } })
def flippingSet (due : Bool) : WSet := eligibleSet fun w => { w with flip := some (false, 5, 0), bindings := [aBinding due] }

theorem test_wset_flip_and_destroy_hypotheses :
    (let c := command 0x44 [(32, 1)]
     let s := withSet c (eligibleSet id)
     startsCheck s 0x44 c && ((eligibleSet id).copyOf (bitOf c.words.toNat 42)).state == .eligible && s.ing.fetches.isEmpty &&
       (eligibleSet id).flip.isNone && ((aSet id).copyOf false).state != .eligible &&
       startsCheck (withSet (command 0x45 [(32, 1)]) (aSet id)) 0x45 (command 0x45 [(32, 1)]) &&
       (flippingSet true).bindings.find? (fun b => b.tenant == 0 && b.due) == some (aBinding true) &&
       (withSet c (flippingSet true)).flipBoundary 0 1 && !(flippingSet false).bindings.any (·.due)) = true := by decide +kernel

/-- R292: the flip word takes COPY 0 and FLIP_SEQ 7, and the copy is ACTIVE, the one before it ELIGIBLE. -/
theorem test_flip_word_is_written :
    (nextOf (.flipWordWrite 1 0) (withSet (command 0 []) (flippingSet true))).map (fun u =>
      (u.devByte 512, u.devByte 516)) = some (0, 7) ∧
    (nextOf (.flipWordWrite 1 0) (withSet (command 0 []) (flippingSet true))).bind (fun u =>
      (u.wset 1).map fun w => (w.activeCopy, w.copy0.state, w.copy1.state)) = some (some false, .active, .eligible) := by decide +kernel

/-- A KEY_LOAD of epoch 1 whose blob is at 0, and the journal's header. -/
def keyWords : List (Nat × Nat) := [(64, 1)]
def journalled (s : State) : State :=
  let h := natToBytes 60 (packFields [(0, 16, 0x4A48), (32, 32, 1)])
  s.flashWrite (journalBase 0) (h ++ natToBytes 4 (check32 h))
def keyState (floor : Word) : State := let s := withCommand (command 0x46 keyWords)
  journalled { s with ing := { s.ing with keys := [(0, { KeySlot.reset with floor := floor }), (1, KeySlot.reset)] } }

theorem test_key_load_hypotheses :
    (let c := command 0x46 keyWords
     let u := begun (keyState 0) c
     startsCheck (keyState 0) 0x46 c && startsCheck (keyState 1) 0x46 c && c.arg 8 32 == 1 && (u.keySlot 0).floor == 0 &&
       ((keyState 1).keySlot 0).floor == 1 && u.named 5 (c.arg 0x10 48) 160 false && (u.readTen 0 0 160).bad.isNone &&
       ((u.readTen 0 0 160).st.unwrap 0 0 1 (u.readTen 0 0 160).bytes == (none, false)) &&
       (u.appendJournal 0 0 1).1) = true := by decide +kernel

theorem test_key_clear_hypotheses :
    (let c := command 0x47 []
     let r := command 0x47 [(33, 1)]
     startsCheck (withCommand c) 0x47 c && startsCheck (withCommand r) 0x47 r && bitOf c.words.toNat 33 == false && bitOf r.words.toNat 33 &&
       ((keyState 0).keySlot (2 * r.arg 6 9)).gen != 0xFFFF && ((keyState 0).appendJournal 0 1 0).1) = true := by decide +kernel

/-- A key blob of Table 12.5 for slot 0 of tenant 0, GEN 0, EPOCH 1 of a part whose secret is 0: q_e is the base point, the IV twelve
sevens, the key the bytes 0 to 31 (made outside this package). -/
def aBlob : List Byte :=
  0x04 :: natToBe 96 (p384G.elim 0 fun g => g.1 * 2 ^ 384 + g.2) ++ List.replicate 3 0 ++ List.replicate 12 7 ++
    natToBe 32 38480542808167050438123873096014957680450466334719762003029038526361633560452 ++
    natToBe 16 210391203110934006482013759164088283003

theorem test_key_blob_authenticates :
    (keyState 0).unwrap 0 0 1 aBlob = (some (BitVec.ofNat 256 (bytesToNat ((List.range 32).map (BitVec.ofNat 8)))), false) := by
  decide +kernel

/-- The state whose memory holds the blob at 0: it is read back. -/
def keyReady : State := let s := keyState 0
  { s with mem := { s.mem with dram := (aBlob.mapIdx fun i b => (i, b)).filter fun e => e.2 != 0 } }

theorem test_key_blob_is_read :
    (let c := command 0x46 keyWords
     let u := begun keyReady c
     startsCheck keyReady 0x46 c && u.named 5 (c.arg 0x10 48) 160 false && (u.readTen 0 0 160).bad.isNone &&
       (u.readTen 0 0 160).bytes == aBlob && (u.appendJournal 0 0 1).1) = true := by decide +kernel

/-! ### Links (R297-R317) -/

/-- Link 0 under `f`, on a committed chip with its lasers on; bundle 1 is a NEIGHBOUR to slot 1. -/
def linked (f : Link → Link) : State :=
  let s := (enabled.setBit Reg.mgtStatus 16).setBit Reg.lnkRlmCtrl 0
  ({ s with net := { s.net with bundles := [(1, some { kind := 0, far := 1 })] } } : State).modLink 0 f

/-- Every step passed; the far end is slot 1 of the domain, of grid 1. -/
def aTraining : TrainResult :=
  { failStep := none, usable := 0x3FF, farDomain := 0, farChip := 1, farLink := 0, farIsSwitch := false, farKind := 0, farNamesUs := true,
    farGrid := 1, delayPs := 500000, asymPs := 0, vl0Credits := 16 }

theorem test_training_hypotheses :
    (let s := linked fun x => { x with ethernet := true }
     let t := linked fun x => { x with bundle := 1 }
     let x := s.link 0
     x.state == .down && x.trainFailedAt.isNone && x.configured && s.blockOn 14 && s.rdBit Reg.mgtStatus 16 &&
       !s.rdBit (Reg.lnkCtrl 0) 1 && s.rdBit Reg.lnkRlmCtrl 0 && widthFor true (popCount 10 (s.usableLanes 0 &&& 0x3FF)) == 8 &&
       (t.link 0).configured && t.bundle 1 == some { kind := 0, far := 1 } && !t.miswired { kind := 0, far := 1 } aTraining &&
       t.miswired { kind := 0, far := 1 } { aTraining with farNamesUs := false } &&
       (some (5 : Fin 9)).any (fun k => decide (k.val ≤ 5))) = true := by decide +kernel

/-- R301, R307: 500 ns and 16 credits are enough, one less or more is not; eight of ten wavelengths carry. -/
theorem test_training_boundaries :
    (let run := fun r => (nextOf (.linkTrain 0 r) (linked fun x => { x with bundle := 1 })).map fun u => (u.link 0).state
     (run aTraining, run { aTraining with delayPs := 500001 }, run { aTraining with vl0Credits := 15 },
      run { aTraining with farDomain := 1 }, run { aTraining with usable := 1 })) =
      (some .up, some .refused, some .refused, some .miswired, some .down) ∧
    (nextOf (.linkTrain 0 aTraining) (linked fun x => { x with bundle := 1 })).map (fun u => (u.link 0).activeMap) = some 0xFF := by
  decide +kernel

theorem test_retry_hypotheses : ((linked fun x => { x with trainFailedAt := some 5 }).link 0).trainFailedAt = some 5 ∧
    ((linked fun x => { x with trainFailedAt := some 5 }).link 0).state = .down := by decide +kernel

/-- A link that is UP on the wavelengths of a map. -/
def upOn (map : BitVec 10) : State := linked fun x => { x with state := .up, activeMap := map, bundle := 1 }

theorem test_lane_failure_hypotheses :
    (((upOn 0xFF).link 0).state == .up && !((upOn 0xFF).link 0).failed.getLsbD 3 && !bitOf ((upOn 0xFF).fusedLanes 0) 3 &&
      ((upOn 0xFF).link 0).activeMap.getLsbD 3 && bitOf ((upOn 0xFF).usableLanes 0) 8 && !((upOn 0xFF).link 0).activeMap.getLsbD 8 &&
      (List.range 8).all fun k => ((upOn 0xFF).link 0).activeMap.getLsbD k) = true := by decide +kernel

/-- R302: wavelength 8 takes the place of 3; without spares the link narrows to six. -/
theorem test_spare_and_narrowing :
    (nextOf (.laneFail 0 3) (upOn 0xFF)).map (fun u => ((u.link 0).state, (u.link 0).activeMap)) = some (.up, 0x1F7) ∧
    (nextOf (.laneFail 0 3) ((upOn 0xFF).modLink 0 fun x => { x with failed := 0x300 })).map
      (fun u => ((u.link 0).state, (u.link 0).activeMap)) = some (.retrain, 0x77) := by decide +kernel

theorem test_link_command_hypotheses :
    (let s := (upOn 0xFF).clrBit Reg.glbCtrl 0
     let t := s.modLink 0 fun x => { x with state := .retrain }
     let w := s.writeFields .pf (Reg.lnkCtrl 0) ((s.rd (Reg.lnkCtrl 0) &&& ~~~2) ||| 2) 0
     let v := s.writeFields .pf (Reg.lnkCtrl 0) ((s.rd (Reg.lnkCtrl 0) &&& ~~~2) ||| 0) 0
     let r := s.writeFields .pf Reg.lnkRlmCtrl ((s.rd Reg.lnkRlmCtrl &&& ~~~1) ||| 1) 0
     let q := s.writeFields .pf Reg.lnkRlmCtrl ((s.rd Reg.lnkRlmCtrl &&& ~~~1) ||| 0) 0
     (t.link 0).state == .retrain && s.busOpen .pf && (Path.pf.offsetOf (Reg.lnkCtrl 0)).isSome && (Path.pf.offsetOf Reg.lnkRlmCtrl).isSome &&
       widthFor (s.link 0).ethernet (popCount 10 ((s.modLink 0 fun x => { x with failed := 0 }).usableLanes 0)) != 0 &&
       (s.link 0).state != .disabled && w.rdBit (Reg.lnkCtrl 0) 1 && !v.rdBit (Reg.lnkCtrl 0) 1 && r.rdBit Reg.lnkRlmCtrl 0 &&
       !q.rdBit Reg.lnkRlmCtrl 0 && (List.range 10).all fun k => decide (Sparse.get 0 s.net.laserLow k < 2)) = true := by decide +kernel

/-- A flit of 256 bytes with its CRC. -/
def flitOf (l : List (Nat × Nat)) : List Byte :=
  let b := natToBytes 8 (fieldsOf l) ++ List.replicate 240 0
  b ++ natToBytes 8 (crcA b)

/-- A data flit of SEQ `seq` that opens no packet, one with its LEN16 left 0, a NAK and an idle flit. -/
def dataFlit (seq : Nat) : List Byte := flitOf [(0, 1), (12, seq), (52, 1)]
def nakFlit : List Byte := flitOf [(0, 3)]

theorem test_flit_hypotheses :
    ([dataFlit 0, dataFlit 1, nakFlit, flitOf []].all (fun f => f.length == 256 && !flitBad f false) &&
      flitBad (flitOf [(0, 1)]) false && fld (bytesToNat ((dataFlit 0).take 8)) 3 0 == 1 && fld (bytesToNat (nakFlit.take 8)) 3 0 == 3 &&
      fld (bytesToNat ((flitOf []).take 8)) 3 0 == 0 && fld (bytesToNat ((dataFlit 1).take 8)) 23 12 == 1 &&
      serialNewer 12 1 ((upOn 0xFF).link 0).rxSeq.toNat && ((upOn 0xFF).link 0).rxSeq == 0 && !((upOn 0xFF).link 0).naked &&
      !((upOn 0xFF).link 0).ethernet && crcA (List.replicate 248 1) != bytesToNat (List.replicate 8 0) &&
      fld (bytesToNat ((flitOf [(0, 4)]).take 8)) 3 0 == 4 && fld (bytesToNat ((flitOf [(56, 1)]).take 8)) 63 56 == 1) = true := by
  decide +kernel

/-- R305: the flit in sequence is taken, the one ahead of it is not, and is answered by a NAK. -/
theorem test_flit_is_taken_in_order :
    ((nextOf (.flitReceive 0 (dataFlit 0) false []) (upOn 0xFF)).map fun u => (u.link 0).rxSeq) = some 1 ∧
    ((nextOf (.flitReceive 0 (dataFlit 1) false []) (upOn 0xFF)).map fun u => ((u.link 0).rxSeq, (u.link 0).naked)) =
      some (0, true) := by decide +kernel

def aDataFlit (vl : Nat) : DataFlit := { vl := vl, tenant := 3, semr := false, coll := none, sop := true, eop := true, data := [7] }

theorem test_replay_and_reserve_hypotheses :
    (let s := (upOn 0xFF).modLink 0 fun x => { x with replay := [{ seq := 2, flit := aDataFlit 1 }], reserves := [⟨3, 9, 4⟩] }
     (s.sendMessages.link 0).state == .up && (s.sendMessages.link 0).replay.length == 1 &&
       ((s.link 0).reserves.find? (fun e => e.tenant == 3)).isSome) = true := by decide +kernel

/-- R305: a flit that waits and has its credit leaves under the next SEQ and is kept for replay. -/
theorem test_a_waiting_flit_leaves_numbered :
    (let s := (upOn 0xFF).modLink 0 fun x => { x with waiting := [aDataFlit 0], credits := [(0, 16)], txSeq := 4 }
     ((s.drain 0).link 0).replay.map (fun f => (f.seq, f.flit.vl)) = [(4, 0)] ∧ ((s.drain 0).link 0).txSeq = 5) := by decide +kernel

def aPacket (pseq : BitVec 16) : PacketHeader := { dst := 0, src := 1, tenant := 3, kind := 0, pseq := pseq, len := 1, ctx := 0 }

/-- Bundle 1 is a NEIGHBOUR with links 0 and 1 up, bundle 2 is none. -/
theorem test_packet_hypotheses :
    (let s := (upOn 0xFF).modLink 1 fun x => { x with state := .up, bundle := 1 }
     (s.bundle ((s.link 0).bundle.toNat)).any (·.kind == 0) && !(s.bundle 2).any (·.kind == 0) && s.net.merge.isEmpty &&
       (aPacket 0).pseq == Merge.reset.next && serialNewer 16 (aPacket 1).pseq.toNat Merge.reset.next.toNat &&
       (s.upLinks 1).any (· != 0) && (aPacket 65535).pseq != Merge.reset.next &&
       !serialNewer 16 (aPacket 65535).pseq.toNat Merge.reset.next.toNat) = true := by decide +kernel

/-- R310: packet 1 of the lane, which comes first on link 0, is held until packet 0 has come on link 1; both go on in order. -/
theorem test_packets_of_a_bundle_merge_in_order :
    (let s := (upOn 0xFF).modLink 1 fun x => { x with state := .up, bundle := 1 }
     ((nextOf (.packetReceive { link := 0, vl := 1, head := aPacket 1 } [8]) s).bind
       (nextOf (.packetReceive { link := 1, vl := 1, head := aPacket 0 } [7]))).map fun u =>
       u.out.drop s.out.length) = some [.packetTo 0 (aPacket 0) [7], .packetTo 0 (aPacket 1) [8]] := by decide +kernel

/-- An Ethernet link with queue pair 4 in RTS on it, or in RESET. -/
def paired (rts : Bool) : State :=
  let s := linked fun x => { x with ethernet := true, state := .up, activeMap := 3 }
  { s with net := { s.net with qps := [(4, if rts then 3 else 1)] } }

theorem test_queue_pair_hypotheses :
    (let s := paired true
     s.qpRts 4 && qLink (s.qpCtx 4) == 0 && (s.qpRun 4).lastCnp == 0 && !(paired false).qpRts 4 &&
       (s.modQp 4 fun x => { x with rnrRetries := 7 }).qpRts 4 && decide (qRnr (s.qpCtx 4) ≤ 7) && !s.qpBusy 4 && s.qpIndex == 0 &&
       (s.qpCheck s.qpStaged).isSome && (Path.pf.offsetOf Reg.lnkQpCmd).isSome) = true := by decide +kernel

/-- Queue pair 4 with an extent in flight. -/
def pairBusy : State := let s := paired true
  { s with ing := { s.ing with fetches := [{ aFetch with list := [BitVec.ofNat 1024 (fieldsOf [(96, 4), (128, 4)])] }] } }
theorem test_queue_pair_busy : pairBusy.qpBusy 4 = true ∧ pairBusy.qpRts 4 = true := by decide +kernel

/-- A staged context that passes. -/
def goodContext : State := ((paired true).wr (Reg.lnkQpData 0) 1).wr (Reg.lnkQpData 1) 0x01000000
theorem test_queue_pair_commit_passes : goodContext.qpCheck goodContext.qpStaged = none := by decide +kernel

/-! ### Sideband, managers and HALT_N (R321-R334, R348-R351) -/

theorem test_sideband_hypotheses :
    (awake.i3cAlive && awake.mgt.i3cAddr.isNone &&
      ({ awake with mgt := { awake.mgt with i3cAddr := some 9 } } : State).mgt.i3cAddr.isSome &&
      (awake.modBoot fun b => { b with failed := true }).i3cAlive) = true := by decide +kernel

/-- A chip of domain 1, at slot 2 of system 0, whose domain manager is chip 7; uncommitted. -/
def coordinated (dm : Nat) : State :=
  let s := ((awake.wr Reg.mgtDomain 1).wrFld Reg.mgtCoord 15 12 2).wrFld Reg.mgtDm 13 0 dm
  s.setBit Reg.mgtStatus 17

theorem test_commit_hypotheses :
    ((coordinated 7).pkg.heldBy.isNone && !(coordinated 7).rdBit Reg.mgtStatus 16 && (coordinated 7).start.boot.firmware &&
      (coordinated 7).rd Reg.mgtDomain != 0 && !(coordinated 7).rdBit Reg.mgtDm 30 && awake.rd Reg.mgtDomain == 0 &&
      (coordinated 2).self == (coordinated 2).dmChip && (coordinated 7).self != (coordinated 7).dmChip &&
      (coordinated 7).rdBit Reg.mgtStatus 17 &&
      (let s := ((coordinated 7).setBit Reg.mgtDm 30).wrFld Reg.mgtDm 29 16 7
       s.rdBit Reg.mgtDm 30 && s.rdFld Reg.mgtDm 29 16 == s.rdFld Reg.mgtDm 13 0) &&
      !((coordinated 7).modBoot fun b => { b with firmware := false }).start.boot.firmware) = true := by decide +kernel

theorem test_commit_fixes_the_coordinate :
    (nextOf .commit (coordinated 7)).map (fun u => (u.rdBit Reg.mgtStatus 16, u.rdFld Reg.mgtStatus 13 0, u.rdFld Reg.mgtParent 13 0)) =
      some (true, 2, 7) ∧
    (nextOf .commit awake).map (fun u => (u.rdBit Reg.mgtStatus 16, u.rdBit Reg.mgtEvent 0)) = some (false, true) := by decide +kernel

theorem test_halt_hypotheses :
    (enabled.busOpen .pf && (Path.pf.offsetOf Reg.mgtCmd).isSome && (coordinated 7).rdBit Reg.mgtStatus 17 &&
      awake.driveHalt.mgt.haltDrive && !awake.mgt.haltDrive && awake.pkg.heldBy.isNone) = true := by decide +kernel

/-- The committed domain manager, with job 77 of chips 1 and 2. -/
def domainManager (d : DmJob) : State := (manager d).setBit Reg.mgtStatus 16

theorem test_domain_manager_hypotheses :
    (let d := { cutting [] [] with abandonedAt := some 5, boundary := [1] }
     let s := domainManager d
     s.committed && !s.mgt.noDm && s.isDm && !s.mgt.ready.contains 3 && (3 : ChipId) != s.self && s.dmJob 77 == some d &&
       d.workers.all (fun x => x == 2 || d.boundary.contains x) && d.abandonedAt == some 5 && !d.workers.contains s.self) = true ∧
    (let d := { cutting [] [] with registered := [1], stepFrames := 8 }
     let s := domainManager d
     s.isDm && s.dmJob 77 == some d && !d.registered.isEmpty && d.stepFrames != 9 && d.mode != true && !s.mgt.refuse &&
       d.workers.all (fun x => x == 2 || d.registered.contains x)) = true ∧
    (((coordinated 7).setBit Reg.mgtStatus 16).committed && !((coordinated 7).setBit Reg.mgtStatus 16).mgt.noDm &&
      !(coordinated 7).isDm && !awake.rdBit Reg.mgtStatus 17) = true := by decide +kernel

/-- R34, R333: the count goes out once the last worker has joined; another STEP_FRAMES or mode refuses the launch at every worker. -/
theorem test_registrations_are_compared :
    (let s := domainManager { cutting [] [] with registered := [1], stepFrames := 8 }
     let told := fun (mode : Bool) (n : Word) => (nextOf (.registration 2 77 mode n true) s).map fun u =>
       (u.out.drop s.out.length).filterMap fun o => match o with
         | .toChip c m _ => some (c, m)
         | _ => none
     (told false 9, told true 8) = (some [(1, "LAUNCH_REFUSED"), (2, "LAUNCH_REFUSED")],
       some [(1, "LAUNCH_REFUSED"), (2, "LAUNCH_REFUSED")]) ∧
     (told false 8).map (·.map (·.1)) = some [1, 2]) := by decide +kernel

/-- A worker of domain manager 7 that has joined; its parent is the manager, or chip 5. -/
def child (parent : Nat) : State :=
  let s := ((coordinated 7).setBit Reg.mgtStatus 16).wrFld Reg.mgtParent 13 0 parent
  { s with clock := { s.clock with joined := true } }

theorem test_lost_parent_hypotheses :
    ((child 7).committed && !(child 7).isDm && (child 7).clock.joined && (child 7).rdFld Reg.mgtParent 13 0 == (child 7).dmChip.toNat &&
      (child 5).rdFld Reg.mgtParent 13 0 != (child 5).dmChip.toNat && (3 : ChipId) != (child 5).self &&
      ((child 7).setBit Reg.mgtDm 30).rdBit Reg.mgtDm 30 && !(child 7).mgt.dmIsStandby && !(child 7).rdBit Reg.mgtStatus 19 &&
      !(child 7).rdBit Reg.mgtDm 30) = true ∧
    (let u := ((child 7).setBit Reg.mgtDm 30).setBit Reg.mgtStatus 19
     u.rdBit Reg.mgtDm 30 && !u.mgt.dmIsStandby && u.rdBit Reg.mgtStatus 19 && u.chan.bellsHeld.isEmpty &&
       u.chan.cmds.isEmpty) = true := by decide +kernel

/-- R331: without its domain manager, and with no standby, the domain has none; a board manager's loss makes this chip one. -/
theorem test_lost_parent_is_replaced :
    (nextOf (.parentLost none) (child 7)).map (·.mgt.noDm) = some true ∧
    (nextOf (.parentLost (some 2)) (child 5)).map (fun u => (u.rdBit Reg.mgtStatus 17, u.rdFld Reg.mgtParent 13 0)) =
      some (true, 7) := by decide +kernel

/-! ### Watchdogs and resets (R337-R348) -/

/-- A tile whose frame has been open for 255 ticks. -/
def overdue : State := eighths.modTile 0 fun x => { x with frameOpen := true, wdTicks := 255 }

theorem test_frame_watchdog_hypotheses :
    (overdue.pkg.heldBy.isNone && overdue.flt.run.isNone && !overdue.halted && !overdue.flt.memReset && !overdue.flt.ctlReset &&
      !overdue.boundaryHeld (overdue.partOf 0) && !(overdue.tile 0).faulted && (overdue.tile 0).frameOpen &&
      decide (overdue.rdFld Reg.fltWdCfg 7 0 ≤ (overdue.tile 0).wdTicks) && !(overdue.tile 0).debugHalted) = true := by decide +kernel

theorem test_channel_watchdog_hypotheses :
    (rung.pkg.heldBy.isNone && (rung.wrFld Reg.fltWdCfg 19 8 5).rdFld Reg.fltWdCfg 19 8 != 0 && chState (rung.chEntry 5) == 1 &&
      cSqHead (rung.chEntry 5) != cSqTail (rung.chEntry 5)) = true := by decide +kernel

theorem test_core_watchdog_hypotheses :
    (awake.start.boot.firmware && !awake.flt.ctlReset && !awake.dbg.dm.halted.contains 0 && !awake.flt.companionHeld.contains 8) = true := by
  decide +kernel

/-- A compute-domain reset in a phase. -/
def aRun (phase : Nat) : ResetRun :=
  { since := 0, phase := phase, scrubAt := 0, guilty := none, guiltyTenant := none, record := 0, admin := true, memWaiting := false }
def resetting (phase : Nat) : State := { enabled with flt := { enabled.flt with run := some (aRun phase) } }

theorem test_compute_reset_hypotheses :
    (awake.pkg.heldBy.isNone && awake.flt.run.isNone && awake.busOpen .pf && (Path.pf.offsetOf Reg.fltCtrl).isSome &&
      ((List.range 64).find? fun t => ((awake.modTile 3 fun x => { x with faulted := true }).tile t).faulted) == some 3 &&
      [1, 2, 4].all fun k => (resetting k).flt.run.any (·.phase == k)) = true := by decide +kernel

/-- R343: the phases of Table 15.5 in their order. -/
theorem test_compute_reset_phases :
    (((nextOf .resetDrainTimeout (resetting 1)).bind (·.flt.run)).map (·.phase), ((nextOf .dumpDone (resetting 2)).bind (·.flt.run)).map (·.phase)) =
      (some 2, some 4) ∧
    (nextOf .resetEnd (resetting 4)).map (·.flt.run) = some none := by decide +kernel

theorem test_memory_and_control_reset_hypotheses :
    (({ awake with flt := { awake.flt with memReset := true } } : State).flt.memReset && awake.flt.lastCtl.isNone && !awake.flt.memReset &&
      ({ awake with flt := { awake.flt with ctlReset := true } } : State).flt.ctlReset) = true ∧
    (let dm := manager (cutting [] [])
     dm.isDm && (dm.setBit Reg.mgtDm 30).rdBit Reg.mgtDm 30 && !dm.rdBit Reg.mgtDm 30 && !dm.mgt.dmIsStandby && dm.flt.lastCtl.isNone &&
       !awake.isDm) = true ∧
    (let s := (coordinated 2).setBit Reg.mgtStatus 16
     let s : State := { s with flt := { s.flt with ctlReset := true }, mgt := { s.mgt with noDm := true } }
     s.flt.ctlReset && s.committed && s.mgt.noDm && s.self.toNat == s.rdFld Reg.mgtDm 13 0 &&
       !({ s with mgt := { s.mgt with noDm := false } } : State).mgt.noDm && !awake.committed) = true := by decide +kernel

theorem test_whole_device_hypotheses :
    (State.reset.pkg.heldBy == some .resetN && awake.pkg.heldBy.isNone && awake.start.burn.isNone &&
      ({ awake with pkg := { awake.pkg with heldBy := some .refclk } } : State).pkg.heldBy == some .refclk && isHbm 0 && !isHbm (2 ^ 47)) =
      true := by decide +kernel

/-! ### Start-up, fuses and images (R361-R376) -/

/-- An image of 4,096 bytes, of which every byte after the signature is zero: two empty sections, their digests that of the empty
string; signed (outside this package) by a root key whose public point is the base point. -/
def emptyDigest : List Byte :=
  natToBe 48 0x38b060a751ac96384cd9327eb1b1e36a21fdb71114be07434c0cc7bf63f6e1da274edebfe76f65fbd51ad2f14898b95b
def aSection (type : Nat) : List Byte := natToBytes 16 type ++ emptyDigest
def rootKey : List Byte := 0x04 :: natToBe 96 (p384G.elim 0 fun g => g.1 * 2 ^ 384 + g.2)
def anImage : List Byte :=
  natToBytes 32 (fieldsOf [(0, 0x53554D45), (32, 1), (48, 2), (64, 4096)]) ++ aSection 1 ++ aSection 2 ++ List.replicate 0x780 0 ++
    rootKey ++ List.replicate 0x67F 0 ++ natToBe 48 (p384G.elim 0 fun g => g.1) ++
    natToBe 48 0x378c5504290d026d2910b5cc3a233716d87acea751598d951333e11d7bc513cfa8e0bf4b7634c2b524539e9b40e4ecb4 ++
    List.replicate 160 0

/-- The ROOTS record that names the root key. -/
def aRoots : Nat := 0x1dd5e1afb0969cd83edacd4c19820fc9a05bb4f440a2f442388caffb48d02f21e50d135a70067686edf9b71224264f8c

theorem test_image_verifies : anImage.length = 4096 ∧ imageCode aRoots 0 anImage = 0 := by decide +kernel

/-- A part with an identity and roots, unburnt flash; the image in a slot of its flash. -/
def fused : State := { awake with start := { awake.start with
  fuses := [(0, some { payload := 0, checkOk := true }), (12, some { payload := BitVec.ofNat 1432 aRoots, checkOk := true })], sfdp := true } }
def flashed (slot : Bool) : State := { fused with start := { fused.start with
  flash := Sparse.splice 0xFF [] (slotBase slot) 4096 fun i => anImage.getD i 0 } }

theorem anImage_bytes : (List.range 4096).map (fun i => anImage.getD i 0) = anImage := by
  refine List.ext_getElem ?_ fun i h k => ?_
  · simp [test_image_verifies.1]
  · simp [List.getD_eq_getElem?_getD, List.getElem?_eq_getElem k]

theorem slotImage_congr {s t : State} (b : Bool) (h : s.start.flash = t.start.flash) : s.slotImage b = t.slotImage b := by
  simp only [State.slotImage, State.flashRead, h]
  rfl

theorem flashed_image (b : Bool) : (flashed b).slotImage b = anImage := by
  have h : (flashed b).flashRead (slotBase b) 4096 = anImage := by
    refine Eq.trans ?_ anImage_bytes
    refine List.map_congr_left fun i hi => ?_
    have := List.mem_range.mp hi
    simp [flashed, Sparse.get_splice, this]
  have k : headerOk anImage = true ∧ max 4096 (leAt anImage 8 4) = 4096 := by decide +kernel
  simp only [State.slotImage, h, k.1, k.2, if_true]

theorem flashRead_erased (b : Bool) (a n : Nat) (h : a + n ≤ slotBase b ∨ slotBase b + 4096 ≤ a) :
    (flashed b).flashRead a n = List.replicate n 0xFF := by
  refine List.ext_getElem (by simp [State.flashRead]) fun i k _ => ?_
  simp only [State.flashRead, List.length_map, List.length_range] at k
  have o : ¬(slotBase b ≤ a + i ∧ a + i < slotBase b + 4096) := by omega
  simp [State.flashRead, flashed, Sparse.get_splice, o]

/-- The start-up of a part whose fuses are read. -/
def booting (s : State) : State := s.readFuses.modBoot fun b => { b with stage := 3, slowFlash := !s.start.octal }

theorem erased_words_fail : leAt (List.replicate 64 0xFF) 0 2 ≠ 0x4243 ∧ headerOk (List.replicate 4096 0xFF) = false ∧
    imageCode aRoots 0 (List.replicate 4096 0xFF) = 2 := by decide +kernel

theorem test_no_trial_runs (b : Bool) : (booting (flashed b)).bcb.trial = false ∧ (booting (flashed b)).bcb.pref = false := by
  have h : ∀ i < 2, (booting (flashed b)).bcbCopy i = none := by
    intro i hi
    have e : (booting (flashed b)).flashRead (bcbBase i) 64 = List.replicate 64 0xFF :=
      flashRead_erased b (bcbBase i) 64 (Or.inr (by cases b <;> simp [slotBase, bcbBase] <;> omega))
    simp only [State.bcbCopy, e, decide_eq_false erased_words_fail.1, Bool.false_and, Bool.false_eq_true, if_false]
  simp only [State.bcb, h 0 (by decide), h 1 (by decide), and_self]

theorem test_start_up_hypotheses :
    (awake.highestValid 0).isNone = true ∧ [flashed false, flashed true].all (fun s => (s.highestValid 0).isSome &&
      (s.highestValid 3).isSome && s.start.sfdp && (booting s).minSvn == 0 && (booting s).latestFuse 3 == aRoots) = true := by
  decide +kernel

/-- The image verifies in either slot; an erased slot is refused with code 2. -/
theorem test_slot_verifies (b : Bool) : imageCode aRoots 0 ((booting (flashed b)).slotImage b) = 0 := by
  rw [(slotImage_congr b rfl : (booting (flashed b)).slotImage b = (flashed b).slotImage b), flashed_image]
  exact test_image_verifies.2
theorem test_erased_slot_fails (b : Bool) : imageCode aRoots 0 ((booting (flashed b)).slotImage (!b)) = 2 := by
  have e : (flashed b).flashRead (slotBase (!b)) 4096 = List.replicate 4096 0xFF :=
    flashRead_erased b (slotBase (!b)) 4096 (by cases b <;> simp [slotBase])
  rw [(slotImage_congr (!b) rfl : (booting (flashed b)).slotImage (!b) = (flashed b).slotImage (!b))]
  simp only [State.slotImage, e, erased_words_fail.2.1, Bool.false_eq_true, if_false]
  exact erased_words_fail.2.2

/-- A committed chip that has not reported ready. -/
theorem test_chip_ready_hypotheses :
    ((coordinated 7).start.boot.firmware && ((coordinated 7).setBit Reg.mgtStatus 16).committed && !(coordinated 7).rdBit Reg.glbStatus 2 &&
      (coordinated 7).linksTried && !(coordinated 7).bcb.trial && enabled.rd Reg.glbBlkEn == 0x3FFFF &&
      (awake.modBoot fun b => { b with failed := true }).start.boot.failed) = true := by decide +kernel

/-- OTP_FUSE_SEL names ENV (record 4), which is armed; a staged value within its limits. -/
def fusing : State :=
  let s := (fused.wrFld Reg.otpFuseSel 2 0 4).wr (Reg.otpStage 0) (BitVec.ofNat 32 (18 + 30 * 32))
  { s with start := { s.start with armed := some 0 } }

theorem test_fuse_hypotheses :
    (fusing.busOpen .pf && (Path.pf.offsetOf Reg.otpFuseCmd).isSome && (Path.pf.offsetOf Reg.otpFuseArm).isSome &&
      fusing.rdFld Reg.otpFuseSel 2 0 == 4 && fusing.start.burn.isNone && fusing.start.armed == some 0 && decide (fusing.since 0 ≤ 1000000) &&
      decide (1000000 < ({ fusing with clock := { fusing.clock with gtc := 1000001 } } : State).since 0) && decide (fusing.nextSlot 4 < 4) && fusing.fuseMonotonic 4 (fusing.fuseStaged 4) &&
      fusing.fuseAuthorised 4 && !fusing.fuseMonotonic 4 0) = true := by decide +kernel

/-- Its four slots are written; an owner's roots that no image has been verified under. -/
def spent : State := { fusing with start := { fusing.start with fuses := [(19, some { payload := 0, checkOk := true })] } }
def owned : State := { fusing with start := { fusing.start with
  fuses := [(12, some { payload := BitVec.ofNat 1432 (2 ^ 384), checkOk := true })], burn := some (4, 0, 5) } }

theorem test_fuse_refusal_hypotheses :
    (decide (4 ≤ spent.nextSlot 4) && owned.fuseMonotonic 3 (2 ^ 384) && !owned.fuseAuthorised 3 && decide (owned.nextSlot 3 < 4) &&
      owned.start.burn == some (4, 0, 5) && awake.rdFld Reg.otpFuseSel 2 0 == 0) = true := by decide +kernel

/-- R374: an armed program of a legal payload begins in slot 0. -/
theorem test_fuse_program_begins :
    ((nextOf (.fuseProgram .pf) fusing).bind (·.start.burn)) = some (4, 0, 978) ∧
    ((nextOf (.fuseProgram .pf) { fusing with start := { fusing.start with armed := none } }).map
      fun u => (u.start.burn, u.rdFld Reg.otpFuseStatus 7 4)) = some (none, 1) := by decide +kernel

/-- The image stands in tenant 0's memory at 0. -/
def inMemory : State := { fused with
  apt := mapped.apt
  mem := { fused.mem with dram := Sparse.splice 0 [] 0 4096 fun i => anImage.getD i 0 } }

theorem inMemory_bytes : inMemory.tenBytes 0 0 4096 = some anImage := by
  have d : inMemory.aptOf 0 0 4096 = some 0 ∧ inMemory.aptDesc 0 0 = mapped.aptDesc 0 0 ∧ aptBase (mapped.aptDesc 0 0) = 0 ∧
      aptGranLog (mapped.aptDesc 0 0) = 21 ∧ aptSpill (mapped.aptDesc 0 0) = false ∧ inMemory.mem.memBad = [] ∧
      Sparse.get [] inMemory.apt.entries (aptKey 0 0) = [0] := by decide +kernel
  obtain ⟨h1, h2, h3, h4, h5, h6, h7⟩ := d
  have x : ∀ a < 4096, inMemory.xlate 0 0 a = a := by
    intro a ha
    have : a / 2 ^ 21 = 0 := by omega
    have : a % 2 ^ 21 = a := by omega
    have : a < 2 ^ 21 := by omega
    simp [State.xlate, *]
    try omega
  have l : (span 0 4096).map (fun a => inMemory.devByte (inMemory.xlate 0 0 a)) = anImage := by
    refine Eq.trans ?_ anImage_bytes
    simp only [span, List.map_map]
    refine List.map_congr_left fun i hi => ?_
    have hi := List.mem_range.mp hi
    have hole : isHole i = false := by simp [isHole, isHbm]; omega
    simp only [Function.comp, Nat.zero_add, x i hi, State.devByte, hole, Bool.false_eq_true, if_false]
    simp [inMemory, Sparse.get_splice, hi]
  simp only [State.tenBytes, State.tenAddrs, h1, h6, List.map_map]
  simpa [Function.comp_def] using l

theorem test_image_stage_hypotheses :
    (!inMemory.start.image.busy && inMemory.imageAddr == 0 && (inMemory.highestValid 0).isSome && (inMemory.highestValid 3).isSome &&
      inMemory.latestFuse 3 == aRoots && fld (inMemory.latestFuse 5) 15 0 == 0 && (Path.pf.offsetOf Reg.otpImgCmd).isSome &&
      inMemory.busOpen .pf && (fused.tenBytes 0 fused.imageAddr 4096).isNone) = true := by decide +kernel

/-- A staged image; one with its activation pending. -/
def staged (busy pending : Bool) (swapped : Nat) : State := { fused with start := { fused.start with
  image := { fused.start.image with busy := busy, staged := true, pending := pending, swapped := swapped } } }

theorem test_activation_hypotheses :
    (!(staged false false 0).start.image.busy && (staged false false 0).start.image.staged && !fused.start.image.staged &&
      linksItem (staged false false 0).start.image.image == (staged false false 0).start.boot.links && (staged true false 0).start.image.busy &&
      (staged false true 1).start.image.pending && (staged false true 1).start.image.swapped == 1 && (staged false true 0).quiesced &&
      linksItem (staged false false 0).start.image.image != some [1] &&
      (let s := (List.range 8).foldl (fun (s : State) p => s.modPart p fun x => { x with holdActivation := true }) (staged false true 0)
       s.partList.all s.heldForActivation)) = true := by decide +kernel

/-- Under other roots the same image is refused with code 3. -/
theorem test_image_of_other_roots : imageCode 0 0 anImage = 3 := by decide +kernel

/-! ### Registers, counters, console, debug and heat (R382-R428) -/

/-- The part out of its staging mode. -/
def inService : State := enabled.clrBit Reg.glbCtrl 0

/-- What the statement on field writes asks of a register, but for the values. -/
def fieldWriteCheck (s : State) (p : Nat) (f : Nat → RegRow → Bool) : Bool := match Reg.find p with
  | some (b, r, i) => (Path.pf.offsetOf p).isSome && !s.absent b r i && f b r &&
      !List.contains [Reg.shtSyncCfg, Reg.memScrubCfg, Reg.memCeThresh, Reg.chnTSched, Reg.mgtHaltCfg, Reg.mgtHbCfg, Reg.fltWdCfg] p &&
      (List.range 8).all (fun q => p != Reg.chnPsched q)
  | none => false

theorem test_field_write_hypotheses :
    (fieldWriteCheck inService (Reg.pwrTclk 0) (fun _ r => r.mask .rws != 0 &&
        ((5 : Word) ^^^ ((inService.rd (Reg.pwrTclk 0) &&& ~~~r.mask .rw) ||| (5 &&& r.mask .rw))) &&& r.mask .rsvl == 0 &&
        ((0xFFFFFFFF : Word) ^^^ ((inService.rd (Reg.pwrTclk 0) &&& ~~~r.mask .rw) ||| (0xFFFFFFFF &&& r.mask .rw))) &&& r.mask .rsvl != 0) &&
      !inService.staging && enabled.staging && !Path.pf.isVf && Reg.pwrTclk 0 != Reg.glbErr &&
      fieldWriteCheck enabled Reg.lnkWarnCfg (fun b r => !fixedBlock b && enabled.blockOn b && (r.mask .rw ||| r.mask .rws) != 0)) = true := by
  decide +kernel

def isRegister : Area → Bool
  | .register => true
  | _ => false
def isUnmapped : Area → Bool
  | .unmapped => true
  | _ => false

/-- The part with an address on the sideband. -/
def addressed : State := { inService with mgt := { inService.mgt with i3cAddr := some 9 } }

theorem test_access_hypotheses :
    (inService.busOpen .pf && !inService.crossingHeld .pf 0 && addressed.busOpen .i3c && addressed.mgt.i3cAddr.isSome &&
      (match Path.pf.offsetOf Reg.memScrubCfg with
        | some off => ({ inService with flt := { inService.flt with memReset := true } } : State).crossingHeld .pf off
        | none => false) &&
      (match Path.pf.offsetOf Reg.glbCtrl with
        | some off => Path.pf.place off == some Reg.glbCtrl
        | none => false) && isRegister (areaOf (windowFn .pf).val Reg.glbCtrl) &&
      (match Reg.find Reg.fltEvent with
        | some (b, r, i) => !inService.absent b r i && r.mask .rc != 0 && inService.view Reg.fltEvent == inService.rd Reg.fltEvent
        | none => false)) = true := by decide +kernel

/-- R385, R386: a full write of GLB_CTRL acts, a narrow one is flagged; a read of FLT_EVENT answers and clears it. -/
theorem test_access_acts_by_width :
    (match Path.pf.offsetOf Reg.glbCtrl, Path.pf.offsetOf Reg.fltEvent with
      | some a, some b =>
        let s := inService.setBit Reg.fltEvent 3
        ((nextOf (.registerWrite .pf (BitVec.ofNat 29 a) 0x3 1) s).map fun u => u.rdBit Reg.glbErr errNarrowWr,
         (nextOf (.rcRead .pf (BitVec.ofNat 29 b) 0xF) s).map fun u => (u.rdBit Reg.fltEvent 3, u.out.length))
      | _, _ => (none, none)) = (some true, some (false, 1)) := by decide +kernel

theorem test_unmapped_place :
    ((List.range 0x100).any fun k => (Path.pf.place (0x100000 * k + 0xFF8)).any fun p => isUnmapped (areaOf (windowFn .pf).val p)) = true := by
  decide +kernel

theorem test_global_register_hypotheses :
    ([Reg.glbStrobe, Reg.pwrCmd, Reg.pwrCfg, Reg.glbCtrl, Reg.glbBlkEn, Reg.glbMbxReq].all (fun p =>
        (Path.pf.offsetOf p).isSome) && (Path.i3c.offsetOf Reg.pwrCfg).isSome && addressed.busOpen .i3c &&
      !inService.rdBit Reg.pwrCfg 8 && (inService.setBit Reg.pwrCfg 8).rdBit Reg.pwrCfg 8 &&
      (3 : Word) &&& 0x1F != inService.view Reg.pwrCfg &&& 0x1F && !inService.staging && ticking.anyRunning && !inService.anyRunning &&
      (Sparse.get none inService.port.mbx 0).isNone && !inService.flt.ctlReset) = true := by decide +kernel

def unlocked : State := { inService with start := { inService.start with
  fuses := [(20, some { payload := 0, checkOk := true })], boot := { inService.start.boot with inForce := [(5, some 0)] } } }

/-- A tile that the debug path has halted; consoles with room and without. -/
def debugHalted : State := inService.modTile 0 fun x => { x with debugHalted := true }
def consoleFull : State := { inService with dbg := { inService.dbg with rxFifo := List.replicate 64 1, txFifo := [65] } }

theorem test_debug_hypotheses :
    ((Path.pf.offsetOf (pmcCfgPlace 0)).isSome && (Path.pf.offsetOf (Reg.pmcTdbg 0)).isSome && (Path.offsetOf .debug (Reg.pmcTdbg 0)).isSome &&
      inService.busOpen .pf && unlocked.busOpen .debug && inService.busOpen (.core 0) && inService.blockOn 16 &&
      decide (inService.dbg.rxFifo.length < 64) && decide (64 ≤ consoleFull.dbg.rxFifo.length) && consoleFull.dbg.txFifo == [65] &&
      (debugHalted.tile 0).debugHalted && ((Path.core 0).offsetOf Reg.uarTx).isSome && ((Path.core 0).offsetOf Reg.uarRx).isSome) = true := by
  decide +kernel

/-- R375: without a record of LOCKS in force the debug lock is set; a record of zero leaves it clear. -/
theorem test_lock_hypotheses : awake.debugLock = true ∧ unlocked.debugLock = false := by decide +kernel

/-- R403: the console takes its characters in order, and a full FIFO drops one and says so. -/
theorem test_console_order :
    (nextOf (.uartRxChar 7 true) inService).map (fun u => u.dbg.rxFifo) = some [7] ∧
    (nextOf (.uartRxChar 7 true) consoleFull).map (fun u => (u.dbg.rxFifo.length, u.rdBit Reg.uarErr 1)) = some (64, true) := by
  decide +kernel

theorem test_dmi_hypotheses :
    ((1 : Word) |||  0x80000000).getLsbD 0 = true ∧ ((1 : Word) ||| 0x80000000).getLsbD 31 = true ∧
    fld (0x80000001 : Word).toNat 25 16 = 0 ∧ fld (0x80000001 : Word).toNat 15 6 = 0 := by decide +kernel

/-- The samples of a part below every trip, of one at a trip, and of one at a critical reading. -/
def readings (v : BitVec 8) : Thermal :=
  { inService.pkg.thermal with die := List.replicate 4 v, iod := [v], hbm := List.replicate 8 v, oe := [v] }
def trips (t : Thermal) : Bool := t.readings.any fun e => decide (e.2.1 ≤ e.1)
def isCritical (t : Thermal) : Bool := t.readings.any fun e => decide (e.2.2.2 ≤ e.1)

theorem test_thermal_hypotheses :
    (!trips (readings 20) && !isCritical (readings 20) && (readings 20).readings.all (fun e => decide (e.1 < e.2.2.1)) &&
      trips (readings 90) && !isCritical (readings 90) && isCritical (readings 255) && !inService.throttled && (inService.setBit (Reg.pwrTclkAct 0) 17).throttled) = true := by decide +kernel

/-! ### The queue, reset, flush, generations, layouts -/

theorem test_step_hypotheses :
    (State.reset.pending.isEmpty && awake.pending.isEmpty && awake.pkg.heldBy.isNone && State.reset.pkg.heldBy.isSome &&
      ({ awake with pending := [.commit] } : State).pending == [.commit]) = true := by decide +kernel

/-- The state after reset has the canonical form that every step keeps. -/
theorem test_reset_is_canonical : Canonical State.reset = true := by decide +kernel

/-- A FLUSH before, and one after, another command. -/
def flushState : State :=
  let f := { command 1 [] with started := true }
  { withCommand f with chan := { (withCommand f).chan with cmds := [f, { command 0 [] with index := 1 }] } }
theorem test_flush_hypotheses :
    (let f := { command 1 [] with started := true }
     flushState.cmd 5 0 == some f && (flushState.earlier f).isEmpty &&
       (flushState.earlier { command 0 [] with index := 1 }).contains f) = true := by decide +kernel

/-- A stopped channel, in the window that selects it. -/
def stopped : State := rung.setCh 5 (withState (channelEntry 1) 2)
theorem test_stopped_channel_hypotheses :
    (let s := stopped.wr (Reg.tenCwIdx (tenWindow .pf)) 5
     s.busOpen .pf && (Path.pf.offsetOf (Reg.tenCwCmd (tenWindow .pf))).isSome && !s.rdBit (Reg.tenCwStatus (tenWindow .pf)) 0 &&
       decide ((s.cwTarget .pf).2 < (s.tenant (s.cwTarget .pf).1).chCnt) &&
       (s.tenant (s.cwTarget .pf).1).chBase + (s.cwTarget .pf).2 == 5) = true := by decide +kernel

/-- R250 at its boundaries: over GEN 0, EXPECT_GEN 0, 1, 32,767 and 32,768. -/
def expecting (g : Nat) : State :=
  let s := (rung.setCh 5 0).wr (Reg.tenCwIdx (tenWindow .pf)) 5
  s.wr (Reg.tenCwData (tenWindow .pf) 1) (BitVec.ofNat 32 g)
theorem test_generations_at_their_boundaries :
    ([1, 32767, 32768, 32769].map fun g => (nextOf (.cwCreate .pf) (expecting g)).map fun u =>
      u.rdFld (Reg.tenCwStatus (tenWindow .pf)) 7 4) = [some 3, some 3, some 2, some 2] ∧
    ((expecting 1).cwTarget .pf).2 = 5 ∧ chState ((expecting 1).chEntry 5) = 0 := by decide +kernel

theorem test_layouts : [0xFF, 0x01, 0x11, 0x1F].map layoutValid = [true, true, true, true] ∧ layoutValid 0x03 = false ∧ layoutValid 0x02 = false ∧
    (eighths.layout = 0xFF ∧ eighths.partTiles 7 = (List.range 8).map (56 + ·)) := by decide +kernel

/-! ### Well-formedness, and the decoder -/

/-- Every row of a bundle, with the slot and opcode that it must hold. -/
def bundleRows : List ((Fin 64 → Bundle → Instr) × Nat × Nat) :=
  [(.alu, 0, 1), (.alui, 0, 2), (.li, 0, 3), (.lih, 0, 4), (.cmp, 0, 5), (.plog, 0, 6), (.br, 0, 8), (.loop, 0, 9), (.call, 0, 10),
   (.ret, 0, 11), (.endf, 0, 12), (.waitc, 0, 13), (.waite, 0, 14), (.semw, 0, 15), (.sems, 0, 16), (.fenceT, 0, 17), (.defp, 0, 18),
   (.defd, 0, 19), (.retd, 0, 20), (.dset, 0, 21), (.dget, 0, 22), (.mfs, 0, 23), (.brk, 0, 24), (.mma, 1, 1), (.mdrain, 1, 2),
   (.varith, 2, 1), (.vfma, 2, 2), (.vbcast, 2, 3), (.vred, 2, 4), (.vsfu, 2, 5), (.vcvt, 2, 6), (.vld, 2, 7), (.vst, 2, 8),
   (.vrng, 2, 9), (.dma, 3, 1), (.krot, 3, 2), (.pcol, 3, 3), (.semr, 3, 4), (.dld, 3, 5), (.dstr, 3, 6), (.ipf, 3, 7)]
def inSlot (i : Nat) (w : Dword) : Bundle :=
  if i = 0 then bundle0 w else if i = 1 then bundle1 w else if i = 2 then bundle2 w else bundle3 w

/-- Each row takes its own opcode in its slot, and no bundle of NOPs. -/
theorem test_bundle_rows_are_checked : bundleRows.all (fun e =>
    (e.1 0 (inSlot e.2.1 (BitVec.ofNat 64 e.2.2))).wf && !(e.1 0 (bundle0 0)).wf) = true := by decide +kernel

/-- FENCE has a row for each scope. -/
theorem test_fence_rows_are_checked :
    ((Instr.fenceC 0 (bundle0 (slotWord [(0, 17), (26, 1)]))).wf && (Instr.fenceG 0 (bundle0 (slotWord [(0, 17), (26, 2)]))).wf &&
      !(Instr.fenceC 0 (bundle0 (slotWord [(0, 17)]))).wf && !(Instr.fenceG 0 (bundle0 (slotWord [(0, 17)]))).wf &&
      !(Instr.fenceT 0 (bundle0 (slotWord [(0, 17), (26, 1)]))).wf && !(Instr.fenceT 0 (bundle0 (slotWord [(0, 17), (26, 2)]))).wf) =
      true := by decide +kernel

/-- A cell error off its memory, or between its words, is refused wherever it stands. -/
theorem test_cell_errors_are_checked :
    ([CellError.lsCorrectable 0 (24 * 2 ^ 20), .lsUncorrectable 0 4, .hbmCorrectable 0xC000000000, .hbmUncorrectable 32,
      .hbmMiscorrected 1].all fun e => !e.wf && !(Instr.nop 0 { bundle0 0 with errs := [e] }).wf && !(Instr.copy 0 0 [e]).wf &&
        !(Instr.ouuPass 0 0 [e]).wf && !(Instr.lineFetchArrive 0 0 [e]).wf && !(Instr.aowRequest 0 0 0 [e]).wf) = true ∧
    ([CellError.lsCorrectable 0 8, .accParity 0 0 0 0, .hbmCorrectable 64].all fun e => (Instr.copy 0 0 [e]).wf) = true := by
  decide +kernel

theorem test_other_operands_are_checked :
    (!(Instr.patrolScrub 0xC000000000 .clean).wf && !(Instr.patrolScrub 32 .clean).wf && (Instr.patrolScrub 64 .clean).wf &&
      !(Instr.rlmPoll 0 0 [] [] 0).wf && (Instr.rlmPoll 0 0 (List.replicate 10 0) (List.replicate 10 0) 0).wf &&
      !(Instr.rlmPoll 0 0 (List.replicate 10 0) [] 0).wf && !(Instr.flitReceive 0 [] false []).wf &&
      (Instr.flitReceive 0 (List.replicate 256 0) false []).wf &&
      !(Instr.registerWrite .pf 2 0 0).wf && (Instr.registerWrite .pf 4 0 0).wf && !(Instr.rcRead .pf 1 0).wf &&
      !(Instr.registerStallTimeout .pf 3 false).wf && !(Instr.samplePreload [true] []).wf && (Instr.samplePreload [] []).wf &&
      !(Instr.dmi { addr := 0, data := 0, op := 3 }).wf && (Instr.dmi { addr := 0, data := 0, op := 2 }).wf &&
      !(Instr.thermalSample [] [] [] []).wf &&
      (Instr.thermalSample (List.replicate 32 0) (List.replicate 4 0) (List.replicate 12 0) (List.replicate 36 0)).wf &&
      !(Instr.packetReceive { link := 0, vl := 1, head := aPacket 0 } []).wf &&
      (Instr.packetReceive { link := 0, vl := 1, head := aPacket 0 } [7]).wf) = true := by
  decide +kernel

/-- No row of the table gives its command bits, so no word spells one. -/
theorem test_no_word_spells_a_command : [0, 1, 0xFFFFFFFF].all (fun w => (decodeTableWord 32 w).isNone) = true := by decide +kernel

end Sys2Proof.Tests
end

section
/-!
PROOF. The launch count and the lock check (R10, R34, R210): what the two commands do with the jobs that wait for a launch
count, and what a Mirror half sends.
-/

-- One declaration after another: the package as one text then needs few threads at a time.
set_option Elab.async false

namespace Sys2Proof.Machine

open Sys2Proof.Safety

/-! ### Changing the jobs of several partitions -/

/-- The same change of the job of every partition of a list. -/
def State.modJobs (s : State) (ps : List Nat) (f : Job → Job) : State := ps.foldl (fun s p => s.modJob p f) s

theorem State.part_modJob_job (s : State) (p q : Nat) (f : Job → Job) :
    ((s.modJob p f).part q).job = if q = p then (s.part q).job.map f else (s.part q).job := by
  unfold State.modJob
  by_cases h : q = p
  · simp [h]
  · simp [h, State.part_modPart_ne]

/-- Over a list without repetition each listed job is changed once, and every other one stands. -/
theorem State.part_modJobs_job {ps : List Nat} (f : Job → Job) (nodup : ps.Nodup) (s : State) (q : Nat) :
    ((s.modJobs ps f).part q).job = if q ∈ ps then (s.part q).job.map f else (s.part q).job := by
  induction ps generalizing s with
  | nil => simp [State.modJobs]
  | cons p ps ih =>
    obtain ⟨hp, hps⟩ := List.nodup_cons.1 nodup
    have later : ((s.modJobs (p :: ps) f).part q).job =
        if q ∈ ps then ((s.modJob p f).part q).job.map f else ((s.modJob p f).part q).job := ih hps _
    rw [later, State.part_modJob_job]
    by_cases h : q = p
    · subst h; simp [hp]
    · simp [h]

theorem State.modJobs_touches (s : State) (ps : List Nat) (f : Job → Job) : Touches [.parts] s (s.modJobs ps f) :=
  Touches.foldl ps (fun s p => State.modJob_touches s p f) (.refl _ s)

@[simp] theorem State.modJobs_out (s : State) (ps : List Nat) (f : Job → Job) : (s.modJobs ps f).out = s.out :=
  (State.modJobs_touches s ps f).frame .out (by decide)

/-! ### The launch count -/

theorem State.waitingJobs_nodup (s : State) (jobId : Word) : (s.waitingJobs jobId).Nodup :=
  List.nodup_range.filter _

/-- A job under a new launch count, or under none, that the lock check has not confirmed. -/
def Job.awaiting (count : Option Dword) (j : Job) : Job := { j with launchCount := count, lockOk := false }

/-- R10. A launch count fewer than 2,000,000 counts ahead is reported, and leaves the jobs that wait for it without one. -/
theorem exec_launchCount_late {jobId : Word} {count : Dword} {s : State} (waits : s.waitingJobs jobId ≠ [])
    (late : count.toNat < s.now.toNat + 2000000) : exec (.launchCount jobId count) s =
      .next ((s.modJobs (s.waitingJobs jobId) (Job.awaiting none)).emit (.report .lateLaunch jobId 0)) := by
  change execLaunchCount jobId count s = _
  unfold execLaunchCount
  rw [if_neg (by simpa using waits), if_pos late]
  rfl

/-- R10. A launch count at least 2,000,000 counts ahead arms every job that waits for it. -/
theorem exec_launchCount_ahead {jobId : Word} {count : Dword} {s : State} (waits : s.waitingJobs jobId ≠ [])
    (ahead : ¬ count.toNat < s.now.toNat + 2000000) : exec (.launchCount jobId count) s =
      .next (s.modJobs (s.waitingJobs jobId) (Job.awaiting (some count))) := by
  change execLaunchCount jobId count s = _
  unfold execLaunchCount
  rw [if_neg (by simpa using waits), if_neg ahead]
  rfl

/-! ### The lock check -/

/-- What a partition sends to its Mirror partner at the lock check (R210). -/
def State.fingerprintOut (s : State) (p : Nat) : List Out :=
  match (s.part p).led with
  | some l => if ldMirror l.desc.toNat then [.toChip (BitVec.ofNat 14 (ldPartner l.desc.toNat)) "MIRROR_FINGERPRINT"
      [p, l.fingerprint.toNat]] else []
  | none => []

theorem State.sendFingerprint_eq (s : State) (p : Nat) :
    s.sendFingerprint p = { s with out := s.out ++ s.fingerprintOut p } := by
  unfold State.sendFingerprint State.fingerprintOut
  cases (s.part p).led with
  | none => simp
  | some l => by_cases mirror : ldMirror l.desc.toNat = true <;> simp [mirror, State.emit]

@[simp] theorem State.sendFingerprint_part (s : State) (p q : Nat) : (s.sendFingerprint p).part q = s.part q := by
  rw [State.sendFingerprint_eq]; rfl

@[simp] theorem State.sendFingerprint_inLock (s : State) (p : Nat) : (s.sendFingerprint p).inLock = s.inLock := by
  rw [State.sendFingerprint_eq]; rfl

@[simp] theorem State.reach_inLock (s : State) (g : Nat) : (s.reach g).inLock = s.inLock := by
  obtain ⟨c, only⟩ := s.reach_eq g
  rw [only]; rfl

@[simp] theorem State.reach_fingerprintOut (s : State) (g p : Nat) : (s.reach g).fingerprintOut p = s.fingerprintOut p := by
  simp [State.fingerprintOut]

/-- The state in which the lock check decides: 1,000,000 counts before the launch count, the fingerprint sent. -/
def State.atLockCheck (s : State) (p : Nat) (count : Dword) : State :=
  (s.reach (count.toNat - 1000000)).sendFingerprint p

/-- The clock is brought to the check and the output grows by the fingerprint; nothing else changes. -/
theorem State.atLockCheck_eq (s : State) (p : Nat) (count : Dword) : s.atLockCheck p count =
    { s.reach (count.toNat - 1000000) with out := s.out ++ s.fingerprintOut p } := by
  simp [State.atLockCheck, State.sendFingerprint_eq]

/-- A Mirror half whose fingerprint is not the one that its partner sent (R210). -/
def State.fingerprintDiffers (s : State) (p : Nat) (partner : Option (BitVec 256)) : Bool :=
  (s.part p).led.any fun l => ldMirror l.desc.toNat && partner != some l.fingerprint

/-- R34, R210. The lock check of an armed job that is not confirmed yet: out of lock, unlike its Mirror partner, or confirmed. -/
theorem exec_lockCheck_armed {p : Fin 8} {j : Job} {c : Dword} {s : State} (partner : Option (BitVec 256))
    (job : (s.part p.val).job = some j) (armed : j.launchCount = some c) (unconfirmed : j.lockOk = false) :
    let g := s.atLockCheck p.val c
    exec (.lockCheck p partner) s = .next (
      if s.inLock = false then (g.modJob p.val fun j => { j with launchCount := none }).emit (.report .notInLock j.jobId 0)
      else if s.fingerprintDiffers p.val partner = true then
        ((g.emit (.report .mirrorFingerprint j.jobId 0)).endRecord p.val 0x24 0).finishJob p.val 0x24 j
      else g.modJob p.val fun j => { j with lockOk := true }) := by
  change execLockCheck p partner s = _
  unfold execLockCheck State.atLockCheck State.fingerprintDiffers
  have lock : ((s.reach (c.toNat - 1000000)).sendFingerprint p.val).inLock = s.inLock := by simp
  have led : ((s.reach (c.toNat - 1000000)).sendFingerprint p.val).part p.val = s.part p.val := by simp
  simp only [job, armed, unconfirmed, lock, led, Bool.not_eq_true', Bool.false_eq_true, if_false]
  split
  · rfl
  · split <;> rfl

/-- Settles O13: a launch count changes every waiting job once (`part_modJobs_job`), and the lock check decides in the state
of `atLockCheck`. -/
theorem launchCountArmsAndLockConfirms : Obligations.LaunchCountArmsAndLockConfirms := by
  unfold Obligations.LaunchCountArmsAndLockConfirms
  refine ⟨fun jobId count s waits => ?_, fun p partner j c s job armed unconfirmed => ?_⟩
  · have jobs (given : Option Dword) := State.part_modJobs_job (Job.awaiting given) (s.waitingJobs_nodup jobId) s
    have touches (given : Option Dword) := State.modJobs_touches s (s.waitingJobs jobId) (Job.awaiting given)
    by_cases late : count.toNat < s.now.toNat + 2000000
    · refine ⟨_, exec_launchCount_late waits late, ?_, ?_, ?_⟩
      · simp only [if_pos late, State.emit_part]
        exact jobs none
      · simp [late]
      · exact (Touches.via (State.emit_touches _ _) (touches none).mono).frame
    · refine ⟨_, exec_launchCount_ahead waits late, ?_, ?_, ?_⟩
      · simp only [if_neg late]
        exact jobs (some count)
      · simp [late]
      · exact (touches (some count)).mono.frame
  · intro g mismatch
    have here : s.atLockCheck p.val c = g := s.atLockCheck_eq p.val c
    have differs : s.fingerprintDiffers p.val partner = mismatch := rfl
    rw [exec_lockCheck_armed partner job armed unconfirmed, here, differs]
    refine ⟨fun out => ?_, fun locked unlike => ?_, fun locked alike => ?_⟩
    · rw [if_pos out]
    · rw [if_neg (by simp [locked]), if_pos unlike]
    · rw [if_neg (by simp [locked]), if_neg (by simp [alike])]

end Sys2Proof.Machine
end

section
/-!
PROOF. Ticks and late dispatches (R25, R28, R29, R36, R38, R114, R264): what a partition's tick does at its count, by its
kind, and when a waiting tile that has freed dispatches.
-/

-- One declaration after another: the package as one text then needs few threads at a time.
set_option Elab.async false

namespace Sys2Proof.Machine

/-! ### The tick, by its kind -/

/-- The program frame F of a next tick at count n: one further, but the first of a new partition stays 0; F_WRAP when it
returns to 0 (R25, R26). -/
def State.advanceFrame (s : State) (p n : Nat) : State :=
  let x := s.part p
  let f := if x.ticked then x.f + 1 else x.f
  (if x.ticked && f = 0 then s.setBit (Reg.shtPevent p) 6 else s).modPart p fun x =>
    { x with f := f, lastTick := BitVec.ofNat 64 n, ticked := true }

/-- The first tick of a partition whose START has its count (R36). -/
def State.beginTicks (s : State) (p n : Nat) : State :=
  s.modPart p fun x =>
    { x with running := true, ticked := true, startAt := none, l := BitVec.ofNat 64 n, lastTick := BitVec.ofNat 64 n, f := 0,
             p := 0, d := 0 }

section
variable {s : State} {p n : Nat}

/-- A START's tick: the partition's frames begin, and its tenants are served. -/
theorem State.tick_of_start (up : s.pkg.heldBy = none) (unfenced : s.flt.run = none)
    (due : (s.closeStep p).nextTick p = some (.start, n)) :
    s.tick p = ((((s.closeStep p).reach n).beginTicks p n).atTick p).serveTick p := by
  unfold State.tick
  simp only [up, unfenced, due, Option.isSome_none, Bool.or_self, Bool.false_eq_true, if_false]
  rfl

/-- A next tick under a job that is on the partition: its flips act, the frame is charged to it, and it has its frame. -/
theorem State.tick_of_next_job (up : s.pkg.heldBy = none) (unfenced : s.flt.run = none)
    (due : (s.closeStep p).nextTick p = some (.next, n)) {j : Job} :
    let u := (((s.closeStep p).reach n).advanceFrame p n).atTick p
    (u.part p).job = some j → (u.part p).jobActive = true →
    s.tick p = (((u.endStopped p).writeFlips p).charge j.chan j.cmdIndex 3 1).jobTick p := by
  intro u job active
  unfold State.tick
  simp only [up, unfenced, due, Option.isSome_none, Bool.or_self, Bool.false_eq_true, if_false]
  change (match (u.part p).job with | some j => _ | none => _) = _
  simp only [job]
  exact if_pos active

/-- A next tick without a job, or before its launch count: the invocation that is over ends, and the turn's tenant is served. -/
theorem State.tick_of_next_serving (up : s.pkg.heldBy = none) (unfenced : s.flt.run = none)
    (due : (s.closeStep p).nextTick p = some (.next, n)) :
    let u := (((s.closeStep p).reach n).advanceFrame p n).atTick p
    (u.part p).job = none ∨ (u.part p).jobActive = false →
    s.tick p = ((u.endInvocation p).writeFlips p).serveTick p := by
  intro u idle
  unfold State.tick
  simp only [up, unfenced, due, Option.isSome_none, Bool.or_self, Bool.false_eq_true, if_false]
  change (match (u.part p).job with | some j => _ | none => _) = _
  cases job : (u.part p).job with
  | none => rfl
  | some j =>
    have idle := idle.resolve_left (by simp [job])
    exact if_neg (ne_true_of_eq_false idle)

/-- A launch count's tick: the job begins; if it is still the partition's it is charged its frame, which it has at once unless
the invocation that it displaces is to be saved first (R275). -/
theorem State.tick_of_launch (up : s.pkg.heldBy = none) (unfenced : s.flt.run = none)
    (due : (s.closeStep p).nextTick p = some (.launch, n)) :
    let b := (((s.closeStep p).reach n).endStopped p).beginJob p n
    ((b.part p).job = none → s.tick p = b) ∧
    ∀ j, (b.part p).job = some j →
      let u := b.charge j.chan j.cmdIndex 3 1
      s.tick p = if (u.part p).incoming then u else u.jobTick p := by
  intro b
  unfold State.tick
  simp only [up, unfenced, due, Option.isSome_none, Bool.or_self, Bool.false_eq_true, if_false]
  refine ⟨fun job => ?_, fun j job => ?_⟩
  all_goals
    change (match (b.part p).job with | some j => _ | none => _) = _
    simp only [job]
    rfl

end

/-- Settles O14: one lemma for each kind of tick. -/
theorem tickAdvancesThePartition : Obligations.TickAdvancesThePartition := by
  unfold Obligations.TickAdvancesThePartition
  intro p kind n s up unfenced v due g x
  have ticks (u : State) (h : s.tick p.val = u) : exec (.tick p) s = .next u := congrArg Host.Outcome.next h
  refine ⟨?_, ?_, ?_⟩
  · rintro rfl f u
    exact ⟨fun j job active => ticks _ (State.tick_of_next_job up unfenced due job active),
      fun idle => ticks _ (State.tick_of_next_serving up unfenced due idle)⟩
  · rintro rfl
    exact ticks _ (State.tick_of_start up unfenced due)
  · rintro rfl b
    obtain ⟨ended, job⟩ := State.tick_of_launch up unfenced due
    exact ⟨fun none => ticks _ (ended none), fun j some => ticks _ (job j some)⟩

/-! ### Late dispatch -/

@[simp] theorem State.reach_windowHolds (s : State) (g p : Nat) : (s.reach g).windowHolds p = s.windowHolds p := by
  simp [State.windowHolds]

/-- The partition of tile t runs, tile t waits there and has freed before the next tick, and nothing holds the frame that
waits: no save, no boundary, no window, no end. -/
structure FreesInTime (s : State) (t : Nat) (now : Dword) : Prop where
  running : (s.part (s.partOf t)).running = true
  waits : (s.tile t).waiting = true
  before : ∃ kind n, s.nextTick (s.partOf t) = some (kind, n) ∧ now.toNat ≤ n
  ahead : s.now.toNat ≤ now.toNat
  may : s.mayDispatch (s.partOf t) = true
  onTiles : (s.part (s.partOf t)).incoming = false
  inStep : (s.part (s.partOf t)).jobOn = true → (s.part (s.partOf t)).action = 0 ∧ (s.part (s.partOf t)).ending = false
  free : (s.tile t).isFree = true
  goesOn : (s.tile t).ended = false
  noWindow : s.windowHolds (s.partOf t) = false
  opened : (s.part (s.partOf t)).jobOn = true → (s.part (s.partOf t)).stepOpen = true

section
variable {s : State} {t : Nat} {now : Dword}

/-- No boundary is to be passed first. -/
theorem FreesInTime.noBoundary (h : FreesInTime s t now) :
    ((s.part (s.partOf t)).jobOn && (s.part (s.partOf t)).action != 0) = false := by
  cases on : (s.part (s.partOf t)).jobOn with
  | false => rfl
  | true => simp [h.inStep on]

/-- Neither the job's end nor a boundary holds the frame. -/
theorem FreesInTime.notHeld (h : FreesInTime s t now) (b : Bool) :
    ((s.part (s.partOf t)).jobOn && ((s.part (s.partOf t)).ending || (s.part (s.partOf t)).action != 0 && b)) = false := by
  cases on : (s.part (s.partOf t)).jobOn with
  | false => rfl
  | true => simp [h.inStep on]

/-- No step is to be opened. -/
theorem FreesInTime.noOpening (h : FreesInTime s t now) :
    ((s.part (s.partOf t)).jobOn && !(s.part (s.partOf t)).stepOpen) = false := by
  cases on : (s.part (s.partOf t)).jobOn with
  | false => rfl
  | true => simp [h.opened on]

/-- A tile that frees in time dispatches: at the tick's own count, with no tick lost, not late; else late, and logged. -/
theorem State.lateDispatch_of_freesInTime (own : Nat) (block wait : Option Cause) (h : FreesInTime s t now) :
    let p := s.partOf t
    let u := s.reach now.toNat
    let cause := u.lateCauseOf p t own block wait
    s.lateDispatch t now own block wait =
      if now = (s.part p).lastTick ∧ (s.tile t).lostWaiting = 0 then u.dispatchTile p t none
      else (u.logLate p t now cause).dispatchTile p t (some cause) := by
  obtain ⟨kind, n, due, le⟩ := h.before
  unfold State.lateDispatch
  simp only [due, decide_eq_true le, h.running, h.waits, decide_eq_false (Nat.not_lt.2 h.ahead), h.may, State.reach_part,
    State.reach_tile, State.reach_windowHolds, h.onTiles, h.noBoundary, h.notHeld, h.noOpening, h.free, h.goesOn, h.noWindow,
    Bool.not_true, Bool.or_self, Bool.false_and, Bool.false_eq_true, if_false, Bool.and_eq_true, decide_eq_true_eq]

end

/-- Settles O15: its hypotheses are `FreesInTime`. -/
theorem lateDispatchIsLoggedUnderItsCause : Obligations.LateDispatchIsLoggedUnderItsCause := by
  unfold Obligations.LateDispatchIsLoggedUnderItsCause
  intro t now own block wait s kind n p u x cause running waits due le ahead may onTiles inStep free goesOn noWindow opened
  have dispatches : exec (.lateDispatch t now own block wait) s = .next _ := congrArg Host.Outcome.next
    (State.lateDispatch_of_freesInTime own block (wait.map waitCause)
      ⟨running, waits, ⟨kind, n, due, le⟩, ahead, may, onTiles, inStep, free, goesOn, noWindow, opened⟩)
  refine ⟨fun onTick noLoss => ?_, fun late => ?_⟩
  · rw [dispatches, if_pos ⟨onTick, noLoss⟩]
  · rw [dispatches, if_neg fun ⟨onTick, noLoss⟩ => late.elim (· onTick) (· noLoss)]

end Sys2Proof.Machine
end

section
/-!
PROOF. Domain time (R22-R24, R26, R37): a time exchange below the root, holdover, the reform and the writes of PERIOD_K.
-/

-- One declaration after another: the package as one text then needs few threads at a time.
set_option Elab.async false

namespace Sys2Proof.Machine

open Sys2Proof.Safety

/-! ### What names this chip and its domain manager -/

/-- The domain manager is read from MGT_DM and from whether the standby has taken the role. -/
theorem State.dmChip_congr {s t : State} (named : t.rd Reg.mgtDm = s.rd Reg.mgtDm)
    (role : t.mgt.dmIsStandby = s.mgt.dmIsStandby) : t.dmChip = s.dmChip := by
  simp only [State.dmChip, State.rdFld, named, role]

/-- This chip's identity is read from MGT_COORD. -/
theorem State.self_congr {s t : State} (coord : t.rd Reg.mgtCoord = s.rd Reg.mgtCoord) : t.self = s.self := by
  simp only [State.self, State.rdFld, coord]

@[simp] theorem State.reach_dmChip (s : State) (g : Nat) : (s.reach g).dmChip = s.dmChip :=
  State.dmChip_congr (s.reach_rd g _) (by simp)

@[simp] theorem State.reach_anyRunning (s : State) (g : Nat) : (s.reach g).anyRunning = s.anyRunning := by
  simp [State.anyRunning]

/-- A message to the domain manager only grows the output. -/
theorem State.tellDm_eq (s : State) (kind : String) (args : List Nat) :
    s.tellDm kind args = { s with out := s.out ++ [.toChip s.dmChip kind args] } := rfl

/-! ### A time exchange (R22-R24) -/

/-- A chip without running frames steps its GTC by an offset when it joins, or when the offset is near 2^64 (R23, R37). -/
def State.stepsBy (s : State) (o : Int) : Bool := !s.anyRunning && (!s.clock.joined || decide (2 ^ 62 ≤ o.natAbs))

/-- An offset past four times LOCK's bound that is slewed counts towards the loss of lock (R24). -/
def State.largeBy (s : State) (o : Int) : Bool :=
  decide (4 * s.rdFld Reg.shtSyncCfg 7 4 < o.natAbs) && !s.stepsBy o

/-- The third large offset in a row loses the lock (R24; log 160). -/
def State.loses (s : State) (o : Int) : Bool := s.largeBy o && decide (s.clock.largeOffsets = 2)

/-- OFFSET, HOLDOVER clear, LEVEL and LOCK, as an exchange shows them. -/
def State.showOffset (s : State) (o : Int) : State :=
  (((s.wrFld Reg.shtSyncStatus 31 16 (offsetField o)).clrBit Reg.shtSyncStatus 1).wrFld Reg.shtSyncStatus 5 4
    (if s.rdFld Reg.mgtParent 13 0 = s.dmChip.toNat then 1 else 2)).putBit Reg.shtSyncStatus 0 (decide (o.natAbs ≤ 2))

@[simp] theorem State.reach_stepsBy (s : State) (g : Nat) (o : Int) : (s.reach g).stepsBy o = s.stepsBy o := by
  simp [State.stepsBy]

@[simp] theorem State.reach_largeBy (s : State) (g : Nat) (o : Int) : (s.reach g).largeBy o = s.largeBy o := by
  simp [State.largeBy]

@[simp] theorem State.reach_loses (s : State) (g : Nat) (o : Int) : (s.reach g).loses o = s.loses o := by
  simp [State.loses]

/-- SHT_SYNC_STATUS after an exchange that does not lose the lock: what it shows of the offset, and STEPPED. -/
def State.showExchange (s : State) (o : Int) : State :=
  if s.stepsBy o then (s.showOffset o).setBit Reg.shtSyncStatus 3 else s.showOffset o

/-- LOCK clear and SYNC_LOST set (R24). -/
def State.showLoss (s : State) : State := (s.setBit Reg.shtSyncStatus 2).clrBit Reg.shtSyncStatus 0

/-- Domain time after an exchange: the GTC stepped, or the offset to be slewed away. -/
def State.exchangedClock (s : State) (o : Int) : Clock :=
  let wrapped := s.stepsBy o && decide (2 ^ 62 ≤ o.natAbs)
  let g := if s.stepsBy o then BitVec.ofInt 64 (s.now.toNat + o) else s.now
  { s.clock with
    gtc := g, lastExchange := g, joined := true, slewLeft := if s.stepsBy o then 0 else o, slewAcc := 0,
    largeOffsets := if s.largeBy o then s.clock.largeOffsets + 1 else 0,
    reformHold := s.clock.reformHold && !wrapped, reformAt := if wrapped then none else s.clock.reformAt }

theorem State.rd_putBit_ne (s : State) {p q : Nat} (i : Nat) (b : Bool) (h : q ≠ p) : (s.putBit p i b).rd q = s.rd q := by
  cases b
  · exact State.rd_clrBit_ne s i h
  · exact State.rd_setBit_ne s i h

theorem State.rd_showOffset_ne (s : State) (o : Int) {q : Nat} (h : q ≠ Reg.shtSyncStatus) :
    (s.showOffset o).rd q = s.rd q := by
  unfold State.showOffset
  rw [State.rd_putBit_ne _ _ _ h, State.rd_wrFld_ne _ _ _ _ h, State.rd_clrBit_ne _ _ h, State.rd_wrFld_ne _ _ _ _ h]

theorem State.showOffset_touches (s : State) (o : Int) : Touches [.rf] s (s.showOffset o) :=
  .via (State.putBit_touches ..) (.via (State.wrFld_touches ..) (.via (State.clrBit_touches ..) (State.wrFld_touches ..)))

theorem State.showExchange_touches (s : State) (o : Int) : Touches [.rf] s (s.showExchange o) :=
  .ite (.via (State.setBit_touches ..) (s.showOffset_touches o)) (s.showOffset_touches o)

@[simp] theorem State.showOffset_clock (s : State) (o : Int) : (s.showOffset o).clock = s.clock :=
  (s.showOffset_touches o).frame .clock (by decide)

/-- The state after an exchange of an offset below the root. -/
def State.exchanged (s : State) (o : Int) : State :=
  let u : State := { s.showExchange o with clock := s.exchangedClock o }
  if s.loses o then u.showLoss.tellDm "SYNC_LOST" [u.self.toNat] else u

/-- What an exchange below the root comes to: the count of large offsets, the lock lost at three, and the GTC are each the
model's own. -/
theorem exec_timeExchange {s : State} (t1 t2 t3 t4 : Dword) (c : Int) (on : s.rdBit Reg.shtSyncCfg 0 = true)
    (below : s.syncLevel ≠ 0) (committed : s.rdBit Reg.mgtStatus 16 = true) :
    exec (.timeExchange t1 t2 t3 t4 c) s =
      .next ((s.reach t4.toNat).exchanged (exchangeOffset t1 t2 t3 t4 c)) := by
  let r := s.reach t4.toNat
  let o := exchangeOffset t1 t2 t3 t4 c
  change execTimeExchange t1 t2 t3 t4 c s = .next (r.exchanged o)
  unfold execTimeExchange
  rw [if_neg (by simp [on, below, committed])]
  have rate : (r.showOffset o).rdFld Reg.shtSyncCfg 7 4 = r.rdFld Reg.shtSyncCfg 7 4 := by
    rw [State.rdFld, State.rd_showOffset_ne r o (by decide)]; rfl
  extract_lets size first steps level _ _ shown bound row stepped clock next
  have count : row = if r.largeBy o then r.clock.largeOffsets + 1 else 0 := by
    change (if (decide (4 * (r.showOffset o).rdFld Reg.shtSyncCfg 7 4 < _) && _) = true
      then (r.showOffset o).clock.largeOffsets + 1 else 0) = _
    rw [rate, State.showOffset_clock]
    rfl
  have third : (row = 3) = (r.loses o = true) := by
    unfold State.loses
    rw [count]
    cases r.largeBy o <;> simp
  have gtc : stepped = { r.showExchange o with
      clock := { r.clock with gtc := if r.stepsBy o then BitVec.ofInt 64 (r.now.toNat + o) else r.now } } := by
    change (if r.stepsBy o = true then (r.showOffset o).stepGtc o else r.showOffset o) = _
    unfold State.showExchange State.stepGtc State.now
    rw [← State.showOffset_clock r o]
    cases r.stepsBy o <;> rfl
  have state : next = { r.showExchange o with clock := r.exchangedClock o } := by
    unfold next clock
    rw [count, gtc]
    rfl
  simp only [third, state]
  rfl

/-! ### What an exchange shows in SHT_SYNC_STATUS -/

theorem State.rdFld_putBit_apart (s : State) (p i : Nat) (b : Bool) {h l : Nat} (high : h < 32) (order : l ≤ h)
    (apart : i < l ∨ h < i) : (s.putBit p i b).rdFld p h l = s.rdFld p h l := by
  cases b
  · exact State.rdFld_clrBit_apart s p i high order apart
  · exact State.rdFld_setBit_apart s p i high order apart

theorem offsetField_lt (o : Int) : offsetField o < 2 ^ 16 := BitVec.isLt _

theorem State.showOffset_offset (s : State) (o : Int) : (s.showOffset o).rdFld Reg.shtSyncStatus 31 16 = offsetField o := by
  unfold State.showOffset
  rw [State.rdFld_putBit_apart _ _ _ _ (by decide) (by decide) (by decide),
    State.rdFld_wrFld_apart _ _ _ (by decide) (by decide) (by decide) (by decide),
    State.rdFld_clrBit_apart _ _ _ (by decide) (by decide) (by decide),
    State.rdFld_wrFld_self _ _ _ (by decide) (by decide)]
  exact Nat.mod_eq_of_lt (offsetField_lt o)

/-- LOCK and HOLDOVER follow the offset; SYNC_LOST and STEPPED stand. -/
theorem State.showOffset_bit (s : State) (o : Int) {i : Nat} (h : i < 4) : (s.showOffset o).rdBit Reg.shtSyncStatus i =
    if i = 0 then decide (o.natAbs ≤ 2) else if i = 1 then false else s.rdBit Reg.shtSyncStatus i := by
  unfold State.showOffset
  have low (s : State) {lo hi v : Nat} (order : lo ≤ hi) (above : 4 ≤ lo) :
      (s.wrFld Reg.shtSyncStatus hi lo v).rdBit Reg.shtSyncStatus i = s.rdBit Reg.shtSyncStatus i := by
    rw [State.rdBit_wrFld _ _ _ order (by omega), if_neg (by omega)]
  rw [State.rdBit_putBit _ _ _ _ (by omega), low _ (by decide) (by decide), State.rdBit_clrBit _ _ _ (by omega),
    low _ (by decide) (by decide)]
  by_cases zero : i = 0
  · simp [zero]
  · by_cases one : i = 1 <;> simp [zero, one, Ne.symm]

theorem State.showExchange_offset (s : State) (o : Int) :
    (s.showExchange o).rdFld Reg.shtSyncStatus 31 16 = offsetField o := by
  unfold State.showExchange
  split
  · rw [State.rdFld_setBit_apart _ _ _ (by decide) (by decide) (by decide), State.showOffset_offset]
  · exact s.showOffset_offset o

/-- STEPPED is set by a step (R23). -/
theorem State.showExchange_bit (s : State) (o : Int) {i : Nat} (h : i < 4) : (s.showExchange o).rdBit Reg.shtSyncStatus i =
    ((s.showOffset o).rdBit Reg.shtSyncStatus i || decide (3 = i) && s.stepsBy o) := by
  unfold State.showExchange
  cases s.stepsBy o
  · simp
  · simp [State.rdBit_setBit _ _ _ (show i < 32 by omega)]

theorem State.rd_showExchange_ne (s : State) (o : Int) {q : Nat} (h : q ≠ Reg.shtSyncStatus) :
    (s.showExchange o).rd q = s.rd q := by
  unfold State.showExchange
  split
  · rw [State.rd_setBit_ne _ _ h, State.rd_showOffset_ne s o h]
  · exact State.rd_showOffset_ne s o h

@[simp] theorem State.exchanged_clock (s : State) (o : Int) : (s.exchanged o).clock = s.exchangedClock o := by
  unfold State.exchanged
  split <;> rfl

@[simp] theorem State.rdBit_with_clock (s : State) (c : Clock) (p i : Nat) :
    ({ s with clock := c } : State).rdBit p i = s.rdBit p i := rfl

theorem State.exchanged_offset (s : State) (o : Int) :
    (s.exchanged o).rdFld Reg.shtSyncStatus 31 16 = offsetField o := by
  unfold State.exchanged
  split
  · refine Eq.trans ?_ (s.showExchange_offset o)
    refine (State.rdFld_clrBit_apart _ _ _ (by decide) (by decide) (by decide)).trans ?_
    exact State.rdFld_setBit_apart _ _ _ (by decide) (by decide) (by decide)
  · exact s.showExchange_offset o

/-- A lost lock clears LOCK and sets SYNC_LOST (R24). -/
theorem State.exchanged_bit (s : State) (o : Int) {i : Nat} (h : i < 4) : (s.exchanged o).rdBit Reg.shtSyncStatus i =
    (((s.showExchange o).rdBit Reg.shtSyncStatus i || decide (2 = i) && s.loses o) && !(decide (0 = i) && s.loses o)) := by
  unfold State.exchanged
  cases s.loses o
  · simp
  · refine (State.rdBit_clrBit _ _ _ (by omega)).trans ?_
    rw [State.rdBit_setBit _ _ _ (by omega)]
    simp

theorem State.rd_exchanged_ne (s : State) (o : Int) {q : Nat} (h : q ≠ Reg.shtSyncStatus) : (s.exchanged o).rd q = s.rd q := by
  refine Eq.trans ?_ (s.rd_showExchange_ne o h)
  unfold State.exchanged
  split
  · exact (State.rd_clrBit_ne _ _ h).trans (State.rd_setBit_ne _ _ h)
  · rfl

/-- The loss of lock is reported to the domain manager. -/
theorem State.exchanged_out (s : State) (o : Int) : (s.exchanged o).out =
    s.out ++ if s.loses o then [.toChip s.dmChip "SYNC_LOST" [s.self.toNat]] else [] := by
  have out : (s.showExchange o).out = s.out := (s.showExchange_touches o).frame .out (by decide)
  unfold State.exchanged
  cases s.loses o
  · simp [out]
  · have mgt : (s.showExchange o).mgt = s.mgt := (s.showExchange_touches o).frame .mgt (by decide)
    let u : State := { s.showExchange o with clock := s.exchangedClock o }
    have rd {q : Nat} (h : q ≠ Reg.shtSyncStatus) : u.showLoss.rd q = s.rd q :=
      (State.rd_clrBit_ne _ _ h).trans ((State.rd_setBit_ne _ _ h).trans (s.rd_showExchange_ne o h))
    have dm : u.showLoss.dmChip = s.dmChip := State.dmChip_congr (rd (by decide)) (congrArg Mgt.dmIsStandby mgt)
    have self : u.self = s.self := State.self_congr (s.rd_showExchange_ne o (by decide))
    change (s.showExchange o).out ++ [.toChip u.showLoss.dmChip "SYNC_LOST" [u.self.toNat]] = _
    rw [out, dm, self]
    rfl

/-- Settles O1: the exchange comes to `exchanged`, whose clock, register and output are read off. -/
theorem timeExchangeCorrectsDomainTime : Obligations.TimeExchangeCorrectsDomainTime := by
  unfold Obligations.TimeExchangeCorrectsDomainTime
  intro t1 t2 t3 t4 c s on below committed o g steps large lost
  have stepsBy : s.stepsBy o = steps := rfl
  have largeBy : s.largeBy o = large := rfl
  have loses : s.loses o = lost := rfl
  let r := s.reach t4.toNat
  refine ⟨r.exchanged o, exec_timeExchange t1 t2 t3 t4 c on below committed, ?_, ?_, ?_, ?_, ?_, r.exchanged_offset o, ?_, ?_,
    ?_, ?_, fun q h => (r.rd_exchanged_ne o h).trans (s.reach_rd _ q), ?_⟩
  all_goals clear_value lost large steps o
  case refine_1 | refine_2 | refine_3 | refine_4 | refine_5 =>
    simp [State.exchangedClock, stepsBy, largeBy, r, g]
  case refine_6 | refine_7 | refine_8 | refine_9 =>
    simp [State.exchanged_bit, State.showExchange_bit, State.showOffset_bit, stepsBy, loses, r]
  case refine_10 =>
    simp [State.exchanged_out, loses, r]

/-! ### Holdover and the reform (R24, R37) -/

/-- A message to each chip of a list. -/
theorem State.emit_each (s : State) (l : List ChipId) (kind : String) (args : List Nat) :
    l.foldl (fun s c => s.emit (.toChip c kind args)) s = { s with out := s.out ++ l.map fun c => .toChip c kind args } := by
  induction l generalizing s with
  | nil => simp
  | cons c l ih => rw [List.foldl_cons, ih]; simp [State.emit]

/-- HOLDOVER is set and reported; nothing else changes (R24). -/
theorem State.holdOver_eq (s : State) : s.holdOver =
    { s.setBit Reg.shtSyncStatus 1 with out := s.out ++ [.toChip s.dmChip "HOLDOVER" [s.self.toNat]] } := by
  have dm : (s.setBit Reg.shtSyncStatus 1).dmChip = s.dmChip :=
    State.dmChip_congr (State.rd_setBit_ne _ _ (by decide)) rfl
  unfold State.holdOver
  rw [State.tellDm_eq, dm]
  rfl

@[simp] theorem State.holdOver_clock (s : State) : s.holdOver.clock = s.clock := rfl

@[simp] theorem State.holdOver_out (s : State) :
    s.holdOver.out = s.out ++ [.toChip s.dmChip "HOLDOVER" [s.self.toNat]] := by
  rw [State.holdOver_eq]

theorem State.rd_holdOver_ne (s : State) {q : Nat} (h : q ≠ Reg.shtSyncStatus) : s.holdOver.rd q = s.rd q :=
  State.rd_setBit_ne s 1 h

theorem State.holdOver_shown (s : State) : s.holdOver.rdBit Reg.shtSyncStatus 1 = true :=
  (State.rdBit_setBit s _ 1 (by decide)).trans (by simp)

/-- R24. HOLD_MS milliseconds without an exchange. -/
theorem exec_holdover {s : State} (below : s.syncLevel ≠ 0) (first : s.rdBit Reg.shtSyncStatus 1 = false) :
    exec .holdover s =
      .next (s.reach (s.clock.lastExchange.toNat + s.rdFld Reg.shtSyncCfg 15 8 * 1000000)).holdOver := by
  change execHoldover s = _
  unfold execHoldover
  rw [if_neg (by simp [below, first])]

theorem State.relay_eq (s : State) (kind : String) (args : List Nat) : s.relay kind args =
    { s with out := s.out ++ if s.rdBit Reg.mgtStatus 17 then s.mgt.ready.map fun c => .toChip c kind args else [] } := by
  unfold State.relay
  split
  · exact s.emit_each _ kind args
  · simp

/-- R37. The state in which the GTC has become zero at the reform's count. -/
def State.reformed (s : State) (g : Dword) : State :=
  let r := s.reach g.toNat
  ({ r with
    clock := { r.clock with gtc := 0, reformAt := none, reformHold := false, lastExchange := 0 },
    mgt := { r.mgt with refuse := false } } : State).setBit Reg.shtSyncStatus 3

theorem State.reformed_rd_ne (s : State) (g : Dword) {q : Nat} (h : q ≠ Reg.shtSyncStatus) :
    (s.reformed g).rd q = s.rd q :=
  (State.rd_setBit_ne _ _ h).trans (s.reach_rd g.toNat q)

/-- STEPPED is set, LOCK kept. -/
theorem State.reformed_bit (s : State) (g : Dword) {i : Nat} (h : i < 32) : (s.reformed g).rdBit Reg.shtSyncStatus i =
    (s.rdBit Reg.shtSyncStatus i || decide (3 = i)) := by
  rw [← s.reach_rdBit g.toNat]
  exact State.rdBit_setBit _ _ _ h

/-- R37. At the count, with no frames running, the reform acts, and the domain manager counts the launches that are complete. -/
theorem exec_gtcReform {s : State} {g : Dword} (named : s.clock.reformAt = some g) (idle : s.anyRunning = false) :
    exec .gtcReform s = .next (if (s.reformed g).isDm then (s.reformed g).mgt.jobs.foldl State.countIfAll (s.reformed g)
      else s.reformed g) := by
  change execGtcReform s = _
  unfold execGtcReform
  simp only [named, idle, Bool.false_eq_true, if_false]
  rfl

/-- The domain manager works on its list of jobs: it may send, but what it refuses and whose role it is stand. -/
structure JobsOnly (s t : State) : Prop where
  touches : Touches [.mgt, .freeCount, .out] s t
  refuse : t.mgt.refuse = s.mgt.refuse
  role : t.mgt.dmIsStandby = s.mgt.dmIsStandby

theorem JobsOnly.refl (s : State) : JobsOnly s s := ⟨.refl _ s, rfl, rfl⟩

theorem JobsOnly.trans {s t u : State} (h : JobsOnly s t) (k : JobsOnly t u) : JobsOnly s u :=
  ⟨.via k.touches h.touches, k.refuse.trans h.refuse, k.role.trans h.role⟩

theorem JobsOnly.foldl {β : Type} {f : State → β → State} (step : ∀ s d, JobsOnly s (f s d)) (l : List β) (s : State) :
    JobsOnly s (l.foldl f s) := by
  induction l generalizing s with
  | nil => exact .refl s
  | cons d l ih => exact (step s d).trans (ih _)

theorem JobsOnly.rd {s t : State} (h : JobsOnly s t) (q : Nat) : t.rd q = s.rd q := by
  have rf : t.rf = s.rf := h.touches.frame .rf (by decide)
  rw [State.rd, rf]; rfl

theorem JobsOnly.rdBit {s t : State} (h : JobsOnly s t) (q i : Nat) : t.rdBit q i = s.rdBit q i := by
  rw [State.rdBit, h.rd]; rfl

theorem State.countIfAll_jobsOnly (s : State) (d : DmJob) : JobsOnly s (s.countIfAll d) := by
  have mgt : (s.countIfAll d).mgt.refuse = s.mgt.refuse ∧ (s.countIfAll d).mgt.dmIsStandby = s.mgt.dmIsStandby := by
    unfold State.countIfAll State.sendCount State.tellWorkers
    split
    · dsimp only
      rw [State.emit_each]
      exact ⟨rfl, rfl⟩
    · exact ⟨rfl, rfl⟩
  exact ⟨s.countIfAll_touches d, mgt.1, mgt.2⟩

/-- R37. The reform at its count, with no frames running: the GTC is zero, and the launches that waited for it go on. -/
theorem exec_gtcReform_reforms {s : State} {g : Dword} (named : s.clock.reformAt = some g) (idle : s.anyRunning = false) :
    ∃ u, exec .gtcReform s = .next u ∧ JobsOnly (s.reformed g) u := by
  rw [exec_gtcReform named idle]
  split
  · exact ⟨_, rfl, .foldl State.countIfAll_jobsOnly _ _⟩
  · exact ⟨_, rfl, .refl _⟩

@[simp] theorem State.tryReform_mgt (s : State) : s.tryReform.mgt = s.mgt := s.tryReform_touches.frame .mgt (by decide)

@[simp] theorem State.tryReform_rd (s : State) (q : Nat) : s.tryReform.rd q = s.rd q := by
  have rf : s.tryReform.rf = s.rf := s.tryReform_touches.frame .rf (by decide)
  rw [State.rd, rf]
  rfl

/-- R37. While a reform is pending the domain manager names a count, at least 2 ms ahead, once no frames run and the reports
show none; else nothing is sent. -/
theorem State.tryReform_cases (s : State) :
    s.tryReform.out = s.out ∧ s.tryReform.clock = s.clock ∨
    s.anyRunning = false ∧ s.clock.reformAt = none ∧ ∃ g, s.now.toNat + 2000000 ≤ g ∧
      s.tryReform.clock = { s.clock with reformAt := some (BitVec.ofNat 64 g) } ∧
      s.tryReform.out = s.out ++ s.mgt.ready.map fun c => .toChip c "REFORM" [g] := by
  unfold State.tryReform
  split
  · exact .inl ⟨rfl, rfl⟩
  next may =>
    simp only [Bool.or_eq_true, Bool.not_eq_true', not_or, Bool.not_eq_true, Option.isSome_eq_false_iff,
      Option.isNone_iff_eq_none] at may
    obtain ⟨⟨-, unnamed⟩, idle⟩ := may
    dsimp only
    split
    · exact .inl ⟨rfl, rfl⟩
    · rw [State.emit_each]
      exact .inr ⟨idle, unnamed, _, Nat.le_add_right _ _, rfl, rfl⟩

/-- R37. The state in which the domain manager refuses launches and has said so, before it may name a count. -/
def State.limited (s : State) : State :=
  let r := s.reach reformLimit
  { r with mgt := { r.mgt with refuse := true }, clock := { r.clock with reformHold := true },
           out := s.out ++ s.mgt.ready.map fun c => .toChip c "REFORM_PENDING" [] }

@[simp] theorem State.limited_rd (s : State) (q : Nat) : s.limited.rd q = s.rd q := s.reach_rd reformLimit q

@[simp] theorem State.limited_anyRunning (s : State) : s.limited.anyRunning = s.anyRunning := s.reach_anyRunning reformLimit

@[simp] theorem State.limited_reformAt (s : State) : s.limited.clock.reformAt = s.clock.reformAt :=
  s.reach_clock_reformAt reformLimit

@[simp] theorem State.limited_reformHold (s : State) : s.limited.clock.reformHold = true := rfl

@[simp] theorem State.limited_refuse (s : State) : s.limited.mgt.refuse = true := rfl

@[simp] theorem State.limited_ready (s : State) : s.limited.mgt.ready = s.mgt.ready := by
  rw [← s.reach_mgt reformLimit]
  rfl

@[simp] theorem State.limited_out (s : State) :
    s.limited.out = s.out ++ s.mgt.ready.map fun c => .toChip c "REFORM_PENDING" [] := rfl

/-- R37. At the limit the domain manager refuses launches, says so, and may name a count at once. -/
theorem exec_gtcReformLimit {s : State} (dm : s.rdBit Reg.mgtStatus 18 = true) (first : s.mgt.refuse = false) :
    exec .gtcReformLimit s = .next s.limited.tryReform := by
  change execGtcReformLimit s = _
  unfold execGtcReformLimit
  rw [if_neg (by simp [dm, first])]
  dsimp only
  rw [State.emit_each]
  simp [State.limited]

/-! ### PERIOD_K (R26) -/

/-- R26. What a write of PERIOD_K over an open path comes to. -/
theorem exec_periodWrite {path : Path} {p : Fin 8} {s : State} (v : Word) (reaches : Opens s path (Reg.shtPctrl p.val)) :
    exec (.periodWrite path p v) s = .next (
      if s.hasPart p.val = false then s
      else if (s.part p.val).running = true ∨ fld v.toNat 10 0 < 4 ∨ 1024 < fld v.toNat 10 0 then
        (s.writeFields path (Reg.shtPctrl p.val) v 0x7FF).setBit (Reg.shtPevent p.val) 4
      else s.writeFields path (Reg.shtPctrl p.val) v 0) := by
  change execPeriodWrite path p v s = _
  unfold execPeriodWrite
  rw [State.via_open reaches]
  simp only [Bool.not_eq_true', Bool.or_eq_true, decide_eq_true_eq, or_assoc]

/-- Settles O2: each command's outcome is named above, and read off here. -/
theorem holdoverReformAndPeriods : Obligations.HoldoverReformAndPeriods := by
  unfold Obligations.HoldoverReformAndPeriods
  refine ⟨⟨fun s below first => ?_, fun g s => ?_, fun g s named idle => ?_, fun s dm first => ?_⟩,
    fun path p v s up holds => ?_⟩
  · exact ⟨_, exec_holdover below first, State.holdOver_shown _,
      fun q h => (State.rd_holdOver_ne _ h).trans (s.reach_rd _ q), by simp, State.holdOver_clock _⟩
  · exact ⟨congrArg Host.Outcome.next (State.relay_eq _ _ _), congrArg Host.Outcome.next (State.relay_eq _ _ _)⟩
  · obtain ⟨u, acts, jobs⟩ := exec_gtcReform_reforms named idle
    have clock : u.clock = (s.reformed g).clock := jobs.touches.frame .clock (by decide)
    refine ⟨u, acts, ?_⟩
    rw [clock, jobs.refuse, jobs.rdBit, jobs.rdBit, s.reformed_bit g (by decide), s.reformed_bit g (by decide)]
    exact ⟨rfl, rfl, rfl, rfl, by simp, by simp, fun q h => (jobs.rd q).trans (s.reformed_rd_ne g h)⟩
  · have rd (q : Nat) : s.limited.tryReform.rd q = s.rd q := by simp
    refine ⟨s.limited.tryReform, ?_⟩
    obtain ⟨out, clock⟩ | ⟨idle, unnamed, g, ahead, clock, out⟩ := s.limited.tryReform_cases
    · exact ⟨[], exec_gtcReformLimit dm first, by simp, by simp [clock], by simp [out], rd, .inl ⟨rfl, by simp [clock]⟩⟩
    · have now : s.limited.tryReform.now = s.limited.now := by rw [State.now, clock]; rfl
      refine ⟨s.mgt.ready.map fun c => .toChip c "REFORM" [g], exec_gtcReformLimit dm first, by simp, by simp [clock],
        by simp [out], rd, .inr ⟨by simpa using idle, by simpa using unnamed, g, by rwa [now], by rw [clock], rfl⟩⟩
  · have outcome := exec_periodWrite v (p := p) (⟨up, holds⟩ : Opens s path (Reg.shtPctrl p.val))
    refine ⟨fun absent => ?_, fun present refused => ?_, fun present stopped low high => ?_⟩
    · rw [outcome, if_pos absent]
    · rw [outcome, if_neg (by simp [present]), if_pos refused]
    · rw [outcome, if_neg (by simp [present]), if_neg (by simp [stopped]; omega)]

end Sys2Proof.Machine
end

section
/-!
PROOF. Coordinates and roles (R22, R324, R325, R329-R331): what COMMIT gives a chip, and what a chip does that has lost its
parent.
-/

-- One declaration after another: the package as one text then needs few threads at a time.
set_option Elab.async false

namespace Sys2Proof.Machine

open Sys2Proof.Safety

/-! ### The roles that the coordinates give (R329) -/

/-- The parent register names the parent. -/
theorem State.setParent_names (s : State) (c : ChipId) : (s.setParent c).rdFld Reg.mgtParent 13 0 = c.toNat := by
  have small := c.isLt
  have bit : b2n (!s.onBoard c) < 2 := by unfold b2n; split <;> decide
  unfold State.setParent State.rdFld
  rw [State.rd_wr_self]
  simp only [packFields, fld, BitVec.toNat_ofNat]
  omega

theorem State.rd_setParent_ne (s : State) (c : ChipId) {q : Nat} (h : q ≠ Reg.mgtParent) :
    (s.setParent c).rd q = s.rd q := State.rd_wr_ne s _ h

/-- The chip is the standby that MGT_DM names, and not the domain manager. -/
def State.isNamedStandby (s : State) : Bool :=
  s.rdBit Reg.mgtDm 30 && s.rdFld Reg.mgtDm 29 16 == s.self.toNat && !(s.self == s.dmChip)

/-- The role bits of a chip that is not ready yet: domain manager, board manager as before, standby. -/
def State.showRoles (s : State) : State :=
  ((s.putBit Reg.mgtStatus 18 (s.self == s.dmChip)).putBit Reg.mgtStatus 17 (s.rdBit Reg.mgtStatus 17)).putBit Reg.mgtStatus 19
    s.isNamedStandby

theorem State.rd_showRoles_ne (s : State) {q : Nat} (h : q ≠ Reg.mgtStatus) : s.showRoles.rd q = s.rd q := by
  unfold State.showRoles
  rw [State.rd_putBit_ne _ _ _ h, State.rd_putBit_ne _ _ _ h, State.rd_putBit_ne _ _ _ h]

theorem State.showRoles_touches (s : State) : Touches [.rf] s s.showRoles :=
  .via (State.putBit_touches ..) (.via (State.putBit_touches ..) (State.putBit_touches ..))

@[simp] theorem State.showRoles_dmChip (s : State) : s.showRoles.dmChip = s.dmChip :=
  State.dmChip_congr (s.rd_showRoles_ne (by decide))
    (congrArg Mgt.dmIsStandby (s.showRoles_touches.frame .mgt (by decide)))

/-- The roles change their own bits. -/
theorem State.showRoles_bit (s : State) {i : Nat} (h : i < 32) : s.showRoles.rdBit Reg.mgtStatus i =
    if i = 18 then s.self == s.dmChip else if i = 19 then s.isNamedStandby else s.rdBit Reg.mgtStatus i := by
  unfold State.showRoles
  rw [State.rdBit_putBit _ _ _ _ h, State.rdBit_putBit _ _ _ _ h, State.rdBit_putBit _ _ _ _ h]
  grind

theorem State.showRoles_coord (s : State) : s.showRoles.rdFld Reg.mgtStatus 13 0 = s.rdFld Reg.mgtStatus 13 0 := by
  unfold State.showRoles
  rw [State.rdFld_putBit_apart _ _ _ _ (by decide) (by decide) (by decide),
    State.rdFld_putBit_apart _ _ _ _ (by decide) (by decide) (by decide),
    State.rdFld_putBit_apart _ _ _ _ (by decide) (by decide) (by decide)]

/-- The roles of a chip that is not ready yet: the domain manager is the time root, without a parent; a board manager's parent
is the domain manager, any other chip's its board manager where it knows one. -/
theorem State.assignRoles_eq (s : State) : s.assignRoles false =
    if s.self == s.dmChip then (s.showRoles.wr Reg.mgtParent 0).wrFld Reg.shtSyncStatus 5 4 0
    else s.showRoles.setParent
      (if s.rdBit Reg.mgtStatus 17 then s.dmChip else s.showRoles.boardManager.getD s.dmChip) := by
  let t := (s.putBit Reg.mgtStatus 18 (s.self == s.dmChip)).putBit Reg.mgtStatus 17 (s.rdBit Reg.mgtStatus 17)
  have dm : t.rd Reg.mgtDm = s.rd Reg.mgtDm :=
    (State.rd_putBit_ne _ _ _ (by decide)).trans (State.rd_putBit_ne _ _ _ (by decide))
  have standby : (t.rdBit Reg.mgtDm 30 && t.rdFld Reg.mgtDm 29 16 == s.self.toNat && !(s.self == s.dmChip)) =
      s.isNamedStandby := by
    simp only [State.isNamedStandby, State.rdBit, State.rdFld, dm]
  have shown : t.putBit Reg.mgtStatus 19 s.isNamedStandby = s.showRoles := rfl
  unfold State.assignRoles
  simp only [Bool.false_and, Bool.or_false]
  change (if _ then ((t.putBit _ _ (t.rdBit _ _ && _ && _)).wr _ _).wrFld _ _ _ _
    else (t.putBit _ _ (t.rdBit _ _ && _ && _)).setParent _) = _
  rw [standby, shown, State.showRoles_dmChip]

/-- What else the roles change is the parent, and at the root the level. -/
theorem State.rd_assignRoles_status (s : State) : (s.assignRoles false).rd Reg.mgtStatus = s.showRoles.rd Reg.mgtStatus := by
  rw [State.assignRoles_eq]
  split
  · rw [State.rd_wrFld_ne _ _ _ _ (by decide), State.rd_wr_ne _ _ (by decide)]
  · rw [State.rd_setParent_ne _ _ (by decide)]

/-- The domain manager is the time root (R22). -/
theorem State.assignRoles_root {s : State} (root : s.self = s.dmChip) :
    (s.assignRoles false).rd Reg.mgtParent = 0 ∧ (s.assignRoles false).rdFld Reg.shtSyncStatus 5 4 = 0 := by
  rw [State.assignRoles_eq, if_pos (by simp [root])]
  constructor
  · rw [State.rd_wrFld_ne _ _ _ _ (by decide), State.rd_wr_self]
  · exact (State.rdFld_wrFld_self _ _ _ (by decide) (by decide)).trans (Nat.zero_mod _)

/-- A board manager's parent is the domain manager. -/
theorem State.assignRoles_board {s : State} (below : s.self ≠ s.dmChip) (board : s.rdBit Reg.mgtStatus 17 = true) :
    (s.assignRoles false).rdFld Reg.mgtParent 13 0 = s.dmChip.toNat := by
  rw [State.assignRoles_eq, if_neg (by simpa using below), if_pos board, State.setParent_names]

/-! ### COMMIT (R324, R325) -/

/-- COMMIT is refused: the domain is zero, or the standby is the domain manager. -/
def State.commitClashes (s : State) : Prop := s.rd Reg.mgtDomain = 0 ∨
  (s.rdBit Reg.mgtDm 30 = true ∧ s.rdFld Reg.mgtDm 29 16 = s.rdFld Reg.mgtDm 13 0)

/-- The coordinate stands, COORD_VALID is set, and the start-up is at its last stage. -/
def State.coordinated (s : State) : State :=
  ((s.wrFld Reg.mgtStatus 13 0 s.self.toNat).setBit Reg.mgtStatus 16).modBoot fun b => { b with stage := 7 }

/-- The state after a COMMIT that is accepted: the coordinate, the roles that it gives, and COMMIT done. -/
def State.committedState (s : State) : State := (s.coordinated.assignRoles false).clrBit Reg.mgtCmd 0

section
variable {s : State} (up : s.pkg.heldBy = none) (staged : s.rdBit Reg.mgtStatus 16 = false)
include up

/-- Before the firmware runs COMMIT waits. -/
theorem exec_commit_early (early : s.start.boot.firmware = false) : exec .commit s = .next (s.setBit Reg.mgtCmd 0) := by
  change execCommit s = _
  unfold execCommit
  simp [State.i3cAlive, up, early]

theorem exec_commit_started (started : s.start.boot.firmware = true) :
    exec .commit s = .next (s.commitCoords.clrBit Reg.mgtCmd 0) := by
  change execCommit s = _
  unfold execCommit
  simp [State.i3cAlive, up, started]

include staged

theorem exec_commit_clash (started : s.start.boot.firmware = true) (clash : s.commitClashes) :
    exec .commit s = .next (((s.setBit Reg.mgtEvent 0).ibi 0x05).clrBit Reg.mgtCmd 0) := by
  rw [exec_commit_started up started, State.commitCoords, if_neg (by simp [State.committed, staged]),
    if_pos (by simpa [State.commitClashes] using clash)]

theorem exec_commit_accepted (started : s.start.boot.firmware = true) (agrees : ¬ s.commitClashes) :
    exec .commit s = .next s.committedState := by
  rw [exec_commit_started up started, State.commitCoords, if_neg (by simp [State.committed, staged]),
    if_neg (by simpa [State.commitClashes] using agrees)]
  rfl

end

theorem State.coordinated_touches (s : State) : Touches [.rf, .start] s s.coordinated :=
  .via (State.modBoot_touches ..) (.via (State.setBit_touches ..) (State.wrFld_touches ..).mono)

theorem State.rd_coordinated_ne (s : State) {q : Nat} (h : q ≠ Reg.mgtStatus) : s.coordinated.rd q = s.rd q :=
  (State.rd_setBit_ne _ _ h).trans (State.rd_wrFld_ne _ _ _ _ h)

@[simp] theorem State.coordinated_self (s : State) : s.coordinated.self = s.self :=
  State.self_congr (s.rd_coordinated_ne (by decide))

@[simp] theorem State.coordinated_dmChip (s : State) : s.coordinated.dmChip = s.dmChip :=
  State.dmChip_congr (s.rd_coordinated_ne (by decide)) rfl

@[simp] theorem State.coordinated_isNamedStandby (s : State) : s.coordinated.isNamedStandby = s.isNamedStandby := by
  simp only [State.isNamedStandby, State.rdBit, State.rdFld, s.rd_coordinated_ne (q := Reg.mgtDm) (by decide),
    State.coordinated_self, State.coordinated_dmChip]

/-- COORD_VALID is set; the role bits stand. -/
theorem State.coordinated_bit (s : State) {i : Nat} (h : i < 32) (role : 14 ≤ i) :
    s.coordinated.rdBit Reg.mgtStatus i = (s.rdBit Reg.mgtStatus i || decide (16 = i)) := by
  refine (State.rdBit_setBit _ _ _ h).trans ?_
  rw [State.rdBit_wrFld _ _ _ (by decide) h, if_neg (by omega)]

theorem State.coordinated_coord (s : State) : s.coordinated.rdFld Reg.mgtStatus 13 0 = s.self.toNat := by
  refine (State.rdFld_setBit_apart _ _ _ (by decide) (by decide) (by decide)).trans ?_
  rw [State.rdFld_wrFld_self _ _ _ (by decide) (by decide)]
  exact Nat.mod_eq_of_lt s.self.isLt

theorem State.rd_committedState_status (s : State) :
    s.committedState.rd Reg.mgtStatus = s.coordinated.showRoles.rd Reg.mgtStatus :=
  (State.rd_clrBit_ne _ _ (by decide)).trans s.coordinated.rd_assignRoles_status

/-- COORD_VALID and the roles; every other bit beside the coordinate stands. -/
theorem State.committedState_bit (s : State) {i : Nat} (h : i < 32) (role : 14 ≤ i) :
    s.committedState.rdBit Reg.mgtStatus i = if i = 18 then s.self == s.dmChip else if i = 19 then s.isNamedStandby
      else s.rdBit Reg.mgtStatus i || decide (16 = i) := by
  rw [State.rdBit, State.rd_committedState_status, ← s.coordinated_bit h role, ← s.coordinated_self, ← s.coordinated_dmChip,
    ← s.coordinated_isNamedStandby]
  exact s.coordinated.showRoles_bit h

/-- The coordinate that stands is this chip's identity. -/
theorem State.committedState_coord (s : State) : s.committedState.rdFld Reg.mgtStatus 13 0 = s.self.toNat := by
  rw [State.rdFld, State.rd_committedState_status]
  exact s.coordinated.showRoles_coord.trans s.coordinated_coord

theorem State.committedState_boot (s : State) : s.committedState.start.boot = { s.start.boot with stage := 7 } :=
  congrArg Start.boot ((s.coordinated.assignRoles_touches false).frame .start (by decide))

theorem State.committedState_touches (s : State) : Touches [.rf, .start] s s.committedState :=
  .via (State.clrBit_touches ..) (.via (State.assignRoles_touches ..) s.coordinated_touches)

/-- The domain manager has no parent, and level 0. -/
theorem State.committedState_root {s : State} (root : s.self = s.dmChip) :
    s.committedState.rd Reg.mgtParent = 0 ∧ s.committedState.rdFld Reg.shtSyncStatus 5 4 = 0 := by
  obtain ⟨parent, level⟩ := State.assignRoles_root (s := s.coordinated) (by simpa using root)
  exact ⟨(State.rd_clrBit_ne _ _ (by decide)).trans parent, (State.rdFld_clrBit_ne _ _ _ _ (by decide)).trans level⟩

theorem State.committedState_board {s : State} (below : s.self ≠ s.dmChip) (board : s.rdBit Reg.mgtStatus 17 = true) :
    s.committedState.rdFld Reg.mgtParent 13 0 = s.dmChip.toNat := by
  rw [State.committedState, ← s.coordinated_dmChip, State.rdFld_clrBit_ne _ _ _ _ (by decide)]
  exact State.assignRoles_board (by simpa using below) (by simp [State.coordinated_bit, board])

/-! ### The domain manager is lost (R330, R331) -/



/-- No doorbell is held: none is tried again. -/
theorem State.retryBells_of_none {s : State} (none : s.chan.bellsHeld = []) : s.retryBells = s := by
  have chan : { s.chan with bellsHeld := [] } = s.chan := by rw [← none]
  unfold State.retryBells
  dsimp only
  rw [none, List.foldl_nil, chan]
  exact ite_self s

/-- With no request for a cut in execution, and no doorbell held, nothing is answered. -/
theorem State.answerRequests_of_none {s : State} (bells : s.chan.bellsHeld = [])
    (requests : (s.chan.cmds.any fun c => c.opc == 0x0A && c.started && c.status.isNone) = false) :
    s.answerRequests = { s with freeCount := s.freeCount + 1 } := by
  have mine : (s.chan.cmds.filter fun c => c.opc == 0x0A && c.started && c.status.isNone) = [] := by
    rw [List.filter_eq_nil_iff]
    exact fun c hc => by simpa using List.any_eq_false.1 requests c hc
  unfold State.answerRequests
  simp only [mine, List.foldl_nil]
  exact State.retryBells_of_none bells

/-- The standby takes the role over, with the job state in its last copy. -/
def State.tookOver (s : State) : State :=
  let jobs := copiedJobs s.freeCount
  let t : State := { s with
    mgt := { s.mgt with dmIsStandby := true, standby := jobs, jobs := jobs }, freeCount := s.freeCount + 1 }
  ((t.clrBit Reg.mgtStatus 19).setBit Reg.mgtEvent 4).becomeRoot

/-- The launches of the copy that have no count yet get one. -/
def State.countUncounted (s : State) (jobs : List DmJob) : State :=
  jobs.foldl (fun s d => if d.launchSent.isNone then s.countIfAll d else s) s

theorem State.countUncounted_jobsOnly (s : State) (jobs : List DmJob) : JobsOnly s (s.countUncounted jobs) := by
  refine JobsOnly.foldl (fun s d => ?_) jobs s
  split
  · exact s.countIfAll_jobsOnly d
  · exact .refl s

section
variable {s : State}

theorem State.loseDm_standby (named : s.rdBit Reg.mgtDm 30 = true) (first : s.mgt.dmIsStandby = false)
    (standby : s.rdBit Reg.mgtStatus 19 = true) :
    s.loseDm = (s.tookOver.countUncounted (copiedJobs s.freeCount)).answerRequests := by
  unfold State.loseDm
  rw [if_pos (by simp [named, first])]
  exact if_pos standby

theorem State.loseDm_other (named : s.rdBit Reg.mgtDm 30 = true) (first : s.mgt.dmIsStandby = false)
    (other : s.rdBit Reg.mgtStatus 19 = false) :
    let t : State := { s with mgt := { s.mgt with dmIsStandby := true } }
    s.loseDm = (t.setParent t.dmChip).emit (.toChip t.dmChip "REGISTER" [t.self.toNat]) := by
  intro t
  unfold State.loseDm
  rw [if_pos (by simp [named, first])]
  exact if_neg (ne_true_of_eq_false other)

theorem State.loseDm_none (unnamed : s.rdBit Reg.mgtDm 30 = false) :
    s.loseDm = { s with mgt := { s.mgt with noDm := true } } := by
  unfold State.loseDm
  rw [if_neg (by simp [unnamed])]

end

/-- A chip that becomes time root is the domain manager; its other status bits stand. -/
theorem State.becomeRoot_bit (s : State) {i : Nat} (h : i < 32) :
    s.becomeRoot.rdBit Reg.mgtStatus i = (s.rdBit Reg.mgtStatus i || decide (18 = i)) := by
  unfold State.becomeRoot
  rw [State.rdBit_clrBit_ne _ _ _ (by decide), State.rdBit_wrFld_ne _ _ _ _ _ (by decide), State.rdBit,
    State.rd_wr_ne _ _ (by decide)]
  exact State.rdBit_setBit s _ 18 h

theorem State.becomeRoot_event (s : State) (i : Nat) : s.becomeRoot.rdBit Reg.mgtEvent i = s.rdBit Reg.mgtEvent i := by
  unfold State.becomeRoot
  rw [State.rdBit_clrBit_ne _ _ _ (by decide), State.rdBit_wrFld_ne _ _ _ _ _ (by decide), State.rdBit,
    State.rd_wr_ne _ _ (by decide)]
  exact State.rdBit_setBit_ne s 18 i (by decide)

theorem State.becomeRoot_parent (s : State) : s.becomeRoot.rd Reg.mgtParent = 0 := by
  unfold State.becomeRoot
  rw [State.rd_clrBit_ne _ _ (by decide), State.rd_wrFld_ne _ _ _ _ (by decide), State.rd_wr_self]

theorem State.becomeRoot_level (s : State) : s.becomeRoot.rdFld Reg.shtSyncStatus 5 4 = 0 := by
  unfold State.becomeRoot
  rw [State.rdFld_clrBit_apart _ _ _ (by decide) (by decide) (by decide)]
  exact (State.rdFld_wrFld_self _ _ _ (by decide) (by decide)).trans (Nat.zero_mod _)

/-- The role bits of the standby that has taken over: it is the domain manager, and no standby any more. -/
theorem State.tookOver_bit (s : State) {i : Nat} (h : i < 32) : s.tookOver.rdBit Reg.mgtStatus i =
    (s.rdBit Reg.mgtStatus i && !decide (19 = i) || decide (18 = i)) := by
  unfold State.tookOver
  dsimp only
  rw [State.becomeRoot_bit _ h, State.rdBit_setBit_ne _ _ _ (by decide), State.rdBit_clrBit _ _ _ h]
  rfl

/-- ROLE_CHANGE is set. -/
theorem State.tookOver_event (s : State) : s.tookOver.rdBit Reg.mgtEvent 4 = true := by
  unfold State.tookOver
  dsimp only
  rw [State.becomeRoot_event, State.rdBit_setBit _ _ _ (by decide)]
  simp

theorem State.tookOver_parent (s : State) : s.tookOver.rd Reg.mgtParent = 0 := by
  unfold State.tookOver
  exact State.becomeRoot_parent _

theorem State.tookOver_level (s : State) : s.tookOver.rdFld Reg.shtSyncStatus 5 4 = 0 := by
  unfold State.tookOver
  exact State.becomeRoot_level _

theorem State.tookOver_role (s : State) : s.tookOver.mgt.dmIsStandby = true := rfl

/-- The standby in the role is the domain manager. -/
theorem State.dmChip_of_standby {s : State} (role : s.mgt.dmIsStandby = true) :
    s.dmChip.toNat = s.rdFld Reg.mgtDm 29 16 := by
  have small : s.rdFld Reg.mgtDm 29 16 < 2 ^ 14 := Nat.mod_lt _ (by decide)
  simp only [State.dmChip, role, if_true, BitVec.toNat_ofNat]
  exact Nat.mod_eq_of_lt small

/-- With no doorbell held and no request for a cut in execution, the taking over is all that the registers and the role see of
the loss. -/
theorem State.loseDm_standby_seen {u : State} (named : u.rdBit Reg.mgtDm 30 = true) (first : u.mgt.dmIsStandby = false)
    (standby : u.rdBit Reg.mgtStatus 19 = true) (bells : u.chan.bellsHeld = [])
    (requests : (u.chan.cmds.any fun c => c.opc == 0x0A && c.started && c.status.isNone) = false) :
    (∀ q, u.loseDm.rd q = u.tookOver.rd q) ∧ u.loseDm.mgt.dmIsStandby = true := by
  have jobs := u.tookOver.countUncounted_jobsOnly (copiedJobs u.freeCount)
  have chan : (u.tookOver.countUncounted (copiedJobs u.freeCount)).chan = u.chan := jobs.touches.frame .chan (by decide)
  rw [State.loseDm_standby named first standby,
    State.answerRequests_of_none (by rw [chan]; exact bells) (by rw [chan]; exact requests)]
  exact ⟨jobs.rd, jobs.role.trans u.tookOver_role⟩

/-! ### The parent is lost (R330) -/

/-- PARENT_LOST is set, and the chip holds over (R24, R330). -/
def State.noteLoss (s : State) : State :=
  let v := s.setBit Reg.mgtEvent 3
  if v.rdBit Reg.shtSyncStatus 1 then v else v.holdOver

theorem State.rd_noteLoss_ne (s : State) {q : Nat} (event : q ≠ Reg.mgtEvent) (status : q ≠ Reg.shtSyncStatus) :
    s.noteLoss.rd q = s.rd q := by
  refine Eq.trans ?_ (State.rd_setBit_ne s 3 event)
  unfold State.noteLoss
  dsimp only
  split
  · rfl
  · exact State.rd_holdOver_ne _ status

@[simp] theorem State.noteLoss_mgt (s : State) : s.noteLoss.mgt = s.mgt := by
  unfold State.noteLoss
  dsimp only
  split <;> rfl

@[simp] theorem State.noteLoss_dmChip (s : State) : s.noteLoss.dmChip = s.dmChip :=
  State.dmChip_congr (s.rd_noteLoss_ne (by decide) (by decide)) (congrArg Mgt.dmIsStandby s.noteLoss_mgt)

@[simp] theorem State.noteLoss_self (s : State) : s.noteLoss.self = s.self :=
  State.self_congr (s.rd_noteLoss_ne (by decide) (by decide))

/-- The state of a chip that at count n has had no exchange with its parent for LOST_MS. -/
def State.withoutParent (s : State) (n : Nat) : State := (s.reach n).noteLoss

@[simp] theorem State.withoutParent_dmChip (s : State) (n : Nat) : (s.withoutParent n).dmChip = s.dmChip :=
  (State.noteLoss_dmChip _).trans (s.reach_dmChip n)

@[simp] theorem State.withoutParent_self (s : State) (n : Nat) : (s.withoutParent n).self = s.self :=
  (State.noteLoss_self _).trans (s.reach_self n)

/-- A lost parent is not ready. -/
def State.unready (s : State) (lost : Nat) : State :=
  { s with mgt := { s.mgt with ready := s.mgt.ready.filter (·.toNat != lost) } }

/-- The chip goes on under a parent, at which it registers. -/
def State.follow (s : State) (c : ChipId) : State := (s.setParent c).emit (.toChip c "REGISTER" [s.self.toNat])

/-- The chip becomes board manager, under the domain manager. -/
def State.becomeBoardManager (s : State) : State :=
  (((s.setBit Reg.mgtStatus 17).setBit Reg.mgtEvent 4).setParent s.dmChip).emit
    (.toChip s.dmChip "REGISTER" [s.self.toNat])

section
variable {s : State} {n : Nat} (committed : s.committed = true) (below : s.isDm = false)
  (count : s.clock.lastExchange.toNat + s.rdFld Reg.mgtHbCfg 7 0 * 1000000 = n)
include committed below count

/-- The parent that was lost is the domain manager. -/
theorem exec_parentLost_dm (p : Option ChipId) (dm : s.rdFld Reg.mgtParent 13 0 = s.dmChip.toNat) :
    exec (.parentLost p) s = .next (s.withoutParent n).loseDm := by
  change execParentLost p s = _
  unfold execParentLost
  rw [if_neg (by simp [committed, below]), count]
  dsimp only
  rw [State.reach_rdFld]
  exact if_pos (dm.trans (congrArg _ (s.withoutParent_dmChip n).symm))

/-- Another parent was lost: a new one is followed, or the chip takes the lost one's role. -/
theorem exec_parentLost_other (p : Option ChipId) (other : s.rdFld Reg.mgtParent 13 0 ≠ s.dmChip.toNat) :
    let k := (s.withoutParent n).unready (s.rdFld Reg.mgtParent 13 0)
    exec (.parentLost p) s = .next (if p = some s.self then k.becomeBoardManager else k.follow (p.getD k.dmChip)) := by
  intro k
  change execParentLost p s = _
  unfold execParentLost
  rw [if_neg (by simp [committed, below]), count]
  dsimp only
  rw [State.reach_rdFld]
  refine (if_neg fun dm => other (dm.trans (congrArg _ (s.withoutParent_dmChip n)))).trans ?_
  cases p with
  | none => rfl
  | some c =>
    have self : k.self = s.self := s.withoutParent_self n
    change (if c == k.self then _ else _) = _
    rw [self]
    by_cases me : c = s.self
    · simp only [me, beq_self_eq_true, if_true]; rfl
    · simp only [me, beq_iff_eq, Option.some.injEq, if_false]; rfl

end

theorem State.follow_of_self {s : State} {me : ChipId} (self : s.self = me) (c : ChipId) :
    s.follow c = (s.setParent c).emit (.toChip c "REGISTER" [me.toNat]) := by
  subst self; rfl

theorem State.becomeBoardManager_of_self {s : State} {me : ChipId} (self : s.self = me) : s.becomeBoardManager =
    (((s.setBit Reg.mgtStatus 17).setBit Reg.mgtEvent 4).setParent s.dmChip).emit
      (.toChip s.dmChip "REGISTER" [me.toNat]) := by
  subst self; rfl

theorem State.unready_withoutParent_self (s : State) (n lost : Nat) : ((s.withoutParent n).unready lost).self = s.self :=
  s.withoutParent_self n

/-- Settles O39: an accepted COMMIT comes to `committedState`; a lost parent is noted (`withoutParent`), and what follows is one
of `loseDm`, `becomeBoardManager` and `follow`. -/
theorem rolesAreTakenAndReplaced : Obligations.RolesAreTakenAndReplaced := by
  unfold Obligations.RolesAreTakenAndReplaced
  refine ⟨fun s up staged => ⟨exec_commit_early up, exec_commit_clash up staged, fun started agrees =>
      ⟨s.committedState, exec_commit_accepted up staged started agrees, ?_, s.committedState_coord, ?_, ?_, ?_,
        s.committedState_boot, State.committedState_root, State.committedState_board, s.committedState_touches.frame⟩⟩,
    fun p s committed below => ?_⟩
  case refine_1 | refine_2 | refine_3 | refine_4 => simp [State.committedState_bit, State.isNamedStandby]
  case refine_5 =>
    obtain ⟨n, count⟩ : ∃ n, s.clock.lastExchange.toNat + s.rdFld Reg.mgtHbCfg 7 0 * 1000000 = n := ⟨_, rfl⟩
    rw [count]
    intro v h lost k
    have self : k.self = s.self := s.unready_withoutParent_self n lost
    have board : k.becomeBoardManager = _ := State.becomeBoardManager_of_self self
    have follow (c : ChipId) : k.follow c = _ := State.follow_of_self self c
    have other (p : Option ChipId) := exec_parentLost_other committed below count p
    refine ⟨exec_parentLost_dm committed below count p, fun far => ?_, fun c far stranger => ?_, fun far => ?_,
      fun u named first standby bells requests => ?_, fun u named first other => ?_, fun u => State.loseDm_none⟩
    · rw [other _ far, if_pos rfl, ← board]
      rfl
    · rw [other _ far, if_neg (by simpa using stranger), ← follow]
      rfl
    · rw [other _ far, if_neg (by simp), ← follow]
      rfl
    · obtain ⟨rd, role⟩ := State.loseDm_standby_seen named first standby bells requests
      simp only [State.rdBit, State.rdFld, rd]
      exact ⟨(u.tookOver_bit (by decide)).trans (by simp), (u.tookOver_bit (by decide)).trans (by simp), u.tookOver_parent,
        u.tookOver_level, u.tookOver_event, role⟩
    · let t : State := { u with mgt := { u.mgt with dmIsStandby := true } }
      refine ⟨_, State.loseDm_other named first other, (t.setParent_touches t.dmChip).frame .mgt (by decide), ?_⟩
      exact (t.setParent_names _).trans (State.dmChip_of_standby (s := t) rfl)

end Sys2Proof.Machine
end

section
/-!
PROOF. Partition layouts (R63): where a partition ends, when a layout is valid, and the tiles that a partition holds.
-/

-- One declaration after another: the package as one text then needs few threads at a time.
set_option Elab.async false

namespace Sys2Proof.Machine

/-! ### Partition layouts (R63) -/

/-- A partition begun at bit i runs to j: j is the next set bit, or bit 8 when no higher bit is set. -/
structure RunsTo (start i j : Nat) : Prop where
  lt : i < j
  le : j ≤ 8
  set : j < 8 → bitOf start j = true
  clear : ∀ k, i < k → k < j → bitOf start k = false

theorem RunsTo.begin_lt {start i j : Nat} (run : RunsTo start i j) : i < 8 := Nat.lt_of_lt_of_le run.lt run.le

/-- Of two ends, the lower would be a set bit among the clear bits below the higher. -/
theorem RunsTo.end_le {start i j k : Nat} (run : RunsTo start i j) (other : RunsTo start i k) : j ≤ k := by
  refine Nat.le_of_not_lt fun lower => ?_
  have isSet : bitOf start k = true := other.set (Nat.lt_of_lt_of_le lower run.le)
  exact Bool.noConfusion (isSet.symm.trans (run.clear k other.lt lower))

theorem RunsTo.end_unique {start i j k : Nat} (run : RunsTo start i j) (other : RunsTo start i k) : j = k :=
  Nat.le_antisymm (run.end_le other) (other.end_le run)

/-- The model's search for the next set bit finds the end of the partition. -/
theorem runsTo_layoutNext {start i : Nat} (inside : i < 8) : RunsTo start i (layoutNext start i) := by
  unfold layoutNext
  cases found : (List.range 8).find? fun j => decide (i < j) && bitOf start j with
  | none =>
    have clear := List.find?_range_eq_none.1 found
    exact ⟨inside, Nat.le_refl 8, fun h => absurd h (Nat.lt_irrefl 8), fun k above below => by
      simpa only [above, decide_true, Bool.true_and, Bool.not_eq_true'] using clear k below⟩
  | some j =>
    obtain ⟨next, inRange, first⟩ := List.find?_range_eq_some.1 found
    simp only [Bool.and_eq_true, decide_eq_true_eq] at next
    exact ⟨next.1, Nat.le_of_lt (List.mem_range.1 inRange), fun _ => next.2, fun k above below => by
      simpa only [above, decide_true, Bool.true_and, Bool.not_eq_true'] using first k below⟩

theorem RunsTo.layoutNext_eq {start i j : Nat} (run : RunsTo start i j) : layoutNext start i = j :=
  (runsTo_layoutNext run.begin_lt).end_unique run

/-- The size of a partition from bit i to bit j is allowed, and divides where it begins. -/
def FitsLayout (i j : Nat) : Prop := (j - i = 1 ∨ j - i = 2 ∨ j - i = 4 ∨ j - i = 8) ∧ (j - i) ∣ i

/-- What the model's check of a layout says, at the ends that its search finds. -/
theorem layoutValid_iff_next (start : Nat) : layoutValid start = true ↔
    bitOf start 0 = true ∧ ∀ i < 8, bitOf start i = true → FitsLayout i (layoutNext start i) := by
  simp only [layoutValid, FitsLayout, Nat.dvd_iff_mod_eq_zero, or_assoc, Bool.and_eq_true, Bool.or_eq_true, Bool.not_eq_true',
    List.all_eq_true, List.mem_range, beq_iff_eq, ← Bool.not_eq_true, ← Decidable.imp_iff_not_or]

theorem layoutValid_iff (start : Nat) : layoutValid start = true ↔
    bitOf start 0 = true ∧ ∀ i j, RunsTo start i j → bitOf start i = true → FitsLayout i j := by
  rw [layoutValid_iff_next]
  refine and_congr_right fun _ => ⟨fun fits i j run begun => ?_, fun fits i inside begun => ?_⟩
  · rw [← run.layoutNext_eq]
    exact fits i run.begin_lt begun
  · exact fits i _ (runsTo_layoutNext inside) begun

theorem State.partSize_of_runsTo {s : State} {i j : Nat} (run : RunsTo s.layout i j) (begun : bitOf s.layout i = true) :
    s.partSize i = 8 * (j - i) := by
  rw [State.partSize, layoutUnits, if_pos (by simp only [run.begin_lt, begun, decide_true, Bool.and_self]), run.layoutNext_eq]

/-- Settles O60: the model's search for the next set bit finds the one end of a partition, so the check speaks of all ends and
the size is the distance to the end. -/
theorem partitionLayoutsAreValid : Obligations.PartitionLayoutsAreValid := by
  unfold Obligations.PartitionLayoutsAreValid
  refine ⟨fun start _ => (layoutValid_iff start).trans (and_congr_right fun _ => ⟨?_, ?_⟩), ?_⟩
  · exact fun fits i j lt le begun set clear => fits i j ⟨lt, le, set, clear⟩ begun
  · exact fun fits i j run begun => fits i j run.lt run.le begun run.set run.clear
  · intro s i j lt le begun set clear
    rw [State.partTiles, State.partSize_of_runsTo ⟨lt, le, set, clear⟩ begun]

end Sys2Proof.Machine
end

section
/-!
PROOF. The rows of a tile (R97, R99, R100): each issues the bundle at the PC.
-/

-- One declaration after another: the package as one text then needs few threads at a time.
set_option Elab.async false

namespace Sys2Proof.Machine

open Sys2Proof.Safety

/-! ### Rows issue their bundle -/

section
variable {s : State} {t : Nat} {b : Bundle}

/-- A row whose opcode stands in its slot issues the bundle. -/
theorem row_issues (h : Issues s t b) {i k : Nat} (op : opc (slotOf b i) = k) :
    (.next (s.row t b i k) : Host.Outcome State Fault Refusal) = .next (issued s t b) := by
  rw [State.row, if_pos op, State.issue_issues h]

/-- So does the row of a slot that alone executes. -/
theorem row_of_only {i k w : Nat} (only : OnlySlot s t b i w) (op : opc w = k) :
    (.next (s.row t b i k) : Host.Outcome State Fault Refusal) = .next (issued s t b) :=
  row_issues only.issues (only.word.symm ▸ op)

end

section
variable {s : State} {t : Fin 64} {b : Bundle} (h : Issues s t.val b)
include h

theorem exec_nop_issues (nop : ∃ j, j < 4 ∧ opc (slotOf b j) = 0) : exec (.nop t b) s = .next (issued s t.val b) := by
  change execNop t b s = _
  unfold execNop
  rw [if_pos, State.issue_issues h]
  obtain ⟨j, slot, zero⟩ := nop
  have any : ((List.range 4).any fun i => opc (slotOf b i) == 0) = true :=
    List.any_eq_true.2 ⟨j, List.mem_range.2 slot, beq_iff_eq.2 zero⟩
  rw [any, Bool.true_or]

theorem exec_fenceT_issues (op : opc (slotOf b 0) = 0x11) (fn : s0Fn (slotOf b 0) = 0) :
    exec (.fenceT t b) s = .next (issued s t.val b) := by
  change execFenceT t b s = _
  unfold execFenceT
  rw [if_neg (by simp [fn]), row_issues h op]

theorem exec_fenceC_issues (op : opc (slotOf b 0) = 0x11) (fn : s0Fn (slotOf b 0) = 1) :
    exec (.fenceC t b) s = .next (issued s t.val b) := by
  change execFenceC t b s = _
  unfold execFenceC
  rw [if_pos fn, row_issues h op]

theorem exec_fenceG_issues (op : opc (slotOf b 0) = 0x11) (fn : s0Fn (slotOf b 0) = 2) :
    exec (.fenceG t b) s = .next (issued s t.val b) := by
  change execFenceG t b s = _
  unfold execFenceG
  rw [if_pos fn, row_issues h op]

/-- A held bundle that nothing holds any more issues when it is tried again (R100). -/
theorem exec_bundleRelease_issues (held : (s.tile t.val).held = true) :
    exec (.bundleRelease t) s = .next (issued s t.val b) := by
  change execBundleRelease t s = _
  unfold execBundleRelease
  simp only [h.here, held, if_true, State.issue_issues h]

end

/-- Settles O3: `row_issues` for every row; NOP, the fences and the release of a held bundle choose theirs first. -/
theorem everyTileRowIssuesItsBundle : Obligations.EveryTileRowIssuesItsBundle := by
  unfold Obligations.EveryTileRowIssuesItsBundle
  intro t b s h w
  have row {i k : Nat} (op : opc (w i) = k) := row_issues h op
  refine ⟨row, row, row, row, row, row, row, row, row, row, row, row, row, row, row, fun ⟨op, fn⟩ => exec_fenceT_issues h op fn,
    fun ⟨op, fn⟩ => exec_fenceC_issues h op fn, fun ⟨op, fn⟩ => exec_fenceG_issues h op fn, row, row, row, row, row, row, row,
    fun nop => exec_nop_issues h ?_, row, row, row, row, row, row, row, row, row, row, row, row, row, row, row, row, row, row,
    exec_bundleRelease_issues h⟩
  rcases nop with zero | zero | zero | zero
  · exact ⟨0, by decide, zero⟩
  · exact ⟨1, by decide, zero⟩
  · exact ⟨2, by decide, zero⟩
  · exact ⟨3, by decide, zero⟩

end Sys2Proof.Machine
end

section
/-!
PROOF. The register banks (R97, R98): what a register reads after a write, and the deferred bank.
-/

-- One declaration after another: the package as one text then needs few threads at a time.
set_option Elab.async false

namespace Sys2Proof.Machine

/-! ### Banks (R98) -/

/-- The key of a register in a file of n registers, of which those from `first` on are banked: apart from it in the deferred
bank only. -/
theorem Tile.key_eq (x : Tile) (first shift r : Nat) :
    x.key first shift r = if x.routine.isSome = true ∧ first ≤ r then shift + r else r := by
  simp [Tile.key]

/-- Different registers have different keys. -/
theorem Tile.key_inj (x : Tile) (first shift r q : Nat) : x.key first shift q = x.key first shift r ↔ q = r := by
  simp only [Tile.key_eq]
  by_cases runs : x.routine.isSome = true
  · simp only [runs, true_and]
    split <;> split <;> omega
  · simp [runs]

/-- Register 0 of a banked file is in no bank. -/
theorem Tile.key_eq_zero (x : Tile) {first shift r : Nat} (low : 0 < first) : x.key first shift r = 0 ↔ r = 0 := by
  rw [Tile.key_eq]
  split <;> omega

/-- While a routine runs, the banked registers are not the frame program's. -/
theorem Tile.key_of_routine {x : Tile} (runs : x.routine.isSome = true) {first shift r : Nat} (banked : first ≤ r) :
    x.key first shift r = shift + r := by
  rw [Tile.key_eq, if_pos ⟨runs, banked⟩]

/-! ### Reading after writing (R97) -/

/-- A write to X0 leaves every register. -/
@[simp] theorem Tile.setXKey_zero (x : Tile) (v : Dword) : x.setXKey 0 v = x := rfl

/-- A write by bank key. -/
theorem Tile.setXKey_get (x : Tile) (k j : Nat) (v : Dword) : Sparse.get 0 (x.setXKey k v).x j =
    if k ≠ 0 ∧ j = k then v else Sparse.get 0 x.x j := by
  unfold Tile.setXKey
  split <;> simp [*]

/-- A write drops what is pending for the register, and writes by key. -/
theorem Tile.setX_eq (x : Tile) (r : Nat) (v : Dword) :
    x.setX r v = { x with pend := dropPendX x.pend (x.keyX r) }.setXKey (x.keyX r) v := rfl

theorem Tile.setX_get (x : Tile) (r j : Nat) (v : Dword) : Sparse.get 0 (x.setX r v).x j =
    if x.keyX r ≠ 0 ∧ j = x.keyX r then v else Sparse.get 0 x.x j := Tile.setXKey_get _ _ _ _

@[simp] theorem Tile.setXKey_routine (x : Tile) (k : Nat) (v : Dword) : (x.setXKey k v).routine = x.routine := by
  unfold Tile.setXKey; split <;> rfl

@[simp] theorem Tile.setX_routine (x : Tile) (r : Nat) (v : Dword) : (x.setX r v).routine = x.routine :=
  Tile.setXKey_routine _ _ _

@[simp] theorem Tile.setX_keyX (x : Tile) (r q : Nat) (v : Dword) : (x.setX r v).keyX q = x.keyX q := by
  simp [Tile.keyX, Tile.key_eq]

/-- A scalar register reads as last written, every other one as before; X0 is not written. -/
theorem Tile.setX_getX (x : Tile) {r q : Nat} (v : Dword) (written : r ≠ 0) :
    (x.setX r v).getX q = if q = r then v else x.getX q := by
  have key : x.keyX q = x.keyX r ↔ q = r := x.key_inj _ _ r q
  have kept : x.keyX r ≠ 0 := mt (x.key_eq_zero (by decide)).1 written
  unfold Tile.getX
  rw [Tile.setX_keyX, Tile.setX_get]
  by_cases same : q = r
  · subst same; simp [written, kept]
  · simp [same, key]

theorem Tile.setB_getB (x : Tile) {r q : Nat} (v : Bool) (written : r ≠ 0) :
    (x.setB r v).getB q = if q = r then v else x.getB q := by
  have key : x.keyB q = x.keyB r ↔ q = r := x.key_inj _ _ r q
  have bank : ({ x with b := Sparse.set false x.b (x.keyB r) v } : Tile).keyB q = x.keyB q := rfl
  unfold Tile.setB Tile.getB
  rw [if_neg written, bank, Sparse.get_set]
  by_cases same : q = r
  · subst same; simp [written]
  · simp [same, key]

theorem Tile.setD_getD (x : Tile) (r q : Nat) (v : BitVec 256) :
    (x.setD r v).getD q = if q = r then v else x.getD q := by
  have key : x.keyD q = x.keyD r ↔ q = r := x.key_inj _ _ r q
  have bank : (x.setD r v).keyD q = x.keyD q := rfl
  rw [Tile.getD, bank, Tile.setD, Sparse.get_set]
  simp only [key]
  rfl

/-- Settles O6: different registers have different keys (`key_inj`), and a routine's keys lie above the frame program's
(`key_of_routine`). -/
theorem hardWiredAndBankedRegisters : Obligations.HardWiredAndBankedRegisters := by
  unfold Obligations.HardWiredAndBankedRegisters
  have zero (x : Tile) : x.keyX 0 = 0 := (x.key_eq_zero (by decide)).2 rfl
  refine ⟨fun x => ⟨rfl, rfl, rfl⟩, fun x v => ?_, fun x v => rfl, fun x _ _ v _ _ written => x.setX_getX v written,
    fun x _ _ v _ _ written => x.setB_getB v written, fun x r q v _ _ => x.setD_getD r q v,
    fun x r v k runs banked _ hk => ?_, fun x r v k runs banked _ hk => ?_⟩
  · rw [Tile.setX_eq, zero, Tile.setXKey_zero]
  · have key : x.keyX r = 32 + r := Tile.key_of_routine runs banked
    rw [Tile.setX_get, if_neg (by omega)]
  · have key : x.keyD r = 64 + r := Tile.key_of_routine runs banked
    exact Sparse.get_set_ne _ _ _ (by omega)

end Sys2Proof.Machine
end

section
/-!
PROOF. The issue of a bundle (R41, R96-R99): the effect of the slot that alone executes, and what follows the slots.
-/

-- One declaration after another: the package as one text then needs few threads at a time.
set_option Elab.async false

namespace Sys2Proof.Machine

open Sys2Proof.Safety

/-! ### What a tile's own step leaves (R41) -/

theorem Frame.refl (l : List Component) (s : State) : Frame l s s := (Touches.refl l s).frame

theorem Frame.trans {l : List Component} {s u v : State} (h : Frame l s u) (k : Frame l u v) : Frame l s v :=
  fun c hc => Same.trans (h c hc) (k c hc)

theorem standsBeside_refl (s : State) (t : Nat) : StandsBeside s t s := ⟨fun _ _ => rfl, Frame.refl _ s, rfl, rfl, rfl⟩

theorem standsBeside_trans {s u v : State} {t : Nat} (h : StandsBeside s t u) (k : StandsBeside u t v) :
    StandsBeside s t v := by
  obtain ⟨tiles, frame, chans, tenants, contexts⟩ := h
  obtain ⟨tiles', frame', chans', tenants', contexts'⟩ := k
  exact ⟨fun n other => (tiles' n other).trans (tiles n other), Frame.trans frame frame', chans'.trans chans,
    tenants'.trans tenants, contexts'.trans contexts⟩

theorem State.setTile_standsBeside (s : State) (t : Nat) (x : Tile) : StandsBeside s t (s.setTile t x) :=
  ⟨fun _ other => State.tile_setTile_ne s x other, (Touches.setTile s t x).mono.frame, rfl, rfl, rfl⟩

theorem State.modTile_standsBeside (s : State) (t : Nat) (f : Tile → Tile) : StandsBeside s t (s.modTile t f) :=
  s.setTile_standsBeside t _

/-- From s to u the registers of tile t and the semaphores stand too, as where events are counted, lines asked for, or the tile
faults. -/
structure KeepsRegs (s : State) (t : Nat) (u : State) : Prop where
  regs : tileRegs (u.tile t) = tileRegs (s.tile t)
  sems : u.chan.sems = s.chan.sems
  beside : StandsBeside s t u

theorem KeepsRegs.refl (s : State) (t : Nat) : KeepsRegs s t s := ⟨rfl, rfl, standsBeside_refl s t⟩

theorem KeepsRegs.trans {s u v : State} {t : Nat} (h : KeepsRegs s t u) (k : KeepsRegs u t v) : KeepsRegs s t v :=
  ⟨k.regs.trans h.regs, k.sems.trans h.sems, standsBeside_trans h.beside k.beside⟩

/-- What the registers say of the flow. -/
theorem flow_of_tileRegs {x y : Tile} (h : tileRegs x = tileRegs y) :
    x.pc = y.pc ∧ x.x = y.x ∧ x.queue = y.queue ∧ x.routine = y.routine ∧ x.fence = y.fence := by
  simp only [tileRegs, Prod.mk.injEq] at h
  obtain ⟨pc, regs, -, -, -, -, -, -, queue, routine, -, fence, -, -⟩ := h
  exact ⟨pc, regs, queue, routine, fence⟩

theorem KeepsRegs.fence {s u : State} {t : Nat} (h : KeepsRegs s t u) : (u.tile t).fence = (s.tile t).fence := by
  obtain ⟨-, -, -, -, fence⟩ := flow_of_tileRegs h.regs
  exact fence

/-- A change that touches neither tiles nor channels. -/
theorem KeepsRegs.of_touches {l : List Component} {s u : State} {t : Nat} (h : Touches l s u)
    (sub : ∀ c ∈ l, c ∈ [Component.rf, .flt, .dbg, .out] := by decide) : KeepsRegs s t u := by
  have other {c : Component} (hc : c ∉ [Component.rf, .flt, .dbg, .out]) : Same s u c := h.frame c fun k => hc (sub c k)
  have tiles : u.tiles = s.tiles := other (c := .tiles) (by decide)
  have chan : u.chan = s.chan := other (c := .chan) (by decide)
  have tile (n : Nat) : u.tile n = s.tile n := by simp only [State.tile, tiles]
  have wider : ∀ c ∈ [Component.rf, .flt, .dbg, .out], c ∈ [Component.rf, .tiles, .chan, .flt, .dbg, .out] := by decide
  have frame := (h.mono fun c hc => wider c (sub c hc)).frame
  exact ⟨by rw [tile], by rw [chan], fun n _ => tile n, frame, by rw [chan], by rw [chan], by rw [chan]⟩

theorem State.modTile_keepsRegs (s : State) (t : Nat) {f : Tile → Tile} (same : tileRegs (f (s.tile t)) = tileRegs (s.tile t)) :
    KeepsRegs s t (s.modTile t f) :=
  ⟨by rw [State.tile_modTile_self, same], rfl, s.modTile_standsBeside t f⟩

/-! ### A tile's fault -/

/-- Raising interrupts leaves the channels, but for what is pending at a masked vector. -/
theorem State.sendMsix_chan (s : State) (fn vec : Nat) :
    ∃ m, (s.sendMsix fn vec).chan = { s.chan with msixPend := m } := by
  unfold State.sendMsix
  split
  · exact ⟨_, rfl⟩
  · exact ⟨s.chan.msixPend, rfl⟩

theorem State.fenceVectors_chan (s : State) : ∃ m, s.fenceVectors.chan = { s.chan with msixPend := m } := by
  unfold State.fenceVectors
  generalize dedup _ = fns
  induction fns generalizing s with
  | nil => exact ⟨s.chan.msixPend, rfl⟩
  | cons fn fns ih =>
    obtain ⟨m, sent⟩ := s.sendMsix_chan fn 0
    obtain ⟨n, rest⟩ := ih (s.sendMsix fn 0)
    exact ⟨n, by rw [List.foldl_cons, rest, sent]⟩

/-- A compute-domain reset that starts leaves the channels too. -/
theorem State.startReset_chan (s : State) (guilty tenant : Option Nat) (admin : Bool) :
    ∃ m, (s.startReset guilty tenant admin).chan = { s.chan with msixPend := m } := by
  unfold State.startReset
  split
  · exact ⟨s.chan.msixPend, by simp only [apply_ite State.chan, ite_self]⟩
  · dsimp only
    obtain ⟨m, fenced⟩ := State.fenceVectors_chan
      (((s.wrFld Reg.fltStatus 2 0 1).wrFld Reg.fltStatus 10 8 1).bumpFld Reg.fltResetCnt 15 0 1)
    refine ⟨m, Eq.trans ?_ fenced⟩
    split <;> rfl

theorem State.startReset_keepsRegs (s : State) (t : Nat) (guilty tenant : Option Nat) (admin : Bool) :
    KeepsRegs s t (s.startReset guilty tenant admin) := by
  have touches := s.startReset_touches guilty tenant admin
  have tiles : (s.startReset guilty tenant admin).tiles = s.tiles := touches.frame .tiles (by decide)
  have tile (n : Nat) : (s.startReset guilty tenant admin).tile n = s.tile n := by simp only [State.tile, tiles]
  obtain ⟨m, chan⟩ := s.startReset_chan guilty tenant admin
  exact ⟨by rw [tile], by rw [chan], fun n _ => tile n, touches.mono.frame, by rw [chan], by rw [chan], by rw [chan]⟩

theorem State.faultTile_keepsRegs (s : State) (t : Nat) (r : EvRec) : KeepsRegs s t (s.faultTile t r) :=
  ((KeepsRegs.of_touches (s.logEvent_touches r)).trans ((s.logEvent r).modTile_keepsRegs t rfl)).trans
    (State.startReset_keepsRegs _ _ _ _ _)

/-- The fetch at the PC (R96): lines are asked for, or the tile faults. -/
theorem State.fetchAt_keepsRegs (s : State) (t : Nat) : KeepsRegs s t (s.fetchAt t) := by
  unfold State.fetchAt
  dsimp only
  split
  · split
    · exact s.faultTile_keepsRegs t _
    · exact .refl s t
  · exact s.modTile_keepsRegs t rfl

theorem State.pmcTile_keepsRegs (s : State) (t code v : Nat) : KeepsRegs s t (s.pmcTile t code v) :=
  .of_touches (s.pmcTile_touches t code v)

/-- No barrier waits to be joined. -/
theorem State.joinBarrier_of_fence {s : State} {t : Nat} (none : ∀ g, (s.tile t).fence ≠ some (.group g none)) :
    s.joinBarrier t = s := by
  unfold State.joinBarrier
  dsimp only
  split
  · next g fence => exact absurd fence (none g)
  · rfl

/-! ### After the slots -/

/-- The tile after the slots of a bundle that issued from x: its PC moved, and what DEFP, DEFD and RETD do to the flow. -/
def Tile.moveOn (y x : Tile) (w : Nat) : Tile :=
  let y := { y.touch with pc := (if x.live w then x.branch w else none).getD (x.pc + 1), held := false, debugPass := false,
                          debugHalted := x.debugStep, debugStep := false }
  if x.live w then y.s0Flow x w else y

/-- R97, R99. After the slots the tile has moved on, and beyond that no register changes. -/
theorem State.afterBundle_keepsRegs (s : State) (t : Nat) (x : Tile) (b : Bundle)
    (fence : ∀ g, ((s.tile t).moveOn x (slotOf b 0)).fence ≠ some (.group g none)) :
    KeepsRegs (s.modTile t fun y => y.moveOn x (slotOf b 0)) t (s.afterBundle t x b) := by
  let m := s.modTile t fun y => y.moveOn x (slotOf b 0)
  let counted := if ((m.pmcTile t 0x02 1).tile t).routineSeq = x.routineSeq then m.pmcTile t 0x02 1
    else (m.pmcTile t 0x02 1).pmcTile t 0x09 1
  have kept : KeepsRegs m t counted := by
    unfold counted
    split
    · exact m.pmcTile_keepsRegs t _ _
    · exact (m.pmcTile_keepsRegs t _ _).trans (State.pmcTile_keepsRegs _ t _ _)
  change KeepsRegs m t (if (counted.tile t).faulted then counted else (counted.fetchAt t).joinBarrier t)
  split
  · exact kept
  · have fetched := kept.trans (counted.fetchAt_keepsRegs t)
    have same : ((counted.fetchAt t).tile t).fence = ((s.tile t).moveOn x (slotOf b 0)).fence := by
      rw [fetched.fence, State.tile_modTile_self]
    rw [State.joinBarrier_of_fence (by rw [same]; exact fence)]
    exact fetched

/-! ### One slot alone -/

/-- A fold over a range in which only position i acts. -/
theorem foldl_range_only {σ : Type} {f : σ → Nat → σ} {n i : Nat} (idle : ∀ u j, j < n → j ≠ i → f u j = u) (s : σ) :
    (List.range n).foldl f s = if i < n then f s i else s := by
  induction n with
  | zero => rfl
  | succ n ih =>
    rw [List.range_succ, List.foldl_append, List.foldl_cons, List.foldl_nil, ih fun u j below => idle u j (by omega)]
    by_cases last : i = n
    · subst last; simp
    · rw [idle _ n (by omega) (Ne.symm last)]
      exact ite_congr (propext (by omega)) (fun _ => rfl) fun _ => rfl

theorem State.slotEffect_idle (s : State) (t : Nat) {x : Tile} {b : Bundle} {i : Nat} (idle : x.live (slotOf b i) = false) :
    s.slotEffect t x b i = s := by
  unfold State.slotEffect
  simp [idle]

/-- The state in which an issuing bundle's slots act: the fence before it, if any, is over. -/
def State.begun (s : State) (t : Nat) : State := s.setTile t (unfenced (s.tile t))

@[simp] theorem State.begun_tile (s : State) (t : Nat) : (s.begun t).tile t = unfenced (s.tile t) := s.tile_setTile_self t _

theorem State.begun_standsBeside (s : State) (t : Nat) : StandsBeside s t (s.begun t) := s.setTile_standsBeside t _

section
variable {s : State} {t i w : Nat} {b : Bundle}

/-- Where one slot alone executes, its effect is the bundle's. -/
theorem slotsDone_of_only (only : OnlySlot s t b i w) (slot : i < 4) :
    slotsDone s t b = (s.begun t).slotEffect t (unfenced (s.tile t)) b i := by
  unfold slotsDone
  rw [foldl_range_only (i := i) fun u j below other => u.slotEffect_idle t (only.others j below other), if_pos slot]
  rfl

theorem slotsDone_s0 (only : OnlySlot s t b 0 w) :
    slotsDone s t b = (s.begun t).s0Effect t (unfenced (s.tile t)) w := by
  have live : (unfenced (s.tile t)).live w = true := only.live
  rw [slotsDone_of_only only (by decide)]
  unfold State.slotEffect
  dsimp only
  rw [only.word, live]
  rfl

theorem slotsDone_s2 (only : OnlySlot s t b 2 w) :
    slotsDone s t b = (s.begun t).s2Effect t (unfenced (s.tile t)) w := by
  have live : (unfenced (s.tile t)).live w = true := only.live
  rw [slotsDone_of_only only (by decide)]
  unfold State.slotEffect
  dsimp only
  rw [only.word, live]
  rfl

theorem slotsDone_s3 (only : OnlySlot s t b 3 w) :
    slotsDone s t b = (s.begun t).s3Effect t (unfenced (s.tile t)) w := by
  have live : (unfenced (s.tile t)).live w = true := only.live
  rw [slotsDone_of_only only (by decide)]
  unfold State.slotEffect
  dsimp only
  rw [only.word, live]
  rfl

/-- A bundle of which no slot executes does nothing. -/
theorem slotsDone_of_idle (idle : ∀ j, j < 4 → (s.tile t).live (slotOf b j) = false) : slotsDone s t b = s.begun t := by
  unfold slotsDone
  rw [foldl_range_only (i := 4) fun u j below _ => u.slotEffect_idle t (idle j below), if_neg (by decide)]
  rfl

end

/-! ### Effects on the tile's registers -/

/-- v is u with f applied to tile t. -/
structure ActsOnTile (u : State) (t : Nat) (f : Tile → Tile) (v : State) : Prop where
  tile : v.tile t = f (u.tile t)
  sems : v.chan.sems = u.chan.sems
  beside : StandsBeside u t v

theorem ActsOnTile.modTile (u : State) (t : Nat) (f : Tile → Tile) : ActsOnTile u t f (u.modTile t f) :=
  ⟨u.tile_modTile_self t f, rfl, u.modTile_standsBeside t f⟩

theorem ActsOnTile.none (u : State) (t : Nat) : ActsOnTile u t id u := ⟨rfl, rfl, standsBeside_refl u t⟩

theorem Tile.touch_eq (x : Tile) : ∃ l, x.touch = { x with lines := l } := by
  unfold Tile.touch
  dsimp only
  split
  · exact ⟨_, rfl⟩
  · exact ⟨x.lines, rfl⟩

/-- The registers of a tile that has moved on from a bundle whose S0 executes. -/
theorem Tile.moveOn_regs (y : Tile) {x : Tile} {w : Nat} (live : x.live w = true) :
    tileRegs (y.moveOn x w) = tileRegs (({ y with pc := (x.branch w).getD (x.pc + 1) } : Tile).s0Flow x w) := by
  obtain ⟨l, touched⟩ := y.touch_eq
  unfold Tile.moveOn
  rw [touched]
  simp only [live, if_true]
  unfold Tile.s0Flow
  split
  · dsimp only
    split
    · rfl
    · unfold Tile.takeEntry
      dsimp only
      cases y.queue <;> rfl
  · unfold Tile.takeEntry
    dsimp only
    cases y.queue <;> rfl
  · rfl
  · rfl

theorem Tile.moveOn_regs_of_idle (y : Tile) {x : Tile} {w : Nat} (idle : x.live w = false) :
    tileRegs (y.moveOn x w) = tileRegs { y with pc := x.pc + 1 } := by
  obtain ⟨l, touched⟩ := y.touch_eq
  unfold Tile.moveOn
  rw [touched]
  simp [idle, tileRegs]

section
variable {s : State} {t : Nat} {b : Bundle} {c : Instr} {f g : Tile → Tile} {pc : Word}

/-- A bundle that issues, with no barrier waiting after it, leaves the registers that its slots and the move give. -/
theorem issued_regs {y : Tile} (acts : ActsOnTile (s.begun t) t f (slotsDone s t b))
    (moved : tileRegs ((f (unfenced (s.tile t))).moveOn (unfenced (s.tile t)) (slotOf b 0)) = tileRegs y)
    (fence : ∀ k, y.fence ≠ some (.group k none)) :
    tileRegs ((issued s t b).tile t) = tileRegs y ∧ (issued s t b).chan.sems = s.chan.sems ∧
      StandsBeside s t (issued s t b) := by
  have tile : (slotsDone s t b).tile t = f (unfenced (s.tile t)) := by rw [acts.tile, State.begun_tile]
  obtain ⟨-, -, -, -, same⟩ := flow_of_tileRegs moved
  have after := (slotsDone s t b).afterBundle_keepsRegs t (unfenced (s.tile t)) b (by rw [tile, same]; exact fence)
  refine ⟨?_, after.sems.trans acts.sems, standsBeside_trans (s.begun_standsBeside t) (standsBeside_trans acts.beside
    (standsBeside_trans (State.modTile_standsBeside _ t _) after.beside))⟩
  rw [issued, after.regs, State.tile_modTile_self, tile, moved]

theorem regResult_of_slots (row : exec c s = .next (issued s t b)) (acts : ActsOnTile (s.begun t) t f (slotsDone s t b))
    (moved : tileRegs ((f (unfenced (s.tile t))).moveOn (unfenced (s.tile t)) (slotOf b 0)) =
      tileRegs { g (unfenced (s.tile t)) with pc := pc })
    (fence : ∀ k, (g (unfenced (s.tile t))).fence ≠ some (.group k none)) : RegResult c s t pc g :=
  ⟨_, row, issued_regs acts moved fence⟩

/-- The result of a row of S0 that executes alone: what it does to the tile's registers, where the PC goes, and what it does
to the flow. -/
theorem regResult_of_s0 {w : Nat} (only : OnlySlot s t b 0 w) (row : exec c s = .next (issued s t b))
    (acts : ActsOnTile (s.begun t) t f ((s.begun t).s0Effect t (unfenced (s.tile t)) w))
    (next : ((unfenced (s.tile t)).branch w).getD ((s.tile t).pc + 1) = pc)
    (flow : ({ f (unfenced (s.tile t)) with pc := pc } : Tile).s0Flow (unfenced (s.tile t)) w =
      { g (unfenced (s.tile t)) with pc := pc })
    (fence : ∀ k, (g (unfenced (s.tile t))).fence ≠ some (.group k none)) : RegResult c s t pc g := by
  have live : (unfenced (s.tile t)).live w = true := only.live
  refine regResult_of_slots row (slotsDone_s0 only ▸ acts) ?_ fence
  rw [only.word, Tile.moveOn_regs _ live, ← flow]
  subst next
  rfl

end

end Sys2Proof.Machine
end

section
/-!
PROOF. The rows of S0 (R98, R99, R105, R106, R113-R116): what each writes, where the PC goes, and how a deferred routine starts.
-/

-- One declaration after another: the package as one text then needs few threads at a time.
set_option Elab.async false

namespace Sys2Proof.Machine

open Sys2Proof.Safety

/-! ### The rows of S0 (R98, R99, R105, R106, R113-R116) -/

@[simp] theorem Tile.setXKey_fence (x : Tile) (k : Nat) (v : Dword) : (x.setXKey k v).fence = x.fence := by
  unfold Tile.setXKey; split <;> rfl

@[simp] theorem Tile.setX_fence (x : Tile) (r : Nat) (v : Dword) : (x.setX r v).fence = x.fence := Tile.setXKey_fence _ _ _

@[simp] theorem Tile.setB_fence (x : Tile) (r : Nat) (v : Bool) : (x.setB r v).fence = x.fence := by
  unfold Tile.setB; split <;> rfl

@[simp] theorem Tile.setD_fence (x : Tile) (r : Nat) (v : BitVec 256) : (x.setD r v).fence = x.fence := rfl

@[simp] theorem unfenced_fence (x : Tile) : (unfenced x).fence = none := rfl

/-- The PC that follows a bundle whose S0 does not branch. -/
theorem Tile.branch_of_other {x : Tile} {w : Nat} (other : opc w ∉ [0x08, 0x09, 0x0A, 0x0B]) : x.branch w = none := by
  simp only [List.mem_cons, List.not_mem_nil, or_false, not_or] at other
  obtain ⟨br, loop, call, ret⟩ := other
  unfold Tile.branch
  split
  · next op => exact absurd op br
  · next op => exact absurd op call
  · next op => exact absurd op loop
  · next op => exact absurd op ret
  · rfl

/-- Only DEFP, DEFD and RETD act on the flow. -/
theorem Tile.s0Flow_of_other {x : Tile} {w : Nat} (other : opc w ∉ [0x12, 0x13, 0x14]) (y : Tile) : y.s0Flow x w = y := by
  simp only [List.mem_cons, List.not_mem_nil, or_false, not_or] at other
  obtain ⟨defp, defd, retd⟩ := other
  unfold Tile.s0Flow
  split
  · next op => exact absurd op defp
  · next op => exact absurd op defd
  · next op => exact absurd op retd
  · rfl

/-- With nothing queued, no entry is taken. -/
theorem Tile.takeEntry_of_empty {y : Tile} (empty : y.queue = []) (a : TakenAt) (ret : Word) : y.takeEntry a ret = y := by
  unfold Tile.takeEntry
  rw [empty]

/-- The rows of S0 that act after the bundle only. -/
theorem State.s0Effect_still (u : State) (t : Nat) (x : Tile) {w : Nat}
    (still : opc w ∈ [0x08, 0x0B, 0x0D, 0x12, 0x13, 0x14, 0x18]) : u.s0Effect t x w = u := by
  simp only [List.mem_cons, List.not_mem_nil, or_false] at still
  rcases still with op | op | op | op | op | op | op <;> simp only [State.s0Effect, op]

/-- What MFS reads is the same in the state in which the slots act. -/
@[simp] theorem State.begun_special (s : State) (t i : Nat) : (s.begun t).special t i = s.special t i := by
  unfold State.special
  rw [State.begun_tile]
  rfl

section
variable {s : State} {t w : Nat} {b : Bundle} {c : Instr} {f : Tile → Tile} {pc : Word}

/-- A row of S0 that leaves the deferred queue and the routine alone. -/
theorem regResult_of_plain (only : OnlySlot s t b 0 w) (row : exec c s = .next (issued s t b))
    (acts : ActsOnTile (s.begun t) t f ((s.begun t).s0Effect t (unfenced (s.tile t)) w))
    (next : ((unfenced (s.tile t)).branch w).getD ((s.tile t).pc + 1) = pc) (plain : opc w ∉ [0x12, 0x13, 0x14])
    (fence : ∀ k, (f (unfenced (s.tile t))).fence ≠ some (.group k none)) : RegResult c s t pc f :=
  regResult_of_s0 only row acts next (Tile.s0Flow_of_other plain _) fence

end

/-- Settles O5: each of these rows writes one register of its tile, branches nowhere, and leaves the flow. -/
theorem scalarRowsWriteTheirRegister : Obligations.ScalarRowsWriteTheirRegister := by
  unfold Obligations.ScalarRowsWriteTheirRegister
  intro t b w s only x next
  have row {k : Nat} (op : opc w = k) := row_of_only only op
  refine ⟨fun op => ?_, fun op => ?_, fun op => ?_, fun op => ?_, fun op => ?_, fun op => ?_, fun op => ?_, fun op => ?_,
    fun op => ?_⟩
  all_goals
    refine regResult_of_plain only (row op) ?_ ?_ (by simp [op]) (by simp)
    · simp only [State.s0Effect, op, State.begun_special]
      exact .modTile _ _ _
    · rw [Tile.branch_of_other (by simp [op])]
      rfl

/-- Settles O7: each row by what it does to its tile, where it branches, and what it does to the flow. -/
theorem flowRowsMoveThePc : Obligations.FlowRowsMoveThePc := by
  unfold Obligations.FlowRowsMoveThePc
  refine ⟨fun t b w s only => ?_, fun t b s issues idle nop => ?_⟩
  · intro x next target
    have row {k : Nat} (op : opc w = k) := row_of_only only op
    have here {k : Nat} (op : opc w = k) : opc (slotOf b 0) = k := only.word.symm ▸ op
    have still (quiet : opc w ∈ [0x08, 0x0B, 0x0D, 0x12, 0x13, 0x14, 0x18]) :
        ActsOnTile (s.begun t.val) t.val id ((s.begun t.val).s0Effect t.val (unfenced x) w) := by
      rw [State.s0Effect_still _ _ _ quiet]
      exact .none _ _
    have onward (straight : opc w ∉ [0x08, 0x09, 0x0A, 0x0B]) : ((unfenced x).branch w).getD (x.pc + 1) = next := by
      rw [Tile.branch_of_other straight]
      rfl
    refine ⟨fun op => ?br, fun op => ?loop, fun op => ?call, fun op => ?ret, fun op => ?endf, fun op => ?waitc, fun op => ?waite,
      fun op fn => ?fenceT, fun op fn => ?fenceC, fun op room => ?defp, fun op => ?retd, fun op empty => ?defd, fun op => ?brk⟩
    case br | ret =>
      refine regResult_of_plain only (row op) (still (by simp [op])) ?_ (by simp [op]) (by simp)
      simp only [Tile.branch, op]
      rfl
    case waitc | brk =>
      exact regResult_of_plain only (row op) (still (by simp [op])) (onward (by simp [op])) (by simp [op]) (by simp)
    case loop =>
      refine regResult_of_plain only (row op) ?_ ?_ (by simp [op]) (by simp)
      · simp only [State.s0Effect, op]
        exact .modTile _ _ _
      · simp only [Tile.branch, op]
        exact apply_ite (Option.getD · (x.pc + 1)) _ _ _
    case call =>
      refine regResult_of_plain only (row op) ?_ ?_ (by simp [op]) (by simp)
      · simp only [State.s0Effect, op]
        exact .modTile _ _ _
      · simp only [Tile.branch, op]
        rfl
    case endf =>
      refine regResult_of_plain only (row op) ?_ (onward (by simp [op])) (by simp [op]) (by simp)
      simp only [State.s0Effect, op]
      exact .modTile _ _ _
    case waite =>
      refine regResult_of_plain only (row op) ?_ (onward (by simp [op])) (by simp [op]) ?_
      · simp only [State.s0Effect, op]
        exact .modTile _ _ _
      · intro k
        split <;> simp
    case fenceT =>
      refine regResult_of_plain only (exec_fenceT_issues only.issues (here op) (only.word.symm ▸ fn)) ?_
        (onward (by simp [op])) (by simp [op]) (by simp)
      simp only [State.s0Effect, op, fn]
      exact .modTile _ _ _
    case fenceC =>
      refine regResult_of_plain only (exec_fenceC_issues only.issues (here op) (only.word.symm ▸ fn)) ?_
        (onward (by simp [op])) (by simp [op]) (by simp)
      simp only [State.s0Effect, op, fn]
      exact .modTile _ _ _
    case defp =>
      refine regResult_of_s0 only (row op) (still (by simp [op])) (onward (by simp [op])) ?_ (by simp)
      simp only [Tile.s0Flow, op]
      exact if_pos room
    case retd =>
      refine regResult_of_s0 only (row op) (still (by simp [op])) (onward (by simp [op])) ?_ (by simp)
      simp only [Tile.s0Flow, op]
      rfl
    case defd =>
      refine regResult_of_s0 only (row op) (still (by simp [op])) (onward (by simp [op])) ?_ (by simp)
      simp only [Tile.s0Flow, op]
      exact Tile.takeEntry_of_empty (y := { unfenced x with pc := next }) empty _ _
  · refine regResult_of_slots (f := id) (exec_nop_issues issues nop) ?_ ?_ (by simp)
    · rw [slotsDone_of_idle idle]
      exact .none _ _
    · exact Tile.moveOn_regs_of_idle _ (idle 0 (by decide))

/-! ### Deferred routines start (R115, R116) -/

/-- What X30 and X31 read depends on the scalar registers and on whether a routine runs. -/
theorem Tile.getX_congr {x y : Tile} (regs : x.x = y.x) (routine : x.routine = y.routine) (r : Nat) : x.getX r = y.getX r := by
  simp only [Tile.getX, Tile.keyX, Tile.key, regs, routine]

/-- The tile runs the routine of entry e, with q still queued: X30 of the deferred bank holds ARG, X31 zero. -/
structure RunsEntry (y : Tile) (e : DefEntry) (q : List DefEntry) : Prop where
  pc : y.pc = e.pc
  queue : y.queue = q
  routine : y.routine.isSome = true
  arg : y.getX 30 = e.arg
  zero : y.getX 31 = 0

theorem RunsEntry.of_tileRegs {x y : Tile} {e : DefEntry} {q : List DefEntry} (h : RunsEntry y e q)
    (same : tileRegs x = tileRegs y) : RunsEntry x e q := by
  obtain ⟨pc, regs, queue, routine, -⟩ := flow_of_tileRegs same
  exact ⟨pc.trans h.pc, queue.trans h.queue, routine ▸ h.routine, (Tile.getX_congr regs routine 30).trans h.arg,
    (Tile.getX_congr regs routine 31).trans h.zero⟩

/-- While a routine runs, X24 to X31 are those of the deferred bank. -/
theorem Tile.getX_of_routine {x : Tile} (runs : x.routine.isSome = true) {r : Nat} (banked : 24 ≤ r) :
    x.getX r = Sparse.get 0 x.x (32 + r) := by
  rw [Tile.getX, if_neg (by omega), Tile.keyX, Tile.key_of_routine runs banked]

/-- The oldest entry of the queue is taken. -/
theorem Tile.takeEntry_runs {y : Tile} {e : DefEntry} {q : List DefEntry} (queue : y.queue = e :: q) (a : TakenAt) (ret : Word) :
    RunsEntry (y.takeEntry a ret) e q := by
  have regs : (y.takeEntry a ret).x = Sparse.set 0 (Sparse.set 0 y.x 62 e.arg) 63 0 := by
    unfold Tile.takeEntry
    rw [queue]
    rfl
  have flow : (y.takeEntry a ret).pc = e.pc ∧ (y.takeEntry a ret).queue = q ∧ (y.takeEntry a ret).routine.isSome = true := by
    unfold Tile.takeEntry
    rw [queue]
    exact ⟨rfl, rfl, rfl⟩
  obtain ⟨pc, left, routine⟩ := flow
  refine ⟨pc, left, routine, ?_, ?_⟩ <;> rw [Tile.getX_of_routine routine (by decide), regs] <;> simp

theorem Tile.takeEntry_fence (y : Tile) (a : TakenAt) (ret : Word) : (y.takeEntry a ret).fence = y.fence := by
  unfold Tile.takeEntry
  cases y.queue <;> rfl

/-- A row of S0 that only takes the oldest entry of the queue. -/
theorem entry_starts {s : State} {t w : Nat} {b : Bundle} {c : Instr} {e : DefEntry} {q : List DefEntry}
    (only : OnlySlot s t b 0 w) (queue : (s.tile t).queue = e :: q) (row : exec c s = .next (issued s t b))
    (defers : opc w ∈ [0x12, 0x13])
    (flow : ∀ y : Tile, y.queue = e :: q → ∃ a, y.s0Flow (unfenced (s.tile t)) w = y.takeEntry a y.pc) :
    ∃ u, exec c s = .next u ∧ RunsEntry (u.tile t) e q ∧ StandsBeside s t u := by
  let x := unfenced (s.tile t)
  let y : Tile := { x with pc := x.pc + 1 }
  have ops : opc w = 0x12 ∨ opc w = 0x13 := by simpa using defers
  have acts : ActsOnTile (s.begun t) t id (slotsDone s t b) := by
    rw [slotsDone_s0 only, State.s0Effect_still _ _ _ (by rcases ops with op | op <;> simp [op])]
    exact .none _ _
  obtain ⟨a, taken⟩ := flow y queue
  have moved : tileRegs (x.moveOn x (slotOf b 0)) = tileRegs (y.takeEntry a y.pc) := by
    rw [only.word, Tile.moveOn_regs _ (x := x) only.live, Tile.branch_of_other (by rcases ops with op | op <;> simp [op])]
    exact congrArg tileRegs taken
  have runs : RunsEntry (y.takeEntry a y.pc) e q := Tile.takeEntry_runs (y := y) queue a y.pc
  obtain ⟨regs, -, beside⟩ := issued_regs acts moved fun k => by rw [Tile.takeEntry_fence]; exact nofun
  exact ⟨_, row, runs.of_tileRegs regs, beside⟩

/-- Settles O8: DEFD, and DEFP at a full queue, take the oldest entry, and nothing else. -/
theorem deferredRoutineStarts : Obligations.DeferredRoutineStarts := by
  unfold Obligations.DeferredRoutineStarts
  intro t b w e q s only queue
  have row {k : Nat} (op : opc w = k) := row_of_only only op
  refine ⟨fun op => ?defd, fun op full => ?defp⟩
  case defd =>
    obtain ⟨u, next, ⟨pc, left, routine, arg, zero⟩, beside⟩ := entry_starts (c := .defd t b) only queue (row op) (by simp [op]) fun y _ =>
      ⟨.atDefd, by simp only [Tile.s0Flow, op]⟩
    exact ⟨u, next, pc, left, routine, arg, zero, beside⟩
  case defp =>
    obtain ⟨u, next, ⟨pc, left, routine, arg, zero⟩, beside⟩ := entry_starts (c := .defp t b) only queue (row op) (by simp [op])
      fun y same => ⟨_, by
        simp only [Tile.s0Flow, op]
        exact if_neg (by rw [same, List.length_cons]; omega)⟩
    exact ⟨u, next, pc, left, routine, arg, zero, beside⟩

end Sys2Proof.Machine
end

section
/-!
PROOF. The vector rows (R97, R110, R111, R430): a result is formed at issue, and written when its operation completes.
-/

-- One declaration after another: the package as one text then needs few threads at a time.
set_option Elab.async false

namespace Sys2Proof.Machine

open Sys2Proof.Safety

/-! ### Results are formed at issue -/

/-- What a bundle whose S2 alone executes comes to. -/
theorem exec_of_s2 {c : Instr} {s u : State} {t w : Nat} {b : Bundle} (only : OnlySlot s t b 2 w)
    (row : exec c s = .next (issued s t b)) (effect : (s.begun t).s2Effect t (unfenced (s.tile t)) w = u) :
    exec c s = .next (u.afterBundle t (unfenced (s.tile t)) b) := by
  rw [row, issued, slotsDone_s2 only, effect]

/-- The codes 0 to 2 name lane formats, none of them an MX format. -/
theorem laneCode_not_mx {c : Nat} (lane : c ≤ 2) : ∃ f, Fmt.ofCode (BitVec.ofNat 4 c) = some f ∧ f.isMx = false := by
  obtain rfl | rfl | rfl : c = 0 ∨ c = 1 ∨ c = 2 := by omega
  · exact ⟨.b32, rfl, rfl⟩
  · exact ⟨.bf16, rfl, rfl⟩
  · exact ⟨.b16, rfl, rfl⟩

section
variable (s : State) (t : Nat) (x : Tile) {w : Nat}

/-- A row with a vector result holds it back. -/
theorem State.s2Effect_vector (vector : opc w ∈ [0x01, 0x02, 0x03, 0x05, 0x09]) :
    s.s2Effect t x w = s.addPend t none (some (s2Vd w, s.s2Vector t x w)) [] := by
  simp only [List.mem_cons, List.not_mem_nil, or_false] at vector
  rcases vector with op | op | op | op | op <;> simp only [State.s2Effect, op]

/-- So does a cast into a lane format. -/
theorem State.s2Effect_cast (op : opc w = 0x06) (lane : s2Fmt w ≤ 2) :
    s.s2Effect t x w = s.addPend t none (some (s2Vd w, s.castV t x w)) [] := by
  obtain ⟨f, code, vector⟩ := laneCode_not_mx lane
  simp only [State.s2Effect, op, code, vector, Bool.false_eq_true, if_false]

/-- VRED holds back a scalar. -/
theorem State.s2Effect_vred (op : opc w = 0x04) :
    s.s2Effect t x w = s.addPend t (some (x.keyX (s2Xd w), vredOf x w)) none [] := by
  simp only [State.s2Effect, op]

end

/-! ### S2RESULT writes them -/

@[simp] theorem Tile.setXKey_pend (x : Tile) (k : Nat) (v : Dword) : (x.setXKey k v).pend = x.pend := by
  unfold Tile.setXKey; split <;> rfl

@[simp] theorem Tile.setXKey_v (x : Tile) (k : Nat) (v : Dword) : (x.setXKey k v).v = x.v := by
  unfold Tile.setXKey; split <;> rfl

@[simp] theorem Tile.setV_pend (x : Tile) (k : Nat) (v : List Word) : (x.setV k v).pend = x.pend := rfl

@[simp] theorem Tile.setV_x (x : Tile) (k : Nat) (v : List Word) : (x.setV k v).x = x.x := rfl

theorem Tile.setV_getV (x : Tile) (k j : Nat) (v : List Word) : (x.setV k v).getV j = if j = k then v else x.getV j :=
  Sparse.get_set _ _ _ _ _

/-- The scalar and the vector that are left of a result, if any, are written. -/
def Tile.writeScalar (x : Tile) : Option (Nat × Dword) → Tile
  | some (k, v) => x.setXKey k v
  | none => x

def Tile.writeVector (x : Tile) : Option (Nat × List Word) → Tile
  | some (k, v) => x.setV k v
  | none => x

@[simp] theorem Tile.writeScalar_pend (x : Tile) (o : Option (Nat × Dword)) : (x.writeScalar o).pend = x.pend := by
  cases o <;> simp [Tile.writeScalar]

@[simp] theorem Tile.writeScalar_v (x : Tile) (o : Option (Nat × Dword)) : (x.writeScalar o).v = x.v := by
  cases o <;> simp [Tile.writeScalar]

@[simp] theorem Tile.writeVector_pend (x : Tile) (o : Option (Nat × List Word)) : (x.writeVector o).pend = x.pend := by
  cases o <;> rfl

@[simp] theorem Tile.writeVector_x (x : Tile) (o : Option (Nat × List Word)) : (x.writeVector o).x = x.x := by
  cases o <;> rfl

/-- The tile after the S2RESULT of a result that it holds back. -/
def Tile.writeBack (x : Tile) (p : PendRes) : Tile :=
  (({ x with pend := x.pend.filter (·.id != p.id) } : Tile).writeScalar p.xd).writeVector p.vd

theorem exec_s2Result {t : Fin 64} {n : Nat} {p : PendRes} {s : State}
    (held : (s.tile t.val).pend.find? (·.id == n) = some p) :
    exec (.s2Result t n) s = .next ((s.modTile t.val fun x => x.writeBack p).joinBarrier t.val) := by
  have id : p.id = n := by simpa using List.find?_some held
  change execS2Result t n s = _
  unfold execS2Result
  simp only [held]
  subst id
  rfl

theorem Tile.writeBack_pend (x : Tile) (p : PendRes) : (x.writeBack p).pend = x.pend.filter (·.id != p.id) := by
  simp [Tile.writeBack]

/-- A written vector leaves the scalars. -/
theorem Tile.writeBack_x (x : Tile) (p : PendRes) :
    (x.writeBack p).x = (({ x with pend := x.pend.filter (·.id != p.id) } : Tile).writeScalar p.xd).x := by
  simp [Tile.writeBack]

/-- Settles O10: a vector row's effect is the result that it holds back, and S2RESULT comes to `writeBack`. -/
theorem vectorResultsAreFormedThenWritten : Obligations.VectorResultsAreFormedThenWritten := by
  unfold Obligations.VectorResultsAreFormedThenWritten
  refine ⟨fun t b w s only => ?_, fun t n p s held => ?_⟩
  · intro x u holds
    have row {k : Nat} (op : opc w = k) := row_of_only only op
    have vector (of : opc w ∈ [0x01, 0x02, 0x03, 0x05, 0x09]) := u.s2Effect_vector t.val (unfenced x) of
    exact ⟨fun op => exec_of_s2 only (row op) (vector (by simp [op])), fun op => exec_of_s2 only (row op) (vector (by simp [op])),
      fun op => exec_of_s2 only (row op) (vector (by simp [op])), fun op => exec_of_s2 only (row op) (vector (by simp [op])),
      fun op => exec_of_s2 only (row op) (vector (by simp [op])),
      fun op lane => exec_of_s2 only (row op) (u.s2Effect_cast t.val _ op lane),
      fun op => exec_of_s2 only (row op) (u.s2Effect_vred t.val _ op)⟩
  · have id : p.id = n := by simpa using List.find?_some held
    refine ⟨s.modTile t.val fun x => x.writeBack p, exec_s2Result held, ?_, fun k v vd => ?_, fun k v xd scalar j => ?_,
      fun vd => ?_, fun xd => ?_, fun v other => State.tile_modTile_ne s _ other, (s.modTile_touches t.val _).frame⟩
    all_goals rw [State.tile_modTile_self]
    · rw [Tile.writeBack_pend, id]
    · have get (j : Nat) : ((s.tile t.val).writeBack p).getV j = if j = k then v else (s.tile t.val).getV j := by
        rw [Tile.writeBack, vd]
        refine (Tile.setV_getV _ _ _ _).trans ?_
        simp [Tile.getV]
      exact ⟨by simp [get], fun j other => by simp [get, other]⟩
    · rw [Tile.writeBack_x, xd]
      refine (Tile.setXKey_get _ _ _ _).trans ?_
      simp [scalar]
    · rw [Tile.writeBack, vd]
      exact Tile.writeScalar_v _ _
    · rw [Tile.writeBack_x, xd]
      rfl

end Sys2Proof.Machine
end

section
/-!
PROOF. The memory rows (R104, R110, R112): the bytes and registers that VLD, VST, DLD, DSTR, SEMR and IPF read and write.
-/

-- One declaration after another: the package as one text then needs few threads at a time.
set_option Elab.async false

namespace Sys2Proof.Machine

open Sys2Proof.Safety

/-- What a bundle whose S3 alone executes comes to. -/
theorem exec_of_s3 {c : Instr} {s u : State} {t w : Nat} {b : Bundle} (only : OnlySlot s t b 3 w)
    (row : exec c s = .next (issued s t b)) (effect : (s.begun t).s3Effect t (unfenced (s.tile t)) w = u) :
    exec c s = .next (u.afterBundle t (unfenced (s.tile t)) b) := by
  rw [row, issued, slotsDone_s3 only, effect]

/-- Settles O11: each row's effect on the state in which the slots act, by its opcode. -/
theorem memoryRowsReadAndWrite : Obligations.MemoryRowsReadAndWrite := by
  unfold Obligations.MemoryRowsReadAndWrite
  intro t b w s x u
  refine ⟨fun only op => ?vld, fun only op => ?vst, fun only op => ?dld, fun only op => ?dstr, fun only op => ?semr,
    fun only op => ?ipf⟩
  case vld | vst =>
    refine exec_of_s2 only (row_of_only only op) ?_
    simp only [State.s2Effect, op]
    rfl
  case dld | dstr | semr | ipf =>
    refine exec_of_s3 only (row_of_only only op) ?_
    simp only [State.s3Effect, op]
    rfl

end Sys2Proof.Machine
end

section
/-!
PROOF. Completions and fetches (R96, R107, R109-R112, R231): an operation that owes nothing leaves its tile, a line joins the buffer.
-/

-- One declaration after another: the package as one text then needs few threads at a time.
set_option Elab.async false

namespace Sys2Proof.Machine

/-! ### An operation completes -/

/-- A completion counts at every event counter but E0, up to 0xFFFF (Table 5.2). -/
theorem Tile.bumpE_get (x : Tile) {k : Nat} (counts : k ≠ 0) (j : Nat) : Sparse.get 0 (x.bumpE k).e j =
    if j = k then (if Sparse.get 0 x.e k = 0xFFFF then 0xFFFF else Sparse.get 0 x.e k + 1) else Sparse.get 0 x.e j := by
  unfold Tile.bumpE
  rw [if_neg counts, Sparse.get_set]
  refine ite_congr rfl (fun _ => ?_) fun _ => rfl
  split
  · assumption
  · rfl

/-- An operation of one of the kinds that owes nothing more completes. -/
theorem State.opDone_complete {s : State} {t n : Nat} {o : Op} {kinds : List OpKind} (op : (s.tile t).op n = some o)
    (kind : o.kind ∈ kinds) (owes : o.owes = 0) (answered : o.aow.all (·.status.isSome) = true) :
    s.opDone t n kinds =
      ((s.modTile t fun x => { x.bumpE o.ec with ops := x.ops.filter (·.id != n) }).aptSettle).joinBarrier t := by
  unfold State.opDone State.finishOp
  simp [op, kind, owes, answered]

/-- A DMA completes while the memory is not in reset. -/
theorem exec_dmaDone {t : Fin 64} {n : Nat} {o : Op} {s : State} (op : (s.tile t.val).op n = some o)
    (up : s.flt.memReset = false) : exec (.dmaDone t n false) s = .next (s.opDone t.val n [.dma]) := by
  change execDmaDone t n false s = _
  unfold execDmaDone
  simp [op, up]

/-- A DMA through the spill tier that PCIe fails faults its tile (R231). -/
theorem exec_dmaDone_fails {t : Fin 64} {n : Nat} {o : Op} {s : State} (op : (s.tile t.val).op n = some o)
    (dma : o.kind = .dma) (spill : o.spill = true) :
    exec (.dmaDone t n true) s = .next (s.faultTile t.val (s.tileRec t.val 0x08 0)) := by
  change execDmaDone t n true s = _
  unfold execDmaDone
  simp [op, dma, spill]

/-! ### A line arrives -/

/-- The tile after the arrival of a line: it joins the buffer, which keeps the newest 1,024 (R96; log 176). -/
def Tile.keepLine (x : Tile) (line : Nat) (bytes : List Byte) : Tile :=
  let l := x.lines.filter (·.1 != line) ++ [(line, bytes)]
  { x with lines := l.drop (l.length - 1024) }

/-- The line is no longer on its way, and an Aperture may have drained (R229). -/
def State.lineHere (s : State) (t line : Nat) : State :=
  (s.modTile t fun x => { x with fetching := x.fetching.filter (· != line) }).aptSettle

/-- The exception of a fetch, where the PC lies in the line and the tile may issue (R96, R118). -/
def State.raiseAt (s : State) (t : Nat) (pc : Word) (line code : Nat) : State :=
  if pc.toNat / 8 = line ∧ s.canIssue t = true then s.exception t code { s0 := 0, s1 := 0, s2 := 0, s3 := 0 } else s

/-- The bytes of a line that lie in the image. -/
def Part.lineBytes (x : Part) (line : Nat) : Nat := min 256 (32 * x.imgLen - 256 * line)

/-- Whether an Aperture maps the line to HBM (R231), and what reading it gives. -/
def State.lineMapped (s : State) (t line : Nat) : Bool :=
  let p := s.part (s.partOf t)
  (s.lineView t line).aptAllows p.imgTenant (p.imgBase + 256 * line) (p.lineBytes line) false false

def State.readLine (s : State) (t line : Nat) : ReadOut :=
  let p := s.part (s.partOf t)
  s.readDev (((s.lineView t line).tenAddrs p.imgTenant (p.imgBase + 256 * line) (p.lineBytes line)).getD [])

theorem exec_lineFetchArrive {t : Fin 64} {line : Nat} {errs : List CellError} {s0 s : State} (met : s0.inject errs = s)
    (asked : (s.tile t.val).fetching.contains line = true) (inside : 8 * line < (s.part (s.partOf t.val)).imgLen)
    (up : s.flt.memReset = false) :
    exec (.lineFetchArrive t line errs) s0 = .next (
      if s.lineMapped t.val line = false then (s.lineHere t.val line).raiseAt t.val (s.tile t.val).pc line exAperture
      else match (s.readLine t.val line).bad with
      | some _ => ((s.readLine t.val line).st.lineHere t.val line).raiseAt t.val (s.tile t.val).pc line exFetch
      | none => ((s.readLine t.val line).st.lineHere t.val line).modTile t.val fun x => x.keepLine line
          ((s.readLine t.val line).bytes ++ List.replicate (256 - (s.part (s.partOf t.val)).lineBytes line) 0)) := by
  change execLineFetchArrive t line errs s0 = _
  unfold execLineFetchArrive
  rw [met]
  dsimp only
  have asked : line ∈ (s.tile t.val).fetching := by simpa using asked
  rw [if_neg (by simp [asked, inside, up])]
  have raise (v : State) (code : Nat) : (if ((s.tile t.val).pc.toNat / 8 = line && v.canIssue t.val) = true then
      v.exception t.val code { s0 := 0, s1 := 0, s2 := 0, s3 := 0 } else v) =
        v.raiseAt t.val (s.tile t.val).pc line code :=
    ite_congr (by simp) (fun _ => rfl) fun _ => rfl
  simp only [raise]
  cases mapped : s.lineMapped t.val line with
  | false =>
    have refused := mapped
    unfold State.lineMapped Part.lineBytes at refused
    rw [if_pos (by rw [refused]; decide)]
    rfl
  | true =>
    have allowed := mapped
    unfold State.lineMapped Part.lineBytes at allowed
    rw [if_neg (by rw [allowed]; decide)]
    change (match (s.readLine t.val line).bad with | some _ => _ | none => _) = _
    cases (s.readLine t.val line).bad <;> rfl

/-- Settles O12: `opDone_complete` for the completions, `exec_lineFetchArrive` for the three ends of a fetch. -/
theorem operationsAndFetchesComplete : Obligations.OperationsAndFetchesComplete := by
  unfold Obligations.OperationsAndFetchesComplete
  refine ⟨fun t n o s op => ?_, fun t line errs s0 => ?_⟩
  · intro done
    refine ⟨fun owes answered => ?_, exec_dmaDone_fails op, fun x k j counts => x.bumpE_get counts j, fun x => rfl⟩
    have completes {k : OpKind} (kind : o.kind = k) : s.opDone t.val n [k] = done :=
      State.opDone_complete op (by simp [kind]) owes answered
    have next {k : OpKind} (kind : o.kind = k) :
        (.next (s.opDone t.val n [k]) : Host.Outcome State Fault Refusal) = .next done := by rw [completes kind]
    exact ⟨next, next, next, next, next, fun dma up => (exec_dmaDone op up).trans (next dma)⟩
  · intro s x p n a old arrived r raised asked inside up
    have arrives := exec_lineFetchArrive (errs := errs) (s0 := s0) (s := s) rfl asked inside up
    refine ⟨fun mapped intact => ?_, fun mapped broken => ?_, fun unmapped => ?_⟩
    · have mapped : s.lineMapped t.val line = true := mapped
      have intact : (s.readLine t.val line).bad = none := intact
      rw [arrives, if_neg (by simp [mapped]), intact]
      rfl
    · have mapped : s.lineMapped t.val line = true := mapped
      obtain ⟨e, bad⟩ := Option.isSome_iff_exists.1 broken
      have bad : (s.readLine t.val line).bad = some e := bad
      rw [arrives, if_neg (by simp [mapped]), bad]
      rfl
    · have unmapped : s.lineMapped t.val line = false := unmapped
      rw [arrives, if_pos unmapped]
      rfl

end Sys2Proof.Machine
end

section
/-!
PROOF. The closes (R31-R33, R105, R115-R117, R266): frames, deferred routines, steps and jobs.
-/

-- One declaration after another: the package as one text then needs few threads at a time.
set_option Elab.async false

namespace Sys2Proof.Machine

open Sys2Proof.Safety

/-! ### Frames and deferred routines (R105, R115-R117) -/

/-- An ENDF whose operations have completed: at the step-flagged one the queue runs first (R116). -/
theorem exec_frameClose {t : Fin 64} (left : Nat) {c : Closing} {s : State} (closing : (s.tile t.val).closing = some c)
    (done : (s.tile t.val).closable = true) (runs : s.halted = false) (clear : s.flt.run = none) :
    let p := s.partOf t.val
    exec (.frameClose t left) s = .next (
      if c.step = true ∧ (s.tile t.val).queue ≠ [] then
        ((s.modTile t.val fun x => { x.takeEntry .atStepEndf x.pc with wdTicks := 0 }).pmcTile t.val 0x09 1).fetchAt t.val
      else ((((s.closeFrame p t.val c).settleFreeze p).takeDeferred p t.val left).endInvocation p).nextInFrame p left) := by
  change execFrameClose t left s = _
  unfold execFrameClose
  simp only [closing]
  rw [if_neg (by simp [done, runs, clear]), apply_ite Host.Outcome.next]
  exact ite_congr (by simp) (fun _ => rfl) fun _ => rfl

/-- A RETD whose routine's operations have completed: DEFD goes on to the next entry, an idle tile takes one by its rule. -/
theorem exec_deferredReturn {t : Fin 64} (left : Nat) {r : Routine} {s : State} (routine : (s.tile t.val).routine = some r)
    (returning : r.returning = true) (ops : (s.tile t.val).ops.any (·.deferred) = false) (pend : (s.tile t.val).pend = [])
    (whole : (s.tile t.val).faulted = false) (runs : s.halted = false) (clear : s.flt.run = none) :
    let p := s.partOf t.val
    let u := s.modTile t.val fun x => x.endRoutine r
    exec (.deferredReturn t left) s = .next (
      if r.takenAt = .atDefd ∧ (s.tile t.val).queue ≠ [] then
        ((u.modTile t.val fun x => { x.takeEntry .atDefd r.returnPc with wdTicks := 0 }).pmcTile t.val 0x09 1).fetchAt t.val
      else ((if r.takenAt = .afterClose then u.takeDeferred p t.val left else u.fetchAt t.val).endInvocation p).nextInFrame p
        left) := by
  change execDeferredReturn t left s = _
  unfold execDeferredReturn
  simp only [routine]
  rw [if_neg (by simp [returning, ops, pend, whole, runs, clear]), apply_ite Host.Outcome.next]
  exact ite_congr (by simp) (fun _ => rfl) fun _ => rfl

/-! ### The close of a step (R32, R33) -/

/-- The partition whose step has closed: its boundary begins, the next one at `tick`; past step 2^40 - 1 the job ends. -/
def Part.stepClosed (x : Part) (tick : Dword) : Part :=
  let last := x.step = BitVec.allOnes 40
  { x with
    closing := x.step, step := if last then x.step else x.step + 1, stepOpen := false, action := 1, boundaryFrame := 0,
    dueCause := none, passTaken := 0, normTick := tick, closedTicks := x.stepTicks, closedLost := x.stepLost, stepTicks := 0,
    stepLost := 0,
    job := x.job.map fun j => { j with
      lastClosed := some x.step
      ending := if last then some 0x1B else if j.leaving then some 0x0A else j.ending } }

@[simp] theorem Part.stepClosed_onTiles (x : Part) (tick : Dword) : (x.stepClosed tick).onTiles = x.onTiles := rfl

/-- The job stays the same one, before or after its launch count. -/
@[simp] theorem Part.stepClosed_jobId (x : Part) (tick : Dword) :
    (x.stepClosed tick).job.map (·.jobId) = x.job.map (·.jobId) := by
  simp [Part.stepClosed, Function.comp_def]

@[simp] theorem Part.stepClosed_jobOn (x : Part) (tick : Dword) : (x.stepClosed tick).jobOn = x.jobOn := by
  simp [Part.jobOn, Part.jobActive, Part.stepClosed, Option.any_map]

/-- STEP_CLOSE, and at the last step STEP_WRAP, in SHT_PEVENT. -/
def State.flagClose (s : State) (p : Nat) : State :=
  let s' := s.setBit (Reg.shtPevent p) 3
  if (s.part p).step = BitVec.allOnes 40 then s'.setBit (Reg.shtPevent p) 5 else s'

/-- The state after the close of a step, before the exchange of its norm. -/
def State.stepClosed (s : State) (p : Nat) : State :=
  let tick := (s.part p).lastTick + BitVec.ofNat 64 ((s.flagClose p).period p)
  let u := ((s.flagClose p).setPart p ((s.part p).stepClosed tick)).mapTiles p fun x => { x with closedStep := false }
  u.emit (.report .stepBoundary (u.jobIdOf p) (s.part p).step.toNat)

section
variable {s : State} {p : Nat}

theorem State.flagClose_touches (s : State) (p : Nat) : Touches [.rf] s (s.flagClose p) :=
  .ite (.via (State.setBit_touches ..) (State.setBit_touches ..)) (State.setBit_touches ..)

@[simp] theorem State.flagClose_part (s : State) (p q : Nat) : (s.flagClose p).part q = s.part q := by
  unfold State.flagClose
  dsimp only
  split <;> rfl

/-- The first half of a step's close. -/
theorem State.closeStep_due (due : s.stepDue p = true) : s.closeStep p = (s.stepClosed p).startNorm p := by
  unfold State.closeStep
  rw [due]
  by_cases last : (s.part p).step = BitVec.allOnes 40
  · simp only [State.stepClosed, State.flagClose, Part.stepClosed, if_pos last]
    rfl
  · simp only [State.stepClosed, State.flagClose, Part.stepClosed, if_neg last]
    rfl

end

section
variable (s : State) (p : Nat)

@[simp] theorem State.mapTiles_parts (f : Tile → Tile) : (s.mapTiles p f).parts = s.parts :=
  (s.mapTiles_touches p f).frame .parts (by decide)

@[simp] theorem State.mapTiles_rf (f : Tile → Tile) : (s.mapTiles p f).rf = s.rf := (s.mapTiles_touches p f).frame .rf (by decide)

@[simp] theorem State.mapTiles_chan (f : Tile → Tile) : (s.mapTiles p f).chan = s.chan :=
  (s.mapTiles_touches p f).frame .chan (by decide)

@[simp] theorem State.mapTiles_out (f : Tile → Tile) : (s.mapTiles p f).out = s.out :=
  (s.mapTiles_touches p f).frame .out (by decide)

@[simp] theorem State.mapTiles_part (f : Tile → Tile) (q : Nat) : (s.mapTiles p f).part q = s.part q := by
  simp only [State.part, State.mapTiles_parts]

@[simp] theorem State.mapTiles_rdBit (f : Tile → Tile) (q i : Nat) : (s.mapTiles p f).rdBit q i = s.rdBit q i := by
  simp only [State.rdBit, State.rd, State.mapTiles_rf]

/-- The events of a partition are not its period. -/
@[simp] theorem State.flagClose_period (q : Nat) : (s.flagClose p).period q = s.period q := by
  have apart : Reg.shtPctrl q ≠ Reg.shtPevent p := by unfold Reg.shtPctrl Reg.shtPevent; omega
  unfold State.period State.flagClose
  dsimp only
  split <;> simp only [State.rdFld_setBit_ne _ _ _ _ apart]

theorem State.flagClose_bit : (s.flagClose p).rdBit (Reg.shtPevent p) 3 = true := by
  unfold State.flagClose
  dsimp only
  split <;> simp [State.rdBit_setBit]

/-- JOB_ID is of the context that stands on the partition, or of its job. -/
theorem State.jobIdOf_congr {s u : State} {p : Nat} (contexts : u.chan.contexts = s.chan.contexts)
    (on : (u.part p).jobOn = (s.part p).jobOn) (tiles : (u.part p).onTiles = (s.part p).onTiles)
    (job : (u.part p).job.map (·.jobId) = (s.part p).job.map (·.jobId)) : u.jobIdOf p = s.jobIdOf p := by
  have context : u.contextOn p = s.contextOn p := by simp only [State.contextOn, State.context, on, tiles, contexts]
  unfold State.jobIdOf
  rw [context]
  cases s.contextOn p with
  | some c => rfl
  | none => cases hu : (u.part p).job <;> cases hs : (s.part p).job <;> simp_all

theorem State.stepClosed_part_self : (s.stepClosed p).part p =
    (s.part p).stepClosed ((s.part p).lastTick + BitVec.ofNat 64 (s.period p)) := by
  simp [State.stepClosed]

theorem State.stepClosed_part_ne {q : Nat} (other : q ≠ p) : (s.stepClosed p).part q = s.part q := by
  simp [State.stepClosed, State.part_setPart_ne _ _ other]

theorem State.stepClosed_bit : (s.stepClosed p).rdBit (Reg.shtPevent p) 3 = true := by
  simp [State.stepClosed, State.flagClose_bit]

/-- The boundary is reported under the JOB_ID of the job that closes its step. -/
theorem State.stepClosed_out :
    (s.stepClosed p).out = s.out ++ [.report .stepBoundary (s.jobIdOf p) (s.part p).step.toNat] := by
  have chan : (s.flagClose p).chan = s.chan := (s.flagClose_touches p).frame .chan (by decide)
  have out : (s.flagClose p).out = s.out := (s.flagClose_touches p).frame .out (by decide)
  unfold State.stepClosed
  dsimp only
  rw [State.emit_out, State.mapTiles_out, State.setPart_out, out, State.jobIdOf_congr (s := s)]
  · simp [chan]
  · simp
  · simp
  · simp

end

/-! ### The end of a job (R33, R260) -/

/-- The ABANDONED record of a step that ends open in an abandoned job with a ledger (R193, R348). -/
def State.recordAbandoned (s : State) (p : Nat) (j : Job) : State :=
  match (s.part p).led with
  | some l => if (s.part p).abandoned then (s.stepRecord p 3 j l).2 else s
  | none => s

/-- The END record, which status 0x23 has none of (R212, R213), and the completion of the LAUNCH (R260). -/
def State.closeJob (s : State) (p : Nat) (e : BitVec 8) (j : Job) : State :=
  (if e = 0x23 then s else s.endRecord p e.toNat j.endDetail).finishJob p e.toNat j

theorem State.recordAbandoned_of_plain {s : State} {p : Nat} (j : Job)
    (plain : (s.part p).abandoned = false ∨ (s.part p).led = none) : s.recordAbandoned p j = s := by
  unfold State.recordAbandoned
  cases led : (s.part p).led with
  | none => rfl
  | some l =>
    have kept : (s.part p).abandoned = false := plain.resolve_right (by simp [led])
    simp [kept]

theorem State.recordAbandoned_of_led {s : State} {p : Nat} (j : Job) {l : Ledger} (abandoned : (s.part p).abandoned = true)
    (led : (s.part p).led = some l) : s.recordAbandoned p j = (s.stepRecord p 3 j l).2 := by
  unfold State.recordAbandoned
  rw [led, abandoned]
  rfl

/-- A job whose end is decided and whose actions are done: its records, and its LAUNCH completes. -/
theorem exec_jobEnd {p : Fin 8} {j : Job} {e : BitVec 8} {s : State} (clear : s.flt.run = none)
    (noStep : s.stepDue p.val = false) (job : (s.part p.val).job = some j) (ending : j.ending = some e)
    (finished : s.jobOver p.val j = true) :
    exec (.jobEnd p) s = .next ((s.recordAbandoned p.val j).closeJob p.val e j) := by
  change execJobEnd p s = _
  have still : s.closeStep p.val = s := by rw [State.closeStep, if_pos (by rw [noStep]; rfl)]
  have status : (e.toNat = 0x23) = (e = 0x23) := by rw [← BitVec.toNat_inj]; rfl
  unfold execJobEnd State.endJob
  rw [still]
  simp only [clear, job, ending, finished, status, Option.isSome_none, Option.isNone_some, Bool.and_false, Bool.not_true,
    Bool.false_eq_true, if_false]
  rfl

/-- Settles O16: each close comes to its named outcome, which is read off. -/
theorem framesRoutinesStepsAndJobsClose : Obligations.FramesRoutinesStepsAndJobsClose := by
  unfold Obligations.FramesRoutinesStepsAndJobsClose
  refine ⟨fun t left c s closing done runs clear => ?_,
    fun t left r s routine returning ops pend whole runs clear => ?_, fun p s due => ?_,
    fun p j e s clear noStep job ending finished => ?_⟩
  · intro p
    have closes := exec_frameClose left closing done runs clear
    refine ⟨fun atOnce => ?_, fun step queued => ?_⟩
    · rw [closes, if_neg fun ⟨step, queued⟩ => atOnce.elim (by simp [step]) queued]
    · rw [closes, if_pos ⟨step, queued⟩]
  · intro p u
    have returns := exec_deferredReturn left routine returning ops pend whole runs clear
    refine ⟨fun defd queued => ?_, fun last => ?_⟩
    · rw [returns, if_pos ⟨defd, queued⟩]
    · rw [returns, if_neg fun ⟨defd, queued⟩ => last.elim (· defd) queued]
  · intro x last
    have part := s.stepClosed_part_self p.val
    refine ⟨s.stepClosed p.val, congrArg Host.Outcome.next (State.closeStep_due due), ?_⟩
    rw [part]
    refine ⟨rfl, ?_, rfl, rfl, rfl, rfl, fun j job => ?_, fun q other => s.stepClosed_part_ne p.val other, s.stepClosed_bit p.val,
      s.stepClosed_out p.val⟩
    · exact ite_congr (by simp [last, x]) (fun _ => rfl) fun _ => rfl
    · have job : (s.part p.val).job = some j := job
      refine ⟨_, by rw [Part.stepClosed, job]; rfl, rfl, ?_⟩
      exact ite_congr (by simp [last, x]) (fun _ => rfl) fun _ => rfl
  · intro closed
    have ends := exec_jobEnd clear noStep job ending finished
    refine ⟨fun plain => ?_, fun l abandoned led => ?_⟩
    · rw [ends, State.recordAbandoned_of_plain j plain]
      rfl
    · rw [ends, State.recordAbandoned_of_led j abandoned led]
      rfl

end Sys2Proof.Machine
end

section
/-!
PROOF. The watchdogs (R118, R337-R339, R341, R408): what each records, and what it stops.
-/

-- One declaration after another: the package as one text then needs few threads at a time.
set_option Elab.async false

namespace Sys2Proof.Machine

open Sys2Proof.Safety

/-! ### A record of the event log -/

/-- A fault is counted, and FAULT set. -/
def State.countFault (s : State) (r : EvRec) : State :=
  if r.kind = 1 then (s.bump Reg.fltFaultCnt 1).setBit Reg.fltEvent 0 else s

@[simp] theorem State.countFault_flt (s : State) (r : EvRec) : (s.countFault r).flt = s.flt := by
  unfold State.countFault
  split <;> rfl

/-- Beyond the count of faults a record changes the log alone, or what is held for it. -/
theorem State.logEvent_eq (s : State) (r : EvRec) : ∃ events seq held, s.logEvent r =
    { s.countFault r with
      flt := { (s.countFault r).flt with events := events, eventSeq := seq, ctlHeld := held } } := by
  unfold State.logEvent
  change ∃ events seq held, (if (s.countFault r).flt.ctlReset = true then _ else _) = _
  split
  · exact ⟨(s.countFault r).flt.events, (s.countFault r).flt.eventSeq, _, rfl⟩
  · exact ⟨_, _, (s.countFault r).flt.ctlHeld, rfl⟩

@[simp] theorem State.logEvent_chan (s : State) (r : EvRec) : (s.logEvent r).chan = s.chan :=
  (s.logEvent_touches r).frame .chan (by decide)

@[simp] theorem State.logEvent_tile (s : State) (r : EvRec) (t : Nat) : (s.logEvent r).tile t = s.tile t := by
  have tiles : (s.logEvent r).tiles = s.tiles := (s.logEvent_touches r).frame .tiles (by decide)
  simp only [State.tile, tiles]

@[simp] theorem State.logEvent_ctlReset (s : State) (r : EvRec) : (s.logEvent r).flt.ctlReset = s.flt.ctlReset := by
  obtain ⟨events, seq, held, eq⟩ := s.logEvent_eq r
  simp [eq]

@[simp] theorem State.logEvent_companionHeld (s : State) (r : EvRec) :
    (s.logEvent r).flt.companionHeld = s.flt.companionHeld := by
  obtain ⟨events, seq, held, eq⟩ := s.logEvent_eq r
  simp [eq]

/-- A fault's record sets FAULT of FLT_EVENT, and clears no bit. -/
theorem State.logEvent_bit (s : State) {r : EvRec} (fault : r.kind = 1) {i : Nat} (h : i < 32) :
    (s.logEvent r).rdBit Reg.fltEvent i = (s.rdBit Reg.fltEvent i || decide (0 = i)) := by
  obtain ⟨events, seq, held, eq⟩ := s.logEvent_eq r
  rw [eq]
  change (s.countFault r).rdBit Reg.fltEvent i = _
  rw [State.countFault, if_pos fault, State.rdBit_setBit _ _ _ h]
  exact congrArg (· || decide (0 = i)) (State.rdBit_wrFld_ne s _ _ _ _ (by decide))

/-- What changes in the fault unit alone. -/
theorem State.setFlt_touches (s : State) (f : Flt) : Touches [.flt] s { s with flt := f } := by
  simp only [Touches.mk_iff]
  exact TouchesParts.upd (.refl _ s)

/-! ### A tile's fault -/

theorem State.startReset_run (s : State) (guilty tenant : Option Nat) (admin : Bool) :
    (s.startReset guilty tenant admin).flt.run.isSome = true := by
  unfold State.startReset
  split
  · next r run => simp [apply_ite State.flt, apply_ite Flt.run, apply_ite Option.isSome, run]
  · rfl

theorem State.faultTile_tile (s : State) (t : Nat) (r : EvRec) (n : Nat) :
    (s.faultTile t r).tile n = if n = t then { s.tile t with faulted := true } else s.tile n := by
  let v := (s.logEvent r).modTile t fun x => { x with faulted := true }
  have tiles : (s.faultTile t r).tiles = v.tiles := (v.startReset_touches _ _ _).frame .tiles (by decide)
  have tile : (s.faultTile t r).tile n = v.tile n := by simp only [State.tile, tiles]
  rw [tile]
  by_cases same : n = t
  · subst same; simp [v]
  · rw [State.tile_modTile_ne _ _ same, State.logEvent_tile, if_neg same]

theorem State.faultTile_run (s : State) (t : Nat) (r : EvRec) : (s.faultTile t r).flt.run.isSome = true :=
  State.startReset_run _ _ _ _

/-! ### The watchdogs -/

theorem State.setCh_rdBit (s : State) (ch e q i : Nat) : (s.setCh ch e).rdBit q i = s.rdBit q i := rfl

/-- A channel whose commands have waited for CHAN_WD_MS is recorded and stops. -/
theorem exec_channelWatchdog {ch : Fin 262144} {s : State} (up : s.pkg.heldBy = none) (watched : s.rdFld Reg.fltWdCfg 19 8 ≠ 0)
    (active : chState (s.chEntry ch.val) = 1) (waiting : cSqHead (s.chEntry ch.val) ≠ cSqTail (s.chEntry ch.val)) :
    ∃ n r, r.kind = 1 ∧ exec (.channelWatchdog ch) s = .next ((((s.reach n).setBit Reg.fltEvent 2).logEvent r).setCh ch.val
      (withState (s.chEntry ch.val) 2)) := by
  let e := s.chEntry ch.val
  let fetched := max (Sparse.get 0 s.chan.lastFetch ch.val).toNat (s.rungAt ch.val (cSqHead e)).toNat
  refine ⟨fetched + s.rdFld Reg.fltWdCfg 19 8 * 1000000, { kind := 1, source := 0x05, tenant := cTenant e, part := cPart e, chan := some ch.val }, rfl, ?_⟩
  change execChannelWatchdog ch s = _
  unfold execChannelWatchdog
  dsimp only
  rw [if_neg (by simp [up, watched, active, waiting])]

/-- Settles O41: what a record changes is `logEvent_eq`, what a tile's fault changes `faultTile_tile` and `startReset_run`. -/
theorem watchdogsRecordTheirFault : Obligations.WatchdogsRecordTheirFault := by
  unfold Obligations.WatchdogsRecordTheirFault
  refine ⟨fun t s up clear runs mem ctl free whole opened late debug => ?_, fun ch s up watched active waiting => ?_,
    fun core s up firmware ctl patting => ?_, fun core v s up firmware ctl unheld patting => ?_⟩
  · intro w v u
    refine ⟨?_, ?_, v.faultTile_run _ _, fun k other => ?_⟩
    · change execFrameWatchdog t s = _
      unfold execFrameWatchdog
      dsimp only
      exact if_neg (by simp [up, clear, runs, mem, ctl, free, whole, opened, late, debug])
    · simp only [u, State.faultTile_tile, if_pos]
    · simp only [u, State.faultTile_tile, if_neg other]
      rfl
  · obtain ⟨n, r, fault, acts⟩ := exec_channelWatchdog up watched active waiting
    have bit {i : Nat} (h : i < 32) : (((s.reach n).setBit Reg.fltEvent 2).logEvent r).rdBit Reg.fltEvent i =
        (s.rdBit Reg.fltEvent i || decide (2 = i) || decide (0 = i)) := by
      rw [State.logEvent_bit _ fault h, State.rdBit_setBit _ _ _ h, State.reach_rdBit]
    refine ⟨_, acts, ?_, ?_, ?_, ?_, ?_⟩
    · rw [State.setCh_rdBit, bit (by decide)]
      simp
    · rw [State.setCh_rdBit, bit (by decide)]
      simp
    · simp [State.setCh]
    · simp [State.setCh]
    · exact (Touches.via (State.setCh_touches ..) (.via (State.logEvent_touches ..) (.via (State.setBit_touches ..)
        (State.reach_touches s n).mono))).frame
  · change execServiceCoreWatchdog core s = _
    unfold execServiceCoreWatchdog
    rw [if_neg (by simp [-List.contains_eq_mem, up, firmware, ctl, patting])]
  · let r : EvRec := { kind := 1, source := 0x07, tenant := v.val }
    let w := (s.setBit Reg.fltEvent 4).logEvent r
    have touches : Touches [.rf, .flt] s w := .via (State.logEvent_touches ..) (State.setBit_touches ..).mono
    refine ⟨{ w with flt := { w.flt with companionHeld := w.flt.companionHeld ++ [8 + core.val] } }, ?_, ?_, ?_, ?_, ?_⟩
    · change execCompanionCoreWatchdog core v s = _
      unfold execCompanionCoreWatchdog
      rw [if_neg (by simp [-List.contains_eq_mem, up, firmware, ctl, unheld, patting])]
    · simp [w]
    · refine (State.logEvent_bit _ rfl (by decide)).trans ?_
      simp [State.rdBit_setBit]
    · simp [w, ctl]
    · exact (Touches.via (w.setFlt_touches _) touches).frame

end Sys2Proof.Machine
end

