-- ==== Sys2Proof/Proofs/Collectives.lean ====
section
/-!
PROOF. Collectives (R121, R124, R127-R131, R137-R142, R145, R151, R227-R229, R242, R359): what an arrival does to a
collective not launched yet and to one in progress, how collectives and barriers end and fail, and the three table windows.
-/

-- One declaration after another: the package as one text then needs few threads at a time.
set_option Elab.async false

namespace Sys2Proof.Machine

open Sys2Proof.Safety

/-- What a command does may be stated by any equal of its next state. -/
theorem exec_next {i : Instr} {s u v : State} (acts : exec i s = .next u) (equal : u = v) : exec i s = .next v :=
  acts.trans (congrArg Host.Outcome.next equal)

/-! ### The table windows -/

section
variable {s : State} {path : Path}

/-- A command of the group window runs, or, while one of it runs, only sets PRM_EVENT bit 8 (R145). -/
theorem State.gtw_open (opens : Opens s path Reg.prmGtwCmd) (f : State → State) :
    s.gtw path f = if s.rdBit Reg.prmGtwStatus 0 then s.setBit Reg.prmEvent 8 else f s :=
  State.via_open opens _

/-- A command of the ring window runs, or, while one of it runs, only sets KAL_EVENT bit 3. -/
theorem State.rtw_open (opens : Opens s path Reg.kalRtwCmd) (f : State → State) :
    s.rtw path f = if s.rdBit Reg.kalRtwStatus 0 then s.setBit Reg.kalEvent 3 else f s :=
  State.via_open opens _

/-- A command of the Aperture window runs, or, while one of it runs, only sets APT_EVENT bit 0. -/
theorem State.aptCmd_open (opens : Opens s path Reg.aptWCmd) (f : State → State) :
    s.aptCmd path f = if s.rdBit Reg.aptWStatus 0 then s.setBit Reg.aptEvent 0 else f s :=
  State.via_open opens _

end

/-- Settles O23: each window's command either runs or finds one running. -/
theorem tableWindowsCommitInvalidateRead : Obligations.TableWindowsCommitInvalidateRead := by
  unfold Obligations.TableWindowsCommitInvalidateRead
  refine ⟨fun path s up holds busy => ?_, fun path s up holds busy => ?_, fun path s up holds idle => ?_,
    fun path s up holds idle => ?_, fun path keep s up holds => ⟨fun busy => ?_, fun idle => ?_⟩⟩
  · have sets f := (State.gtw_open ⟨up, holds⟩ f).trans (if_pos busy)
    exact ⟨exec_next rfl (sets _), exec_next rfl (sets _), exec_next rfl (sets _)⟩
  · have sets f := (State.rtw_open ⟨up, holds⟩ f).trans (if_pos busy)
    exact ⟨exec_next rfl (sets _), exec_next rfl (sets _), exec_next rfl (sets _)⟩
  · have runs f := (State.gtw_open ⟨up, holds⟩ f).trans (if_neg (ne_true_of_eq_false idle))
    exact ⟨exec_next rfl (runs _), exec_next rfl (runs _), exec_next rfl (runs _)⟩
  · have runs f := (State.rtw_open ⟨up, holds⟩ f).trans (if_neg (ne_true_of_eq_false idle))
    exact ⟨exec_next rfl (runs _), exec_next rfl (runs _), exec_next rfl (runs _)⟩
  · have sets f := (State.aptCmd_open ⟨up, holds⟩ f).trans (if_pos busy)
    exact ⟨exec_next rfl (sets _), exec_next rfl (sets _), exec_next rfl (sets _)⟩
  · have runs f := (State.aptCmd_open ⟨up, holds⟩ f).trans (if_neg (ne_true_of_eq_false idle))
    exact ⟨exec_next rfl (runs _), exec_next rfl (runs _), exec_next rfl (runs _)⟩

/-! ### Arrivals for a collective not launched yet -/

section
variable {s : State} {id : CollId}

theorem State.dueDeadline_of_absent (absent : s.findColl id = none) : s.dueDeadline id = s := by
  unfold State.dueDeadline
  rw [absent]

theorem State.onHeader_of_absent (absent : s.findColl id = none) (rank : ChipId) (h : LaunchHeader) :
    s.onHeader id rank h = s.keepEarly id (.contribHeader id rank h) := by
  unfold State.onHeader
  rw [absent]

theorem State.onMismatch_of_absent (absent : s.findColl id = none) : s.onMismatch id = s.keepEarly id (.mismatchNotice id) := by
  unfold State.onMismatch
  rw [absent]

theorem State.onCapacity_of_absent (absent : s.findColl id = none) : s.onCapacity id = s.keepEarly id (.capacityNotice id) := by
  unfold State.onCapacity
  rw [absent]

theorem State.onEc_of_absent (absent : s.findColl id = none) (rank : ChipId) (b : Nat) (ec : BitVec 16) :
    s.onEc id rank b ec = s.keepEarly id (.anchorEc id rank b ec) := by
  unfold State.onEc
  simp only [State.dueDeadline_of_absent absent, absent]

theorem State.onResult_of_absent (absent : s.findColl id = none) (owner : ChipId) (data side : List Byte) (ps : List ChipId) :
    s.onResult id owner data side ps = s.keepEarly id (.shardResult id owner data side ps) := by
  unfold State.onResult
  rw [absent]

theorem State.onCount_of_absent (absent : s.findColl id = none) (rank : ChipId) (k : Word) :
    s.onCount id rank k = s.keepEarly id (.countExchange id rank k) := by
  unfold State.onCount
  rw [absent]

theorem State.onContribution_of_absent (absent : s.findColl id = none) (rank : ChipId) (data side : List Byte) :
    s.onContribution id rank data side = s.keepEarly id (.contribution id rank data side) := by
  unfold State.onContribution
  simp only [State.dueDeadline_of_absent absent, absent]

end

/-! ### Arrivals for a collective in progress -/

/-- The collective is launched, has neither failed nor finished, and its deadline, if it has one, is ahead. -/
structure InProgress (s : State) (id : CollId) (c : Coll) : Prop where
  found : s.findColl id = some c
  sound : c.code = 0
  unfinished : c.finished = false
  early : s.hasDeadline c = true → s.now.toNat < s.deadlineAt c

section
variable {s : State} {id : CollId} {c : Coll} {rank : ChipId}

theorem InProgress.dueDeadline_eq (h : InProgress s id c) : s.dueDeadline id = s := by
  unfold State.dueDeadline
  simp only [h.found]
  refine if_neg fun due => ?_
  simp only [Bool.and_eq_true, decide_eq_true_eq] at due
  exact absurd (h.early due.1) (Nat.not_lt.2 due.2)

/-- A header that agrees in every field with the member's own launch joins the headers (R124). -/
theorem InProgress.onHeader_agreeing (p : InProgress s id c) {h : LaunchHeader} (pop : h.pop = c.pop) (xl : h.xl.toNat = c.xl)
    (sfmt : h.sfmt = c.sfmt) (dfmt : h.dfmt = c.dfmt) (n : h.n = c.n) : s.onHeader id rank h =
      (s.setColl { c with headers := dedup (c.headers ++ [rank.toNat]) }).movePayload id := by
  unfold State.onHeader
  simp only [p.found]
  rw [if_neg (by simp [p.sound, p.unfinished]), if_pos (by simp [pop, xl, sfmt, dfmt, n])]

/-- A header that differs in one field fails the collective everywhere (R124). -/
theorem InProgress.onHeader_differing (p : InProgress s id c) {h : LaunchHeader}
    (differs : h.pop ≠ c.pop ∨ h.xl.toNat ≠ c.xl ∨ h.sfmt ≠ c.sfmt ∨ h.dfmt ≠ c.dfmt ∨ h.n ≠ c.n) :
    s.onHeader id rank h = (s.failColl c 0x11).toMembers c "MISMATCH" [] := by
  unfold State.onHeader
  simp only [p.found]
  rw [if_neg (by simp [p.sound, p.unfinished])]
  refine if_neg fun agrees => ?_
  simp only [Bool.and_eq_true, decide_eq_true_eq, beq_iff_eq] at agrees
  obtain ⟨⟨⟨⟨pop, xl⟩, sfmt⟩, dfmt⟩, n⟩ := agrees
  simp [pop, xl, sfmt, dfmt, n] at differs

theorem InProgress.onMismatch_eq (p : InProgress s id c) : s.onMismatch id = s.failColl c 0x11 := by
  unfold State.onMismatch
  simp only [p.found]

/-- A notice of CAPACITY fails the collective, unless counts of an all-to-all-v are still to come (R131). -/
theorem InProgress.onCapacity_counted (p : InProgress s id c) (counted : c.pop ≠ 5 ∨ c.n ≤ c.counts.length) :
    s.onCapacity id = s.failColl c 0x13 := by
  unfold State.onCapacity
  simp only [p.found]
  refine if_neg fun waits => ?_
  simp only [Bool.and_eq_true, decide_eq_true_eq] at waits
  exact counted.elim (· waits.1.2) (Nat.not_le.2 waits.2)

/-- With counts still to come the notice is kept. -/
theorem InProgress.onCapacity_counting (p : InProgress s id c) (pop : c.pop = 5) (counting : c.counts.length < c.n) :
    s.onCapacity id = s.hold (.capacityNotice id) := by
  unfold State.onCapacity
  simp only [p.found]
  exact if_pos (by simp [p.sound, pop, counting])

section
variable (p : InProgress s id c) (wide : c.wide = true) (agreed : c.fixedAnchor = false)
include p wide agreed

/-- An ec value of a block without an anchor is kept, and the anchors that it completes form (R129). -/
theorem InProgress.onEc_unanchored (member : rank.toNat < c.n) {b : Nat} (unformed : c.anchors.find? (·.1 == b) = none)
    (ec : BitVec 16) : s.onEc id rank b ec = (s.setColl { c with
      ecs := c.ecs.filter (fun e => !(e.1 == rank.toNat && e.2.1 == b)) ++ [(rank.toNat, b, ec)] }).formAnchors id := by
  unfold State.onEc
  simp only [p.dueDeadline_eq, p.found, unformed]
  exact if_neg (by simp [p.sound, wide, agreed, member])

/-- An ec value of a block whose anchor has formed is answered at once (R129, R137). -/
theorem InProgress.onEc_anchored (member : rank.toNat < c.n) {b : Nat} {a : Nat × BitVec 16}
    (formed : c.anchors.find? (·.1 == b) = some a) (ec : BitVec 16) :
    s.onEc id rank b ec = (s.toRank c rank.toNat "ANCHOR" [b, a.2.toNat] [] []).pmcPrism c.die 0xC4 1 := by
  unfold State.onEc
  simp only [p.dueDeadline_eq, p.found, formed]
  exact if_neg (by simp [p.sound, wide, agreed, member])

end

/-- The anchors that contributor c holds for the blocks of rank o's shard, by ascending block. -/
def Coll.answered (c : Coll) (o : Nat) : List (BitVec 16) :=
  (List.range (c.blocks o)).filterMap fun b => (c.replies.find? fun e => e.1 == o && e.2.1 == b).map (·.2.2)

/-- The contribution to rank o's shard is converted against the anchors held and sent; a source that is bad is trouble for the
launching tile (R129, R130). -/
def State.sendConverted (s : State) (c : Coll) (o : Nat) : State :=
  let src := s.collSource c (c.runs o)
  match src.1.bad with
  | some e => src.1.st.trouble c.tile e
  | none =>
    let d := blockData (c.shardLen o) (c.convertShard (c.shardLen o) src.1.bytes src.2 (c.answered o))
    src.1.st.toRank c o "CONTRIB" [] d.1 d.2

theorem State.sendConverted_of_bad {o : Nat} {e : Trouble} (bad : (s.collSource c (c.runs o)).1.bad = some e) :
    s.sendConverted c o = (s.collSource c (c.runs o)).1.st.trouble c.tile e := by
  unfold State.sendConverted
  simp only [bad]

theorem State.sendConverted_of_good {o : Nat} (good : (s.collSource c (c.runs o)).1.bad = none) :
    let src := s.collSource c (c.runs o)
    let d := blockData (c.shardLen o) (c.convertShard (c.shardLen o) src.1.bytes src.2 (c.answered o))
    s.sendConverted c o = src.1.st.toRank c o "CONTRIB" [] d.1 d.2 := by
  intro src d
  unfold State.sendConverted
  simp only [good]
  rfl

/-- An anchor is kept, and the contribution goes once every block of the owner's shard is answered. -/
theorem InProgress.onReply_eq (p : InProgress s id c) (wide : c.wide = true) (agreed : c.fixedAnchor = false)
    (member : rank.toNat < c.n) {b : Nat} (block : b < c.blocks rank.toNat)
    (first : c.replies.any (fun e => e.1 == rank.toNat && e.2.1 == b) = false) (a : BitVec 16) :
    let k := { c with replies := c.replies ++ [(rank.toNat, b, a)] }
    s.onReply id rank b a = if (k.answered rank.toNat).length < k.blocks rank.toNat then s.setColl k else
      (s.setColl k).sendConverted k rank.toNat := by
  intro k
  unfold State.onReply
  simp only [p.found]
  exact if_neg (by simp [-List.any_eq_false, p.sound, wide, agreed, member, block, first])

section
variable (p : InProgress s id c) (member : rank.toNat < c.n) (inTime : c.late.contains rank.toNat = false)
  (up : c.failed.contains rank.toNat = false)
include p member inTime up

/-- A reduction's contribution joins in the order of arrival (R127, R128). -/
theorem InProgress.onContribution_reduced (reduces : c.reduces = true) (waits : c.shardDone = false)
    (first : c.contribs.any (·.rank == rank.toNat) = false) (data side : List Byte) :
    s.onContribution id rank data side = s.setColl { c with
      contribs := c.contribs ++ [⟨rank.toNat, data, side⟩], headers := dedup (c.headers ++ [rank.toNat]) } := by
  unfold State.onContribution
  simp only [p.dueDeadline_eq, p.found]
  rw [if_neg (by simp [member]), if_neg (ne_true_of_eq_false inTime), if_neg (by rw [p.sound, p.unfinished, up]; decide),
    if_pos reduces, if_neg (by rw [waits, first]; decide)]

section
variable (moves : c.reduces = false) (first : c.results.any (·.1 == rank.toNat) = false) {data : List Byte}
include moves first

/-- A moved piece that is its rank's first is written where the rank's elements go (Table 6.3). -/
theorem InProgress.onContribution_placed {rs : List Run}
    (place : c.pieceRuns rank.toNat (data.length * 8 / c.srcFmt.bits) = some rs) (side : List Byte) :
    s.onContribution id rank data side = (s.setColl { c with
      results := c.results ++ [(rank.toNat, [rank.toNat])], headers := dedup (c.headers ++ [rank.toNat]) }).deliver c rs data
        side := by
  unfold State.onContribution
  simp only [p.dueDeadline_eq, p.found, place]
  rw [if_neg (by simp [member]), if_neg (ne_true_of_eq_false inTime), if_neg (by rw [p.sound, p.unfinished, up]; decide),
    if_neg (ne_true_of_eq_false moves), if_neg (ne_true_of_eq_false first)]

/-- While its place is not known it is kept. -/
theorem InProgress.onContribution_unplaced
    (unknown : c.pieceRuns rank.toNat (data.length * 8 / c.srcFmt.bits) = none) (side : List Byte) :
    s.onContribution id rank data side = s.hold (.contribution id rank data side) := by
  unfold State.onContribution
  simp only [p.dueDeadline_eq, p.found, unknown]
  rw [if_neg (by simp [member]), if_neg (ne_true_of_eq_false inTime), if_neg (by rw [p.sound, p.unfinished, up]; decide),
    if_neg (ne_true_of_eq_false moves), if_neg (ne_true_of_eq_false first)]

end

end

/-- A result is written to the elements of its owner's shard (R127). -/
theorem InProgress.onResult_eq (p : InProgress s id c) (member : rank.toNat < c.n)
    (first : c.results.any (·.1 == rank.toNat) = false) (data side : List Byte) (present : List ChipId) :
    s.onResult id rank data side present = (s.setColl { c with
      results := c.results ++ [(rank.toNat, present.map (·.toNat))], source := if c.ouu then data else c.source,
      sourceSide := if c.ouu then side else c.sourceSide }).deliver c (c.runs rank.toNat) data side := by
  unfold State.onResult
  simp only [p.found]
  exact if_neg (by simp [-List.any_eq_false, p.sound, p.unfinished, member, first])

/-! ### The counts of an all-to-all-v (R131) -/

/-- The collective with one more count. -/
def Coll.withCount (c : Coll) (r : Nat) (n : Word) : Coll := { c with counts := c.counts ++ [(r, n)] }

/-- The counts by rank. -/
def Coll.countArray (c : Coll) : List Word :=
  (List.range c.n).map fun r => ((c.counts.find? (·.1 == r)).map (·.2)).getD 0

/-- What this member is to receive, in elements. -/
def Coll.countSum (c : Coll) : Nat := c.countArray.foldl (fun n k => n + k.toNat) 0

/-- The count array is written at DT.AUX. -/
def State.putCounts (s : State) (c : Coll) : Option Trouble × State :=
  s.putBytes c.tile (Desc.ofBits c.dt) (Desc.ofBits c.dt).aux (bytes32 c.countArray)

/-- The count array is noted for the digest, after the destination's own bytes (R196). -/
def State.noteCounts (s : State) (id : CollId) (c : Coll) : State :=
  s.modColl id fun d => { d with
    written := Sparse.put d.written (2 ^ 60 + (Desc.ofBits c.dt).aux) (bytes32 c.countArray) }

/-- All counts are in: the count array is written, and whether its sum fits XL decides how the collective goes on. -/
def State.settleCounts (s : State) (id : CollId) (c : Coll) : State :=
  match (s.putCounts c).1 with
  | some e => (s.putCounts c).2.trouble c.tile e
  | none =>
    let u := (s.putCounts c).2.noteCounts id c
    if c.xl < c.countSum then
      match u.findColl id with
      | some d => (u.failColl d 0x13).toMembers d "CAPACITY" []
      | none => u
    else if u.prism.early.contains (.capacityNotice id) then
      match u.findColl id with
      | some d => u.failColl d 0x13
      | none => u
    else (u.sendHeader c).movePayload id

/-- A rank's first count joins; with the last of them they are settled. -/
theorem InProgress.onCount_eq (p : InProgress s id c) (pop : c.pop = 5) (member : rank.toNat < c.n)
    (first : c.counts.any (·.1 == rank.toNat) = false) (n : Word) :
    let k := c.withCount rank.toNat n
    s.onCount id rank n = if k.counts.length < k.n then s.setColl k else (s.setColl k).settleCounts id k := by
  intro k
  unfold State.onCount
  simp only [p.found]
  exact if_neg (by simp [-List.any_eq_false, p.sound, pop, member, first])

end

theorem Coll.withCount_length (c : Coll) (r : Nat) (n : Word) : (c.withCount r n).counts.length = c.counts.length + 1 :=
  List.length_append

section
variable {s : State} {id : CollId} {c : Coll}

theorem State.settleCounts_unwritten {e : Trouble} (bad : (s.putCounts c).1 = some e) :
    s.settleCounts id c = (s.putCounts c).2.trouble c.tile e := by
  unfold State.settleCounts
  rw [bad]

variable (written : (s.putCounts c).1 = none)
include written

theorem State.settleCounts_overflowing (above : c.xl < c.countSum) {d : Coll}
    (found : ((s.putCounts c).2.noteCounts id c).findColl id = some d) :
    s.settleCounts id c = (((s.putCounts c).2.noteCounts id c).failColl d 0x13).toMembers d "CAPACITY" [] := by
  unfold State.settleCounts
  simp only [written, if_pos above, found]

theorem State.settleCounts_fitting (fits : c.countSum ≤ c.xl)
    (unwarned : ((s.putCounts c).2.noteCounts id c).prism.early.contains (.capacityNotice id) = false) :
    s.settleCounts id c = (((s.putCounts c).2.noteCounts id c).sendHeader c).movePayload id := by
  unfold State.settleCounts
  simp only [written]
  rw [if_neg (Nat.not_lt.2 fits), if_neg (ne_true_of_eq_false unwarned)]

end

/-- Settles O20: a collective not launched yet keeps the arrival (`on…_of_absent`); one in progress has a lemma per case. -/
theorem collectiveArrivalsTakeEffect : Obligations.CollectiveArrivalsTakeEffect := by
  unfold Obligations.CollectiveArrivalsTakeEffect
  refine ⟨fun id rank b ec k data side ps h s absent => ⟨?_, ?_, ?_, ?_, ?_, ?_, ?_⟩,
    fun id rank c s found sound unfinished early => ?_⟩
  · exact exec_next rfl (State.onHeader_of_absent absent rank h)
  · exact exec_next rfl (State.onMismatch_of_absent absent)
  · exact exec_next rfl (State.onCapacity_of_absent absent)
  · exact exec_next rfl (State.onEc_of_absent absent rank b ec)
  · exact exec_next rfl (State.onResult_of_absent absent rank data side ps)
  · exact exec_next rfl (State.onCount_of_absent absent rank k)
  · exact exec_next rfl (congrArg State.pumpQueue (State.onContribution_of_absent absent rank data side))
  · have p : InProgress s id c := ⟨found, sound, unfinished, early⟩
    refine ⟨?header, ?differs, ?mismatch, ?capacity, ?capacityHeld, ?ec, ?ecAnswered, ?reply, ?reduced, ?placed, ?unplaced,
      ?result, ?count, ?lastCount⟩
    case header => exact fun h pop xl sfmt dfmt n => exec_next rfl (p.onHeader_agreeing pop xl sfmt dfmt n)
    case differs => exact fun h differs => exec_next rfl (p.onHeader_differing differs)
    case mismatch => exact exec_next rfl p.onMismatch_eq
    case capacity => exact fun counted => exec_next rfl (p.onCapacity_counted counted)
    case capacityHeld => exact fun pop counting => exec_next rfl (p.onCapacity_counting pop counting)
    case ec => exact fun b ec wide agreed member unformed => exec_next rfl (p.onEc_unanchored wide agreed member unformed ec)
    case ecAnswered => exact fun b ec a wide agreed member formed => exec_next rfl (p.onEc_anchored wide agreed member formed ec)
    case reply =>
      intro b a wide agreed member block first k got src d
      have keeps : got.length < k.blocks rank.toNat → s.onReply id rank b a = s.setColl k := fun waits =>
        (p.onReply_eq wide agreed member block first a).trans (if_pos waits)
      have sends : k.blocks rank.toNat ≤ got.length → s.onReply id rank b a = (s.setColl k).sendConverted k rank.toNat :=
        fun all => (p.onReply_eq wide agreed member block first a).trans (if_neg (Nat.not_lt.2 all))
      exact ⟨fun waits => exec_next rfl (keeps waits),
        fun all good => exec_next rfl ((sends all).trans (State.sendConverted_of_good good)),
        fun all e bad => exec_next rfl ((sends all).trans (State.sendConverted_of_bad bad))⟩
    case reduced =>
      exact fun data side reduces member inTime up waits first =>
        exec_next rfl (congrArg State.pumpQueue (p.onContribution_reduced member inTime up reduces waits first data side))
    case placed =>
      exact fun data side rs moves member inTime up first place =>
        exec_next rfl (congrArg State.pumpQueue (p.onContribution_placed member inTime up moves first place side))
    case unplaced =>
      exact fun data side moves member inTime up first unknown =>
        exec_next rfl (congrArg State.pumpQueue (p.onContribution_unplaced member inTime up moves first unknown side))
    case result => exact fun data side present member first => exec_next rfl (p.onResult_eq member first data side present)
    case count =>
      intro n pop member first more
      refine exec_next rfl ((p.onCount_eq pop member first n).trans (if_pos ?_))
      rwa [Coll.withCount_length]
    case lastCount =>
      intro n pop member first last k cs sum aux w u
      have settles : s.onCount id rank n = (s.setColl k).settleCounts id k :=
        (p.onCount_eq pop member first n).trans
          (if_neg (by rw [Coll.withCount_length]; exact Nat.not_lt.2 (Nat.le_of_eq last.symm)))
      exact ⟨fun e bad => exec_next rfl (settles.trans (State.settleCounts_unwritten bad)),
        fun written above e found => exec_next rfl (settles.trans (State.settleCounts_overflowing written above found)),
        fun written fits unwarned => exec_next rfl (settles.trans (State.settleCounts_fitting written fits unwarned))⟩

/-! ### The ends of a collective -/

section
variable {s : State} {id : CollId} {c : Coll}

/-- An unfinished reduction under a policy that drops or defers has its deadline ahead (R137), unless its step is replayed
(R140). -/
theorem State.hasDeadline_of_policy (unfinished : c.finished = false) (reduces : c.reduces = true) (sound : c.code = 0)
    (policy : gPolicy c.entry = 1 ∨ gPolicy c.entry = 2) (ahead : c.deadlinePassed = false)
    (decides : s.replaySource c.part = none) : s.hasDeadline c = true := by
  unfold State.hasDeadline
  simp [unfinished, reduces, sound, policy, ahead, decides]

/-- While the shard is to be completed, what is missing at the deadline is late and the anchors form (R137, R139). -/
theorem State.passDeadline_of_open (waits : c.shardDone = false) (owns : c.shardLen c.rank ≠ 0) :
    s.passDeadline c = ((c.missing.foldl (fun v r => v.takeLate c.id r) (s.setColl { c with deadlinePassed := true })).noteLate
      c.die c.missing.length).formAnchors c.id := by
  unfold State.passDeadline
  exact if_neg (by simp [waits, owns])

/-- A shard that is done, or empty, only notes that the deadline has passed. -/
theorem State.passDeadline_of_done (done : c.shardDone = true ∨ c.shardLen c.rank = 0) :
    s.passDeadline c = s.setColl { c with deadlinePassed := true } := by
  unfold State.passDeadline
  exact if_pos (by simpa using done)

theorem exec_deadline (found : s.findColl id = some c) (due : s.hasDeadline c = true) :
    exec (.deadline id) s = .next ((s.reach (s.deadlineAt c)).passDeadline c) := by
  change execDeadline id s = _
  unfold execDeadline
  simp only [found, if_pos due]

section
variable (found : s.findColl id = some c) (unfinished : c.finished = false)
include found unfinished

/-- A shard with all it waits for completes, once its owner's own contribution is converted (R128, R130). -/
theorem exec_shardComplete (reduces : c.reduces = true) (sound : c.code = 0) (waits : c.shardDone = false)
    (ready : c.shardReady = true) (owns : c.shardLen c.rank ≠ 0) :
    (∀ u, s.ownContribution c = (none, u) → exec (.shardComplete id) s = .next (u.completeShard id)) ∧
    (∀ e u, s.ownContribution c = (some e, u) → exec (.shardComplete id) s = .next (u.trouble c.seat e)) := by
  change (∀ u, _ → execShardComplete id s = _) ∧ ∀ e u, _ → execShardComplete id s = _
  unfold execShardComplete
  simp only [found]
  rw [if_neg (by simp [reduces, sound, unfinished, waits, ready, owns])]
  exact ⟨fun u own => by simp only [own], fun e u own => by simp only [own]⟩

/-- A collective in its turn completes when it has failed, or, other than a barrier, holds all it awaits (R124, R142). -/
theorem exec_collectiveComplete (turn : s.inTurn c = true) (done : c.code ≠ 0 ∨ (c.pop ≠ 6 ∧ c.ready = true)) :
    exec (.collectiveComplete id) s = .next ((s.completeColl c).afterColl c.part) := by
  change execCollectiveComplete id s = _
  unfold execCollectiveComplete
  simp only [found]
  have ends : (c.code != 0 || (c.pop != 6 && c.ready)) = true := by simpa using done
  exact if_neg (by rw [unfinished, turn, ends]; decide)

/-- A barrier in its turn completes once every member has joined. -/
theorem exec_barrierComplete (turn : s.inTurn c = true) (sound : c.code = 0) (barrier : c.pop = 6) (ready : c.ready = true) :
    exec (.barrierComplete id) s = .next ((s.completeColl c).afterColl c.part) := by
  change execBarrierComplete id s = _
  unfold execBarrierComplete
  simp only [found]
  exact if_neg (by simp [unfinished, turn, sound, barrier, ready])

/-- A member that has not joined within FAIL_TICKS has failed (R141). -/
theorem exec_memberFailTimeout {rank : ChipId} (limited : gFailTicks c.entry ≠ 0) (sound : c.code = 0)
    (absent : c.headers.contains rank.toNat = false) (member : rank.toNat < c.n) : exec (.memberFailTimeout id rank) s =
      .next ((s.reach (s.tickAt c.part (c.frameF.toNat + gFailTicks c.entry))).memberFails c rank.toNat) := by
  change execMemberFailTimeout id rank s = _
  unfold execMemberFailTimeout
  simp only [found]
  exact if_neg (by simp [-List.contains_eq_mem, limited, unfinished, sound, absent, member])

end

end

/-- Settles O21: each end of an unfinished collective by its own lemma; a chip's failure is `State.peerFails`. -/
theorem collectivesEnd : Obligations.CollectivesEnd := by
  unfold Obligations.CollectivesEnd
  refine ⟨fun id c s found unfinished => ⟨?deadline, ?shard, ?complete, ?barrier, ?timeout⟩, fun chip s => ⟨rfl, rfl⟩⟩
  case deadline =>
    intro reduces sound policy ahead decides u
    have due := exec_deadline found (State.hasDeadline_of_policy unfinished reduces sound policy ahead decides)
    exact ⟨fun waits owns => exec_next due (State.passDeadline_of_open waits owns),
      fun done => exec_next due (State.passDeadline_of_done done)⟩
  case shard => exact exec_shardComplete found unfinished
  case complete => exact exec_collectiveComplete found unfinished
  case barrier => exact exec_barrierComplete found unfinished
  case timeout => exact fun rank => exec_memberFailTimeout found unfinished

end Sys2Proof.Machine
end

section
/-!
PROOF. Ring rotations (R149-R156): how a grant, the bytes from the predecessor, the successor's answer and the timeout of a
rotation take effect.
-/

-- One declaration after another: the package as one text then needs few threads at a time.
set_option Elab.async false

namespace Sys2Proof.Machine

/-! ### Bytes from the predecessor -/

/-- The rotation whose first flit was accepted: it knows the block's origin. -/
def Krot.openedBy (k : Krot) (h : BlockHeader) : Krot := { k with first := true, origin := h.origin }

/-- The write of accepted bytes at DT, behind the bytes received before; what passes XL is dropped (R150, log 38). -/
def State.putBlock (s : State) (k : Krot) (data : List Byte) : Option Trouble × State :=
  s.unitPut k.tile (Desc.ofBits k.dt) [((Desc.ofBits k.dt).base + k.received, data.take (k.xl - k.received))]

/-- Bytes that stand in DT count as received, for the rotation and for the chip, and what is over of the ring completes. -/
def State.takeBlock (s : State) (r : Nat) (k : Krot) (data : List Byte) : State :=
  let d := data.take (k.xl - k.received)
  let u := s.setKrot { k with received := k.received + d.length, bytes := k.bytes ++ d }
  State.settleRing { u with kal := { u.kal with received := u.kal.received + BitVec.ofNat 64 d.length } } r

/-- What bytes whose header is accepted do: DT takes them, or they end in the trouble of the rotation's tile. -/
def State.placeBlock (s : State) (r : Nat) (k : Krot) (data : List Byte) : State :=
  match (s.putBlock k data).1 with
  | some b => (s.putBlock k data).2.trouble k.tile b
  | none => (s.putBlock k data).2.takeBlock r k data

section
variable {s : State} {r : Nat} {k : Krot} {data : List Byte}

theorem State.placeBlock_of_written (written : (s.putBlock k data).1 = none) :
    s.placeBlock r k data = (s.putBlock k data).2.takeBlock r k data := by
  unfold State.placeBlock
  rw [written]

theorem State.placeBlock_of_unwritten {b : Trouble} (unwritten : (s.putBlock k data).1 = some b) :
    s.placeBlock r k data = (s.putBlock k data).2.trouble k.tile b := by
  unfold State.placeBlock
  rw [unwritten]

end

section
variable {s : State} {ring : Fin 16} {k : Krot} {h : BlockHeader} (data : List Byte)
variable (incoming : s.krotIncoming ring.val = some k)
include incoming

/-- A first flit that agrees opens the block of the origin that it names (R150). -/
theorem exec_krotData_first (tag : h.tag.toNat = rTag (s.ring ring.val)) (hop : h.hop = k.hop) (xl : h.xl = k.xl) :
    exec (.krotData ring (some h) data) s = .next (s.placeBlock ring.val (k.openedBy h) data) := by
  change execKrotData ring (some h) data s = _
  unfold execKrotData
  simp only [incoming]
  rw [if_neg (by simp [tag, hop, xl])]
  split
  · next b unwritten => exact congrArg Host.Outcome.next (State.placeBlock_of_unwritten (k := k.openedBy h) unwritten).symm
  · next written => exact congrArg Host.Outcome.next (State.placeBlock_of_written (k := k.openedBy h) written).symm

/-- Once the first flit was accepted, further bytes need no header. -/
theorem exec_krotData_later (opened : k.first = true) :
    exec (.krotData ring none data) s = .next (s.placeBlock ring.val k data) := by
  change execKrotData ring none data s = _
  unfold execKrotData
  simp only [incoming]
  rw [if_neg (by simp [opened])]
  split
  · next b unwritten => exact congrArg Host.Outcome.next (State.placeBlock_of_unwritten (k := k) unwritten).symm
  · next written => exact congrArg Host.Outcome.next (State.placeBlock_of_written (k := k) written).symm

/-- A first flit that differs fails the rotation, and the answer MISMATCH the predecessor's end (R156, log 38). -/
theorem exec_krotData_differing (differs : h.tag.toNat ≠ rTag (s.ring ring.val) ∨ h.hop ≠ k.hop ∨ h.xl ≠ k.xl) :
    exec (.krotData ring (some h) data) s =
      .next (((s.krotFail k 0x11).emit (.ring (BitVec.ofNat 14 (rPred (s.ring ring.val))) (rPredBundle (s.ring ring.val))
        (BitVec.ofNat 32 (rTag (s.ring ring.val))) k.hop "MISMATCH" [] [])).settleRing ring.val) := by
  change execKrotData ring (some h) data s = _
  unfold execKrotData
  simp only [incoming]
  exact if_pos (by simpa [or_assoc] using differs)

end

/-! ### Grants, answers of the successor and timeouts -/

section
variable {s : State} {ring : Fin 16} {k : Krot}

/-- A grant on a valid entry is held, once, and the block goes out if its rotation is the oldest (R150). -/
theorem exec_krotGrant (hop : Word) (valid : bitOf (s.ring ring.val) 0 = true) :
    exec (.krotGrant ring hop) s = .next (({ s with kal := { s.kal with
      grants := s.kal.grants.filter (· != (ring.val, hop)) ++ [(ring.val, hop)] } } : State).krotSend ring.val) := by
  change execKrotGrant ring hop s = _
  unfold execKrotGrant
  exact if_neg (by simp [valid])

variable (oldest : s.krotHead ring.val = some k)
include oldest

/-- The successor's answer reaches a block that was sent: it counts bytes, or it reports a mismatch, which fails the
rotation (R156). -/
theorem exec_krotAck (granted : k.granted = true) :
    (∀ n, exec (.krotAck ring (some n)) s =
      .next ((s.setKrot { k with acked := min k.xl (k.acked + n) }).settleRing ring.val)) ∧
    exec (.krotAck ring none) s = .next ((s.krotFail k 0x11).settleRing ring.val) := by
  change (∀ n, execKrotAck ring (some n) s = _) ∧ execKrotAck ring none s = _
  unfold execKrotAck
  simp only [oldest, granted]
  exact ⟨fun _ => rfl, rfl⟩

/-- The oldest rotation of a ring with a limit fails FAIL_TICKS after its frame (R156). -/
theorem exec_krotTimeout (limited : rFailTicks (s.ring ring.val) ≠ 0) :
    exec (.krotTimeout ring) s = .next (((s.reach (s.tickAt (s.partOf k.tile)
      (k.frameF.toNat + rFailTicks (s.ring ring.val)))).krotFail k 0x12).settleRing ring.val) := by
  change execKrotTimeout ring s = _
  unfold execKrotTimeout
  simp only [oldest]
  exact if_neg limited

end

/-- Settles O22: each arrival by its own lemma; accepted bytes, with a first flit or without, are `State.placeBlock`. -/
theorem ringRotationsMoveTheirBlock : Obligations.RingRotationsMoveTheirBlock := by
  unfold Obligations.RingRotationsMoveTheirBlock
  refine ⟨fun ring hop s valid => exec_krotGrant hop valid, ?data,
    fun ring k h data s incoming differs => exec_krotData_differing data incoming differs,
    fun ring k s oldest granted => exec_krotAck oldest granted, fun ring k s oldest limited => exec_krotTimeout oldest limited⟩
  case data =>
    intro ring k first data s incoming accepted
    cases first with
    | none =>
      have places := exec_krotData_later data incoming accepted
      exact ⟨fun written => exec_next places (State.placeBlock_of_written written),
        fun b unwritten => exec_next places (State.placeBlock_of_unwritten unwritten)⟩
    | some h =>
      obtain ⟨tag, hop, xl⟩ := accepted
      have places := exec_krotData_first data incoming tag hop xl
      exact ⟨fun written => exec_next places (State.placeBlock_of_written written),
        fun b unwritten => exec_next places (State.placeBlock_of_unwritten unwritten)⟩

end Sys2Proof.Machine
end

section
/-!
PROOF. The pass of the optimiser update unit and the commands of its registers (R172-R185): what a pass whose turn it is
does with the descriptors that it reads, and what its end leaves.
-/

-- One declaration after another: the package as one text then needs few threads at a time.
set_option Elab.async false

namespace Sys2Proof.Machine

open Sys2Proof.Safety

/-! ### Registers of one partition -/

theorem Reg.ouuPstat_ne_ouuLr (p : Nat) : Reg.ouuPstat p ≠ Reg.ouuLr p := by unfold Reg.ouuPstat Reg.ouuLr; omega
theorem Reg.ouuNorm_ne_ouuPstat (p : Nat) : Reg.ouuNorm p ≠ Reg.ouuPstat p := by unfold Reg.ouuPstat Reg.ouuNorm; omega
theorem Reg.ouuPstat_ne_ouuClipCnt (p : Nat) : Reg.ouuPstat p ≠ Reg.ouuClipCnt p := by
  unfold Reg.ouuPstat Reg.ouuClipCnt; omega
theorem Reg.ouuNorm_ne_ouuClipCnt (p : Nat) : Reg.ouuNorm p ≠ Reg.ouuClipCnt p := by
  unfold Reg.ouuNorm Reg.ouuClipCnt; omega
theorem Reg.ouuPstat_ne_ouuSkipCnt (p : Nat) : Reg.ouuPstat p ≠ Reg.ouuSkipCnt p := by
  unfold Reg.ouuPstat Reg.ouuSkipCnt; omega
theorem Reg.ouuNorm_ne_ouuSkipCnt (p : Nat) : Reg.ouuNorm p ≠ Reg.ouuSkipCnt p := by
  unfold Reg.ouuNorm Reg.ouuSkipCnt; omega

/-! ### A bad part of the table (R172) -/

/-- A bad part of the table at offset o: TBL_BAD and the offset are shown, the table is reported, the step abandoned. -/
def State.badTable (s : State) (p : Nat) (jobId : Word) (o : Nat) : State :=
  (((s.setBit (Reg.ouuPstat p) 4).wrFld (Reg.ouuPstat p) 31 8 o).emit (.report .ouuTable jobId o)).abandonPass p

section
variable (s : State) (p : Nat) (jobId : Word) (o : Nat)

@[simp] theorem State.badTable_mem : (s.badTable p jobId o).mem = s.mem := rfl
@[simp] theorem State.badTable_out : (s.badTable p jobId o).out = s.out ++ [.report .ouuTable jobId o] := rfl

@[simp] theorem State.badTable_abandoned : ((s.badTable p jobId o).part p).abandoned = true := by
  simp [State.badTable, State.abandonPass]

/-- The field of the offset lies above the flag. -/
theorem State.rdBit_badTable : (s.badTable p jobId o).rdBit (Reg.ouuPstat p) 4 = true := by
  simp [State.badTable, State.abandonPass, State.rdBit_wrFld, State.rdBit_setBit]

theorem State.rdFld_badTable : (s.badTable p jobId o).rdFld (Reg.ouuPstat p) 31 8 = o % 2 ^ 24 := by
  simp [State.badTable, State.abandonPass, State.rdFld_wrFld_self]

theorem State.rd_badTable_ne {r : Nat} (other : r ≠ Reg.ouuPstat p) : (s.badTable p jobId o).rd r = s.rd r := by
  simp [State.badTable, State.abandonPass, State.rd_wrFld_ne _ _ _ _ other, State.rd_setBit_ne _ _ other]

end

/-! ### A pass whose turn it is (R172, R174, R223) -/

/-- What a pass does once its descriptors are read: it runs over them, or ends at the first that is unreadable or bad. -/
def State.passOn (s : State) (p : Nat) (j : Job) (g2 : Word) (taken : Nat) : Except (Sum Nat Nat) (List Nat) → State
  | .ok ds => s.runPass p j.tenant ds g2 taken
  | .error (.inl da) => s.passUe p da
  | .error (.inr o) => s.badTable p j.jobId o

/-- A pass whose turn it is reads and checks every descriptor of its table, and goes on from there. -/
theorem exec_ouuPass {p : Fin 8} {j : Job} {g2 : Word} {s : State} (taken : Nat) (errs : List CellError)
    (launched : (s.part p.val).job = some j) (summed : (s.part p.val).norm = some g2)
    (live : (s.part p.val).abandoned = false) (on : s.blockOn 9 = true) (runs : s.halted = false)
    (computes : s.flt.run = none) (remembers : s.flt.memReset = false) (next : s.ouuQueue.head? = some p.val) :
    let u := (s.inject errs).correctDescs j.tenant (s.ouuTable p.val) (utGroups (s.ouuHeader p.val))
    ∀ {read}, u.passDescs j.tenant (u.ouuTable p.val) (utGroups (u.ouuHeader p.val)) = read →
      exec (.ouuPass p taken errs) s = .next (u.passOn p.val j g2 taken read) := by
  intro u read descs
  change execOuuPass p taken errs s = _
  unfold execOuuPass
  simp only [launched, summed]
  rw [if_neg (by simp [live, on, runs, computes, remembers, next]), descs]
  rcases read with (da | o) | ds <;> rfl

/-! ### The end of a pass (R176, R185) -/

/-- A pass that clips counts in OUU_CLIP_CNT, one that skips in OUU_SKIP_CNT. -/
def State.countPass (s : State) (p : Nat) : PassKind → State
  | .apply => s
  | .clip _ => s.bump (Reg.ouuClipCnt p) 1
  | .skipNonFinite | .skipCeiling => s.bump (Reg.ouuSkipCnt p) 1

/-- OVERRUN, for a pass that took more frames than its allotment. -/
def State.flagOverrun (s : State) (p taken : Nat) : State :=
  if utAllot (s.ouuHeader p) < taken then s.setBit (Reg.ouuPstat p) 3 else s

section
variable (s : State) (p : Nat) (kind : PassKind) (norm lr : Word) (moved taken : Nat)

@[simp] theorem State.countPass_mem : (s.countPass p kind).mem = s.mem := by cases kind <;> rfl

theorem State.rd_countPass_ne {r : Nat} (clips : r ≠ Reg.ouuClipCnt p) (skips : r ≠ Reg.ouuSkipCnt p) :
    (s.countPass p kind).rd r = s.rd r := by
  cases kind with
  | apply => rfl
  | clip f => exact State.rd_wrFld_ne _ _ _ _ clips
  | skipNonFinite => exact State.rd_wrFld_ne _ _ _ _ skips
  | skipCeiling => exact State.rd_wrFld_ne _ _ _ _ skips

@[simp] theorem State.flagOverrun_mem : (s.flagOverrun p taken).mem = s.mem := by unfold State.flagOverrun; split <;> rfl

theorem State.rd_flagOverrun_ne {r : Nat} (other : r ≠ Reg.ouuPstat p) : (s.flagOverrun p taken).rd r = s.rd r := by
  unfold State.flagOverrun
  split
  · exact State.rd_setBit_ne _ _ other
  · rfl

/-- LAST and REASON lie below OVERRUN. -/
theorem State.rdFld_flagOverrun {hi lo : Nat} (below : hi < 3) (ordered : lo ≤ hi) :
    (s.flagOverrun p taken).rdFld (Reg.ouuPstat p) hi lo = s.rdFld (Reg.ouuPstat p) hi lo := by
  unfold State.flagOverrun
  split
  · exact State.rdFld_setBit_apart _ _ _ (by omega) ordered (.inr below)
  · rfl

/-- The registers of a pass that ended, one after another, before its partition takes note of it. -/
def State.showPass : State :=
  (((((s.wrFld (Reg.ouuPstat p) 1 0 kind.last).wrFld (Reg.ouuPstat p) 2 2 kind.reason).wr (Reg.ouuLr p) lr).wr
    (Reg.ouuNorm p) norm).countPass p kind).flagOverrun p taken

theorem State.closePass_eq : s.closePass p kind norm lr moved taken =
    (s.showPass p kind norm lr taken).modPart p fun x => { x with
      action := 4, passTaken := taken, ouuBytes := BitVec.ofNat 64 moved, ouuGtc := (s.showPass p kind norm lr taken).now,
      ouuStep := x.closing, lastStepDefer := kind.skips && x.decisions.any (·.kind == 0) } := by
  cases kind <;> rfl

theorem State.closePass_mem : (s.closePass p kind norm lr moved taken).mem = s.mem := by
  simp [State.closePass_eq, State.showPass]

theorem State.closePass_action : ((s.closePass p kind norm lr moved taken).part p).action = 4 := by
  simp [State.closePass_eq]

theorem State.closePass_passTaken : ((s.closePass p kind norm lr moved taken).part p).passTaken = taken := by
  simp [State.closePass_eq]

theorem State.rd_closePass_norm : (s.closePass p kind norm lr moved taken).rd (Reg.ouuNorm p) = norm := by
  rw [State.closePass_eq, State.modPart_rd, State.showPass, State.rd_flagOverrun_ne _ _ _ (Reg.ouuNorm_ne_ouuPstat p),
    State.rd_countPass_ne _ _ _ (Reg.ouuNorm_ne_ouuClipCnt p) (Reg.ouuNorm_ne_ouuSkipCnt p), State.rd_wr_self]

/-- The fields of OUU_PSTAT below OVERRUN are those that the end of the pass wrote first. -/
theorem State.rdFld_closePass {hi lo : Nat} (below : hi < 3) (ordered : lo ≤ hi) :
    (s.closePass p kind norm lr moved taken).rdFld (Reg.ouuPstat p) hi lo =
      ((s.wrFld (Reg.ouuPstat p) 1 0 kind.last).wrFld (Reg.ouuPstat p) 2 2 kind.reason).rdFld (Reg.ouuPstat p) hi lo := by
  rw [State.closePass_eq, State.modPart_rdFld, State.showPass, State.rdFld_flagOverrun _ _ _ below ordered, State.rdFld,
    State.rd_countPass_ne _ _ _ (Reg.ouuPstat_ne_ouuClipCnt p) (Reg.ouuPstat_ne_ouuSkipCnt p),
    State.rd_wr_ne _ _ (Reg.ouuNorm_ne_ouuPstat p).symm, State.rd_wr_ne _ _ (Reg.ouuPstat_ne_ouuLr p), State.rdFld]

/-- LAST shows what the pass did. -/
theorem State.rdFld_closePass_last :
    (s.closePass p kind norm lr moved taken).rdFld (Reg.ouuPstat p) 1 0 = kind.last := by
  rw [State.rdFld_closePass _ _ _ _ _ _ _ (by decide) (by decide),
    State.rdFld_wrFld_apart _ _ _ (by decide) (by decide) (by decide) (by decide),
    State.rdFld_wrFld_self _ _ _ (by decide) (by decide)]
  cases kind <;> rfl

/-- REASON shows whether it skipped at its ceiling. -/
theorem State.rdFld_closePass_reason :
    (s.closePass p kind norm lr moved taken).rdFld (Reg.ouuPstat p) 2 2 = kind.reason := by
  rw [State.rdFld_closePass _ _ _ _ _ _ _ (by decide) (by decide), State.rdFld_wrFld_self _ _ _ (by decide) (by decide)]
  cases kind <;> rfl

end

/-! ### A pass that skips (R176) -/

/-- A norm that is not finite skips for that; one above a ceiling that skips, for the ceiling. -/
theorem decidePass_of_skip {n ceil : Word} {onCeil : Bool}
    (skip : (f32 n).isFin = false ∨ ((f32 ceil).lt (f32 n) = true ∧ onCeil = true)) :
    decidePass n ceil onCeil = if (f32 n).isFin then .skipCeiling else .skipNonFinite := by
  unfold decidePass
  cases finite : (f32 n).isFin with
  | false => rfl
  | true =>
    obtain ⟨above, skips⟩ := skip.resolve_left (by simp [finite])
    simp [above, skips]

/-- A pass that skips only ends: it reads and writes no group. -/
theorem State.runPass_of_skips {s : State} {p : Nat} {g2 : Word} (v : Nat) (ds : List Nat) (taken : Nat)
    (skips : (s.passPlan p g2).kind.skips = true) :
    s.runPass p v ds g2 taken = s.closePass p (s.passPlan p g2).kind (s.passPlan p g2).norm (s.passPlan p g2).lr
      (128 * ds.length) taken := by
  unfold State.runPass
  simp only [skips, if_true, Nat.add_zero]

/-- A pass whose norm skips writes no memory, and shows the norm and its reason. -/
theorem State.runPass_skipped {s : State} {p : Nat} {g2 n : Word} (v : Nat) (ds : List Nat) (taken : Nat)
    (norm : normOf (utGscale (s.ouuHeader p)) g2 = n)
    (skip : (f32 n).isFin = false ∨
      ((f32 (utCeil (s.ouuHeader p))).lt (f32 n) = true ∧ utOnCeil (s.ouuHeader p) = true)) :
    let u := s.runPass p v ds g2 taken
    u.mem = s.mem ∧ u.rdFld (Reg.ouuPstat p) 1 0 = 3 ∧ u.rdFld (Reg.ouuPstat p) 2 2 = b2n (f32 n).isFin ∧
      u.rd (Reg.ouuNorm p) = n ∧ (u.part p).action = 4 ∧ (u.part p).passTaken = taken := by
  have shown : (s.passPlan p g2).norm = n := norm
  have kind : (s.passPlan p g2).kind = if (f32 n).isFin then .skipCeiling else .skipNonFinite := by
    rw [← decidePass_of_skip skip, ← norm]; rfl
  have last : (s.passPlan p g2).kind.last = 3 := by rw [kind]; split <;> rfl
  have reason : (s.passPlan p g2).kind.reason = b2n (f32 n).isFin := by rw [kind]; cases (f32 n).isFin <;> rfl
  intro u
  have ends : u = _ := State.runPass_of_skips v ds taken (by rw [PassKind.skips, last]; rfl)
  rw [ends]
  exact ⟨State.closePass_mem .., (State.rdFld_closePass_last ..).trans last, (State.rdFld_closePass_reason ..).trans reason,
    (State.rd_closePass_norm ..).trans shown, State.closePass_action .., State.closePass_passTaken ..⟩

/-- Settles O17: a pass goes on by what its descriptors are, a skipped one by `State.runPass_skipped`. -/
theorem ouuPassUpdatesOrAbandons : Obligations.OuuPassUpdatesOrAbandons := by
  unfold Obligations.OuuPassUpdatesOrAbandons
  refine ⟨?pass, fun p v ds g2 taken s => State.runPass_skipped v ds taken rfl,
    fun path p s up holds => exec_next rfl (State.via_open ⟨up, holds⟩ _),
    fun path p high v s up holds => exec_next rfl (State.via_open ⟨up, holds⟩ _)⟩
  case pass =>
    intro p taken errs j g2 s launched summed live on runs computes remembers next i u
    have goesOn {read} := exec_ouuPass (read := read) taken errs launched summed live on runs computes remembers next
    refine ⟨fun ds => goesOn, fun da => goesOn, fun o bad => ?_⟩
    exact ⟨u.badTable p.val j.jobId o, goesOn bad, State.badTable_abandoned .., State.rdBit_badTable ..,
      State.rdFld_badTable .., rfl, rfl, fun r other => State.rd_badTable_ne _ _ _ _ other⟩

end Sys2Proof.Machine
end

section
/-!
PROOF. Frame digests, the Mirror partner, and the ledger record of a step (R192, R196, R204-R213): how each command ends,
once its hold is over.
-/

-- One declaration after another: the package as one text then needs few threads at a time.
set_option Elab.async false

namespace Sys2Proof.Machine

/-! ### Digests and their comparison (R196, R199, R210-R213) -/

/-- The digest of a frame whose stream is complete is kept, written and compared. -/
theorem exec_frameDigestFinal {t : Fin 64} {f : BitVec 48} {d : DigestStream} {s : State}
    (stream : (s.tile t.val).streams.find? (fun d => d.routine.isNone && d.frame == f) = some d)
    (final : (s.tile t.val).streamFinal d = true) :
    exec (.frameDigestFinal t f) s = .next (s.keepDigest t.val f d.value) := by
  change execFrameDigestFinal t f s = _
  unfold execFrameDigestFinal
  simp only [stream]
  rw [if_pos final]

/-- The partner's digest joins those that wait for the comparison. -/
def Ledger.addPartner (l : Ledger) (t : Nat) (f : BitVec 48) (g : BitVec 128) : Ledger :=
  { l with partnerDigests := l.partnerDigests ++ [(t, f, g)] }

/-- A half that still compares keeps its partner's digest and compares what it can. -/
theorem exec_mirrorDigest {t : Fin 64} {l : Ledger} {s : State} (f : BitVec 48) (g : BitVec 128)
    (led : (s.part (s.partOf t.val)).led = some l) (mirrors : l.mirrors = true) :
    exec (.mirrorDigest t f g) s =
      .next ((s.modLed (s.partOf t.val) (·.addPartner t.val f g)).compareAll (s.partOf t.val)) := by
  change execMirrorDigest t f g s = _
  unfold execMirrorDigest
  simp only [led]
  rw [if_neg (by simp [mirrors])]
  rfl

/-- The ledger of a half without its partner: of the frames not yet compared those go on that a source can be compared with. -/
def Ledger.unpaired (l : Ledger) (left : List Nat) : Ledger :=
  { l with unmirrored := true, uncompared := left, partnerDigests := [] }

/-- JOB_ID does not rest on the ledger. -/
@[simp] theorem State.modLed_jobIdOf (s : State) (p : Nat) (f : Ledger → Ledger) : (s.modLed p f).jobIdOf p = s.jobIdOf p := by
  have part : (s.modLed p f).part p = { s.part p with led := (s.part p).led.map f } := State.part_modPart_self ..
  exact State.jobIdOf_congr rfl (by rw [part]; rfl) (by rw [part]) (by rw [part])

/-- A half that loses its partner reports it and goes on without the comparison (R213). -/
theorem State.loseMirror_of_mirrors {s : State} {p : Nat} {l : Ledger} (led : (s.part p).led = some l)
    (mirrors : l.mirrors = true) : s.loseMirror p =
      ((s.modLed p (·.unpaired (s.sourced p l))).emit (.report .mirrorLost (s.jobIdOf p) 0)).compareAll p := by
  rw [← s.modLed_jobIdOf p (·.unpaired (s.sourced p l))]
  unfold State.loseMirror
  simp only [led]
  rw [if_neg (by simp [mirrors])]
  rfl

/-! ### The ledger record (R192, R204-R206) -/

/-- Nothing holds the ledger record of the step that partition p closed: the pass is over and not abandoned, boundary frame
ALLOT + 1 is there, the digests are final, and neither a freeze nor a reset is in the way. -/
structure RecordDue (s : State) (p : Nat) : Prop where
  passed : (s.part p).action = 4
  live : (s.part p).abandoned = false
  unfenced : s.flt.run = none
  ctl : s.flt.ctlReset = false
  mem : s.flt.memReset = false
  frame : utAllot (s.ouuHeader p) + 2 ≤ (s.part p).boundaryFrame
  digests : s.digestsFinal p = true

/-- The end of partition p's job is decided: it ends with a status once its step is over. -/
def State.decideEnd (s : State) (p : Nat) (status : BitVec 8) : State :=
  s.modPart p fun x => { x with job := x.job.map fun j => { j with ending := some status } }

/-- The STEP record of the closed step is written. A divergence with STOP ends the job (R206), else the source of the next
step is loaded (R204). -/
def State.recordStep (s : State) (p : Nat) (j : Job) (l : Ledger) : State :=
  let r := s.stepRecord p 2 j l
  let c := r.2.clearStep p
  if r.1 && ldStop l.desc.toNat then c.decideEnd p 0x21 else c.loadSource p (c.part p).step.toNat

/-- The boundary goes on behind the record, and the domain manager's standby has its copy. -/
def State.passRecord (s : State) (p : Nat) (jobId : Word) : State :=
  (s.copyAt p jobId).modPart p fun x => { x with action := 5 }

/-- A ledger record that is due: the routines' digests close, the items that changed are recorded, then the step is. -/
theorem exec_ledgerRecord {p : Fin 8} {j : Job} {l : Ledger} {s : State} (due : RecordDue s p.val)
    (launched : (s.part p.val).job = some j) (led : (s.part p.val).led = some l) (unfrozen : l.frozen = false) :
    let a := (s.closeRoutines p.val).refreshItems p.val j
    ∀ {k}, (a.part p.val).led = some k →
      exec (.ledgerRecord p) s = .next ((a.recordStep p.val j k).passRecord p.val j.jobId) := by
  intro a k kept
  change execLedgerRecord p s = _
  have kept : (((s.closeRoutines p.val).refreshItems p.val j).part p.val).led = some k := kept
  unfold execLedgerRecord
  simp only [launched, led]
  rw [if_neg (by simp [due.passed, due.live, unfrozen, due.unfenced, due.ctl, due.mem, due.frame, due.digests])]
  simp only [kept]
  rfl

/-- Settles O18: each command past its hold, the record's by `RecordDue`. -/
theorem digestsMirrorAndLedgerRecord : Obligations.DigestsMirrorAndLedgerRecord := by
  unfold Obligations.DigestsMirrorAndLedgerRecord
  refine ⟨fun t f d s => exec_frameDigestFinal, fun t f g l s => exec_mirrorDigest f g,
    fun p l s led mirrors => exec_next rfl (State.loseMirror_of_mirrors led mirrors), ?record⟩
  case record =>
    intro p j l s launched led passed live unfrozen unfenced ctl mem frame digests a k kept
    exact exec_ledgerRecord ⟨passed, live, unfenced, ctl, mem, frame, digests⟩ launched led unfrozen kept

end Sys2Proof.Machine
end

section
/-!
PROOF. The anchor phase of a block request (R223, R233, R234): the stack of the side entry reads the side entry alone, so an
uncorrectable word among the block's data is counted when a data piece meets it, not before.
-/

-- One declaration after another: the package as one text then needs few threads at a time.
set_option Elab.async false

namespace Sys2Proof.Machine

/-! ### A block with an anchor and an uncorrectable data word -/

/-- A WS64 block request (Table 10.7): 64 elements at 4096 under the side entry at 8192, whose anchor is 5. -/
def badDataRequest : AowReq :=
  { op := 1, da := 4096, side := 8192, data := List.replicate 512 0, sideBytes := natToBytes 16 5, status := none }

/-- The copy of tile 0 that issued the request, and waits for it. -/
def badDataOp : Op :=
  { id := 0, kind := .dma, ec := 0, span := false, deferred := false, frame := 0, reads := [], writes := [], sink := 0,
    spill := false, owes := 0, aow := [badDataRequest] }

/-- The target block has anchor 5 too, and its first 64 bytes of data are uncorrectable. -/
def badDataBlock : State :=
  { State.reset with
    tiles := [(0, { Tile.reset with ops := [badDataOp] })]
    mem := { Store.reset with dram := [(8192, 5)], memBad := [4096 / 64] } }

/-- MEM_UE_CNT of the stack that holds the block's data, in the state a command leads to. -/
def dataUeCount : Host.Outcome State Fault Refusal → Option Word
  | .next u => some (u.rd (Reg.memUeCnt (stackOf badDataRequest.da)))
  | _ => none

/-- R233. The anchor phase does not read the block's data: the request counts no uncorrectable word. -/
theorem dataUeCount_aowRequest_badDataBlock : dataUeCount (exec (.aowRequest 0 0 0 []) badDataBlock) = some 0 := by
  decide +kernel

/-- Refutes O24: for a block request that joins a block with an anchor, the statement has the uncorrectable words of the
data counted (`aowMeet`) at the anchor phase; the model counts them when the data pieces meet them. On `badDataBlock` the
statement's MEM_UE_CNT is 1, the model's is 0. -/
theorem not_memorySystemEventsTakeEffect : ¬ Obligations.MemorySystemEventsTakeEffect := by
  unfold Obligations.MemorySystemEventsTakeEffect
  rintro ⟨-, request, -⟩
  obtain ⟨-, -, anchorPhase⟩ := request 0 0 0 [] badDataOp badDataRequest badDataBlock (by decide +kernel) rfl rfl
    (by decide +kernel) rfl
  obtain ⟨-, -, joins⟩ := anchorPhase (by decide) rfl
  have joined := joins (by decide +kernel) (.inr (.inr (by decide +kernel)))
  have counted := dataUeCount_aowRequest_badDataBlock
  rw [joined] at counted
  exact absurd counted (by decide +kernel)

end Sys2Proof.Machine
end

section
/-!
PROOF. Commands of a channel (R120, R147, R255-R259, R270): what a fetched command that may start does, when a FLUSH and a
COPY complete, and what waits for a FLUSH.
-/

-- One declaration after another: the package as one text then needs few threads at a time.
set_option Elab.async false

namespace Sys2Proof.Machine

open Sys2Proof.Safety

/-! ### Whether a command may start -/

section
variable {s t : State} {ch opc : Nat} {index : Word} {c : ExecCmd}

/-- Whether a command may start rests on the channels and on whether they are fenced. -/
theorem State.mayStart_congr (chan : t.chan = s.chan) (flt : t.flt = s.flt) (c : ExecCmd) : t.mayStart c = s.mayStart c := by
  simp only [State.mayStart, State.earlier, State.cmdsOf, State.fenced, State.chEntry, chan, flt]

/-- A command that may start may do so in every state with these channels and this fence. -/
theorem starts_congr (starts : Starts s ch index opc c) (chan : t.chan = s.chan) (flt : t.flt = s.flt) :
    Starts t ch index opc c where
  fetched := by rw [← starts.fetched, State.cmd, chan]; rfl
  opcode := starts.opcode
  may := (State.mayStart_congr chan flt c).trans starts.may
  clean := starts.clean

/-- Errors of the cells keep no command from starting. -/
theorem starts_inject (starts : Starts s ch index opc c) (errs : List CellError) : Starts (s.inject errs) ch index opc c :=
  have frame := (State.inject_touches errs s).frame
  starts_congr starts (frame .chan (by decide)) (frame .flt (by decide))

theorem State.inject_chEntry (s : State) (errs : List CellError) (ch : Nat) : (s.inject errs).chEntry ch = s.chEntry ch := by
  rw [State.chEntry, (State.inject_touches errs s).frame .chan (by decide)]
  rfl

/-- A command that may start has its effect on the state in which it has started, and doorbells held are tried again. -/
theorem runCmd_retried (starts : Starts s ch index opc c) {f : ExecCmd → State → State} {u : State}
    (effect : f c (begun s c) = u) : (s.runCmd ch index opc f).retryBells = u.retryBells :=
  congrArg State.retryBells ((State.runCmd_starts starts f).trans effect)

/-- A command that may not start yet leaves the state. -/
theorem State.runCmd_of_waits (fetched : s.cmd ch index = some c) (waits : s.mayStart c = false)
    (f : ExecCmd → State → State) : s.runCmd ch index opc f = s := by
  unfold State.runCmd
  simp [fetched, waits]

/-- A FLUSH that is still in execution holds back every command behind it (R259). -/
theorem State.mayStart_behind_flush {d : ExecCmd} (flush : c.opc = 0x01) (before : c ∈ s.earlier d) :
    s.mayStart d = false := by
  have held : (s.earlier d).any (fun e => e.opc == 0x01) = true := List.any_eq_true.2 ⟨c, before, by simp [flush]⟩
  simp [State.mayStart, held]

end

/-! ### NOP, FLUSH, table writes and SEM_SET -/

section
variable {s : State} {ch : Fin 262144} {index : Word} {c : ExecCmd}

/-- A NOP that may start completes. -/
theorem exec_channelNop (starts : Starts s ch.val index 0x00 c) :
    exec (.channelNop ch index) s = .next (ends (begun s c) c (stOk, 0)).retryBells := by
  change execChannelNop ch index s = _
  unfold execChannelNop
  simp only [starts.fetched]
  rw [if_neg (by simp [starts.opcode, knownOpcode])]
  exact congrArg Host.Outcome.next (runCmd_retried starts rfl)

/-- A FLUSH in execution completes when no earlier command of its channel is left, and not before. -/
theorem exec_flushDone (runs : InExecution s ch.val index 0x01 c) : exec (.flushDone ch index) s =
    .next (if s.earlier c = [] then (s.complete ch.val index stOk 0 0).retryBells else s) := by
  change execFlushDone ch index s = _
  unfold execFlushDone
  simp only [runs.fetched]
  by_cases alone : s.earlier c = []
  · rw [if_pos alone, if_neg (by simp [runs.opcode, runs.started, runs.running, alone])]
  · rw [if_neg alone, if_pos (by simp [alone])]

section
variable {v i : Nat}

/-- A group entry of the tenant's own allotment is written, dropped or read. -/
theorem exec_groupWrite_within (starts : Starts s ch.val index 0x06 c) (tenant : cTenant ((begun s c).chEntry ch.val) = v)
    (place : ((begun s c).tenant v).grpBase + c.arg 4 12 = i) (inside : c.arg 4 12 < ((begun s c).tenant v).grpCnt) :
    exec (.groupWrite ch index) s = .next ((begun s c).tableWrite c 128 (gTenant · == v) (fun g => g == 0 || gTenant g == v)
      (fun s g => s.commitGroup i g) (fun s => s.dropGroup i) ((begun s c).groupEntry i)).retryBells := by
  subst tenant place
  exact exec_next rfl (runCmd_retried starts (if_neg (Nat.not_le.2 inside)))

/-- A group entry beyond the allotment is not the tenant's. -/
theorem exec_groupWrite_beyond (starts : Starts s ch.val index 0x06 c) (tenant : cTenant ((begun s c).chEntry ch.val) = v)
    (beyond : ((begun s c).tenant v).grpCnt ≤ c.arg 4 12) :
    exec (.groupWrite ch index) s = .next ((begun s c).complete ch.val index stNotOwner 4 0).retryBells := by
  subst tenant
  exact exec_next rfl (runCmd_retried starts (if_pos beyond))

/-- A semaphore of the allotment takes its value. -/
theorem exec_semSet_allotted (starts : Starts s ch.val index 0x08 c) (tenant : cTenant ((begun s c).chEntry ch.val) = v)
    (allotted : (begun s c).semAllotted v (c.arg 4 13) = true) : exec (.semSet ch index) s =
      .next (((begun s c).semPut v (c.arg 4 13) (BitVec.ofNat 32 (c.arg 8 32))).complete ch.val index stOk 0 0).retryBells := by
  subst tenant
  exact exec_next rfl (runCmd_retried starts (if_neg (by simp [allotted])))

/-- A semaphore beyond the allotment is a bad operand. -/
theorem exec_semSet_beyond (starts : Starts s ch.val index 0x08 c) (tenant : cTenant ((begun s c).chEntry ch.val) = v)
    (beyond : (begun s c).semAllotted v (c.arg 4 13) = false) :
    exec (.semSet ch index) s = .next ((begun s c).complete ch.val index stBadOperand 4 0).retryBells := by
  subst tenant
  exact exec_next rfl (runCmd_retried starts (if_pos (by simp [beyond])))

end

/-! ### COPY -/

/-- The bytes that a COPY of tenant v reads. -/
def State.copyRead (s : State) (v : Nat) (c : ExecCmd) : ReadOut := s.readTen v (c.arg 8 48) (c.arg 0x18 40)

/-- The device addresses that a COPY of tenant v writes. -/
def State.copyTargets (s : State) (v : Nat) (c : ExecCmd) : List Nat :=
  (s.tenAddrs v (c.arg 0x10 48) (c.arg 0x18 40)).getD []

/-- The write of the bytes that a COPY of tenant v has read. -/
def State.copyWrite (s : State) (v : Nat) (c : ExecCmd) : Option Nat × State :=
  (s.copyRead v c).st.writeDev ((s.copyTargets v c).zip (s.copyRead v c).bytes)

/-- The state after an unreadable source: what would have reached the host leaves as a poisoned write. -/
def State.copyPoisoned (s : State) (v : Nat) (c : ExecCmd) : State :=
  if (s.copyTargets v c).any isHost then (s.copyRead v c).st.emit (.poisoned (c.arg 0x10 48)) else (s.copyRead v c).st

/-- What a COPY between two named extents of tenant v does (R258). -/
def State.copyBytes (s : State) (v ch : Nat) (index : Word) (c : ExecCmd) : State :=
  match (s.copyRead v c).bad with
  | some _ => (s.copyPoisoned v c).complete ch index stMemUe 0 0
  | none => match (s.copyWrite v c).1 with
    | some _ => (s.copyWrite v c).2.complete ch index stMemUe 0 0
    | none => (s.copyWrite v c).2

section
variable {v n : Nat}

theorem State.copyBytes_unread (bad : (s.copyRead v c).bad.isSome = true) :
    s.copyBytes v n index c = (s.copyPoisoned v c).complete n index stMemUe 0 0 := by
  obtain ⟨a, bad⟩ := Option.isSome_iff_exists.1 bad
  unfold State.copyBytes
  rw [bad]

theorem State.copyBytes_unwritten (good : (s.copyRead v c).bad = none) (bad : (s.copyWrite v c).1.isSome = true) :
    s.copyBytes v n index c = (s.copyWrite v c).2.complete n index stMemUe 0 0 := by
  obtain ⟨a, bad⟩ := Option.isSome_iff_exists.1 bad
  unfold State.copyBytes
  rw [good, bad]

theorem State.copyBytes_written (good : (s.copyRead v c).bad = none) (written : (s.copyWrite v c).1 = none) :
    s.copyBytes v n index c = (s.copyWrite v c).2 := by
  unfold State.copyBytes
  rw [good, written]

end

section
variable {errs : List CellError} (starts : Starts s ch.val index 0x09 c)
include starts

/-- A COPY whose source and destination are named moves its bytes. -/
theorem exec_copy_named {v : Nat} (tenant : cTenant (s.chEntry ch.val) = v)
    (source : (begun (s.inject errs) c).named ch.val (c.arg 8 48) (c.arg 0x18 40) false = true)
    (target : (begun (s.inject errs) c).named ch.val (c.arg 0x10 48) (c.arg 0x18 40) true = true) :
    exec (.copy ch index errs) s = .next ((begun (s.inject errs) c).copyBytes v ch.val index c).retryBells := by
  rw [← State.inject_chEntry s errs] at tenant
  subst tenant
  refine exec_next rfl (runCmd_retried (starts_inject starts errs) ?_)
  rw [if_neg (by simp [source]), if_neg (by simp [target])]
  rfl

/-- A source that no Aperture of the mask holds is refused at its field. -/
theorem exec_copy_unnamed_source
    (source : (begun (s.inject errs) c).named ch.val (c.arg 8 48) (c.arg 0x18 40) false = false) :
    exec (.copy ch index errs) s = .next ((begun (s.inject errs) c).complete ch.val index stAperture 8 0).retryBells :=
  exec_next rfl (runCmd_retried (starts_inject starts errs) (if_pos (by simp [source])))

/-- So is a destination that no writable Aperture of the mask holds. -/
theorem exec_copy_unnamed_target
    (source : (begun (s.inject errs) c).named ch.val (c.arg 8 48) (c.arg 0x18 40) false = true)
    (target : (begun (s.inject errs) c).named ch.val (c.arg 0x10 48) (c.arg 0x18 40) true = false) :
    exec (.copy ch index errs) s = .next ((begun (s.inject errs) c).complete ch.val index stAperture 0x10 0).retryBells :=
  exec_next rfl (runCmd_retried (starts_inject starts errs)
    ((if_neg (by simp [source])).trans (if_pos (by simp [target]))))

end

/-- A COPY completes with the bytes copied. -/
theorem exec_copyDone (runs : InExecution s ch.val index 0x09 c) (remembers : s.flt.memReset = false) :
    exec (.copyDone ch index) s = .next (s.complete ch.val index stOk 0 (c.arg 0x18 40)).aptSettle.retryBells := by
  change execCopyDone ch index s = _
  unfold execCopyDone
  simp only [runs.fetched]
  exact if_neg (by simp [runs.opcode, runs.started, runs.running, remembers])

end

/-- Settles O26: each command by its own lemma, a COPY by `State.copyBytes`. -/
theorem channelCommandsTakeEffect : Obligations.ChannelCommandsTakeEffect := by
  unfold Obligations.ChannelCommandsTakeEffect
  intro ch index c s u v
  refine ⟨exec_channelNop, fun starts => exec_next rfl (State.runCmd_starts starts _),
    fun runs alone => exec_next (exec_flushDone runs) (if_pos alone),
    fun starts inside => exec_groupWrite_within starts rfl rfl inside, fun starts => exec_groupWrite_beyond starts rfl,
    fun starts => exec_next rfl (runCmd_retried starts rfl),
    fun starts => exec_semSet_allotted starts rfl, fun starts => exec_semSet_beyond starts rfl, ?copies, exec_copyDone⟩
  case copies =>
    intro errs starts u
    refine ⟨fun source target => ?_, exec_copy_unnamed_source starts, exec_copy_unnamed_target starts⟩
    have copies := exec_copy_named starts (v := v) rfl source target
    intro das r w
    exact ⟨fun good written => exec_next copies (congrArg State.retryBells (State.copyBytes_written good written)),
      fun bad => exec_next copies (congrArg State.retryBells (State.copyBytes_unread bad)),
      fun good bad => exec_next copies (congrArg State.retryBells (State.copyBytes_unwritten good bad))⟩

/-- Settles O57: completion is `exec_flushDone`, the hold `State.mayStart_behind_flush`. -/
theorem flushWaitsForEarlierCommands : Obligations.FlushWaitsForEarlierCommands := by
  unfold Obligations.FlushWaitsForEarlierCommands
  intro ch index c s runs
  refine ⟨fun alone => exec_next (exec_flushDone runs) (if_pos alone),
    fun behind => exec_next (exec_flushDone runs) (if_neg behind), fun d before => ?_⟩
  have waits := State.mayStart_behind_flush runs.opcode before
  exact ⟨waits, fun opc f fetched => State.runCmd_of_waits fetched waits f⟩

end Sys2Proof.Machine
end

section
/-!
PROOF. Doorbells and the command fetch (R249, R252-R257): what a doorbell write does by its checks and the entry cache, and
what a fetch does with the command that it reads.
-/

-- One declaration after another: the package as one text then needs few threads at a time.
set_option Elab.async false

namespace Sys2Proof.Machine

/-! ### A doorbell write (R252) -/

/-- The low word that a doorbell write of bits [63:32] goes with: its own, or the one latched last. -/
def State.bellWord (s : State) (v : Nat) (cq : Bool) (low : Option Word) : Word :=
  low.getD (if cq then (s.tenant v).latchCq else (s.tenant v).latchSq)

/-- The channel that a low word names. -/
def bellChannel (low : Word) : Nat := fld low.toNat 17 0

/-- The state in which a doorbell word is latched and its channel's miss, if it is one, counted. -/
def State.latchBell (s : State) (v : Nat) (cq : Bool) (low : Word) : State :=
  (s.modTenant v fun x => if cq then { x with latchCq := low } else { x with latchSq := low }).noteMiss (bellChannel low)

@[simp] theorem State.noteMiss_chan (s : State) (ch : Nat) : (s.noteMiss ch).chan = s.chan :=
  (s.noteMiss_touches ch).frame .chan (by decide)

@[simp] theorem State.latchBell_bellsHeld (s : State) (v : Nat) (cq : Bool) (low : Word) :
    (s.latchBell v cq low).chan.bellsHeld = s.chan.bellsHeld := by simp [State.latchBell]

/-- A doorbell write of either kind. -/
def doorbell (fn : Fin 512) (cq : Bool) (high : Word) (low : Option Word) : Instr :=
  if cq then .doorbellCq fn high low else .doorbellSq fn high low

/-- A doorbell write over an open path latches its word, which then acts; the doorbells held are tried again. -/
theorem exec_doorbell {s : State} {fn : Fin 512} (up : s.busOpen (.vf fn) = true) (cq : Bool) (high : Word)
    (low : Option Word) : exec (doorbell fn cq high low) s =
      .next ((s.latchBell fn.val cq (s.bellWord fn.val cq low)).bell fn.val cq high (s.bellWord fn.val cq low)).retryBells := by
  have writes : exec (doorbell fn cq high low) s = .next (s.bellWrite fn cq high low) := by cases cq <;> rfl
  refine writes.trans (congrArg Host.Outcome.next ?_)
  unfold State.bellWrite
  rw [if_neg (by simp [up])]
  rfl

/-! ### What the word does (R253, R254) -/

section
variable {s : State} {v : Nat} {cq : Bool} {high low : Word}

/-- The checks that a doorbell word must pass. -/
def State.bellCheckWord (s : State) (v : Nat) (low : Word) : Option (Nat × Option Nat) :=
  s.bellCheck v (bellChannel low) (fld low.toNat 31 18)

theorem State.bell_dropped {bit : Nat} {ch : Option Nat} (fails : s.bellCheckWord v low = some (bit, ch)) :
    s.bell v cq high low = s.dropBell v bit ch := by
  unfold State.bell
  rw [State.bellCheckWord, bellChannel] at fails
  simp only [fails]

section
variable {t : State} (passes : s.bellCheckWord v low = none) (cached : s.cacheTake (bellChannel low) = some t)
include passes cached

theorem State.bell_cached : s.bell v cq high low =
    if cq then t.bellCq v (bellChannel low) high.toNat else t.bellSq v (bellChannel low) high.toNat := by
  rw [State.bellCheckWord, bellChannel] at passes
  rw [bellChannel] at cached ⊢
  unfold State.bell
  simp only [passes, cached]

theorem State.bell_cached_sq : s.bell v false high low = t.bellSq v (bellChannel low) high.toNat :=
  (State.bell_cached passes cached).trans (if_neg Bool.false_ne_true)

theorem State.bell_cached_cq : s.bell v true high low = t.bellCq v (bellChannel low) high.toNat :=
  (State.bell_cached passes cached).trans (if_pos rfl)

end

/-- A doorbell that finds no cache entry free joins those held, and CACHE_FULL is set. -/
def State.holdBell (s : State) (fn : Fin 512) (cq : Bool) (high low : Word) : State :=
  { s.setBit Reg.chnEvent 4 with
    chan := { (s.setBit Reg.chnEvent 4).chan with bellsHeld := s.chan.bellsHeld ++ [doorbell fn cq high (some low)] } }

theorem State.bell_held {fn : Fin 512} (passes : s.bellCheckWord fn.val low = none)
    (full : s.cacheTake (bellChannel low) = none) :
    s.bell fn.val cq high low = s.holdBell fn cq high low := by
  rw [State.bellCheckWord, bellChannel] at passes
  rw [bellChannel] at full
  unfold State.bell
  simp only [passes, full, Fin.ofNat_val_eq_self]
  rfl

end

/-! ### A doorbell held alone -/

/-- Whether a channel finds a cache entry rests on the cache and on the commands in execution. -/
theorem State.cacheTake_none_congr {s t : State} {ch : Nat} (cache : t.chan.cache = s.chan.cache)
    (cmds : t.chan.cmds = s.chan.cmds) (full : s.cacheTake ch = none) : t.cacheTake ch = none := by
  unfold State.cacheTake State.cmdsOf at full ⊢
  rw [cache, cmds]
  dsimp only at full ⊢
  split at full
  · exact absurd full (by simp)
  · next out =>
    rw [if_neg out]
    split at full
    · exact absurd full (by simp)
    · next long =>
      rw [if_neg long]
      split at full
      · exact absurd full (by simp)
      · next => rfl

/-- No doorbell is held. -/
def State.dropHeld (s : State) : State := { s with chan := { s.chan with bellsHeld := [] } }

/-- The one doorbell held is tried again where the channels are not fenced. -/
theorem State.retryBells_of_one {s : State} {fn : Fin 512} {cq : Bool} {high low : Word}
    (held : s.chan.bellsHeld = [doorbell fn cq high (some low)]) : s.retryBells =
      if s.fenced then s else s.dropHeld.bell fn.val cq high low := by
  unfold State.retryBells
  rw [held]
  cases cq <;> rfl

section
variable {s : State} {fn : Fin 512} {cq : Bool} {high low : Word}
variable (passes : s.bellCheckWord fn.val low = none) (full : s.cacheTake (bellChannel low) = none)
variable (alone : s.chan.bellsHeld = [])
include passes full alone

/-- Tried again at once, the doorbell held finds the cache as it was. -/
theorem State.retryBells_holdBell : (s.holdBell fn cq high low).retryBells.rdBit Reg.chnEvent 4 = true ∧
    (s.holdBell fn cq high low).retryBells.chan.bellsHeld = [doorbell fn cq high (some low)] := by
  have held : (s.holdBell fn cq high low).chan.bellsHeld = [doorbell fn cq high (some low)] := by
    rw [State.holdBell, alone]
    rfl
  have flagged (u : State) : (u.holdBell fn cq high low).rdBit Reg.chnEvent 4 = true :=
    (State.rdBit_setBit u Reg.chnEvent 4 (by decide)).trans (by simp)
  have again : (s.holdBell fn cq high low).dropHeld.bellCheckWord fn.val low = none := passes
  have still : (s.holdBell fn cq high low).dropHeld.cacheTake (bellChannel low) = none :=
    State.cacheTake_none_congr (s := s) rfl rfl full
  rw [State.retryBells_of_one held]
  split
  · exact ⟨flagged s, held⟩
  · rw [State.bell_held again still]
    exact ⟨flagged _, rfl⟩

end

/-! ### The fetch (R257) -/

section
variable {s u : State} {ch : Fin 262144} (may : s.mayFetch ch.val = true)
include may

/-- A fetch that finds no cache entry free only sets CACHE_FULL. -/
theorem exec_commandFetch_full (full : (s.noteMiss ch.val).cacheTake ch.val = none) :
    exec (.commandFetch ch) s = .next (s.setBit Reg.chnEvent 4) := by
  change execCommandFetch ch s = _
  unfold execCommandFetch
  rw [if_neg (by simp [may])]
  simp only [full]

end

/-- The ring entry of a channel's next command. -/
def State.nextCommand (s : State) (ch : Nat) : Nat :=
  cSqBase (s.chEntry ch) + 64 * (cSqHead (s.chEntry ch) % 2 ^ cSqLog (s.chEntry ch))

/-- The read of a channel's next command. -/
def State.readCommand (s : State) (ch : Nat) : ReadOut := s.readTen (cTenant (s.chEntry ch)) (s.nextCommand ch) 64

/-- A channel's next command as its ring gives it. -/
def State.commandRead (s : State) (ch : Nat) : ExecCmd :=
  { chan := ch, index := BitVec.ofNat 32 (cSqHead (s.chEntry ch)), gen := BitVec.ofNat 16 (cGen (s.chEntry ch)),
    words := BitVec.ofNat 512 (bytesToNat (s.readCommand ch).bytes), started := false,
    rung := s.rungAt ch (cSqHead (s.chEntry ch)), status := none, acct := [] }

/-- A doorbell that makes known a command behind number n. -/
def rungBehind (n : Nat) (b : Word × Dword) : Bool :=
  dist32 b.1.toNat (n + 1) != 0 && decide (dist32 b.1.toNat (n + 1) < 2 ^ 31)

/-- A command, number n of its channel, joins those in execution; the channel's entry is the one given. -/
def State.enqueue (s : State) (ch n entry : Nat) (c : ExecCmd) : State :=
  let u := s.setCh ch entry
  { u with chan := { u.chan with
      cmds := u.chan.cmds ++ [c], lastFetch := Sparse.set 0 u.chan.lastFetch ch u.now,
      bells := Sparse.update [] u.chan.bells ch fun l => l.filter (rungBehind n) } }

/-- A channel's next command is taken: SQ_HEAD rises by one. -/
def State.takeCommand (s : State) (ch : Nat) : State :=
  (s.readCommand ch).st.enqueue ch (cSqHead (s.chEntry ch)) (withSqHead (s.chEntry ch) (cSqHead (s.chEntry ch) + 1))
    (s.commandRead ch)

section
variable (s : State) (ch n entry : Nat) (c : ExecCmd)

theorem State.enqueue_cmds : (s.enqueue ch n entry c).chan.cmds = s.chan.cmds ++ [c] := rfl

/-- An entry of 1,024 bits reads as last written. -/
theorem State.enqueue_chEntry : (s.enqueue ch n entry c).chEntry ch = (BitVec.ofNat 1024 entry).toNat :=
  congrArg BitVec.toNat (Sparse.get_set_self ..)

theorem State.readCommand_chEntry (k : Nat) : (s.readCommand ch).st.chEntry k = s.chEntry k := by
  rw [State.chEntry, State.readCommand, (s.readTen_touches _ _ _).frame .chan (by decide)]
  rfl

theorem State.takeCommand_cmds : (s.takeCommand ch).chan.cmds = (s.readCommand ch).st.chan.cmds ++ [s.commandRead ch] :=
  State.enqueue_cmds ..

theorem State.takeCommand_chEntry : (s.takeCommand ch).chEntry ch = (BitVec.ofNat 1024
    (withSqHead ((s.readCommand ch).st.chEntry ch) (cSqHead (s.chEntry ch) + 1))).toNat := by
  rw [State.readCommand_chEntry]
  exact State.enqueue_chEntry ..

end

section
variable {s u : State} {ch : Fin 262144} (may : s.mayFetch ch.val = true)
variable (cached : (s.noteMiss ch.val).cacheTake ch.val = some u)
include may cached

/-- A ring entry that cannot be read puts the channel in ERROR. -/
theorem exec_commandFetch_unreadable (bad : (u.readCommand ch.val).bad.isSome = true) :
    exec (.commandFetch ch) s = .next ((u.readCommand ch.val).st.chError ch.val
      (if (u.tenAddrs (cTenant (u.chEntry ch.val)) (u.nextCommand ch.val) 64).isNone then 2 else 1)
      (cSqHead (u.chEntry ch.val))) := by
  obtain ⟨a, bad⟩ := Option.isSome_iff_exists.1 bad
  rw [State.readCommand, State.nextCommand] at bad
  change execCommandFetch ch s = _
  unfold execCommandFetch
  rw [if_neg (by simp [may])]
  simp only [cached, bad]
  rfl

/-- A command that is read is taken; one of no known opcode that may start ends at once. -/
theorem exec_commandFetch_read (good : (u.readCommand ch.val).bad = none) : exec (.commandFetch ch) s =
    .next (if !knownOpcode (u.commandRead ch.val).opc && (u.takeCommand ch.val).mayStart (u.commandRead ch.val)
      then ((u.takeCommand ch.val).complete ch.val (u.commandRead ch.val).index stBadOpcode 0 0).retryBells
      else u.takeCommand ch.val) := by
  rw [State.readCommand, State.nextCommand] at good
  change execCommandFetch ch s = _
  unfold execCommandFetch
  rw [if_neg (by simp [may])]
  simp only [cached, good]
  rfl

end

/-- Settles O25: a doorbell of either kind goes by `exec_doorbell` and what its word does, a fetch by what it reads. -/
theorem doorbellsAndCommandFetch : Obligations.DoorbellsAndCommandFetch := by
  unfold Obligations.DoorbellsAndCommandFetch
  refine ⟨?bells, ?fetch⟩
  case bells =>
    intro fn high low s up x word ch u check
    have acts cq := exec_doorbell up cq high low
    have holds : ∀ cq, check cq = none → (u cq).cacheTake (ch cq) = none → s.chan.bellsHeld = [] → ∃ t,
        exec (doorbell fn cq high low) s = .next t ∧ t.rdBit Reg.chnEvent 4 = true ∧
          t.chan.bellsHeld = [doorbell fn cq high (some (word cq))] := by
      intro cq passes full alone
      obtain ⟨flagged, held⟩ := State.retryBells_holdBell (cq := cq) (high := high) passes full
        ((State.latchBell_bellsHeld ..).trans alone)
      exact ⟨_, exec_next (acts cq) (congrArg State.retryBells (State.bell_held passes full)), flagged, held⟩
    exact ⟨fun t passes cached => exec_next (acts false) (congrArg State.retryBells (State.bell_cached_sq passes cached)),
      fun t passes cached => exec_next (acts true) (congrArg State.retryBells (State.bell_cached_cq passes cached)),
      fun bit c fails => exec_next (acts false) (congrArg State.retryBells (State.bell_dropped fails)),
      fun bit c fails => exec_next (acts true) (congrArg State.retryBells (State.bell_dropped fails)),
      holds false, holds true,
      fun cq v => exec_next rfl (if_pos up)⟩
  case fetch =>
    intro ch s may
    refine ⟨exec_commandFetch_full may, ?_⟩
    intro u cached e n a r
    refine ⟨exec_commandFetch_unreadable may cached, ?_⟩
    intro good c
    exact ⟨u.takeCommand ch.val, State.takeCommand_cmds .., State.takeCommand_chEntry ..,
      exec_commandFetch_read may cached good⟩

end Sys2Proof.Machine
end

section
/-!
PROOF. Generations of channels (R250, R251, R275): how a create answers an EXPECT_GEN that is not the entry's GEN, and what a
whole-device reset leaves of the entries.
-/

-- One declaration after another: the package as one text then needs few threads at a time.
set_option Elab.async false

namespace Sys2Proof.Machine

open Sys2Proof.Safety

/-- A field that lies apart from the one replaced stands. -/
theorem fld_setFld_apart (w v : Nat) {hi lo h l : Nat} (ordered : lo ≤ hi) (apart : h < lo ∨ hi < l) (rises : l ≤ h) :
    fld (setFld w hi lo v) h l = fld w h l := by
  apply Nat.eq_of_testBit_eq
  intro i
  rw [fld_testBit, fld_testBit]
  by_cases inside : i < h - l + 1
  · rw [setFld_testBit _ _ _ ordered, if_neg (by omega)]
  · simp [inside]

/-- A fence shows in STATE alone: GEN reads as it stands (R272). -/
theorem State.cGen_chShown (s : State) (ch : Nat) : cGen (s.chShown ch) = cGen (s.chEntry ch) := by
  unfold State.chShown
  dsimp only
  split
  · exact fld_setFld_apart _ _ (by decide) (by decide) (by decide)
  · rfl

/-- How far generation a is ahead of generation b, of 65,536 (R250). -/
def serialAhead (a b : Nat) : Int := ((a : Int) - (b : Int)) % 65536

/-- A generation is newer when it is ahead by 1 to 32,767. -/
theorem serialNewer_iff (a b : Nat) : serialNewer 16 a b = true ↔ 0 < serialAhead a b ∧ serialAhead a b ≤ 32767 := by
  have ahead : (((a + 2 ^ 16 - b % 2 ^ 16) % 2 ^ 16 : Nat) : Int) = serialAhead a b := by
    unfold serialAhead
    omega
  simp only [serialNewer, Bool.and_eq_true, bne_iff_ne, decide_eq_true_eq]
  omega

/-- A generation that is ahead by anything but 0 is another one. -/
theorem ne_of_serialAhead {a b : Nat} (ahead : 0 < serialAhead a b) : a ≠ b := by
  rintro rfl
  simp [serialAhead] at ahead

/-- EXPECT_GEN of a staged entry (Table 11.4). -/
def expectGen (d : Nat) : Nat := fld d 47 32

/-- The first check of a create compares the generations (R251, R275). -/
theorem State.createCheck_of_differs (s : State) (v ch d : Nat) (differs : expectGen d ≠ cGen (s.chEntry ch)) :
    s.createCheck v ch d = (if serialNewer 16 (expectGen d) (cGen (s.chEntry ch)) then 3 else 2, 4) := by
  rw [← State.cGen_chShown] at differs ⊢
  unfold State.createCheck
  dsimp only
  rw [List.find?_cons_of_pos (by simpa [expectGen] using differs)]
  rfl

section
variable {s : State} {v ch d : Nat}

/-- A newer EXPECT_GEN is BAD_FIELD. -/
theorem State.createCheck_newer (ahead : 0 < serialAhead (expectGen d) (cGen (s.chEntry ch)))
    (near : serialAhead (expectGen d) (cGen (s.chEntry ch)) ≤ 32767) : s.createCheck v ch d = (3, 4) := by
  rw [State.createCheck_of_differs _ _ _ _ (ne_of_serialAhead ahead), if_pos ((serialNewer_iff _ _).2 ⟨ahead, near⟩)]

/-- An older one, and one that is half the range away, is STALE_GEN. -/
theorem State.createCheck_stale (far : 32768 ≤ serialAhead (expectGen d) (cGen (s.chEntry ch))) :
    s.createCheck v ch d = (2, 4) := by
  have ahead : 0 < serialAhead (expectGen d) (cGen (s.chEntry ch)) := by omega
  rw [State.createCheck_of_differs _ _ _ _ (ne_of_serialAhead ahead), if_neg]
  rw [serialNewer_iff]
  omega

end

/-- A channel command over an open window that is idle runs on the channel that it names, if the allotment holds it. -/
theorem State.cw_open {s : State} {path : Path} (opens : Opens s path (Reg.tenCwCmd (tenWindow path)))
    (idle : s.rdBit (Reg.tenCwStatus (tenWindow path)) 0 = false)
    (inside : (s.cwTarget path).2 < (s.tenant (s.cwTarget path).1).chCnt) (f : Nat → Nat → Nat → State → State) :
    s.cw path f = f (tenWindow path) (s.cwTarget path).1 ((s.tenant (s.cwTarget path).1).chBase + (s.cwTarget path).2) s := by
  unfold State.cw
  dsimp only
  rw [State.via_open opens, if_neg (by simp [idle])]
  exact if_neg (Nat.not_le.2 inside)

section
variable {s : State} {path : Path} (opens : Opens s path (Reg.tenCwCmd (tenWindow path)))
variable (idle : s.rdBit (Reg.tenCwStatus (tenWindow path)) 0 = false)
variable (inside : (s.cwTarget path).2 < (s.tenant (s.cwTarget path).1).chCnt)
include opens idle inside

/-- A create that fails a check only answers RESULT, ERR_OFF and GEN. -/
theorem exec_cwCreate_refused {v ch result off : Nat} (tenant : (s.cwTarget path).1 = v)
    (place : (s.tenant (s.cwTarget path).1).chBase + (s.cwTarget path).2 = ch)
    (check : s.createCheck v ch (s.staged (Reg.tenCwData (tenWindow path) 0) 12) = (result, off)) (refused : result ≠ 0) :
    exec (.cwCreate path) s = .next (s.cwResult (tenWindow path) result off (cGen (s.chEntry ch))) := by
  subst tenant place
  refine exec_next rfl ((State.cw_open opens idle inside _).trans ?_)
  dsimp only
  rw [check, if_pos (by simpa using refused)]

end

/-- A whole-device reset leaves every entry at its reset value. -/
theorem State.deviceReset_chEntry (s : State) (held : Option HeldBy) (ch : Nat) : (s.deviceReset held).chEntry ch = 0 := by
  have chans : (s.deviceReset held).chan.chans = [] := rfl
  rw [State.chEntry, chans, Sparse.get_nil]
  exact BitVec.toNat_zero ..

/-- Settles O59: a create meets the comparison of generations first. -/
theorem generationsCompareSerially : Obligations.GenerationsCompareSerially := by
  unfold Obligations.GenerationsCompareSerially
  refine ⟨?create, fun h ch s => ?reset⟩
  case create =>
    intro path s opens idle inside e a d
    have stale : 32768 ≤ d → exec (.cwCreate path) s = .next (s.cwResult (tenWindow path) 2 4 (cGen e)) := fun far =>
      exec_cwCreate_refused opens idle inside rfl rfl (State.createCheck_stale far) (by decide)
    exact ⟨fun ahead near => exec_cwCreate_refused opens idle inside rfl rfl (State.createCheck_newer ahead near) (by decide),
      fun far => stale (by omega), fun half => stale (by omega)⟩
  case reset =>
    rw [State.deviceReset_chEntry]
    decide

end Sys2Proof.Machine
end

section
/-!
PROOF. Tenants leave their partitions (R247, R267, R269, R293, R348): the Function Level Reset, the abandonment of a job, the
gang pre-emption and the recall of shared link credits.
-/

-- One declaration after another: the package as one text then needs few threads at a time.
set_option Elab.async false

namespace Sys2Proof.Machine

open Sys2Proof.Safety

/-! ### Abandonment (R348) -/

/-- The job of partition p is abandoned: a step that is open is, the job ends with STOPPED, its cut and its waiting tiles
are dropped. -/
def State.abandonOn (s : State) (p : Nat) (cause : ChipId) : State :=
  (s.modPart p fun x => { x with
    abandoned := x.jobOn && (x.stepOpen || (decide (0 < x.action) && decide (x.action < 5)))
    ckpt := { x.ckpt with cutStep := none, releaseWait := false }
    job := x.job.map fun j => { j with ending := some 0x0A, endDetail := cause.toNat } }).mapTiles p fun x =>
      { x with waiting := false }

/-- An ABANDON of a job that runs on one partition. -/
theorem exec_abandon_one {s : State} {jobId : Word} {p : Nat} (one : s.partsOfJob jobId = [p]) (cause : ChipId) :
    exec (.abandon jobId cause) s = .next ((s.abandonOn p cause).endJob p) := by
  change execAbandon jobId cause s = _
  unfold execAbandon
  rw [one]
  rfl

/-! ### The gang pre-emption (R267, R293) -/

/-- The flip words of the job's tenant that were due at the boundary of partition p are written, and nothing of the job is
open or outstanding there. -/
structure PreemptDue (s : State) (p : Nat) (j : Job) : Prop where
  launched : (s.part p).job = some j
  flipped : s.flipFrame p ≤ (s.part p).boundaryFrame ∨ ∀ e ∈ s.dueFlips p, e.2 ≠ j.tenant
  on : (s.part p).jobOn = true
  closed : (s.part p).stepOpen = false
  passed : 6 ≤ (s.part p).action
  lasting : (s.part p).ending = false
  quiet : s.quiet p = true
  still : (s.kal.krots.any fun k => s.partOf k.tile == p) = false

/-- No flip word of the job's tenant waits for a later boundary frame (R293). -/
theorem PreemptDue.no_flip_due {s : State} {p : Nat} {j : Job} (due : PreemptDue s p j) :
    (decide ((s.part p).boundaryFrame < s.flipFrame p) && (s.dueFlips p).any fun e => e.2 == j.tenant) = false := by
  rcases due.flipped with late | others
  · simp [Nat.not_lt.2 late]
  · rw [List.any_eq_false.2 fun e mem => by simpa using others e mem, Bool.and_false]

/-- The job of partition p is taken off it: its tiles are saved, its pre-emption counted, its shared credits are recalled,
and it waits for a new launch count. -/
def State.preemptJob (s : State) (p : Nat) (j : Job) : State :=
  let u := ((s.saveAll p j.tenant j.save).charge j.chan j.cmdIndex 1 1).mapTiles p fun x =>
    { x with waiting := false, lostWaiting := 0 }
  (u.recallCredits p j.tenant).modPart p fun x => { x with
    onTiles := none, action := 0, boundaryFrame := 0, dueCause := none
    job := some { j with preempted := true, resumes := true, lockOk := false, launchCount := none } }

/-- A gang pre-emption of a job that runs on one partition, at its boundary. -/
theorem exec_gangPreemption_one {s : State} {jobId : Word} {p : Nat} {j : Job} (one : s.partsOfJob jobId = [p])
    (due : PreemptDue ((s.advanceBoundary p).writeFlips p) p j) :
    exec (.gangPreemption jobId) s = .next (((s.advanceBoundary p).writeFlips p).preemptJob p j) := by
  change execGangPreemption jobId s = _
  unfold execGangPreemption
  simp only [one, List.foldl_cons, List.foldl_nil, due.launched]
  rw [if_neg (by simp [due.no_flip_due]), if_neg (by simp [due.on, due.closed, due.passed, due.lasting, due.quiet, due.still])]
  rfl

/-! ### The credit recall (R269) -/

/-- A credit of the shared pool that tenant v holds. -/
def heldShared (v : Nat) (e : Nat × Nat × Bool) : Bool := e.2.1 == v && e.2.2

/-- The shared credits that tenant v holds of a link return to its pool; what comes back for it later counts toward its
reserve. -/
def Link.recall (v : Nat) (x : Link) : Link :=
  { x with credits := Sparse.update 0 x.credits creditPool (· + x.owed.countP (heldShared v))
           owed := x.owed.map fun e => if heldShared v e then (e.1, e.2.1, false) else e }

/-- The recall on the links of a list, each of which then sends what it may. -/
def State.recallLinks (s : State) (v : Nat) (ls : List Nat) : State :=
  ls.foldl (fun s l => (s.modLink l (Link.recall v)).drain l) s

/-- The links on which tenant v holds shared credits. -/
def State.sharingLinks (s : State) (v : Nat) : List Nat := (List.range 36).filter fun l => (s.link l).owed.any (heldShared v)

/-- A recall of tenant v on partition p whose second tick has come leaves the list of recalls. -/
def State.takeRecall (s : State) (p v : Nat) : State :=
  { s with chan := { s.chan with credit := s.chan.credit.filter fun e => !(e.1 == p && e.2.1 == v && e.2.2 == 0) } }

/-- A recall whose second tick has come acts on every link on which its tenant holds shared credits. -/
theorem exec_creditRecall_due {s : State} {p : Fin 8} {v : Fin 512}
    (due : (s.chan.credit.any fun e => e.1 == p.val && e.2.1 == v.val && e.2.2 == 0) = true) :
    exec (.creditRecall p v) s = .next ((s.takeRecall p.val v.val).recallLinks v.val (s.sharingLinks v.val)) := by
  change execCreditRecall p v s = _
  unfold execCreditRecall
  dsimp only
  rw [if_neg (by simp [due])]
  rfl

theorem State.recallLinks_touches (s : State) (v : Nat) (ls : List Nat) :
    Touches [.rf, .net, .dbg, .out] s (s.recallLinks v ls) :=
  Touches.foldl _ (fun _ _ => .via (State.drain_touches ..) (.mono (State.modLink_touches ..))) (.refl _ s)

/-- A link with nothing waiting sends nothing. -/
theorem State.drain_of_idle {s : State} {l : Nat} (idle : (s.link l).waiting = []) : s.drain l = s := by
  rw [State.drain, idle]
  rfl

section
variable (v : Nat)

/-- What waits on the links stands over a recall on one of them. -/
theorem State.waiting_modLink_recall (s : State) (k l : Nat) :
    ((s.modLink k (Link.recall v)).link l).waiting = (s.link l).waiting := by
  by_cases same : l = k
  · subst same
    rw [State.link_modLink_self]
    rfl
  · rw [State.link_modLink_ne _ _ same]

/-- Where no link has anything waiting, the recall only returns credits. -/
theorem State.recallLinks_of_idle (ls : List Nat) : ∀ {s : State}, (∀ l, (s.link l).waiting = []) →
    s.recallLinks v ls = ls.foldl (fun s l => s.modLink l (Link.recall v)) s := by
  induction ls with
  | nil => exact fun _ => rfl
  | cons k ls ih =>
    intro s idle
    have still (l : Nat) : ((s.modLink k (Link.recall v)).link l).waiting = [] :=
      (State.waiting_modLink_recall v s k l).trans (idle l)
    rw [State.recallLinks, List.foldl_cons, State.drain_of_idle (still k)]
    exact ih still

theorem State.recallLinks_touches_of_idle {s : State} (idle : ∀ l, (s.link l).waiting = []) (ls : List Nat) :
    Touches [.net] s (s.recallLinks v ls) := by
  rw [State.recallLinks_of_idle v ls idle]
  exact Touches.foldl _ (fun _ _ => State.modLink_touches ..) (.refl _ s)

/-- Each link of the list has its credits returned, once; every other stands. -/
theorem State.link_recallAll {ls : List Nat} (nodup : ls.Nodup) (l : Nat) : ∀ s : State,
    (ls.foldl (fun s l => s.modLink l (Link.recall v)) s).link l = if l ∈ ls then (s.link l).recall v else s.link l := by
  induction ls with
  | nil => exact fun s => (if_neg (List.not_mem_nil)).symm
  | cons k ls ih =>
    obtain ⟨fresh, nodup⟩ := List.nodup_cons.1 nodup
    intro s
    rw [List.foldl_cons, ih nodup]
    by_cases same : l = k
    · subst same
      rw [if_neg fresh, State.link_modLink_self, if_pos List.mem_cons_self]
    · simp [State.link_modLink_ne _ _ same, same]

theorem Link.recall_owed (x : Link) : (x.recall v).owed = x.owed.map fun e => if heldShared v e then (e.1, e.2.1, false) else e :=
  rfl

theorem Link.recall_pool (x : Link) : Sparse.get 0 (x.recall v).credits creditPool =
    Sparse.get 0 x.credits creditPool + x.owed.countP (heldShared v) := by
  simp [Link.recall]

/-- Where tenant v holds no shared credit there is none to return. -/
theorem Link.none_held {x : Link} (none : x.owed.any (heldShared v) = false) :
    (x.owed.map fun e => if heldShared v e then (e.1, e.2.1, false) else e) = x.owed ∧ x.owed.countP (heldShared v) = 0 := by
  rw [List.any_eq_false] at none
  exact ⟨(List.map_congr_left (g := id) fun e mem => if_neg (none e mem)).trans (List.map_id _), List.countP_eq_zero.2 none⟩

/-- With nothing waiting on the links, every link's shared credits that tenant v holds return to its pool. -/
theorem State.link_recallLinks {s : State} (idle : ∀ l, (s.link l).waiting = []) {l : Nat} (below : l < 36) :
    ((s.recallLinks v (s.sharingLinks v)).link l).owed = ((s.link l).recall v).owed ∧
    Sparse.get 0 ((s.recallLinks v (s.sharingLinks v)).link l).credits creditPool =
      Sparse.get 0 ((s.link l).recall v).credits creditPool := by
  have nodup : (s.sharingLinks v).Nodup := List.nodup_range.filter _
  rw [State.recallLinks_of_idle v _ idle, State.link_recallAll v nodup]
  split
  · exact ⟨rfl, rfl⟩
  · next apart =>
    have none : (s.link l).owed.any (heldShared v) = false := by
      simpa [State.sharingLinks, below] using apart
    obtain ⟨owed, count⟩ := Link.none_held v none
    rw [Link.recall_owed, Link.recall_pool, owed, count]
    exact ⟨rfl, rfl⟩

end

/-- Settles O29: each command by its own lemma, the recall by `State.link_recallLinks`. -/
theorem tenantsLeaveTheirPartitions : Obligations.TenantsLeaveTheirPartitions := by
  unfold Obligations.TenantsLeaveTheirPartitions
  refine ⟨fun fn s => rfl, fun jobId cause p j s one _ => exec_abandon_one one cause, ?preempts, ?recalls⟩
  case preempts =>
    intro jobId p j s one b launched flipped on closed passed lasting quiet still
    exact exec_gangPreemption_one one ⟨launched, flipped, on, closed, passed, lasting, quiet, still⟩
  case recalls =>
    intro p v s due
    have taken : Touches [.chan] s (s.takeRecall p.val v.val) := TouchesParts.upd (.refl _ s)
    have recalls := State.recallLinks_touches (s.takeRecall p.val v.val) v.val (s.sharingLinks v.val)
    refine ⟨_, exec_creditRecall_due due, (Touches.via recalls taken.mono).frame, ?_, fun idle => ⟨?_, fun l below => ?_⟩⟩
    · rw [recalls.frame .chan (by decide)]
      rfl
    · exact (Touches.via (State.recallLinks_touches_of_idle v.val (s := s.takeRecall p.val v.val) idle _) taken.mono).frame
    · have returned := State.link_recallLinks v.val (s := s.takeRecall p.val v.val) idle below
      exact ⟨returned.1, returned.2.trans (Link.recall_pool ..)⟩

end Sys2Proof.Machine
end

section
/-!
PROOF. Fetches and their extents (R278-R281, R283, R289, R290): what a FETCH that may start does by its set, its copy and its
list, and how an extent ends by its READ and its queue pair.
-/

-- One declaration after another: the package as one text then needs few threads at a time.
set_option Elab.async false

namespace Sys2Proof.Machine

open Sys2Proof.Safety

/-! ### FETCH -/

/-- The tenant of the channel on which a command was fetched. -/
def State.caller (s : State) (ch : Nat) : Nat := cTenant (s.chEntry ch)

/-- The weight set that an ingress command names. -/
def ExecCmd.wset (c : ExecCmd) : Nat := c.arg 4 10

/-- The copy that a FETCH or a WSET_FLIP names. -/
def ExecCmd.copy (c : ExecCmd) : Bool := bitOf c.words.toNat 42

/-- The read of the extent list of a FETCH. -/
def State.listRead (s : State) (ch : Nat) (c : ExecCmd) : ReadOut :=
  s.readTen (s.caller ch) (c.arg 8 48) (128 * c.arg 0x10 13)

/-- The extent entries of a list. -/
def listEntries (bytes : List Byte) : List Nat := (chunks 128 bytes).map bytesToNat

/-- The rules of R280 on a list: each entry keeps them, and no two destinations meet. -/
def listGood (w : WSet) (es : List Nat) : Bool := es.all (xValid w.len) && !someMeet (es.flatMap xRanges)

theorem not_listGood (w : WSet) (es : List Nat) :
    (!listGood w es) = (!es.all (xValid w.len) || someMeet (es.flatMap xRanges)) := by
  rw [listGood, Bool.not_and, Bool.not_not]

/-- A FETCH of the list es into its copy of set w, before any extent has begun. -/
def WSet.fetchRun (w : WSet) (v ch : Nat) (index : Word) (c : ExecCmd) (es : List Nat) : FetchRun :=
  { chan := ch, index := index, tenant := v, set := c.wset, copy := c.copy, base := (w.copyOf c.copy).base,
    final := bitOf c.words.toNat 44, list := es.map (BitVec.ofNat 1024), keys := [], report := c.arg 0x18 48,
    ended := [], failed := 0, bytes := 0 }

/-- Under FIRST a copy starts over with an empty list of failed ranges (R290). -/
def State.startCopy (s : State) (c : ExecCmd) : State :=
  if bitOf c.words.toNat 43 then s.modCopy c.wset c.copy fun x =>
    { x with failed := [], overflow := false, finalSeen := false, state := .loading } else s

/-- A fetch joins those in execution. -/
def State.addFetch (s : State) (f : FetchRun) : State := { s with ing := { s.ing with fetches := s.ing.fetches ++ [f] } }

/-- The set, the copy and the ranges that a FETCH names pass (R278, R279). -/
structure FetchPasses (s : State) (ch : Nat) (c : ExecCmd) (w : WSet) : Prop where
  owned : s.ownSet (s.caller ch) c.wset = .ok w
  inactive : w.activeCopy ≠ some c.copy
  entries : 0 < c.arg 0x10 13
  few : c.arg 0x10 13 ≤ 4096
  list : s.named ch (c.arg 8 48) (128 * c.arg 0x10 13) false = true
  report : s.named ch (c.arg 0x18 48) (32 * c.arg 0x10 13) true = true

section
variable {s : State} {ch : Fin 262144} {index : Word} {c : ExecCmd}
variable (starts : Starts s ch.val index 0x40 c) (room : s.ing.fetches.length < 8)
include starts room

/-- While fewer than 8 fetches run, one of a set that is not its tenant's is refused under the set's reason. -/
theorem exec_fetch_not_own {r : Nat} (other : (begun s c).ownSet ((begun s c).caller ch.val) c.wset = .error r) :
    exec (.fetch ch index) s = .next ((begun s c).refuse c r).retryBells := by
  refine exec_next rfl ((if_neg (Nat.not_le.2 room)).trans (runCmd_retried starts ?_))
  rw [State.caller, ExecCmd.wset] at other
  simp only [other]

/-- The ACTIVE copy takes no fetch. -/
theorem exec_fetch_active {w : WSet} (owned : (begun s c).ownSet ((begun s c).caller ch.val) c.wset = .ok w)
    (active : w.activeCopy = some c.copy) :
    exec (.fetch ch index) s = .next ((begun s c).refuse c 0x04).retryBells := by
  refine exec_next rfl ((if_neg (Nat.not_le.2 room)).trans (runCmd_retried starts ?_))
  rw [State.caller, ExecCmd.wset] at owned
  rw [ExecCmd.copy] at active
  simp only [owned]
  exact if_pos active

/-- A FETCH that passes and whose list is read begins its extents, or is refused for its list. -/
theorem exec_fetch_list {w : WSet} (passes : FetchPasses (begun s c) ch.val c w)
    (read : ((begun s c).listRead ch.val c).bad = none) :
    let r := (begun s c).listRead ch.val c
    let es := listEntries r.bytes
    exec (.fetch ch index) s = .next (State.retryBells (if listGood w es
      then ((r.st.startCopy c).addFetch (w.fetchRun ((begun s c).caller ch.val) ch.val index c es)).beginExtents
      else r.st.refuse c 0x06)) := by
  intro r es
  obtain ⟨owned, inactive, entries, few, list, report⟩ := passes
  rw [State.caller, ExecCmd.wset] at owned
  rw [ExecCmd.copy] at inactive
  rw [State.listRead, State.caller] at read
  refine exec_next rfl ((if_neg (Nat.not_le.2 room)).trans (runCmd_retried starts ?_))
  simp only [owned]
  rw [if_neg inactive, if_neg (by simp [Nat.ne_of_gt entries, few]), if_neg (by simp [list]), if_neg (by simp [report])]
  simp only [read]
  change (if (!es.all (xValid w.len) || someMeet (es.flatMap xRanges)) = true then _ else _) = _
  rw [← not_listGood]
  cases listGood w es with
  | true => rfl
  | false => rfl

end

/-! ### The end of an extent -/

/-- Extent number i of fetch f, begun with key b, has not ended. -/
structure ExtentRuns (s : State) (ch : Nat) (index : Word) (i : Nat) (f : FetchRun) (b : BegunKey) : Prop where
  fetch : s.ing.fetches.find? (fun f => f.chan == ch && f.index == index) = some f
  key : f.keys[i]? = some b
  flies : f.ended.contains i = false

/-- The entry of extent number i of a fetch. -/
def FetchRun.entry (f : FetchRun) (i : Nat) : Nat := (f.list.getD i 0).toNat

/-- Bytes that came over the wire are counted. -/
def State.countWire (s : State) (bytes : List Byte) : State :=
  { s with ing := { s.ing with wireBytes := s.ing.wireBytes + BitVec.ofNat 64 bytes.length } }

section
variable {s : State} {ch : Fin 262144} {index : Word} {i : Nat} {f : FetchRun} {b : BegunKey}
variable (runs : ExtentRuns s ch.val index i f b)
include runs

/-- An extent whose READ failed ends with NET. -/
theorem exec_extentEnd_failed : exec (.extentEnd ch index i .failed) s = .next (s.endExtent f i exNet 0) := by
  change execExtentEnd ch index i .failed s = _
  unfold execExtentEnd
  simp only [runs.fetch, runs.key]
  exact if_neg (by simpa using runs.flies)

/-- So does one whose queue pair the tenant may no longer use. -/
theorem exec_extentEnd_unready (unready : s.qpReady f.tenant (xQp (f.entry i)) = false) (bytes : List Byte) :
    exec (.extentEnd ch index i (WireResult.data bytes)) s = .next (s.endExtent f i exNet 0) := by
  rw [FetchRun.entry] at unready
  change execExtentEnd ch index i (WireResult.data bytes) s = _
  unfold execExtentEnd
  simp only [runs.fetch, runs.key]
  rw [if_neg (by simpa using runs.flies), if_pos (by simpa using unready)]

/-- The bytes of an extent go through its stages, whose STATUS it ends with. -/
theorem exec_extentEnd_data (ready : s.qpReady f.tenant (xQp (f.entry i)) = true) {bytes : List Byte}
    (whole : bytes.length = xLen (f.entry i)) : exec (.extentEnd ch index i (WireResult.data bytes)) s =
      .next (((s.countWire bytes).runExtent f (f.entry i) b bytes).st.endExtent f i
        ((s.countWire bytes).runExtent f (f.entry i) b bytes).status
        ((s.countWire bytes).runExtent f (f.entry i) b bytes).wrote) := by
  rw [FetchRun.entry] at ready whole
  change execExtentEnd ch index i (WireResult.data bytes) s = _
  unfold execExtentEnd
  simp only [runs.fetch, runs.key]
  rw [if_neg (by simpa using runs.flies), if_neg (by simpa using ready), if_neg (by simp [whole])]
  rfl

end

/-- Settles O30: a FETCH by its set, its copy and its list, an extent by its READ and its queue pair. -/
theorem fetchesWriteTheirExtents : Obligations.FetchesWriteTheirExtents := by
  unfold Obligations.FetchesWriteTheirExtents
  refine ⟨?fetch, ?extent⟩
  case fetch =>
    intro ch index c s starts room u v k copy n
    refine ⟨fun r => exec_fetch_not_own starts room, fun w => exec_fetch_active starts room, ?_⟩
    intro w owned inactive entries few list report read r es good
    have begins := exec_fetch_list starts room ⟨owned, inactive, entries, few, list, report⟩ read
    exact ⟨fun bad => exec_next begins (congrArg State.retryBells (if_neg (ne_true_of_eq_false bad))),
      fun good => exec_next begins (congrArg State.retryBells (if_pos good))⟩
  case extent =>
    intro ch index i f b s fetch key flies e
    have runs : ExtentRuns s ch.val index i f b := ⟨fetch, key, flies⟩
    exact ⟨exec_extentEnd_failed runs, fun bytes ready whole => exec_extentEnd_data runs ready whole,
      fun bytes unready => exec_extentEnd_unready runs unready bytes⟩

end Sys2Proof.Machine
end

section
/-!
PROOF. Weight sets (R289-R292): what the commands that create, bind, unbind, flip and destroy a set do, when a binding's flip
word is written, and how a flip ends.
-/

-- One declaration after another: the package as one text then needs few threads at a time.
set_option Elab.async false

namespace Sys2Proof.Machine

open Sys2Proof.Safety

/-! ### Creation -/

/-- Set k as a WSET_CREATE of tenant v makes it: both copies EMPTY, none active, no binding. -/
def ExecCmd.newWset (c : ExecCmd) (v : Nat) : WSet :=
  { owner := v, shared := bitOf c.words.toNat 42, len := c.arg 0x18 48, copy0 := WCopy.fresh (c.arg 8 48),
    copy1 := WCopy.fresh (c.arg 0x10 48), activeCopy := none, bindings := [], flip := none }

/-- Tenant v may place a copy of a new set at address a (R289). -/
structure HoldsCopy (s : State) (ch v : Nat) (c : ExecCmd) (a : Nat) : Prop where
  allowed : s.aptAllows v a (c.arg 0x18 48) true true = true
  named : s.named ch a (c.arg 0x18 48) true = true

section
variable {s : State} {ch : Fin 262144} {index : Word} {c : ExecCmd} (starts : Starts s ch.val index 0x41 c)
include starts

/-- A number in use is refused. -/
theorem exec_wsetCreate_used (used : ((begun s c).wset c.wset).isSome = true) :
    exec (.wsetCreate ch index) s = .next ((begun s c).refuse c 1).retryBells :=
  exec_next rfl (runCmd_retried starts (if_pos used))

/-- A set that passes is created. -/
theorem exec_wsetCreate_free (free : (begun s c).wset c.wset = none)
    (sharing : bitOf c.words.toNat 42 = false ∨ (begun s c).caller ch.val = 0) (sized : c.arg 0x18 48 ≠ 0)
    (first : HoldsCopy (begun s c) ch.val ((begun s c).caller ch.val) c (c.arg 8 48))
    (second : HoldsCopy (begun s c) ch.val ((begun s c).caller ch.val) c (c.arg 0x10 48)) :
    exec (.wsetCreate ch index) s = .next (((begun s c).setWset c.wset
      (some (c.newWset ((begun s c).caller ch.val)))).complete ch.val index stOk 0 0).retryBells := by
  obtain ⟨allowed, named⟩ := first
  obtain ⟨allowed', named'⟩ := second
  rw [State.caller] at sharing allowed allowed'
  rw [ExecCmd.wset] at free
  refine exec_next rfl (runCmd_retried starts ?_)
  rw [if_neg (by simp [free]), if_neg (by rcases sharing with alone | owner <;> simp [*]),
    if_neg (by simp [sized, allowed, allowed']), if_neg (by simp [named]), if_neg (by simp [named'])]
  rfl

end

/-! ### Bindings -/

/-- The binding of tenant v that a WSET_BIND makes: a flip that runs finds it due (R291). -/
def ExecCmd.newBinding (c : ExecCmd) (w : WSet) (v : Nat) : Binding :=
  { tenant := v, parts := BitVec.ofNat 8 (c.arg 6 8), flipWord := c.arg 8 48, flipSeq := 0, due := w.flip.isSome }

/-- A set without the bindings of tenant v. -/
def WSet.unbind (w : WSet) (v : Nat) : WSet := { w with bindings := w.bindings.filter (·.tenant != v) }

/-- Tenant v neither owns set w nor is bound to it. -/
def WSet.stranger (w : WSet) (v : Nat) : Bool := w.owner != v && !w.bindings.any (·.tenant == v)

/-- Tenant v may bind set w once more. -/
structure MayBind (w : WSet) (v : Nat) : Prop where
  allowed : w.owner = v ∨ w.shared = true
  room : w.bindings.length < 64
  unbound : w.bindings.any (·.tenant == v) = false

/-- Address a may hold a flip word of tenant v: aligned, in a writable, retained Aperture i that no SPILL backs. -/
structure HoldsFlipWord (s : State) (v a i : Nat) : Prop where
  aligned : a % 8 = 0
  held : s.aptOf v a 8 = some i
  writable : aptWritable (s.aptDesc v i) = true
  retained : aptRetained (s.aptDesc v i) = true
  resident : aptSpill (s.aptDesc v i) = false

section
variable {s : State} {ch : Fin 262144} {index : Word} {c : ExecCmd} {w : WSet} {v : Nat}

/-- A bind that passes writes the flip word and joins the bindings. -/
theorem exec_wsetBind_allowed {i : Nat} (starts : Starts s ch.val index 0x42 c)
    (tenant : (begun s c).caller ch.val = v) (created : (begun s c).wset c.wset = some w) (may : MayBind w v)
    (place : HoldsFlipWord (begun s c) v (c.arg 8 48) i) (named : (begun s c).named ch.val (c.arg 8 48) 8 true = true) :
    exec (.wsetBind ch index) s = .next (((((begun s c).writeTen v (c.arg 8 48)
      (flipWord (w.activeCopy.getD false) 0)).2.setWset c.wset
        (some { w with bindings := w.bindings ++ [c.newBinding w v] })).complete ch.val index stOk 0 0).retryBells) := by
  subst tenant
  obtain ⟨allowed, room, unbound⟩ := may
  obtain ⟨aligned, held, writable, retained, resident⟩ := place
  rw [State.caller] at *
  rw [ExecCmd.wset] at created
  refine exec_next rfl (runCmd_retried starts ?_)
  simp only [created]
  rw [if_neg (by rcases allowed with owner | shared <;> simp [*]), if_neg (by simp [room, unbound]),
    if_neg (by simp [aligned, held, writable, retained, resident]), if_neg (by simp [named])]
  rfl

/-- A bind of another tenant's set that is not shared is refused. -/
theorem exec_wsetBind_not_owner (starts : Starts s ch.val index 0x42 c) (created : (begun s c).wset c.wset = some w)
    (other : w.owner ≠ (begun s c).caller ch.val) (alone : w.shared = false) :
    exec (.wsetBind ch index) s = .next ((begun s c).refuse c 2).retryBells := by
  rw [State.caller] at other
  rw [ExecCmd.wset] at created
  refine exec_next rfl (runCmd_retried starts ?_)
  simp only [created]
  exact if_pos (by simp [other, alone])

/-- An unbind for which no flip word of the tenant's bindings is due acts at once (R291). -/
theorem exec_wsetUnbind_settled (starts : Starts s ch.val index 0x43 c) (created : s.wset c.wset = some w)
    (settled : (w.bindings.any fun b => b.tenant == s.caller ch.val && b.due) = false) :
    exec (.wsetUnbind ch index) s = .next (State.retryBells (
      if w.stranger (s.caller ch.val) then (begun s c).refuse c 2
      else ((begun s c).setWset c.wset (some (w.unbind (s.caller ch.val)))).complete ch.val index stOk 0 0)) := by
  have created' : (begun s c).wset c.wset = some w := created
  rw [State.caller] at *
  rw [ExecCmd.wset] at created created'
  change execWsetUnbind ch index s = _
  unfold execWsetUnbind
  simp only [starts.fetched, created, settled]
  refine congrArg Host.Outcome.next (runCmd_retried starts ?_)
  simp only [created']
  rfl

end

/-! ### Flips and destruction -/

/-- A flip of set w to a copy, by a command of channel x.1, makes every binding due. -/
def WSet.startFlip (w : WSet) (copy : Bool) (x : Nat × Word) : WSet :=
  { w with flip := some (copy, x), bindings := w.bindings.map fun b => { b with due := true } }

/-- The bindings of tenant v have their flip word, under FLIP_SEQ seq. -/
def WSet.noteFlip (w : WSet) (v : Nat) (seq : Word) : WSet :=
  { w with bindings := w.bindings.map fun y => if y.tenant == v then { y with flipSeq := seq, due := false } else y }

/-- A flip of set w to a copy has ended: the copy is ACTIVE, the one before ELIGIBLE again. -/
def WSet.endFlip (w : WSet) (copy : Bool) : WSet :=
  let y := match w.activeCopy with
    | some a => w.setCopy a { w.copyOf a with state := .eligible }
    | none => w
  { y.setCopy copy { y.copyOf copy with state := .active } with activeCopy := some copy, flip := none }

/-- With no binding due a flip ends and its command completes. -/
theorem State.settleFlip_settled {s : State} {k : Nat} {w : WSet} {copy : Bool} {x : Nat × Word}
    (created : s.wset k = some w) (flips : w.flip = some (copy, x)) (settled : w.bindings.any (·.due) = false) :
    s.settleFlip k = ((s.setWset k (some (w.endFlip copy))).complete x.1 x.2 stOk 0 0).retryBells := by
  unfold State.settleFlip
  simp only [created, flips]
  rw [if_neg (by simp [settled])]
  rfl

section
variable {s : State} {ch : Fin 262144} {index : Word} {c : ExecCmd} {w : WSet}

/-- A flip of an ELIGIBLE copy into which nothing is fetched starts, and ends at once where the set has no binding. -/
theorem exec_wsetFlip_eligible (starts : Starts s ch.val index 0x44 c)
    (owned : (begun s c).ownSet ((begun s c).caller ch.val) c.wset = .ok w)
    (eligible : (w.copyOf c.copy).state = .eligible)
    (still : ((begun s c).ing.fetches.any fun f => f.set == c.wset && f.copy == c.copy) = false) (idle : w.flip = none) :
    exec (.wsetFlip ch index) s = .next (((begun s c).setWset c.wset
      (some (w.startFlip c.copy (ch.val, index)))).settleFlip c.wset).retryBells := by
  rw [State.caller, ExecCmd.wset] at owned
  rw [ExecCmd.copy] at eligible
  rw [ExecCmd.wset, ExecCmd.copy] at still
  refine exec_next rfl (runCmd_retried starts ?_)
  simp only [owned]
  rw [if_neg (by simp [eligible, still]), if_neg (by simp [idle])]
  rfl

/-- A copy that is not ELIGIBLE is refused. -/
theorem exec_wsetFlip_ineligible (starts : Starts s ch.val index 0x44 c)
    (owned : (begun s c).ownSet ((begun s c).caller ch.val) c.wset = .ok w)
    (ineligible : (w.copyOf c.copy).state ≠ .eligible) :
    exec (.wsetFlip ch index) s = .next ((begun s c).refuse c 5).retryBells := by
  rw [State.caller, ExecCmd.wset] at owned
  rw [ExecCmd.copy] at ineligible
  refine exec_next rfl (runCmd_retried starts ?_)
  simp only [owned]
  exact if_pos (by simp [ineligible])

/-- A set of the tenant that no flip holds is dropped. -/
theorem exec_wsetDestroy_idle (starts : Starts s ch.val index 0x45 c)
    (owned : (begun s c).ownSet ((begun s c).caller ch.val) c.wset = .ok w) (idle : w.flip = none) :
    exec (.wsetDestroy ch index) s =
      .next (((begun s c).setWset c.wset none).complete ch.val index stOk 0 0).retryBells := by
  rw [State.caller, ExecCmd.wset] at owned
  refine exec_next rfl (runCmd_retried starts ?_)
  simp only [owned]
  exact if_neg (by simp [idle])

end

/-- A due binding's flip word is written at its tenant's boundary, under the next FLIP_SEQ. -/
theorem State.writeFlip_due {s : State} {k v : Nat} {w : WSet} {b : Binding} {copy : Bool} {x : Nat × Word}
    (created : s.wset k = some w) (flips : w.flip = some (copy, x))
    (due : w.bindings.find? (fun b => b.tenant == v && b.due) = some b) (boundary : s.flipBoundary v b.parts = true) :
    s.writeFlip k v = ((s.writeTen v b.flipWord (flipWord copy (b.flipSeq + 1).toNat)).2.setWset k
      (some (w.noteFlip v (b.flipSeq + 1)))).settleFlip k := by
  unfold State.writeFlip
  simp only [created, flips, due]
  rw [if_neg (by simp [boundary]), WSet.noteFlip, flips]

/-- Settles O31: each command by its own lemma, a flip by `State.writeFlip_due` and `State.settleFlip_settled`. -/
theorem weightSetsBindAndFlip : Obligations.WeightSetsBindAndFlip := by
  unfold Obligations.WeightSetsBindAndFlip
  intro ch index c s u v k
  refine ⟨exec_wsetCreate_used, ?create, ?bind, fun w => exec_wsetBind_not_owner, ?stranger, ?unbind,
    fun w => exec_wsetFlip_eligible, fun w => exec_wsetFlip_ineligible, fun w => exec_wsetDestroy_idle,
    fun set tenant w b copy x created flips due boundary => exec_next rfl (State.writeFlip_due created flips due boundary),
    fun w copy x => State.settleFlip_settled⟩
  case create =>
    intro starts free sharing sized holds
    have copies (a : Nat) (mem : a ∈ [c.arg 8 48, c.arg 0x10 48]) : HoldsCopy u ch.val v c a :=
      ⟨(holds a mem).1, (holds a mem).2⟩
    exact exec_wsetCreate_free starts free sharing sized (copies _ (by simp)) (copies _ (by simp))
  case bind =>
    intro w i starts created allowed room unbound aligned held writable retained resident named
    exact exec_wsetBind_allowed starts rfl created ⟨allowed, room, unbound⟩
      ⟨aligned, held, writable, retained, resident⟩ named
  case stranger =>
    intro w starts created other unbound
    have stranger : w.stranger v = true := by simpa [WSet.stranger, other] using unbound
    have settled : (w.bindings.any fun b => b.tenant == v && b.due) = false :=
      List.any_eq_false.2 fun b mem => by simp [unbound b mem]
    exact exec_next (exec_wsetUnbind_settled starts created settled) (congrArg State.retryBells (if_pos stranger))
  case unbind =>
    intro w starts created bound settled
    have settled : (w.bindings.any fun b => b.tenant == v && b.due) = false :=
      List.any_eq_false.2 fun b mem => by simpa using settled b mem
    have known : ¬w.stranger v = true := by
      rcases bound with owner | bound
      · simp [WSet.stranger, owner]
      · simp [WSet.stranger, bound]
    exact exec_next (exec_wsetUnbind_settled starts created settled) (congrArg State.retryBells (if_neg known))

end Sys2Proof.Machine
end

section
/-!
PROOF. Key slots (R282, R284, R285): what KEY_LOAD and KEY_CLEAR that may start do.
-/

-- One declaration after another: the package as one text then needs few threads at a time.
set_option Elab.async false

namespace Sys2Proof.Machine

open Sys2Proof.Safety

/-- The journal lies in the flash: an entry more leaves the key slots. -/
@[simp] theorem State.appendJournal_keySlot (s : State) (slot gen floor k : Nat) :
    (s.appendJournal slot gen floor).2.keySlot k = s.keySlot k := by
  rw [State.keySlot, (s.appendJournal_touches slot gen floor).frame .ing (by decide)]
  rfl

/-! ### KEY_LOAD -/

/-- The slot, of its tenant's two, that a key command names. -/
def ExecCmd.keySlot (c : ExecCmd) : Nat := c.arg 4 1

/-- The EPOCH of a KEY_LOAD. -/
def ExecCmd.epoch (c : ExecCmd) : Nat := c.arg 8 32

/-- The slot of a key command's own tenant, numbered over all tenants. -/
def State.ownSlot (s : State) (ch : Nat) (c : ExecCmd) : Nat := 2 * s.caller ch + c.keySlot

/-- The read of the blob of a KEY_LOAD. -/
def State.blobRead (s : State) (ch : Nat) (c : ExecCmd) : ReadOut := s.readTen (s.caller ch) (c.arg 0x10 48) 160

/-- A key is loaded into slot k under an epoch, which becomes the slot's floor; a high epoch shows (R284). -/
def State.loadKey (s : State) (k epoch : Nat) (key : BitVec 256) : State :=
  let w := s.setKey k { s.keySlot k with
    key := some key, epoch := BitVec.ofNat 32 epoch, floor := BitVec.ofNat 32 epoch }
  if 0xFFFF0000 ≤ epoch then w.setBit Reg.igeEvent 3 else w

/-- The epoch of a KEY_LOAD is above its slot's floor, and its blob is named and read. -/
structure BlobReads (s : State) (ch : Nat) (c : ExecCmd) : Prop where
  above : (s.keySlot (s.ownSlot ch c)).floor.toNat < c.epoch
  named : s.named ch (c.arg 0x10 48) 160 false = true
  read : (s.blobRead ch c).bad = none

section
variable {s : State} {ch : Fin 262144} {index : Word} {c : ExecCmd} (starts : Starts s ch.val index 0x46 c)
include starts

/-- An epoch at or below the floor is refused. -/
theorem exec_keyLoad_replayed (ok : Bool)
    (below : c.epoch ≤ ((begun s c).keySlot ((begun s c).ownSlot ch.val c)).floor.toNat) :
    exec (.keyLoad ch index ok) s = .next ((begun s c).refuseKey c 9).retryBells :=
  exec_next rfl (runCmd_retried starts (if_pos below))

section
variable (reads : BlobReads (begun s c) ch.val c) {tag : Bool}
include reads

/-- A blob that does not authenticate is refused; a tag that fails is counted. -/
theorem exec_keyLoad_unauthentic (ok : Bool) (fails : ((begun s c).blobRead ch.val c).st.unwrap ((begun s c).caller ch.val)
      c.keySlot c.epoch ((begun s c).blobRead ch.val c).bytes = (none, tag)) :
    exec (.keyLoad ch index ok) s = .next ((if tag then ((begun s c).blobRead ch.val c).st.bump Reg.igeAuthCnt 1
      else ((begun s c).blobRead ch.val c).st).refuseKey c 0x0A).retryBells := by
  obtain ⟨above, named, read⟩ := reads
  simp only [State.blobRead, State.ownSlot, State.caller, ExecCmd.keySlot, ExecCmd.epoch] at *
  refine exec_next rfl (runCmd_retried starts ?_)
  rw [if_neg (Nat.not_le.2 above), if_neg (by simp [named])]
  simp only [read, fails]

variable {key : BitVec 256} (wraps : ((begun s c).blobRead ch.val c).st.unwrap ((begun s c).caller ch.val)
  c.keySlot c.epoch ((begun s c).blobRead ch.val c).bytes = (some key, tag))
include wraps

/-- A key whose journal record is written is loaded. -/
theorem exec_keyLoad_journaled {j : Bool × State} (record : ((begun s c).blobRead ch.val c).st.appendJournal
      ((begun s c).ownSlot ch.val c)
      (((begun s c).blobRead ch.val c).st.keySlot ((begun s c).ownSlot ch.val c)).gen.toNat c.epoch = j)
    (written : j.1 = true) : exec (.keyLoad ch index true) s =
      .next ((j.2.loadKey ((begun s c).ownSlot ch.val c) c.epoch key).complete ch.val index stOk 0 0).retryBells := by
  subst record
  obtain ⟨above, named, read⟩ := reads
  rw [State.loadKey, State.appendJournal_keySlot]
  simp only [State.blobRead, State.ownSlot, State.caller, ExecCmd.keySlot, ExecCmd.epoch] at *
  refine exec_next rfl (runCmd_retried starts ?_)
  rw [if_neg (Nat.not_le.2 above), if_neg (by simp [named])]
  simp only [read, wraps]
  exact if_neg (by simp [written])

/-- A journal write that fails refuses the key, and shows. -/
theorem exec_keyLoad_unjournaled : exec (.keyLoad ch index false) s =
    .next ((((begun s c).blobRead ch.val c).st.setBit Reg.otpEvent 2).refuseKey c 9).retryBells := by
  obtain ⟨above, named, read⟩ := reads
  simp only [State.blobRead, State.ownSlot, State.caller, ExecCmd.keySlot, ExecCmd.epoch] at *
  refine exec_next rfl (runCmd_retried starts ?_)
  rw [if_neg (Nat.not_le.2 above), if_neg (by simp [named])]
  simp only [read, wraps]
  rfl

end

end

/-! ### KEY_CLEAR -/

/-- Whether a KEY_CLEAR retires the slot. -/
def ExecCmd.retires (c : ExecCmd) : Bool := bitOf c.words.toNat 33

/-- The slot that a RETIRE names, of any tenant. -/
def ExecCmd.retired (c : ExecCmd) : Nat := 2 * c.arg 6 9 + c.keySlot

/-- Slot k is emptied and takes a generation, with floor 0. -/
def State.retireKey (s : State) (k : Nat) (gen : BitVec 16) : State :=
  (s.clearKey k).setKey k { (s.clearKey k).keySlot k with gen := gen, floor := 0 }

section
variable {s : State} {ch : Fin 262144} {index : Word} {c : ExecCmd} (starts : Starts s ch.val index 0x47 c)
include starts

/-- A KEY_CLEAR without RETIRE empties a slot of its tenant. -/
theorem exec_keyClear_own (ok : Bool) (own : c.retires = false) : exec (.keyClear ch index ok) s =
    .next (((begun s c).clearKey ((begun s c).ownSlot ch.val c)).complete ch.val index stOk 0 0).retryBells := by
  rw [ExecCmd.retires] at own
  exact exec_next rfl (runCmd_retried starts (if_pos (by simp [own])))

/-- Only tenant 0 may RETIRE. -/
theorem exec_keyClear_not_root (ok : Bool) (retires : c.retires = true) (other : (begun s c).caller ch.val ≠ 0) :
    exec (.keyClear ch index ok) s = .next ((begun s c).refuse c 3).retryBells := by
  rw [ExecCmd.retires] at retires
  rw [State.caller] at other
  refine exec_next rfl (runCmd_retried starts ?_)
  rw [if_neg (by simp [retires])]
  exact if_pos (by simp [other])

/-- A RETIRE by tenant 0 whose journal record is written raises the slot's generation. -/
theorem exec_keyClear_retire (retires : c.retires = true) (root : (begun s c).caller ch.val = 0)
    (last : ((begun s c).keySlot c.retired).gen ≠ 0xFFFF) {j : Bool × State}
    (record : (begun s c).appendJournal c.retired (((begun s c).keySlot c.retired).gen.toNat + 1) 0 = j)
    (written : j.1 = true) : exec (.keyClear ch index true) s = .next ((j.2.retireKey c.retired
      (((begun s c).keySlot c.retired).gen + 1)).complete ch.val index stOk 0 0).retryBells := by
  subst record
  rw [ExecCmd.retires] at retires
  rw [State.caller] at root
  rw [ExecCmd.retired, ExecCmd.keySlot] at *
  refine exec_next rfl (runCmd_retried starts ?_)
  rw [if_neg (by simp [retires]), if_neg (by simpa [root] using last)]
  exact if_neg (by simp [written])

end

/-- Settles O32: each outcome of a KEY_LOAD and of a KEY_CLEAR by its own lemma. -/
theorem keySlotsLoadAndClear : Obligations.KeySlotsLoadAndClear := by
  unfold Obligations.KeySlotsLoadAndClear
  intro ch index c s u v slot k epoch
  refine ⟨fun ok starts => exec_keyLoad_replayed starts ok, ?loads,
    fun ok starts => exec_keyClear_own starts ok, ?retires⟩
  case loads =>
    intro starts above named r read
    have reads : BlobReads u ch.val c := ⟨above, named, read⟩
    refine ⟨fun ok tag => exec_keyLoad_unauthentic starts reads ok, fun key tag wraps => ?_⟩
    intro j w
    exact ⟨exec_keyLoad_journaled starts reads wraps rfl, exec_keyLoad_unjournaled starts reads wraps⟩
  case retires =>
    intro starts retires m
    exact ⟨fun ok => exec_keyClear_not_root starts ok retires,
      fun root last => exec_keyClear_retire starts retires root last rfl⟩

end Sys2Proof.Machine
end

section
/-!
SUPPORT. What each command answers: a next state, which differs from the state before only in the components that
`touched` names for its row, and is canonical if that was; one lemma for each command of the machine, then for every row. It
settles the two statements about every command.
-/

-- One declaration after another: the package as one text then needs few threads at a time.
set_option Elab.async false
set_option linter.unusedVariables false

namespace Sys2Proof.Machine

open Safety (Component Frame Canonical)

/-- A command answers a next state, which differs from a state only in the components of a list and is canonical if it is. -/
def Answers (l : List Component) (a : State) (o : Host.Outcome State Fault Refusal) : Prop := ∃ t, o = .next t ∧ Touches l a t

theorem Answers.next {l : List Component} {a t : State} (h : Touches l a t) : Answers l a (.next t) := ⟨t, rfl, h⟩

theorem Answers.ite {l : List Component} {a : State} {o p : Host.Outcome State Fault Refusal} {c : Prop} [Decidable c]
    (h : Answers l a o) (k : Answers l a p) : Answers l a (if c then o else p) := by split <;> assumption

theorem TouchesOut.answers {l : List Component} {a t : State} {o : Host.Outcome State Fault Refusal} (h : TouchesOut l a o)
    (e : o = .next t) : Answers l a o := ⟨t, e, h.of t e⟩

theorem Answers.mono {l m : List Component} {a : State} {o : Host.Outcome State Fault Refusal} (h : Answers l a o)
    (sub : ∀ c ∈ l, c ∈ m := by decide) : Answers m a o := h.imp fun _ k => ⟨k.1, k.2.mono sub⟩

theorem execBypass_answers (s : State) :
    Answers [.dbg, .out] s (execBypass s) := by
  delta execBypass
  with_reducible repeat' first
    | apply Answers.next | exact Touches.refl _ _ | apply Touches.via (State.emit_touches ..)
    | apply Touches.via (State.modJtag_touches ..)

theorem execLaunchCount_answers (jobId : Word) (count : Dword) (s : State) :
    Answers [.parts, .out] s (execLaunchCount jobId count s) := by
  delta execLaunchCount
  with_reducible repeat' first
    | apply Answers.next | exact Touches.refl _ _ | apply Touches.via (State.emit_touches ..)
    | apply Touches.via (State.modJob_touches ..) | refine Touches.foldl _ ?_ ?_ | intro _ | extract_lets | split

theorem execLockCheck_answers (p : Fin 8) (partnerFingerprint : Option (BitVec 256)) (s : State) :
    Answers [.clock, .rf, .parts, .dram, .store, .chan, .mgt, .flt, .dbg, .pkg, .freeCount, .out] s (execLockCheck p partnerFingerprint s) := by
  delta execLockCheck
  with_reducible repeat' first
    | apply Answers.next | exact Touches.refl _ _ | apply Touches.via (State.emit_touches ..)
    | apply Touches.via (State.endRecord_touches ..) | apply Touches.via (State.finishJob_touches ..)
    | apply Touches.via (State.modJob_touches ..) | apply Touches.via (State.reach_touches ..)
    | apply Touches.via (State.sendFingerprint_touches ..) | extract_lets | split

theorem execLateDispatch_answers (t : Fin 64) (now : Dword) (ownCycles : Nat) (blockCause : Option Cause) (wait : Option Wait) (s : State) :
    Answers [.clock, .rf, .tiles, .parts, .ls, .dram, .store, .prism, .chan, .mgt, .flt, .pkg, .freeCount, .out] s (execLateDispatch t now ownCycles blockCause wait s) := by
  delta execLateDispatch
  with_reducible repeat' first
    | apply Answers.next | exact Touches.refl _ _ | apply Touches.via (State.lateDispatch_touches ..)

theorem execFrameClose_answers (t : Fin 64) (cyclesLeft : Nat) (s : State) :
    Answers [.clock, .rf, .tiles, .parts, .ls, .dram, .store, .prism, .chan, .mgt, .flt, .dbg, .pkg, .freeCount, .out] s (execFrameClose t cyclesLeft s) := by
  delta execFrameClose
  with_reducible repeat' first
    | apply Answers.next | exact Touches.refl _ _ | apply Touches.via (State.closeFrame_touches ..)
    | apply Touches.via (State.endInvocation_touches ..) | apply Touches.via (State.fetchAt_touches ..)
    | apply Touches.via (State.modTile_touches ..) | apply Touches.via (State.nextInFrame_touches ..)
    | apply Touches.via (State.pmcTile_touches ..) | apply Touches.via (State.settleFreeze_touches ..)
    | apply Touches.via (State.takeDeferred_touches ..) | extract_lets | split

theorem execOuuPass_answers (p : Fin 8) (framesTaken : Nat) (errs : List CellError) (s : State) :
    Answers [.rf, .parts, .dram, .store, .mgt, .flt, .dbg, .freeCount, .out] s (execOuuPass p framesTaken errs s) := by
  delta execOuuPass
  with_reducible repeat' first
    | apply Answers.next | exact Touches.refl _ _ | apply Touches.via (State.abandonPass_touches ..)
    | apply Touches.via (State.correctDescs_touches ..) | apply Touches.via (State.emit_touches ..)
    | apply Touches.via (State.inject_touches ..) | apply Touches.via (State.passUe_touches ..)
    | apply Touches.via (State.runPass_touches ..) | apply Touches.via (State.setBit_touches ..)
    | apply Touches.via (State.wrFld_touches ..) | extract_lets | split

theorem execLedgerRecord_answers (p : Fin 8) (s : State) :
    Answers [.rf, .tiles, .parts, .dram, .store, .mgt, .flt, .dbg, .freeCount, .out] s (execLedgerRecord p s) := by
  delta execLedgerRecord
  with_reducible repeat' first
    | apply Answers.next | exact Touches.refl _ _ | apply Touches.via (State.clearStep_touches ..)
    | apply Touches.via (State.closeRoutines_touches ..) | apply Touches.via (State.copyAt_touches ..)
    | apply Touches.via (State.loadSource_touches ..) | apply Touches.via (State.modPart_touches ..)
    | apply Touches.via (State.refreshItems_touches ..) | apply Touches.via (State.stepRecord_touches ..) | extract_lets
    | split

theorem execCheckpointCut_answers (p : Fin 8) (wire : List (BitVec 8)) (s : State) :
    Answers [.rf, .parts, .dram, .store, .mgt, .flt, .dbg, .out] s (execCheckpointCut p wire s) := by
  delta execCheckpointCut
  with_reducible repeat' first
    | apply Answers.next | exact Touches.refl _ _ | apply Touches.via (State.cut_touches ..) | extract_lets | split

theorem execJobEnd_answers (p : Fin 8) (s : State) :
    Answers [.clock, .rf, .tiles, .parts, .ls, .dram, .store, .loupe, .prism, .chan, .mgt, .flt, .dbg, .pkg, .freeCount, .out] s (execJobEnd p s) := by
  delta execJobEnd
  with_reducible repeat' first
    | apply Answers.next | exact Touches.refl _ _ | apply Touches.via (State.endJob_touches ..) | split

theorem execTimeExchange_answers (t1 t2 t3 t4 : Dword) (correction : Int) (s : State) :
    Answers [.clock, .rf, .out] s (execTimeExchange t1 t2 t3 t4 correction s) := by
  delta execTimeExchange
  with_reducible repeat' first
    | apply Answers.next | exact Touches.refl _ _ | (simp only [Touches.mk_iff]; refine TouchesParts.upd ?_)
    | apply Answers.ite | apply Touches.via (State.clrBit_touches ..) | apply Touches.via (State.putBit_touches ..)
    | apply Touches.via (State.reach_touches ..) | apply Touches.via (State.setBit_touches ..)
    | apply Touches.via (State.stepGtc_touches ..) | apply Touches.via (State.tellDm_touches ..)
    | apply Touches.via (State.wrFld_touches ..) | split

theorem execHoldover_answers (s : State) :
    Answers [.clock, .rf, .out] s (execHoldover s) := by
  delta execHoldover
  with_reducible repeat' first
    | apply Answers.next | exact Touches.refl _ _ | apply Touches.via (State.holdOver_touches ..)
    | apply Touches.via (State.reach_touches ..) | split

theorem execReformPending_answers (s : State) :
    Answers [.clock, .out] s (execReformPending s) := by
  delta execReformPending
  with_reducible repeat' first
    | apply Answers.next | exact Touches.refl _ _ | (simp only [Touches.mk_iff]; refine TouchesParts.upd ?_)
    | apply Touches.via (State.relay_touches ..)

theorem execReform_answers (g : Dword) (s : State) :
    Answers [.clock, .out] s (execReform g s) := by
  delta execReform
  with_reducible repeat' first
    | apply Answers.next | exact Touches.refl _ _ | (simp only [Touches.mk_iff]; refine TouchesParts.upd ?_)
    | apply Touches.via (State.relay_touches ..)

theorem execGtcReform_answers (s : State) :
    Answers [.clock, .rf, .mgt, .freeCount, .out] s (execGtcReform s) := by
  delta execGtcReform
  with_reducible repeat' first
    | apply Answers.next | exact Touches.refl _ _ | (simp only [Touches.mk_iff]; refine TouchesParts.upd ?_)
    | apply Touches.via (State.countIfAll_touches ..) | apply Touches.via (State.reach_touches ..)
    | apply Touches.via (State.setBit_touches ..) | refine Touches.foldl _ ?_ ?_ | intro _ | split

theorem execBundleRelease_answers (t : Fin 64) (s : State) :
    Answers [.rf, .tiles, .parts, .ls, .dram, .store, .loupe, .prism, .kal, .chan, .mgt, .flt, .dbg, .freeCount, .out] s (execBundleRelease t s) := by
  delta execBundleRelease
  with_reducible repeat' first
    | apply Answers.next | exact Touches.refl _ _ | apply Touches.via (State.issue_touches ..) | extract_lets | split

theorem execLineFetchArrive_answers (t : Fin 64) (line : Nat) (errs : List CellError) (s : State) :
    Answers [.rf, .tiles, .dram, .store, .apt, .chan, .mgt, .flt, .dbg, .freeCount, .out] s (execLineFetchArrive t line errs s) := by
  delta execLineFetchArrive
  with_reducible repeat' first
    | apply Answers.next | exact Touches.refl _ _ | apply Touches.ite | apply Touches.via (State.aptSettle_touches ..)
    | apply Touches.via (State.exception_touches ..) | apply Touches.via (State.inject_touches ..)
    | apply Touches.via (State.modTile_touches ..) | apply Touches.via (State.readDev_touches ..) | extract_lets | split

theorem execDeferredReturn_answers (t : Fin 64) (cyclesLeft : Nat) (s : State) :
    Answers [.clock, .rf, .tiles, .parts, .dram, .store, .prism, .chan, .mgt, .flt, .dbg, .pkg, .freeCount, .out] s (execDeferredReturn t cyclesLeft s) := by
  delta execDeferredReturn
  with_reducible repeat' first
    | apply Answers.next | exact Touches.refl _ _ | apply Touches.via (State.endInvocation_touches ..)
    | apply Touches.via (State.fetchAt_touches ..) | apply Touches.via (State.modTile_touches ..)
    | apply Touches.via (State.nextInFrame_touches ..) | apply Touches.via (State.pmcTile_touches ..)
    | apply Touches.via (State.takeDeferred_touches ..) | extract_lets | split

theorem execS2Result_answers (t : Fin 64) (op : Nat) (s : State) :
    Answers [.rf, .tiles, .parts, .ls, .dram, .store, .loupe, .prism, .chan, .mgt, .flt, .dbg, .freeCount, .out] s (execS2Result t op s) := by
  delta execS2Result
  with_reducible repeat' first
    | apply Answers.next | exact Touches.refl _ _ | apply Touches.via (State.joinBarrier_touches ..)
    | apply Touches.via (State.modTile_touches ..) | split

theorem execDmaDone_answers (t : Fin 64) (op : Nat) (pcieError : Bool) (s : State) :
    Answers [.rf, .tiles, .parts, .ls, .dram, .store, .loupe, .prism, .apt, .chan, .mgt, .flt, .dbg, .freeCount, .out] s (execDmaDone t op pcieError s) := by
  delta execDmaDone
  with_reducible repeat' first
    | apply Answers.next | exact Touches.refl _ _ | apply Touches.via (State.faultTile_touches ..)
    | apply Touches.via (State.opDone_touches ..) | split

theorem execContribution_answers (id : CollId) (rank : ChipId) (data side : List Byte) (s : State) :
    Answers [.rf, .tiles, .parts, .ls, .dram, .store, .loupe, .prism, .chan, .mgt, .flt, .dbg, .freeCount, .out] s (execContribution id rank data side s) := by
  delta execContribution
  with_reducible repeat' first
    | apply Answers.next | exact Touches.refl _ _ | apply Touches.via (State.onContribution_touches ..)
    | apply Touches.via (State.pumpQueue_touches ..)

theorem execDeadline_answers (id : CollId) (s : State) :
    Answers [.clock, .rf, .parts, .prism, .dbg, .out] s (execDeadline id s) := by
  delta execDeadline
  with_reducible repeat' first
    | apply Answers.next | exact Touches.refl _ _ | apply Touches.via (State.passDeadline_touches ..)
    | apply Touches.via (State.reach_touches ..) | split

theorem execShardComplete_answers (id : CollId) (s : State) :
    Answers [.rf, .tiles, .parts, .ls, .dram, .store, .loupe, .prism, .chan, .mgt, .flt, .dbg, .freeCount, .out] s
      (execShardComplete id s) := by
  delta execShardComplete
  with_reducible repeat' first
    | apply Answers.next | exact Touches.refl _ _ | apply Touches.via (State.completeShard_touches ..)
    | apply Touches.via (State.trouble_touches ..)
    | exact (Touches.ofSnd (by assumption) (State.ownContribution_touches ..)).mono | split

theorem execCollectiveComplete_answers (id : CollId) (s : State) :
    Answers [.rf, .tiles, .parts, .ls, .dram, .store, .loupe, .prism, .apt, .chan, .mgt, .flt, .dbg, .freeCount, .out] s (execCollectiveComplete id s) := by
  delta execCollectiveComplete
  with_reducible repeat' first
    | apply Answers.next | exact Touches.refl _ _ | apply Touches.via (State.afterColl_touches ..)
    | apply Touches.via (State.completeColl_touches ..) | split

theorem execBarrierComplete_answers (id : CollId) (s : State) :
    Answers [.rf, .tiles, .parts, .ls, .dram, .store, .loupe, .prism, .apt, .chan, .mgt, .flt, .dbg, .freeCount, .out] s (execBarrierComplete id s) := by
  delta execBarrierComplete
  with_reducible repeat' first
    | apply Answers.next | exact Touches.refl _ _ | apply Touches.via (State.afterColl_touches ..)
    | apply Touches.via (State.completeColl_touches ..) | split

theorem execMemberFailTimeout_answers (id : CollId) (rank : ChipId) (s : State) :
    Answers [.clock, .rf, .parts, .prism, .dbg, .out] s (execMemberFailTimeout id rank s) := by
  delta execMemberFailTimeout
  with_reducible repeat' first
    | apply Answers.next | exact Touches.refl _ _ | apply Touches.via (State.memberFails_touches ..)
    | apply Touches.via (State.reach_touches ..) | extract_lets | split

theorem execKrotGrant_answers (ring : Fin 16) (hop : Word) (s : State) :
    Answers [.rf, .tiles, .store, .kal, .chan, .mgt, .flt, .dbg, .out] s (execKrotGrant ring hop s) := by
  delta execKrotGrant
  with_reducible repeat' first
    | apply Answers.next | exact Touches.refl _ _ | (simp only [Touches.mk_iff]; refine TouchesParts.upd ?_)
    | apply Touches.via (State.krotSend_touches ..) | split

theorem execKrotData_answers (ring : Fin 16) (first : Option BlockHeader) (data : List Byte) (s : State) :
    Answers [.rf, .tiles, .parts, .ls, .dram, .store, .loupe, .prism, .kal, .apt, .chan, .mgt, .flt, .dbg, .freeCount, .out] s (execKrotData ring first data s) := by
  delta execKrotData
  with_reducible repeat' first
    | apply Answers.next | exact Touches.refl _ _ | (simp only [Touches.mk_iff]; refine TouchesParts.upd ?_)
    | apply Touches.via (State.emit_touches ..) | apply Touches.via (State.krotFail_touches ..)
    | apply Touches.via (State.setKrot_touches ..) | apply Touches.via (State.settleRing_touches ..)
    | apply Touches.via (State.trouble_touches ..) | apply Touches.via (State.unitPut_touches ..) | dsimp only | split

theorem execKrotAck_answers (ring : Fin 16) (bytes : Option Nat) (s : State) :
    Answers [.rf, .tiles, .parts, .ls, .dram, .store, .loupe, .prism, .kal, .apt, .chan, .mgt, .flt, .dbg, .freeCount, .out] s (execKrotAck ring bytes s) := by
  delta execKrotAck
  with_reducible repeat' first
    | apply Answers.next | exact Touches.refl _ _ | apply Touches.via (State.krotFail_touches ..)
    | apply Touches.via (State.setKrot_touches ..) | apply Touches.via (State.settleRing_touches ..) | split

theorem execKrotTimeout_answers (ring : Fin 16) (s : State) :
    Answers [.clock, .rf, .tiles, .parts, .ls, .dram, .store, .loupe, .prism, .kal, .apt, .chan, .mgt, .flt, .dbg, .freeCount, .out] s (execKrotTimeout ring s) := by
  delta execKrotTimeout
  with_reducible repeat' first
    | apply Answers.next | exact Touches.refl _ _ | apply Touches.via (State.krotFail_touches ..)
    | apply Touches.via (State.reach_touches ..) | apply Touches.via (State.settleRing_touches ..) | extract_lets
    | split

theorem execFrameDigestFinal_answers (t : Fin 64) (frame : BitVec 48) (s : State) :
    Answers [.rf, .tiles, .parts, .ls, .dram, .store, .loupe, .chan, .mgt, .flt, .dbg, .freeCount, .out] s (execFrameDigestFinal t frame s) := by
  delta execFrameDigestFinal
  with_reducible repeat' first
    | apply Answers.next | exact Touches.refl _ _ | apply Touches.via (State.keepDigest_touches ..) | extract_lets
    | split

theorem execMirrorDigest_answers (t : Fin 64) (frame : BitVec 48) (digest : BitVec 128) (s : State) :
    Answers [.rf, .tiles, .parts, .ls, .dram, .store, .loupe, .chan, .mgt, .flt, .dbg, .freeCount, .out] s (execMirrorDigest t frame digest s) := by
  delta execMirrorDigest
  with_reducible repeat' first
    | apply Answers.next | exact Touches.refl _ _ | apply Touches.via (State.compareAll_touches ..)
    | apply Touches.via (State.modLed_touches ..) | extract_lets | split

theorem execPatrolScrub_answers (da : BitVec 40) (finding : ScrubFinding) (s : State) :
    Answers [.rf, .dram, .store, .mgt, .flt, .dbg, .freeCount, .out] s (execPatrolScrub da finding s) := by
  delta execPatrolScrub
  with_reducible repeat' first
    | apply Answers.next | exact Touches.refl _ _ | (simp only [Touches.mk_iff]; refine TouchesParts.upd ?_)
    | apply Answers.ite | apply Touches.via (State.bump_touches ..) | apply Touches.via (State.inject_touches ..)
    | apply Touches.via (State.noteHbmCe_touches ..) | apply Touches.via (State.setBit_touches ..) | split

theorem execAowRequest_answers (t : Fin 64) (op request : Nat) (errs : List CellError) (s : State) :
    Answers [.rf, .dram, .store, .mgt, .flt, .dbg, .freeCount, .out] s (execAowRequest t op request errs s) := by
  delta execAowRequest
  with_reducible repeat' first
    | apply Answers.next | exact Touches.refl _ _ | apply Touches.via (State.aowArrive_touches ..)
    | apply Touches.via (State.inject_touches ..) | apply Touches.via (State.pmcHbm_touches ..) | dsimp only | split

theorem execAowDataPiece_answers (piece : Nat) (s : State) :
    Answers [.rf, .dram, .store, .mgt, .flt, .dbg, .out] s (execAowDataPiece piece s) := by
  delta execAowDataPiece
  with_reducible repeat' first
    | apply Answers.next | exact Touches.refl _ _ | apply Touches.via (State.pieceDone_touches ..) | split

theorem execAowInitDone_answers (side : BitVec 40) (s : State) :
    Answers [.rf, .dram, .store, .mgt, .flt, .dbg, .out] s (execAowInitDone side s) := by
  delta execAowInitDone
  with_reducible repeat' first
    | apply Answers.next | exact Touches.refl _ _ | (simp only [Touches.mk_iff]; refine TouchesParts.upd ?_)
    | apply Answers.ite | apply Touches.via (State.aowArrive_touches ..) | refine Touches.foldl _ ?_ ?_ | intro _

theorem execAowCompletion_answers (k : Nat) (s : State) :
    Answers [.rf, .tiles, .store, .chan, .flt, .out] s (execAowCompletion k s) := by
  delta execAowCompletion
  with_reducible repeat' first
    | apply Answers.next | exact Touches.refl _ _ | (simp only [Touches.mk_iff]; refine TouchesParts.upd ?_)
    | apply Touches.via (State.modTile_touches ..) | apply Touches.via (State.trouble_touches ..) | split

theorem execAptDrainTimeout_answers (s : State) :
    Answers [.clock, .rf, .tiles, .parts, .ls, .dram, .store, .loupe, .prism, .apt, .chan, .mgt, .flt, .dbg, .freeCount, .out] s (execAptDrainTimeout s) := by
  delta execAptDrainTimeout
  with_reducible repeat' first
    | apply Answers.next | exact Touches.refl _ _ | (simp only [Touches.mk_iff]; refine TouchesParts.upd ?_)
    | apply Touches.via (State.complete_touches ..) | apply Touches.via (State.cutRequests_touches ..)
    | apply Touches.via (State.endByAperture_touches ..) | apply Touches.via (State.finishDrain_touches ..)
    | apply Touches.via (State.modTile_touches ..) | apply Touches.via (State.reach_touches ..)
    | apply Touches.via (State.retryBells_touches ..) | apply Touches.via (State.setBit_touches ..)
    | apply Touches.via (State.trouble_touches ..) | refine Touches.foldl _ ?_ ?_ | intro _ | split

theorem execGranuleZeroDone_answers (s : State) :
    Answers [.rf, .dram, .store, .apt] s (execGranuleZeroDone s) := by
  delta execGranuleZeroDone
  with_reducible repeat' first
    | apply Answers.next | exact Touches.refl _ _ | apply Touches.via (State.zeroReleased_touches ..)

theorem execCommandFetch_answers (ch : Fin 262144) (s : State) :
    Answers [.rf, .dram, .store, .chan, .mgt, .flt, .dbg, .out] s (execCommandFetch ch s) := by
  delta execCommandFetch
  with_reducible repeat' first
    | apply Answers.next | exact Touches.refl _ _ | (simp only [Touches.mk_iff]; refine TouchesParts.upd ?_)
    | apply Touches.via (State.chError_touches ..) | apply Touches.via (State.complete_touches ..)
    | apply Touches.via (State.noteMiss_touches ..) | apply Touches.via (State.readTen_touches ..)
    | apply Touches.via (State.retryBells_touches ..) | apply Touches.via (State.setBit_touches ..)
    | apply Touches.via (State.setCh_touches ..) | dsimp only | split
    | refine Touches.via ((State.cacheTake_touches ..).of _ (by assumption)) ?_

theorem execChannelNop_answers (ch : Fin 262144) (index : Word) (s : State) :
    Answers [.rf, .dram, .store, .chan, .mgt, .flt, .dbg, .out] s (execChannelNop ch index s) := by
  delta execChannelNop
  with_reducible repeat' first
    | apply Answers.next | exact Touches.refl _ _ | apply Touches.via (State.complete_touches ..)
    | apply Touches.via (State.retryBells_touches ..) | apply State.runCmd_touches | decide | intro _ | split

theorem execFlush_answers (ch : Fin 262144) (index : Word) (s : State) :
    Answers [.rf, .dram, .store, .chan, .mgt, .flt, .dbg, .out] s (execFlush ch index s) := by
  delta execFlush
  with_reducible repeat' first
    | apply Answers.next | exact Touches.refl _ _ | apply State.runCmd_touches | decide | intro _

theorem execFlushDone_answers (ch : Fin 262144) (index : Word) (s : State) :
    Answers [.rf, .dram, .store, .chan, .mgt, .flt, .dbg, .out] s (execFlushDone ch index s) := by
  delta execFlushDone
  with_reducible repeat' first
    | apply Answers.next | exact Touches.refl _ _ | apply Touches.via (State.complete_touches ..)
    | apply Touches.via (State.retryBells_touches ..) | split

theorem execLaunch_answers (ch : Fin 262144) (index : Word) (s : State) :
    Answers [.rf, .parts, .dram, .store, .loupe, .prism, .chan, .mgt, .flt, .dbg, .freeCount, .out] s (execLaunch ch index s) := by
  delta execLaunch
  with_reducible repeat' first
    | apply Answers.next | exact Touches.refl _ _ | apply Touches.via (State.launchJob_touches ..)
    | apply Touches.via (State.retryBells_touches ..) | apply State.runCmd_touches | decide | intro _ | split

theorem execStart_answers (ch : Fin 262144) (index : Word) (s : State) :
    Answers [.rf, .parts, .dram, .store, .chan, .mgt, .flt, .dbg, .out] s (execStart ch index s) := by
  delta execStart
  with_reducible repeat' first
    | apply Answers.next | exact Touches.refl _ _ | apply Touches.via (State.retryBells_touches ..)
    | apply State.runCmd_touches | apply Touches.via (State.startContext_touches ..) | decide | intro _ | split

theorem execInvoke_answers (ch : Fin 262144) (index : Word) (s : State) :
    Answers [.rf, .dram, .store, .chan, .mgt, .flt, .dbg, .out] s (execInvoke ch index s) := by
  delta execInvoke
  with_reducible repeat' first
    | apply Answers.next | exact Touches.refl _ _ | apply Touches.via (State.complete_touches ..)
    | apply Touches.via (State.retryBells_touches ..) | apply State.runCmd_touches
    | apply Touches.via (State.setContext_touches ..) | decide | intro _ | extract_lets | split

theorem execStop_answers (ch : Fin 262144) (index : Word) (s : State) :
    Answers [.clock, .rf, .tiles, .parts, .ls, .dram, .store, .loupe, .prism, .chan, .mgt, .flt, .dbg, .pkg, .freeCount, .out] s (execStop ch index s) := by
  delta execStop
  with_reducible repeat' first
    | apply Answers.next | exact Touches.refl _ _ | apply Touches.via (State.complete_touches ..)
    | apply Touches.via (State.endContext_touches ..) | apply Touches.via (State.endJob_touches ..)
    | apply Touches.via (State.modJob_touches ..) | apply Touches.via (State.retryBells_touches ..)
    | apply State.runCmd_touches | apply Touches.via (State.setContext_touches ..) | decide | intro _ | extract_lets
    | split

theorem execGroupWrite_answers (ch : Fin 262144) (index : Word) (s : State) :
    Answers [.rf, .parts, .dram, .store, .prism, .chan, .mgt, .flt, .dbg, .out] s (execGroupWrite ch index s) := by
  delta execGroupWrite
  with_reducible repeat' first
    | apply Answers.next | exact Touches.refl _ _ | apply Touches.via (State.commitGroup_touches ..)
    | apply Touches.via (State.complete_touches ..) | apply Touches.via (State.dropGroup_touches ..)
    | apply Touches.via (State.retryBells_touches ..) | apply State.runCmd_touches | apply State.tableWrite_touches
    | decide | intro _ | extract_lets | split

theorem execRingWrite_answers (ch : Fin 262144) (index : Word) (s : State) :
    Answers [.rf, .parts, .dram, .store, .kal, .chan, .mgt, .flt, .dbg, .out] s (execRingWrite ch index s) := by
  delta execRingWrite
  with_reducible repeat' first
    | apply Answers.next | exact Touches.refl _ _ | apply Touches.via (State.commitRing_touches ..)
    | apply Touches.via (State.dropRing_touches ..) | apply Touches.via (State.retryBells_touches ..)
    | apply State.runCmd_touches | apply State.tableWrite_touches | decide | intro _ | split

theorem execSemSet_answers (ch : Fin 262144) (index : Word) (s : State) :
    Answers [.rf, .dram, .store, .chan, .mgt, .flt, .dbg, .out] s (execSemSet ch index s) := by
  delta execSemSet
  with_reducible repeat' first
    | apply Answers.next | exact Touches.refl _ _ | apply Touches.via (State.complete_touches ..)
    | apply Touches.via (State.retryBells_touches ..) | apply State.runCmd_touches
    | apply Touches.via (State.semPut_touches ..) | decide | intro _ | extract_lets | split

theorem execCopy_answers (ch : Fin 262144) (index : Word) (errs : List CellError) (s : State) :
    Answers [.rf, .dram, .store, .chan, .mgt, .flt, .dbg, .freeCount, .out] s (execCopy ch index errs s) := by
  delta execCopy
  refine .next (.via (State.retryBells_touches ..) (.via (State.runCmd_touches (l := [.rf, .dram, .store, .chan, .mgt, .flt,
    .dbg, .freeCount, .out]) _ _ _ _ _ (fun c s => ?_) (by decide)) (State.inject_touches ..).mono))
  with_reducible repeat' first
    | exact Touches.refl _ _ | apply Touches.via (State.complete_touches ..) | apply Touches.via (State.emit_touches ..)
    | apply Touches.via (State.readTen_touches ..) | apply Touches.via (State.writeDev_touches ..) | dsimp only | split

theorem execCopyDone_answers (ch : Fin 262144) (index : Word) (s : State) :
    Answers [.rf, .dram, .store, .apt, .chan, .mgt, .flt, .dbg, .out] s (execCopyDone ch index s) := by
  delta execCopyDone
  with_reducible repeat' first
    | apply Answers.next | exact Touches.refl _ _ | apply Touches.via (State.aptSettle_touches ..)
    | apply Touches.via (State.complete_touches ..) | apply Touches.via (State.retryBells_touches ..) | split

theorem execCkptReq_answers (ch : Fin 262144) (index : Word) (s : State) :
    Answers [.rf, .dram, .store, .chan, .mgt, .flt, .dbg, .out] s (execCkptReq ch index s) := by
  delta execCkptReq
  with_reducible repeat' first
    | apply Answers.next | exact Touches.refl _ _ | apply Touches.via (State.complete_touches ..)
    | apply Touches.via (State.requestCut_touches ..) | apply Touches.via (State.retryBells_touches ..)
    | apply State.runCmd_touches | apply Touches.via (State.tellDm_touches ..) | decide | intro _ | extract_lets | split

theorem execSemrArrive_answers (tenant : Fin 512) (jobId : Word) (k : BitVec 13) (count : Nat) (s : State) :
    Answers [.rf, .chan] s (execSemrArrive tenant jobId k count s) := by
  delta execSemrArrive
  with_reducible repeat' first
    | apply Answers.next | exact Touches.refl _ _ | apply Touches.via (State.bump_touches ..)
    | apply Touches.via (State.semAdd_touches ..) | apply Touches.via (State.setBit_touches ..) | extract_lets | split

theorem execFlr_answers (fn : Fin 512) (s : State) :
    Answers [.clock, .rf, .tiles, .parts, .ls, .dram, .store, .loupe, .prism, .apt, .chan, .ing, .mgt, .flt, .dbg, .pkg, .freeCount, .out] s (execFlr fn s) := by
  delta execFlr
  with_reducible repeat' first
    | apply Answers.next | exact Touches.refl _ _ | apply Touches.via (State.flr_touches ..)
    | apply Touches.via (State.logEvent_touches ..) | apply Touches.via (State.wrFld_touches ..)
    | refine Touches.foldl _ ?_ ?_ | intro _ | split

theorem execCreditRecall_answers (p : Fin 8) (tenant : Fin 512) (s : State) :
    Answers [.rf, .chan, .net, .dbg, .out] s (execCreditRecall p tenant s) := by
  delta execCreditRecall
  with_reducible repeat' first
    | apply Answers.next | exact Touches.refl _ _ | (simp only [Touches.mk_iff]; refine TouchesParts.upd ?_)
    | apply Answers.ite | apply Touches.via (State.drain_touches ..) | apply Touches.via (State.modLink_touches ..)
    | refine Touches.foldl _ ?_ ?_ | intro _

theorem execFetch_answers (ch : Fin 262144) (index : Word) (s : State) :
    Answers [.rf, .dram, .store, .chan, .ing, .mgt, .flt, .dbg, .out] s (execFetch ch index s) := by
  delta execFetch
  with_reducible repeat' first
    | apply Answers.next | exact Touches.refl _ _ | (simp only [Touches.mk_iff]; refine TouchesParts.upd ?_)
    | apply Touches.ite | apply Touches.via (State.beginExtents_touches ..)
    | apply Touches.via (State.complete_touches ..) | apply Touches.via (State.modCopy_touches ..)
    | apply Touches.via (State.readTen_touches ..) | apply Touches.via (State.refuse_touches ..)
    | apply Touches.via (State.retryBells_touches ..) | apply State.runCmd_touches | decide | intro _ | extract_lets
    | split

theorem execExtentEnd_answers (ch : Fin 262144) (index : Word) (extent : Nat) (wire : WireResult) (s : State) :
    Answers [.rf, .dram, .store, .chan, .ing, .mgt, .flt, .dbg, .freeCount, .out] s (execExtentEnd ch index extent wire s) := by
  delta execExtentEnd
  with_reducible repeat' first
    | apply Answers.next | exact Touches.refl _ _ | (simp only [Touches.mk_iff]; refine TouchesParts.upd ?_)
    | apply Answers.ite | apply Touches.via (State.endExtent_touches ..)
    | apply Touches.via (State.runExtent_touches ..) | split

theorem execWsetCreate_answers (ch : Fin 262144) (index : Word) (s : State) :
    Answers [.rf, .dram, .store, .chan, .ing, .mgt, .flt, .dbg, .out] s (execWsetCreate ch index s) := by
  delta execWsetCreate
  with_reducible repeat' first
    | apply Answers.next | exact Touches.refl _ _ | apply Touches.via (State.complete_touches ..)
    | apply Touches.via (State.refuse_touches ..) | apply Touches.via (State.retryBells_touches ..)
    | apply State.runCmd_touches | apply Touches.via (State.setWset_touches ..) | decide | intro _ | extract_lets
    | split

theorem execWsetBind_answers (ch : Fin 262144) (index : Word) (s : State) :
    Answers [.rf, .dram, .store, .chan, .ing, .mgt, .flt, .dbg, .out] s (execWsetBind ch index s) := by
  delta execWsetBind
  with_reducible repeat' first
    | apply Answers.next | exact Touches.refl _ _ | apply Touches.via (State.complete_touches ..)
    | apply Touches.via (State.refuse_touches ..) | apply Touches.via (State.retryBells_touches ..)
    | apply State.runCmd_touches | apply Touches.via (State.setWset_touches ..)
    | apply Touches.via (State.writeTen_touches ..) | decide | intro _ | extract_lets | split

theorem execWsetUnbind_answers (ch : Fin 262144) (index : Word) (s : State) :
    Answers [.rf, .dram, .store, .chan, .ing, .mgt, .flt, .dbg, .out] s (execWsetUnbind ch index s) := by
  delta execWsetUnbind
  with_reducible repeat' first
    | apply Answers.next | exact Touches.refl _ _ | apply Touches.via (State.complete_touches ..)
    | apply Touches.via (State.refuse_touches ..) | apply Touches.via (State.retryBells_touches ..)
    | apply State.runCmd_touches | apply Touches.via (State.setWset_touches ..) | decide | intro _ | split

theorem execWsetFlip_answers (ch : Fin 262144) (index : Word) (s : State) :
    Answers [.rf, .dram, .store, .chan, .ing, .mgt, .flt, .dbg, .out] s (execWsetFlip ch index s) := by
  delta execWsetFlip
  with_reducible repeat' first
    | apply Answers.next | exact Touches.refl _ _ | apply Touches.via (State.refuse_touches ..)
    | apply Touches.via (State.retryBells_touches ..) | apply State.runCmd_touches
    | apply Touches.via (State.setWset_touches ..) | apply Touches.via (State.settleFlip_touches ..) | decide | intro _
    | extract_lets | split

theorem execWsetDestroy_answers (ch : Fin 262144) (index : Word) (s : State) :
    Answers [.rf, .dram, .store, .chan, .ing, .mgt, .flt, .dbg, .out] s (execWsetDestroy ch index s) := by
  delta execWsetDestroy
  with_reducible repeat' first
    | apply Answers.next | exact Touches.refl _ _ | apply Touches.via (State.complete_touches ..)
    | apply Touches.via (State.refuse_touches ..) | apply Touches.via (State.retryBells_touches ..)
    | apply State.runCmd_touches | apply Touches.via (State.setWset_touches ..) | decide | intro _ | split

theorem execKeyLoad_answers (ch : Fin 262144) (index : Word) (journalOk : Bool) (s : State) :
    Answers [.rf, .dram, .store, .chan, .ing, .mgt, .flt, .flash, .dbg, .out] s (execKeyLoad ch index journalOk s) := by
  delta execKeyLoad
  with_reducible repeat' first
    | apply Answers.next | exact Touches.refl _ _ | apply Touches.via (State.appendJournal_touches ..)
    | apply Touches.via (State.bump_touches ..) | apply Touches.via (State.complete_touches ..)
    | apply Touches.via (State.readTen_touches ..) | apply Touches.via (State.refuseKey_touches ..)
    | apply Touches.via (State.retryBells_touches ..) | apply State.runCmd_touches
    | apply Touches.via (State.setBit_touches ..) | apply Touches.via (State.setKey_touches ..) | decide | intro _
    | dsimp only | split

theorem execKeyClear_answers (ch : Fin 262144) (index : Word) (journalOk : Bool) (s : State) :
    Answers [.rf, .dram, .store, .chan, .ing, .mgt, .flt, .flash, .dbg, .out] s (execKeyClear ch index journalOk s) := by
  delta execKeyClear
  with_reducible repeat' first
    | apply Answers.next | exact Touches.refl _ _ | apply Touches.ite
    | apply Touches.via (State.appendJournal_touches ..) | apply Touches.via (State.clearKey_touches ..)
    | apply Touches.via (State.complete_touches ..) | apply Touches.via (State.refuse_touches ..)
    | apply Touches.via (State.retryBells_touches ..) | apply State.runCmd_touches
    | apply Touches.via (State.setBit_touches ..) | apply Touches.via (State.setKey_touches ..) | decide | intro _
    | split

theorem execLinkTrain_answers (l : Fin 36) (r : TrainResult) (s : State) :
    Answers [.rf, .net, .freeCount, .out] s (execLinkTrain l r s) := by
  delta execLinkTrain
  with_reducible repeat' first
    | apply Answers.next | exact Touches.refl _ _ | apply Touches.via (State.firstCredits_touches ..)
    | apply Touches.via (State.linkUp_touches ..) | apply Touches.via (State.modLink_touches ..)
    | apply Touches.via (State.sendIdentity_touches ..) | apply Touches.via (State.setBit_touches ..)
    | apply Touches.via (State.trainFailed_touches ..) | apply Touches.via (State.wr_touches ..) | extract_lets | split

theorem execTrainRetry_answers (l : Fin 36) (s : State) :
    Answers [.clock, .net] s (execTrainRetry l s) := by
  delta execTrainRetry
  with_reducible repeat' first
    | apply Answers.next | exact Touches.refl _ _ | apply Touches.via (State.modLink_touches ..)
    | apply Touches.via (State.reach_touches ..) | split

theorem execLaneFail_answers (l : Fin 36) (lane : Fin 10) (s : State) :
    Answers [.rf, .tiles, .parts, .ls, .dram, .store, .loupe, .prism, .kal, .apt, .chan, .net, .mgt, .flt, .dbg, .freeCount, .out] s (execLaneFail l lane s) := by
  delta execLaneFail
  with_reducible repeat' first
    | apply Answers.next | exact Touches.refl _ _ | apply Touches.via (State.failLanes_touches ..)
    | apply Touches.via (State.sendMessages_touches ..)

theorem execNarrowRetrainDone_answers (l : Fin 36) (s : State) :
    Answers [.rf, .net, .dbg, .freeCount, .out] s (execNarrowRetrainDone l s) := by
  delta execNarrowRetrainDone
  with_reducible repeat' first
    | apply Answers.next | exact Touches.refl _ _ | apply Touches.via (State.clrBit_touches ..)
    | apply Touches.via (State.drain_touches ..) | apply Touches.via (State.emit_touches ..)
    | apply Touches.via (State.modLink_touches ..) | apply Touches.via (State.sendMessages_touches ..)
    | apply Touches.via (State.setBit_touches ..) | apply Touches.via (State.stepEight_touches ..) | extract_lets
    | split

theorem execRlmPoll_answers (id status : BitVec 16) (power pmin : List (BitVec 16)) (temp : BitVec 16) (s : State) :
    Answers [.rf, .tiles, .parts, .ls, .dram, .store, .loupe, .prism, .kal, .apt, .chan, .net, .mgt, .flt, .dbg, .freeCount, .out] s (execRlmPoll id status power pmin temp s) := by
  delta execRlmPoll
  with_reducible repeat' first
    | apply Answers.next | exact Touches.refl _ _ | (simp only [Touches.mk_iff]; refine TouchesParts.upd ?_)
    | apply Touches.ite | apply Touches.via (State.dropLink_touches ..) | apply Touches.via (State.emit_touches ..)
    | apply Touches.via (State.failLanes_touches ..) | apply Touches.via (State.linkWarn_touches ..)
    | apply Touches.via (State.setBit_touches ..) | apply Touches.via (State.wr_touches ..)
    | refine Touches.foldl _ ?_ ?_ | intro _

theorem execFlitReceive_answers (l : Fin 36) (flit : List Byte) (uncorrectable : Bool) (corrected : List (Fin 10 × Nat)) (s : State) :
    Answers [.rf, .tiles, .parts, .ls, .dram, .store, .loupe, .prism, .kal, .apt, .chan, .net, .mgt, .flt, .dbg, .freeCount, .out] s (execFlitReceive l flit uncorrectable corrected s) := by
  delta execFlitReceive
  with_reducible repeat' first
    | apply Answers.next | exact Touches.refl _ _ | apply Touches.via (State.bump_touches ..)
    | apply Touches.via (State.drain_touches ..) | apply Touches.via (State.flit_touches ..)
    | apply Touches.via (State.noteLaneCe_touches ..) | apply Touches.via (State.sendMessages_touches ..) | extract_lets
    | split

theorem execReplayTimeout_answers (l : Fin 36) (s : State) :
    Answers [.rf, .tiles, .parts, .ls, .dram, .store, .loupe, .prism, .kal, .apt, .chan, .net, .mgt, .flt, .dbg, .freeCount, .out] s (execReplayTimeout l s) := by
  delta execReplayTimeout
  with_reducible repeat' first
    | apply Answers.next | exact Touches.refl _ _ | apply Touches.via (State.replayFrom_touches ..)
    | apply Touches.via (State.sendMessages_touches ..) | dsimp only | split

theorem execLinkCreditWatchdog_answers (l : Fin 36) (vl : Fin 8) (tenant : Fin 512) (s : State) :
    Answers [.clock, .rf, .tiles, .parts, .ls, .dram, .store, .loupe, .prism, .kal, .apt, .chan, .net, .mgt, .flt, .dbg, .freeCount, .out] s (execLinkCreditWatchdog l vl tenant s) := by
  delta execLinkCreditWatchdog
  with_reducible repeat' first
    | apply Answers.next | exact Touches.refl _ _ | apply Touches.via (State.fabricReset_touches ..)
    | apply Touches.via (State.logEvent_touches ..) | apply Touches.via (State.reach_touches ..)
    | apply Touches.via (State.setBit_touches ..) | split

theorem execReserveRelease_answers (l : Fin 36) (tenant : Fin 512) (s : State) :
    Answers [.clock, .net] s (execReserveRelease l tenant s) := by
  delta execReserveRelease
  with_reducible repeat' first
    | apply Answers.next | exact Touches.refl _ _ | apply Touches.via (State.modLink_touches ..)
    | apply Touches.via (State.reach_touches ..) | split

theorem execEthPacketReceive_answers (l : Fin 36) (pkt : EthPacket) (s : State) :
    Answers [.rf, .dram, .store, .chan, .ing, .net, .mgt, .flt, .dbg, .out] s (execEthPacketReceive l pkt s) := by
  delta execEthPacketReceive
  with_reducible repeat' first
    | apply Answers.next | exact Touches.refl _ _ | apply Touches.ite | apply Touches.via (State.emit_touches ..)
    | apply Touches.via (State.ethDrop_touches ..) | apply Touches.via (State.modQp_touches ..)
    | apply Touches.via (State.qpAdvance_touches ..) | apply Touches.via (State.qpError_touches ..)
    | apply Touches.via (State.qpGoBack_touches ..) | split

theorem execQpTimeout_answers (q : Fin 4096) (s : State) :
    Answers [.rf, .dram, .store, .chan, .ing, .net, .mgt, .flt, .dbg, .out] s (execQpTimeout q s) := by
  delta execQpTimeout
  with_reducible repeat' first
    | apply Answers.next | exact Touches.refl _ _ | apply Touches.via (State.qpGoBack_touches ..) | split

theorem execQpRateRise_answers (q : Fin 4096) (s : State) :
    Answers [.clock, .net] s (execQpRateRise q s) := by
  delta execQpRateRise
  with_reducible repeat' first
    | apply Answers.next | exact Touches.refl _ _ | apply Touches.via (State.modQp_touches ..)
    | apply Touches.via (State.reach_touches ..) | split

theorem execEntdaa_answers (address : BitVec 7) (s : State) :
    Answers [.mgt, .out] s (execEntdaa address s) := by
  delta execEntdaa
  with_reducible repeat' first
    | apply Answers.next | exact Touches.refl _ _ | (simp only [Touches.mk_iff]; refine TouchesParts.upd ?_)
    | apply Touches.via (State.emit_touches ..) | split

theorem execRstdaa_answers (s : State) :
    Answers [.mgt] s (execRstdaa s) := by
  delta execRstdaa
  with_reducible repeat' first
    | apply Answers.next | exact Touches.refl _ _ | (simp only [Touches.mk_iff]; refine TouchesParts.upd ?_) | split

theorem execEnec_answers (s : State) :
    Answers [.mgt, .out] s (execEnec s) := by
  delta execEnec
  with_reducible repeat' first
    | apply Answers.next | exact Touches.refl _ _ | (simp only [Touches.mk_iff]; refine TouchesParts.upd ?_)
    | apply Touches.via (State.ibi_touches ..) | refine Touches.foldl _ ?_ ?_ | intro _ | split

theorem execDisec_answers (s : State) :
    Answers [.mgt] s (execDisec s) := by
  delta execDisec
  with_reducible repeat' first
    | apply Answers.next | exact Touches.refl _ _ | (simp only [Touches.mk_iff]; refine TouchesParts.upd ?_) | split

theorem execGetpid_answers (s : State) :
    Answers [.out] s (execGetpid s) := by
  delta execGetpid
  with_reducible repeat' first
    | apply Answers.next | exact Touches.refl _ _ | apply Touches.via (State.i3cAnswer_touches ..)

theorem execGetstatus_answers (s : State) :
    Answers [.freeCount, .out] s (execGetstatus s) := by
  delta execGetstatus
  with_reducible repeat' first
    | apply Answers.next | exact Touches.refl _ _ | apply Touches.via (State.fresh_touches ..)
    | apply Touches.via (State.i3cAnswer_touches ..)

theorem execGetmwl_answers (s : State) :
    Answers [.out] s (execGetmwl s) := by
  delta execGetmwl
  with_reducible repeat' first
    | apply Answers.next | exact Touches.refl _ _ | apply Touches.via (State.i3cAnswer_touches ..)

theorem execGetmrl_answers (s : State) :
    Answers [.out] s (execGetmrl s) := by
  delta execGetmrl
  with_reducible repeat' first
    | apply Answers.next | exact Touches.refl _ _ | apply Touches.via (State.i3cAnswer_touches ..)

theorem execRstact_answers (action : Byte) (s : State) :
    Answers [.mgt] s (execRstact action s) := by
  delta execRstact
  with_reducible repeat' first
    | apply Answers.next | exact Touches.refl _ _ | (simp only [Touches.mk_iff]; refine TouchesParts.upd ?_) | split

theorem execI3cUnsupportedCcc_answers (_code : Byte) (s : State) :
    Answers [.out] s (execI3cUnsupportedCcc _code s) := by
  delta execI3cUnsupportedCcc
  with_reducible repeat' first
    | apply Answers.next | exact Touches.refl _ _ | apply Touches.via (State.emit_touches ..) | split

theorem execI3cPrivateWrite_answers (offset : BitVec 16) (data : List Byte) (s : State) :
    Answers [.clock, .rf, .tiles, .parts, .ls, .dram, .store, .loupe, .prism, .kal, .apt, .chan, .ing, .net, .mgt, .flt, .flash, .start, .port, .dbg, .pkg, .freeCount, .out] s (execI3cPrivateWrite offset data s) := by
  delta execI3cPrivateWrite
  with_reducible repeat' first
    | apply Answers.next | exact Touches.refl _ _ | apply Touches.via (State.setBit_touches ..)
    | apply Touches.via (State.writeAccess_touches ..) | refine Touches.foldl _ ?_ ?_ | intro _ | split

theorem execI3cPrivateRead_answers (offset : BitVec 16) (s : State) :
    Answers [.rf, .dbg, .freeCount, .out] s (execI3cPrivateRead offset s) := by
  delta execI3cPrivateRead
  refine .ite (.next (State.emit_touches ..).mono) (.next (.via (State.emit_touches ..) (Touches.foldlSnd _ ?_ (.refl _ _))))
  exact fun r e => .iteSnd (.refl _ _) (State.readAccess_touches ..).mono

theorem execCommit_answers (s : State) :
    Answers [.rf, .mgt, .start, .out] s (execCommit s) := by
  delta execCommit
  with_reducible repeat' first
    | apply Answers.next | exact Touches.refl _ _ | apply Touches.via (State.clrBit_touches ..)
    | apply Touches.via (State.commitCoords_touches ..) | apply Touches.via (State.setBit_touches ..) | split

theorem execHaltDriveEnd_answers (s : State) :
    Answers [.rf, .mgt] s (execHaltDriveEnd s) := by
  delta execHaltDriveEnd
  with_reducible repeat' first
    | apply Answers.next | exact Touches.refl _ _ | (simp only [Touches.mk_iff]; refine TouchesParts.upd ?_)
    | apply Touches.via (State.clrBit_touches ..) | split

theorem execBoardHalt_answers (s : State) :
    Answers [.rf, .mgt, .out] s (execBoardHalt s) := by
  delta execBoardHalt
  with_reducible repeat' first
    | apply Answers.next | exact Touches.refl _ _ | apply Touches.via (State.driveHalt_touches ..)
    | apply Touches.via (State.emit_touches ..) | split

theorem execHaltNLow_answers (s : State) :
    Answers [.rf, .mgt, .flt, .out] s (execHaltNLow s) := by
  delta execHaltNLow
  with_reducible repeat' first
    | apply Answers.next | exact Touches.refl _ _ | (simp only [Touches.mk_iff]; refine TouchesParts.upd ?_)
    | apply Answers.ite | apply Touches.via (State.ibi_touches ..) | apply Touches.via (State.logEvent_touches ..)
    | apply Touches.via (State.setBit_touches ..) | apply Touches.via (State.tellDm_touches ..)

theorem execParentLost_answers (newParent : Option ChipId) (s : State) :
    Answers [.clock, .rf, .dram, .store, .chan, .mgt, .flt, .dbg, .freeCount, .out] s (execParentLost newParent s) := by
  delta execParentLost
  with_reducible repeat' first
    | apply Answers.next | exact Touches.refl _ _ | (simp only [Touches.mk_iff]; refine TouchesParts.upd ?_)
    | apply Touches.via (State.emit_touches ..) | apply Touches.via (State.holdOver_touches ..)
    | apply Touches.via (State.loseDm_touches ..) | apply Touches.via (State.reach_touches ..)
    | apply Touches.via (State.setBit_touches ..) | apply Touches.via (State.setParent_touches ..) | dsimp only | split

theorem execFrameWatchdog_answers (t : Fin 64) (s : State) :
    Answers [.rf, .tiles, .chan, .flt, .out] s (execFrameWatchdog t s) := by
  delta execFrameWatchdog
  with_reducible repeat' first
    | apply Answers.next | exact Touches.refl _ _ | apply Touches.via (State.faultTile_touches ..)
    | apply Touches.via (State.setBit_touches ..) | extract_lets | split

theorem execChannelWatchdog_answers (ch : Fin 262144) (s : State) :
    Answers [.clock, .rf, .chan, .flt] s (execChannelWatchdog ch s) := by
  delta execChannelWatchdog
  with_reducible repeat' first
    | apply Answers.next | exact Touches.refl _ _ | apply Touches.via (State.logEvent_touches ..)
    | apply Touches.via (State.reach_touches ..) | apply Touches.via (State.setBit_touches ..)
    | apply Touches.via (State.setCh_touches ..) | extract_lets | split

theorem execServiceCoreWatchdog_answers (core : Fin 8) (s : State) :
    Answers [.clock, .rf, .tiles, .parts, .ls, .dram, .store, .loupe, .prism, .kal, .apt, .chan, .ing, .net, .mgt, .flt, .flash, .start, .port, .dbg, .pkg, .freeCount, .out] s (execServiceCoreWatchdog core s) := by
  delta execServiceCoreWatchdog
  with_reducible repeat' first
    | apply Answers.next | exact Touches.refl _ _ | apply Touches.via (State.logEvent_touches ..)
    | apply Touches.via (State.setBit_touches ..) | apply Touches.via (State.startCtlReset_touches ..) | split

theorem execCompanionCoreWatchdog_answers (core : Fin 24) (tenant : Fin 512) (s : State) :
    Answers [.rf, .flt] s (execCompanionCoreWatchdog core tenant s) := by
  delta execCompanionCoreWatchdog
  with_reducible repeat' first
    | apply Answers.next | exact Touches.refl _ _ | (simp only [Touches.mk_iff]; refine TouchesParts.upd ?_)
    | apply Touches.via (State.logEvent_touches ..) | apply Touches.via (State.setBit_touches ..) | extract_lets | split

theorem execResetWatchdog_answers (s : State) :
    Answers [.clock, .rf, .tiles, .parts, .ls, .dram, .store, .loupe, .prism, .kal, .apt, .chan, .ing, .net, .mgt, .flt, .flash, .start, .port, .dbg, .pkg, .freeCount, .out] s (execResetWatchdog s) := by
  delta execResetWatchdog
  with_reducible repeat' first
    | apply Answers.next | exact Touches.refl _ _ | apply Touches.via (State.escalate_touches ..)
    | apply Touches.via (State.reach_touches ..) | split

theorem execComputeReset_answers (source : ResetSource) (s : State) :
    Answers [.rf, .chan, .flt, .out] s (execComputeReset source s) := by
  delta execComputeReset
  with_reducible repeat' first
    | apply Answers.next | exact Touches.refl _ _ | apply Touches.via (State.orderReset_touches ..)
    | apply Touches.via (State.resetByFault_touches ..) | split

theorem execResetDrainTimeout_answers (s : State) :
    Answers [.clock, .rf, .parts, .dram, .store, .ing, .mgt, .flt, .dbg, .freeCount, .out] s (execResetDrainTimeout s) := by
  delta execResetDrainTimeout
  with_reducible repeat' first
    | apply Answers.next | exact Touches.refl _ _ | (simp only [Touches.mk_iff]; refine TouchesParts.upd ?_)
    | apply Touches.via (State.abandonedRecord_touches ..) | apply Touches.via (State.abortExtents_touches ..)
    | apply Touches.via (State.dropRequests_touches ..) | apply Touches.via (State.openDump_touches ..)
    | apply Touches.via (State.reach_touches ..) | apply Touches.via (State.setBit_touches ..)
    | apply Touches.via (State.sourceNotices_touches ..) | apply Touches.via (State.wrFld_touches ..)
    | refine Touches.foldl _ ?_ ?_ | intro _ | split

/-- With the dump written, what a compute-domain reset clears at once. -/
theorem State.clearedByDump_touches (d : State) (f : Flt) : Touches [.ls, .store, .loupe, .prism, .kal, .flt] d { d with
    mem := { d.mem with ls := [], lsBad := [], lsSoft := [], accBad := [] }, loupe := [], prism := Prism.reset,
    kal := { Kal.reset with sent := d.kal.sent, received := d.kal.received }, flt := f } := by
  refine TouchesParts.upd (s := { d with mem := { d.mem with ls := [], lsBad := [], lsSoft := [], accBad := [] } })
    (Touches.setMem d _ fun h => ?_)
  simp only [Memory.wf, Bool.and_eq_true] at h ⊢
  exact ⟨rfl, h.2⟩

theorem execDumpDone_answers (s : State) :
    Answers [.rf, .tiles, .ls, .dram, .store, .loupe, .prism, .kal, .chan, .mgt, .flt, .freeCount, .out] s (execDumpDone s) := by
  delta execDumpDone
  split
  · exact .next (.refl _ s)
  · refine .ite (.next (.refl _ s)) (.next (.via (State.setBit_touches ..) (.via (State.wrFld_touches ..)
      (.via (State.clearedByDump_touches _ _) (.foldl _ ?_ (.via (State.setBit_touches ..) (State.writeDump_touches ..).mono))))))
    exact fun s t => (State.modTile_touches ..).mono

theorem execResetEnd_answers (s : State) :
    Answers [.clock, .rf, .tiles, .parts, .dram, .store, .apt, .chan, .ing, .mgt, .flt, .port, .dbg, .pkg, .freeCount, .out] s (execResetEnd s) := by
  delta execResetEnd
  with_reducible repeat' first
    | apply Answers.next | exact Touches.refl _ _ | (simp only [Touches.mk_iff]; refine TouchesParts.upd ?_)
    | apply Answers.ite | apply Touches.via (State.abortChannel_touches ..)
    | apply Touches.via (State.abortJob_touches ..) | apply Touches.via (State.aptSettle_touches ..)
    | apply Touches.via (State.clrBit_touches ..) | apply Touches.via (State.dropStaged_touches ..)
    | apply Touches.via (State.fenceVectors_touches ..) | apply Touches.via (State.modPart_touches ..)
    | apply Touches.via (State.modTile_touches ..) | apply Touches.via (State.restPhase_touches ..)
    | apply Touches.via (State.retryBells_touches ..) | apply Touches.via (State.settlePending_touches ..)
    | apply Touches.via (State.startMemReset_touches ..) | apply Touches.via (State.zeroGranules_touches ..)
    | apply Touches.via (State.zeroReleased_touches ..) | refine Touches.foldl _ ?_ ?_ | intro _ | split

theorem execMemoryReset_answers (s : State) :
    Answers [.rf, .flt] s (execMemoryReset s) := by
  delta execMemoryReset
  with_reducible repeat' first
    | apply Answers.next | exact Touches.refl _ _ | apply Touches.via (State.orderMemReset_touches ..)

theorem execHbmRetrainDone_answers (ok : Bool) (writesKept : List Nat) (s : State) :
    Answers [.clock, .rf, .tiles, .parts, .ls, .dram, .store, .loupe, .prism, .kal, .apt, .chan, .ing, .net, .mgt, .flt, .flash, .start, .port, .dbg, .pkg, .freeCount, .out] s (execHbmRetrainDone ok writesKept s) := by
  delta execHbmRetrainDone
  with_reducible repeat' first
    | apply Answers.next | exact Touches.refl _ _ | (simp only [Touches.mk_iff]; refine TouchesParts.upd ?_)
    | apply Touches.via (State.clrBit_touches ..) | apply Touches.via (State.escalate_touches ..)
    | apply Touches.via (State.pieceDone_touches ..) | apply Touches.via (State.restPhase_touches ..)
    | refine Touches.foldl _ ?_ ?_ | intro _ | split

theorem execControlReset_answers (s : State) :
    Answers [.clock, .rf, .tiles, .parts, .ls, .dram, .store, .loupe, .prism, .kal, .apt, .chan, .ing, .net, .mgt, .flt, .flash, .start, .port, .dbg, .pkg, .freeCount, .out] s (execControlReset s) := by
  delta execControlReset
  with_reducible repeat' first
    | apply Answers.next | exact Touches.refl _ _ | apply Touches.via (State.orderCtlReset_touches ..)

theorem execControlRestartDone_answers (s : State) :
    Answers [.rf, .mgt, .flt, .out] s (execControlRestartDone s) := by
  delta execControlRestartDone
  with_reducible repeat' first
    | apply Answers.next | exact Touches.refl _ _ | (simp only [Touches.mk_iff]; refine TouchesParts.upd ?_)
    | apply Answers.ite | apply Touches.via (State.clrBit_touches ..) | apply Touches.via (State.rejoin_touches ..)
    | apply Touches.via (State.restPhase_touches ..) | refine Touches.foldl _ ?_ ?_ | intro _ | split

theorem execWholeDeviceReset_answers (s : State) :
    Answers [.clock, .rf, .tiles, .parts, .ls, .dram, .store, .loupe, .prism, .kal, .apt, .chan, .ing, .net, .mgt, .flt, .flash, .start, .port, .dbg, .pkg, .freeCount, .out] s (execWholeDeviceReset s) := by
  delta execWholeDeviceReset
  with_reducible repeat' first
    | apply Answers.next | exact Touches.refl _ _ | apply Touches.via (State.resetDevice_touches ..) | split

theorem execAbandon_answers (jobId : Word) (cause : ChipId) (s : State) :
    Answers [.clock, .rf, .tiles, .parts, .ls, .dram, .store, .loupe, .prism, .chan, .mgt, .flt, .dbg, .pkg, .freeCount, .out] s (execAbandon jobId cause s) := by
  delta execAbandon
  with_reducible repeat' first
    | apply Answers.next | exact Touches.refl _ _ | apply Touches.via (State.endJob_touches ..)
    | apply Touches.via (State.mapTiles_touches ..) | apply Touches.via (State.modPart_touches ..)
    | refine Touches.foldl _ ?_ ?_ | intro _

theorem execWarningReceive_answers (chip : ChipId) (_source : Fin 5) (s : State) :
    Answers [.mgt, .out] s (execWarningReceive chip _source s) := by
  delta execWarningReceive
  with_reducible repeat' first
    | apply Answers.next | exact Touches.refl _ _ | apply Touches.via (State.notOwner_touches ..)
    | apply Touches.via (State.requestCut_touches ..) | refine Touches.foldl _ ?_ ?_ | intro _ | split

theorem execCutOrder_answers (jobId : Word) (c : BitVec 40) (s : State) :
    Answers [.rf, .parts] s (execCutOrder jobId c s) := by
  delta execCutOrder
  with_reducible repeat' first
    | apply Answers.next | exact Touches.refl _ _ | apply Touches.via (State.ckptState_touches ..)
    | apply Touches.via (State.modCkpt_touches ..) | refine Touches.foldl _ ?_ ?_ | intro _

theorem execCutReport_answers (jobId : Word) (chip : ChipId) (stage : CutStage) (s : State) :
    Answers [.rf, .dram, .store, .chan, .mgt, .flt, .dbg, .out] s (execCutReport jobId chip stage s) := by
  delta execCutReport
  with_reducible repeat' first
    | apply Answers.next | exact Touches.refl _ _ | apply Answers.ite | apply Touches.via (State.complete_touches ..)
    | apply Touches.via (State.endCut_touches ..) | apply Touches.via (State.modDm_touches ..)
    | apply Touches.via (State.retryBells_touches ..) | apply Touches.via (State.tellWorkers_touches ..)
    | refine Touches.foldl _ ?_ ?_ | intro _ | split

theorem execCutRelease_answers (jobId : Word) (s : State) :
    Answers [.parts] s (execCutRelease jobId s) := by
  delta execCutRelease
  with_reducible repeat' first
    | apply Answers.next | exact Touches.refl _ _ | apply Touches.via (State.modCkpt_touches ..)
    | refine Touches.foldl _ ?_ ?_ | intro _

theorem execCutDrainDone_answers (p : Fin 8) (wire : List (BitVec 8)) (s : State) :
    Answers [.rf, .parts, .dram, .store, .mgt, .flt, .dbg, .out] s (execCutDrainDone p wire s) := by
  delta execCutDrainDone
  with_reducible repeat' first
    | apply Answers.next | exact Touches.refl _ _ | apply Touches.via (State.ckptState_touches ..)
    | apply Touches.via (State.finishCut_touches ..) | apply Touches.via (State.meet_touches ..)
    | apply Touches.via (State.modCkpt_touches ..) | refine Touches.foldl _ ?_ ?_ | intro _ | split

theorem execRestoreDone_answers (p : Fin 8) (wire : List WireResult) (s : State) :
    Answers [.clock, .rf, .parts, .dram, .store, .chan, .mgt, .flt, .dbg, .pkg, .freeCount, .out] s (execRestoreDone p wire s) := by
  delta execRestoreDone
  with_reducible repeat' first
    | apply Answers.next | exact Touches.refl _ _ | apply Touches.via (State.ckptOutcome_touches ..)
    | apply Touches.via (State.ckptState_touches ..) | apply Touches.via (State.endRecord_touches ..)
    | apply Touches.via (State.finishJob_touches ..) | apply Touches.via (State.meet_touches ..)
    | apply Touches.via (State.meetCkpt_touches ..) | apply Touches.via (State.modJob_touches ..)
    | apply Touches.via (State.restoreExtents_touches ..) | apply Touches.via (State.writeTen_touches ..) | dsimp only
    | split

theorem execAdmissionCopy_answers (p : Fin 8) (extent : Nat) (data : List Byte) (digest : BitVec 128) (ue : Option (BitVec 40)) (s : State) :
    Answers [.rf, .parts, .dram, .store, .mgt, .flt, .dbg, .out] s (execAdmissionCopy p extent data digest ue s) := by
  delta execAdmissionCopy
  with_reducible repeat' first
    | apply Answers.next | exact Touches.refl _ _ | (simp only [Touches.mk_iff]; refine TouchesParts.upd ?_)
    | apply Touches.via (State.admissionRecord_touches ..) | apply Touches.via (State.ckptLast_touches ..)
    | apply Touches.via (State.ckptState_touches ..) | apply Touches.via (State.dropCopied_touches ..)
    | apply Touches.via (State.modCkpt_touches ..) | apply Touches.via (State.setBit_touches ..)
    | apply Touches.via (State.tellDm_touches ..) | apply Touches.via (State.writeTen_touches ..) | dsimp only | split

theorem execResetNRise_answers (railsInRange : Bool) (s : State) :
    Answers [.clock, .rf, .tiles, .parts, .ls, .dram, .store, .loupe, .prism, .kal, .apt, .chan, .ing, .net, .mgt, .flt, .flash, .start, .port, .dbg, .pkg, .freeCount, .out] s (execResetNRise railsInRange s) := by
  delta execResetNRise
  with_reducible repeat' first
    | apply Answers.next | exact Touches.refl _ _ | apply Touches.via (State.deviceReset_touches ..)
    | apply Touches.via (State.startUp_touches ..) | split

theorem execChipReady_answers (s : State) :
    Answers [.rf, .mgt, .flash, .start, .out] s (execChipReady s) := by
  delta execChipReady
  with_reducible repeat' first
    | apply Answers.next | exact Touches.refl _ _ | apply Answers.ite | apply Touches.via (State.assignRoles_touches ..)
    | apply Touches.via (State.clrBit_touches ..) | apply Touches.via (State.emit_touches ..)
    | apply Touches.via (State.ibi_touches ..) | apply Touches.via (State.modBoot_touches ..)
    | apply Touches.via (State.setBit_touches ..) | apply Touches.via (State.writeBcb_touches ..) | split

theorem execFlashRelease_answers (s : State) :
    Answers [.start] s (execFlashRelease s) := by
  delta execFlashRelease
  with_reducible repeat' first
    | apply Answers.next | exact Touches.refl _ _ | apply Touches.via (State.modBoot_touches ..) | split

theorem execFuseProgramDone_answers (intact : Bool) (s : State) :
    Answers [.rf, .start] s (execFuseProgramDone intact s) := by
  delta execFuseProgramDone
  with_reducible repeat' first
    | apply Answers.next | exact Touches.refl _ _ | (simp only [Touches.mk_iff]; refine TouchesParts.upd ?_)
    | apply Touches.via (State.fuseResult_touches ..) | apply Touches.via (State.setBit_touches ..) | split

theorem execImageStageDone_answers (ok : Bool) (s : State) :
    Answers [.rf, .flash, .start, .freeCount] s (execImageStageDone ok s) := by
  delta execImageStageDone
  with_reducible repeat' first
    | apply Answers.next | exact Touches.refl _ _ | apply Touches.via (State.flashErase_touches ..)
    | apply Touches.via (State.flashWrite_touches ..) | apply Touches.via (State.fresh_touches ..)
    | apply Touches.via (State.imageResult_touches ..) | apply Touches.via (State.modImage_touches ..)
    | apply Touches.via (State.writeBcb_touches ..) | split

theorem execActivationSwap_answers (s : State) :
    Answers [.rf, .chan, .start, .out] s (execActivationSwap s) := by
  delta execActivationSwap
  with_reducible repeat' first
    | apply Answers.next | exact Touches.refl _ _ | apply Touches.via (State.fenceVersions_touches ..)
    | apply Touches.via (State.modBoot_touches ..) | apply Touches.via (State.modImage_touches ..) | extract_lets
    | split

theorem execRegisterWrite_answers (path : Path) (offset : BitVec 29) (enables : BitVec 4) (value : Word) (s : State) :
    Answers [.clock, .rf, .tiles, .parts, .ls, .dram, .store, .loupe, .prism, .kal, .apt, .chan, .ing, .net, .mgt, .flt, .flash, .start, .port, .dbg, .pkg, .freeCount, .out] s (execRegisterWrite path offset enables value s) := by
  delta execRegisterWrite
  with_reducible repeat' first
    | apply Answers.next | exact Touches.refl _ _ | apply Touches.via (State.writeAccess_touches ..) | split

theorem execRcRead_answers (path : Path) (offset : BitVec 29) (enables : BitVec 4) (s : State) :
    Answers [.rf, .dbg, .freeCount, .out] s (execRcRead path offset enables s) := by
  delta execRcRead
  with_reducible repeat' first
    | apply Answers.next | exact Touches.refl _ _ | apply Touches.via (State.emit_touches ..)
    | apply Touches.via (State.readAccess_touches ..) | extract_lets | split

theorem execRegisterStallTimeout_answers (path : Path) (offset : BitVec 29) (write : Bool) (s : State) :
    Answers [.rf, .port, .out] s (execRegisterStallTimeout path offset write s) := by
  delta execRegisterStallTimeout
  with_reducible repeat' first
    | apply Answers.next | exact Touches.refl _ _ | (simp only [Touches.mk_iff]; refine TouchesParts.upd ?_)
    | apply Touches.via (State.emit_touches ..) | apply Touches.via (State.flagErr_touches ..) | split

theorem execGlbStrobe_answers (path : Path) (blocks : Word) (s : State) :
    Answers [.rf, .parts, .port, .out] s (execGlbStrobe path blocks s) := by
  delta execGlbStrobe
  with_reducible repeat' first
    | apply Answers.next | exact Touches.refl _ _ | apply Touches.via (State.strobe_touches ..)
    | apply State.via_touches | apply Touches.via (State.writeFields_touches ..) | intro _

theorem execMbxServe_answers (window : MbxWindow) (s : State) :
    Answers [.rf, .port, .freeCount] s (execMbxServe window s) := by
  delta execMbxServe
  with_reducible repeat' first
    | apply Answers.next | exact Touches.refl _ _ | (simp only [Touches.mk_iff]; refine TouchesParts.upd ?_)
    | apply Touches.via (State.fresh_touches ..) | apply Touches.via (State.wr_touches ..)
    | apply Touches.via (State.wrFld_touches ..) | split

theorem execUartRxChar_answers (data : Byte) (stop : Bool) (s : State) :
    Answers [.rf, .dbg] s (execUartRxChar data stop s) := by
  delta execUartRxChar
  with_reducible repeat' first
    | apply Answers.next | exact Touches.refl _ _ | (simp only [Touches.mk_iff]; refine TouchesParts.upd ?_)
    | apply Touches.via (State.bump_touches ..) | apply Touches.via (State.setBit_touches ..) | split

theorem execUartRxRead_answers (path : Path) (s : State) :
    Answers [.dbg, .out] s (execUartRxRead path s) := by
  delta execUartRxRead
  with_reducible repeat' first
    | apply Answers.next | exact Touches.refl _ _ | (simp only [Touches.mk_iff]; refine TouchesParts.upd ?_)
    | apply Touches.via (State.emit_touches ..) | apply State.via_touches | intro _ | split

theorem execIdcode_answers (s : State) :
    Answers [.dbg, .out] s (execIdcode s) := by
  delta execIdcode
  with_reducible repeat' first
    | apply Answers.next | exact Touches.refl _ _ | apply Touches.via (State.emit_touches ..)
    | apply Touches.via (State.modJtag_touches ..)

theorem execSamplePreload_answers (pins preload : List Bool) (s : State) :
    Answers [.dbg, .out] s (execSamplePreload pins preload s) := by
  delta execSamplePreload
  with_reducible repeat' first
    | apply Answers.next | exact Touches.refl _ _ | apply Touches.via (State.emit_touches ..)
    | apply Touches.via (State.modJtag_touches ..)

theorem execDtmcs_answers (s : State) :
    Answers [.dbg, .out] s (execDtmcs s) := by
  delta execDtmcs
  with_reducible repeat' first
    | exact (execBypass_answers s).mono | apply Answers.next | exact Touches.refl _ _
    | apply Touches.via (State.emit_touches ..) | apply Touches.via (State.modJtag_touches ..) | split

theorem execDmi_answers (a : DmiAccess) (s : State) :
    Answers [.clock, .rf, .tiles, .parts, .ls, .dram, .store, .loupe, .prism, .kal, .apt, .chan, .ing, .net, .mgt, .flt, .flash, .start, .port, .dbg, .pkg, .freeCount, .out] s (execDmi a s) := by
  delta execDmi
  with_reducible repeat' first
    | exact (execBypass_answers s).mono | apply Answers.next | exact Touches.refl _ _
    | apply Touches.via (State.dmiRead_touches ..) | apply Touches.via (State.dmiWrite_touches ..)
    | apply Touches.via (State.emit_touches ..) | apply Touches.via (State.modDm'_touches ..)
    | apply Touches.via (State.modJtag_touches ..) | split

theorem execRailMonitorTrip_answers (rail : Fin 8) (s : State) :
    Answers [.clock, .rf, .tiles, .parts, .ls, .dram, .store, .loupe, .prism, .kal, .apt, .chan, .ing, .net, .mgt, .flt, .start, .port, .dbg, .pkg, .freeCount] s (execRailMonitorTrip rail s) := by
  delta execRailMonitorTrip
  with_reducible repeat' first
    | apply Answers.next | exact Touches.refl _ _ | apply Touches.via (State.deviceReset_touches ..)
    | apply Touches.via (State.loseHbm_touches ..) | split

theorem execRefclkLoss_answers (s : State) :
    Answers [.clock, .rf, .tiles, .parts, .ls, .dram, .store, .loupe, .prism, .kal, .apt, .chan, .ing, .net, .mgt, .flt, .start, .port, .dbg, .pkg, .freeCount, .out] s (execRefclkLoss s) := by
  delta execRefclkLoss
  with_reducible repeat' first
    | apply Answers.next | exact Touches.refl _ _ | apply Touches.via (State.holdReset_touches ..)
    | apply Touches.via (State.sourceNotices_touches ..) | split

theorem execRefclkRestore_answers (s : State) :
    Answers [.clock, .rf, .tiles, .parts, .ls, .dram, .store, .loupe, .prism, .kal, .apt, .chan, .ing, .net, .mgt, .flt, .flash, .start, .port, .dbg, .pkg, .freeCount, .out] s (execRefclkRestore s) := by
  delta execRefclkRestore
  with_reducible repeat' first
    | apply Answers.next | exact Touches.refl _ _ | apply Touches.via (State.deviceReset_touches ..)
    | apply Touches.via (State.startUp_touches ..) | split

theorem execThermalSample_answers (die iod hbm oe : List (BitVec 8)) (s : State) :
    Answers [.clock, .rf, .tiles, .parts, .ls, .dram, .store, .loupe, .prism, .kal, .apt, .chan, .ing, .net, .mgt, .flt, .start, .port, .dbg, .pkg, .freeCount, .out] s (execThermalSample die iod hbm oe s) := by
  delta execThermalSample
  with_reducible repeat' first
    | apply Answers.next | exact Touches.refl _ _ | (simp only [Touches.mk_iff]; refine TouchesParts.upd ?_)
    | apply Answers.ite | apply Touches.via (State.showTemp_touches ..)
    | apply Touches.via (State.thermalCritical_touches ..) | apply Touches.via (State.thermalTrip_touches ..) | split

theorem execThermalRelease_answers (s : State) :
    Answers [.clock, .rf, .parts, .pkg] s (execThermalRelease s) := by
  delta execThermalRelease
  with_reducible repeat' first
    | apply Answers.next | exact Touches.refl _ _ | (simp only [Touches.mk_iff]; refine TouchesParts.upd ?_)
    | apply Answers.ite | apply Touches.via (State.reach_touches ..)
    | apply Touches.via (State.thermalReturn_touches ..) | refine Touches.foldl _ ?_ ?_ | intro _ | split

theorem execResetNLow_answers (s : State) :
    Answers [.clock, .rf, .tiles, .parts, .ls, .dram, .store, .loupe, .prism, .kal, .apt, .chan, .ing, .net, .mgt, .flt, .start, .port, .dbg, .pkg, .freeCount] s (execResetNLow s) := by
  delta execResetNLow
  with_reducible repeat' first
    | apply Answers.next | exact Touches.refl _ _ | (simp only [Touches.mk_iff]; refine TouchesParts.upd ?_)
    | apply Touches.via (State.deviceReset_touches ..)

theorem execPerstNRise_answers (s : State) :
    Answers [.pkg] s (execPerstNRise s) := by
  delta execPerstNRise
  with_reducible repeat' first
    | apply Answers.next | exact Touches.refl _ _ | (simp only [Touches.mk_iff]; refine TouchesParts.upd ?_)

theorem execHaltNRelease_answers (s : State) :
    Answers [.clock, .mgt] s (execHaltNRelease s) := by
  delta execHaltNRelease
  with_reducible repeat' first
    | apply Answers.next | exact Touches.refl _ _ | (simp only [Touches.mk_iff]; refine TouchesParts.upd ?_)
    | apply Touches.via (State.reach_touches ..) | split

theorem execActivationRelease_answers (s : State) :
    Answers [.rf, .parts, .dram, .store, .mgt, .flt, .start, .dbg, .freeCount, .out] s (execActivationRelease s) := by
  delta execActivationRelease
  with_reducible repeat' first
    | apply Answers.next | exact Touches.refl _ _ | apply Touches.via (State.modImage_touches ..)
    | apply Touches.via (State.refreshItems_touches ..) | apply Touches.via (State.releaseActivation_touches ..)
    | apply Touches.via (State.setBit_touches ..) | refine Touches.foldl _ ?_ ?_ | intro _ | extract_lets | split

theorem execGangPreemption_answers (jobId : Word) (s : State) :
    Answers [.rf, .tiles, .parts, .dram, .store, .chan, .ing, .mgt, .flt, .dbg, .freeCount, .out] s (execGangPreemption jobId s) := by
  delta execGangPreemption
  with_reducible repeat' first
    | apply Answers.next | exact Touches.refl _ _ | apply Touches.via (State.advanceBoundary_touches ..)
    | apply Touches.via (State.charge_touches ..) | apply Touches.via (State.mapTiles_touches ..)
    | apply Touches.via (State.modPart_touches ..) | apply Touches.via (State.recallCredits_touches ..)
    | apply Touches.via (State.saveAll_touches ..) | apply Touches.via (State.writeFlips_touches ..)
    | refine Touches.foldl _ ?_ ?_ | intro _ | extract_lets | split

theorem execRegistration_answers (chip : ChipId) (jobId : Word) (mode : Bool) (stepFrames : Word) (launching : Bool) (s : State) :
    Answers [.clock, .rf, .tiles, .parts, .ls, .dram, .store, .loupe, .prism, .chan, .mgt, .flt, .dbg, .pkg, .freeCount, .out] s (execRegistration chip jobId mode stepFrames launching s) := by
  delta execRegistration
  with_reducible repeat' first
    | apply Answers.next | exact Touches.refl _ _ | (simp only [Touches.mk_iff]; refine TouchesParts.upd ?_)
    | apply Touches.via (State.emit_touches ..) | apply Touches.via (State.notOwner_touches ..)
    | apply Touches.via (State.registerLaunch_touches ..) | apply Touches.via (State.setParent_touches ..)
    | extract_lets | split

theorem execWorkerReport_answers (chip : ChipId) (jobId : Word) (r : Report) (s : State) :
    Answers [.clock, .rf, .tiles, .parts, .ls, .dram, .store, .loupe, .prism, .chan, .mgt, .flt, .dbg, .pkg, .freeCount, .out] s (execWorkerReport chip jobId r s) := by
  delta execWorkerReport
  with_reducible repeat' first
    | apply Answers.next | exact Touches.refl _ _ | apply Touches.via (State.abandonJob_touches ..)
    | apply Touches.via (State.copyAgreed_touches ..) | apply Touches.via (State.emit_touches ..)
    | apply Touches.via (State.haltJob_touches ..) | apply Touches.via (State.launchRefused_touches ..)
    | apply Touches.via (State.modDm_touches ..) | apply Touches.via (State.notOwner_touches ..)
    | apply Touches.via (State.refuseLaunch_touches ..) | apply Touches.via (State.sendCount_touches ..)
    | apply Touches.via (State.tellWorkers_touches ..) | apply Touches.via (State.tryReform_touches ..)
    | refine Touches.foldl _ ?_ ?_ | intro _ | extract_lets | split

theorem execGtcReformLimit_answers (s : State) :
    Answers [.clock, .mgt, .freeCount, .out] s (execGtcReformLimit s) := by
  delta execGtcReformLimit
  with_reducible repeat' first
    | apply Answers.next | exact Touches.refl _ _ | (simp only [Touches.mk_iff]; refine TouchesParts.upd ?_)
    | apply Touches.via (State.emit_touches ..) | apply Touches.via (State.reach_touches ..)
    | apply Touches.via (State.tryReform_touches ..) | refine Touches.foldl _ ?_ ?_ | intro _ | split

theorem execHoldMinExpiry_answers (jobId : Word) (s : State) :
    Answers [.clock, .mgt, .out] s (execHoldMinExpiry jobId s) := by
  delta execHoldMinExpiry
  with_reducible repeat' first
    | apply Answers.next | exact Touches.refl _ _ | apply Touches.via (State.modDm_touches ..)
    | apply Touches.via (State.reach_touches ..) | apply Touches.via (State.tellWorkers_touches ..) | split

theorem execUartTxChar_answers (s : State) :
    Answers [.dbg, .out] s (execUartTxChar s) := by
  delta execUartTxChar
  with_reducible repeat' first
    | apply Answers.next | exact Touches.refl _ _ | (simp only [Touches.mk_iff]; refine TouchesParts.upd ?_)
    | apply Touches.via (State.emit_touches ..) | split

/-- What a command answers. -/
theorem exec_answers : ∀ (i : Instr) (s : State), Answers (Safety.touched i) s (exec i s)
  | .launchCount .., s => execLaunchCount_answers ..
  | .lockCheck .., s => execLockCheck_answers ..
  | .tick .., s => .next (State.tick_touches ..)
  | .lateDispatch .., s => execLateDispatch_answers ..
  | .frameClose .., s => execFrameClose_answers ..
  | .stepClose .., s => .next (State.closeStep_touches ..)
  | .ouuPass .., s => execOuuPass_answers ..
  | .ledgerRecord .., s => execLedgerRecord_answers ..
  | .checkpointCut .., s => execCheckpointCut_answers ..
  | .jobEnd .., s => execJobEnd_answers ..
  | .timeExchange .., s => execTimeExchange_answers ..
  | .holdover, s => execHoldover_answers ..
  | .reformPending, s => execReformPending_answers ..
  | .reform .., s => execReform_answers ..
  | .gtcReform, s => execGtcReform_answers ..
  | .periodWrite .., s => (execPeriodWrite_touches ..).answers rfl
  | .bundleRelease .., s => execBundleRelease_answers ..
  | .lineFetchArrive .., s => execLineFetchArrive_answers ..
  | .nop .., s => .next (.ite (State.issue_touches ..) (.refl ..))
  | .alu .., s => .next (State.row_touches ..)
  | .alui .., s => .next (State.row_touches ..)
  | .li .., s => .next (State.row_touches ..)
  | .lih .., s => .next (State.row_touches ..)
  | .cmp .., s => .next (State.row_touches ..)
  | .plog .., s => .next (State.row_touches ..)
  | .br .., s => .next (State.row_touches ..)
  | .loop .., s => .next (State.row_touches ..)
  | .call .., s => .next (State.row_touches ..)
  | .ret .., s => .next (State.row_touches ..)
  | .endf .., s => .next (State.row_touches ..)
  | .waitc .., s => .next (State.row_touches ..)
  | .waite .., s => .next (State.row_touches ..)
  | .semw .., s => .next (State.row_touches ..)
  | .sems .., s => .next (State.row_touches ..)
  | .fenceT .., s => .next (.ite (.refl ..) (State.row_touches ..))
  | .fenceC .., s => .next (.ite (State.row_touches ..) (.refl ..))
  | .fenceG .., s => .next (.ite (State.row_touches ..) (.refl ..))
  | .defp .., s => .next (State.row_touches ..)
  | .defd .., s => .next (State.row_touches ..)
  | .retd .., s => .next (State.row_touches ..)
  | .deferredReturn .., s => execDeferredReturn_answers ..
  | .dset .., s => .next (State.row_touches ..)
  | .dget .., s => .next (State.row_touches ..)
  | .mfs .., s => .next (State.row_touches ..)
  | .brk .., s => .next (State.row_touches ..)
  | .mma .., s => .next (State.row_touches ..)
  | .mmaDone .., s => .next (State.opDone_touches ..)
  | .mdrain .., s => .next (State.row_touches ..)
  | .mdrainDone .., s => .next (State.opDone_touches ..)
  | .varith .., s => .next (State.row_touches ..)
  | .vfma .., s => .next (State.row_touches ..)
  | .vbcast .., s => .next (State.row_touches ..)
  | .vred .., s => .next (State.row_touches ..)
  | .vsfu .., s => .next (State.row_touches ..)
  | .vcvt .., s => .next (State.row_touches ..)
  | .vld .., s => .next (State.row_touches ..)
  | .vst .., s => .next (State.row_touches ..)
  | .vrng .., s => .next (State.row_touches ..)
  | .s2Result .., s => execS2Result_answers ..
  | .vstDone .., s => .next (State.opDone_touches ..)
  | .vcvtMxDone .., s => .next (State.opDone_touches ..)
  | .dma .., s => .next (State.row_touches ..)
  | .dmaDone .., s => execDmaDone_answers ..
  | .krot .., s => .next (State.row_touches ..)
  | .pcol .., s => .next (State.row_touches ..)
  | .semr .., s => .next (State.row_touches ..)
  | .semrSent .., s => .next (State.opDone_touches ..)
  | .dld .., s => .next (State.row_touches ..)
  | .dstr .., s => .next (State.row_touches ..)
  | .ipf .., s => .next (State.row_touches ..)
  | .contribHeader .., s => .next (State.onHeader_touches ..)
  | .mismatchNotice .., s => .next (State.onMismatch_touches ..)
  | .anchorEc .., s => .next (State.onEc_touches ..)
  | .anchorReply .., s => .next (State.onReply_touches ..)
  | .contribution .., s => execContribution_answers ..
  | .deadline .., s => execDeadline_answers ..
  | .shardComplete .., s => execShardComplete_answers ..
  | .shardResult .., s => .next (State.onResult_touches ..)
  | .collectiveComplete .., s => execCollectiveComplete_answers ..
  | .barrierComplete .., s => execBarrierComplete_answers ..
  | .countExchange .., s => .next (State.onCount_touches ..)
  | .capacityNotice .., s => .next (State.onCapacity_touches ..)
  | .sourceResetNotice .., s => .next (State.peerFails_touches ..)
  | .failDeclaration .., s => .next (State.peerFails_touches ..)
  | .memberFailTimeout .., s => execMemberFailTimeout_answers ..
  | .gtwCommit .., s => (execGtwCommit_touches ..).answers rfl
  | .gtwInvalidate .., s => (execGtwInvalidate_touches ..).answers rfl
  | .gtwRead .., s => (execGtwRead_touches ..).answers rfl
  | .krotGrant .., s => execKrotGrant_answers ..
  | .krotData .., s => execKrotData_answers ..
  | .krotAck .., s => execKrotAck_answers ..
  | .krotTimeout .., s => execKrotTimeout_answers ..
  | .rtwCommit .., s => (execRtwCommit_touches ..).answers rfl
  | .rtwInvalidate .., s => (execRtwInvalidate_touches ..).answers rfl
  | .rtwRead .., s => (execRtwRead_touches ..).answers rfl
  | .ouuReload .., s => (execOuuReload_touches ..).answers rfl
  | .ouuTblWrite .., s => (execOuuTblWrite_touches ..).answers rfl
  | .frameDigestFinal .., s => execFrameDigestFinal_answers ..
  | .mirrorDigest .., s => execMirrorDigest_answers ..
  | .mirrorTimeout .., s => .next (State.loseMirror_touches ..)
  | .patrolScrub .., s => execPatrolScrub_answers ..
  | .aowRequest .., s => execAowRequest_answers ..
  | .aowDataPiece .., s => execAowDataPiece_answers ..
  | .aowInitDone .., s => execAowInitDone_answers ..
  | .aowCompletion .., s => execAowCompletion_answers ..
  | .aptCommit .., s => (execAptCommit_touches ..).answers rfl
  | .aptInvalidate .., s => (execAptInvalidate_touches ..).answers rfl
  | .aptRead .., s => (execAptRead_touches ..).answers rfl
  | .aptDrainTimeout, s => execAptDrainTimeout_answers ..
  | .granuleZeroDone, s => execGranuleZeroDone_answers ..
  | .doorbellSq .., s => (execDoorbellSq_touches ..).answers rfl
  | .doorbellCq .., s => (execDoorbellCq_touches ..).answers rfl
  | .doorbellLowHalf .., s => (execDoorbellLowHalf_touches ..).answers rfl
  | .commandFetch .., s => execCommandFetch_answers ..
  | .channelNop .., s => execChannelNop_answers ..
  | .flush .., s => execFlush_answers ..
  | .flushDone .., s => execFlushDone_answers ..
  | .launch .., s => execLaunch_answers ..
  | .start .., s => execStart_answers ..
  | .invoke .., s => execInvoke_answers ..
  | .stop .., s => execStop_answers ..
  | .groupWrite .., s => execGroupWrite_answers ..
  | .ringWrite .., s => execRingWrite_answers ..
  | .semSet .., s => execSemSet_answers ..
  | .copy .., s => execCopy_answers ..
  | .copyDone .., s => execCopyDone_answers ..
  | .ckptReq .., s => execCkptReq_answers ..
  | .cwCreate .., s => (execCwCreate_touches ..).answers rfl
  | .cwDestroy .., s => (execCwDestroy_touches ..).answers rfl
  | .cwRead .., s => (execCwRead_touches ..).answers rfl
  | .cwStop .., s => (execCwStop_touches ..).answers rfl
  | .cwResume .., s => (execCwResume_touches ..).answers rfl
  | .tCommit .., s => (execTCommit_touches ..).answers rfl
  | .tRead .., s => (execTRead_touches ..).answers rfl
  | .semSignalWrite .., s => (execSemSignalWrite_touches ..).answers rfl
  | .semSetWrite .., s => (execSemSetWrite_touches ..).answers rfl
  | .semrArrive .., s => execSemrArrive_answers ..
  | .flr .., s => execFlr_answers ..
  | .creditRecall .., s => execCreditRecall_answers ..
  | .fetch .., s => execFetch_answers ..
  | .extentEnd .., s => execExtentEnd_answers ..
  | .wsetCreate .., s => execWsetCreate_answers ..
  | .wsetBind .., s => execWsetBind_answers ..
  | .wsetUnbind .., s => execWsetUnbind_answers ..
  | .wsetFlip .., s => execWsetFlip_answers ..
  | .flipWordWrite .., s => .next (State.writeFlip_touches ..)
  | .wsetDestroy .., s => execWsetDestroy_answers ..
  | .keyLoad .., s => execKeyLoad_answers ..
  | .keyClear .., s => execKeyClear_answers ..
  | .linkTrain .., s => execLinkTrain_answers ..
  | .trainRetry .., s => execTrainRetry_answers ..
  | .laneFail .., s => execLaneFail_answers ..
  | .narrowRetrainDone .., s => execNarrowRetrainDone_answers ..
  | .rlmPoll .., s => execRlmPoll_answers ..
  | .flitReceive .., s => execFlitReceive_answers ..
  | .replayTimeout .., s => execReplayTimeout_answers ..
  | .packetReceive .., s => .next (State.packetIn_touches ..)
  | .linkCreditWatchdog .., s => execLinkCreditWatchdog_answers ..
  | .reserveRelease .., s => execReserveRelease_answers ..
  | .lnkRetrain .., s => (execLnkRetrain_touches ..).answers rfl
  | .clrLanes .., s => (execClrLanes_touches ..).answers rfl
  | .linkDisable .., s => (execLinkDisable_touches ..).answers rfl
  | .rlmEnable .., s => (execRlmEnable_touches ..).answers rfl
  | .qpCommit .., s => (execQpCommit_touches ..).answers rfl
  | .qpReset .., s => (execQpReset_touches ..).answers rfl
  | .qpRead .., s => (execQpRead_touches ..).answers rfl
  | .ethPacketReceive .., s => execEthPacketReceive_answers ..
  | .qpTimeout .., s => execQpTimeout_answers ..
  | .qpRateRise .., s => execQpRateRise_answers ..
  | .entdaa .., s => execEntdaa_answers ..
  | .rstdaa, s => execRstdaa_answers ..
  | .enec, s => execEnec_answers ..
  | .disec, s => execDisec_answers ..
  | .getpid, s => execGetpid_answers ..
  | .getbcr, s => .next (State.i3cAnswer_touches ..)
  | .getdcr, s => .next (State.i3cAnswer_touches ..)
  | .getstatus, s => execGetstatus_answers ..
  | .getmwl, s => execGetmwl_answers ..
  | .getmrl, s => execGetmrl_answers ..
  | .rstact .., s => execRstact_answers ..
  | .i3cUnsupportedCcc code, s => execI3cUnsupportedCcc_answers code s
  | .i3cPrivateWrite .., s => execI3cPrivateWrite_answers ..
  | .i3cPrivateRead .., s => execI3cPrivateRead_answers ..
  | .commit, s => execCommit_answers ..
  | .halt .., s => (execHalt_touches ..).answers rfl
  | .haltDriveEnd, s => execHaltDriveEnd_answers ..
  | .boardHalt, s => execBoardHalt_answers ..
  | .haltNLow, s => execHaltNLow_answers ..
  | .parentLost .., s => execParentLost_answers ..
  | .frameWatchdog .., s => execFrameWatchdog_answers ..
  | .channelWatchdog .., s => execChannelWatchdog_answers ..
  | .serviceCoreWatchdog .., s => execServiceCoreWatchdog_answers ..
  | .companionCoreWatchdog .., s => execCompanionCoreWatchdog_answers ..
  | .resetWatchdog, s => execResetWatchdog_answers ..
  | .computeReset .., s => execComputeReset_answers ..
  | .resetDrainTimeout, s => execResetDrainTimeout_answers ..
  | .dumpDone, s => execDumpDone_answers ..
  | .resetEnd, s => execResetEnd_answers ..
  | .memoryReset, s => execMemoryReset_answers ..
  | .hbmRetrainDone .., s => execHbmRetrainDone_answers ..
  | .controlReset, s => execControlReset_answers ..
  | .controlRestartDone, s => execControlRestartDone_answers ..
  | .wholeDeviceReset, s => execWholeDeviceReset_answers ..
  | .resetCompute .., s => (execResetCompute_touches ..).answers rfl
  | .resetMemory .., s => (execResetMemory_touches ..).answers rfl
  | .resetControl .., s => (execResetControl_touches ..).answers rfl
  | .resetDevice .., s => (execResetDevice_touches ..).answers rfl
  | .abandon .., s => execAbandon_answers ..
  | .warningReceive chip source, s => execWarningReceive_answers chip source s
  | .cutOrder .., s => execCutOrder_answers ..
  | .cutReport .., s => execCutReport_answers ..
  | .cutRelease .., s => execCutRelease_answers ..
  | .cutDrainDone .., s => execCutDrainDone_answers ..
  | .restoreDone .., s => execRestoreDone_answers ..
  | .admissionCopy .., s => execAdmissionCopy_answers ..
  | .resetNRise .., s => execResetNRise_answers ..
  | .chipReady, s => execChipReady_answers ..
  | .flashRelease, s => execFlashRelease_answers ..
  | .fuseArm .., s => (execFuseArm_touches ..).answers rfl
  | .fuseProgram .., s => (execFuseProgram_touches ..).answers rfl
  | .fuseProgramDone .., s => execFuseProgramDone_answers ..
  | .fuseRead .., s => (execFuseRead_touches ..).answers rfl
  | .imageStage .., s => (execImageStage_touches ..).answers rfl
  | .imageStageDone .., s => execImageStageDone_answers ..
  | .imageActivate .., s => (execImageActivate_touches ..).answers rfl
  | .activationSwap, s => execActivationSwap_answers ..
  | .activateCancel .., s => (execActivateCancel_touches ..).answers rfl
  | .registerWrite .., s => execRegisterWrite_answers ..
  | .rcRead .., s => execRcRead_answers ..
  | .registerStallTimeout .., s => execRegisterStallTimeout_answers ..
  | .glbStrobe .., s => execGlbStrobe_answers ..
  | .pwrApply .., s => (execPwrApply_touches ..).answers rfl
  | .pwrCfgWrite .., s => (execPwrCfgWrite_touches ..).answers rfl
  | .stagingWrite .., s => (execStagingWrite_touches ..).answers rfl
  | .blockEnableWrite .., s => (execBlockEnableWrite_touches ..).answers rfl
  | .mbxRequest .., s => (execMbxRequest_touches ..).answers rfl
  | .mbxServe .., s => execMbxServe_answers ..
  | .counterClear .., s => (execCounterClear_touches ..).answers rfl
  | .brkEnWrite .., s => (execBrkEnWrite_touches ..).answers rfl
  | .tileDebugHalt .., s => (execTileDebugHalt_touches ..).answers rfl
  | .tileDebugResume .., s => (execTileDebugResume_touches ..).answers rfl
  | .tileDebugStep .., s => (execTileDebugStep_touches ..).answers rfl
  | .uartRxChar .., s => execUartRxChar_answers ..
  | .uartTxWrite .., s => (execUartTxWrite_touches ..).answers rfl
  | .uartRxRead .., s => execUartRxRead_answers ..
  | .idcode, s => execIdcode_answers ..
  | .samplePreload .., s => execSamplePreload_answers ..
  | .extest, s => .next (State.modJtag_touches ..)
  | .clamp, s => .next (State.modJtag_touches ..)
  | .highz, s => .next (State.modJtag_touches ..)
  | .dtmcs, s => execDtmcs_answers ..
  | .dmi .., s => execDmi_answers ..
  | .bypass, s => execBypass_answers ..
  | .railMonitorTrip .., s => execRailMonitorTrip_answers ..
  | .refclkLoss, s => execRefclkLoss_answers ..
  | .refclkRestore, s => execRefclkRestore_answers ..
  | .thermalSample .., s => execThermalSample_answers ..
  | .thermalRelease, s => execThermalRelease_answers ..
  | .resetNLow, s => execResetNLow_answers ..
  | .perstNRise, s => execPerstNRise_answers ..
  | .haltNRelease, s => execHaltNRelease_answers ..
  | .activationRelease, s => execActivationRelease_answers ..
  | .gangPreemption .., s => execGangPreemption_answers ..
  | .registration .., s => execRegistration_answers ..
  | .workerReport .., s => execWorkerReport_answers ..
  | .gtcReformLimit, s => execGtcReformLimit_answers ..
  | .holdMinExpiry .., s => execHoldMinExpiry_answers ..
  | .uartTxChar, s => execUartTxChar_answers ..

/-- Settles O56: each command's lemma gives its frame. -/
theorem commandsTouchOnlyTheirComponents : Obligations.CommandsTouchOnlyTheirComponents := by
  unfold Obligations.CommandsTouchOnlyTheirComponents
  intro c s
  obtain ⟨t, answer, touches⟩ := exec_answers c s
  exact ⟨t, answer, touches.frame⟩

/-- Settles O55: an idle step keeps the canonical form by `idle_touches`, a command by its own lemma; the queue is in no part of it. -/
theorem stepKeepsTheCanonicalForm : Obligations.StepKeepsTheCanonicalForm := by
  unfold Obligations.StepKeepsTheCanonicalForm
  intro s canonical
  unfold step
  split
  case h_1 => exact ⟨idle s, rfl, (idle_touches s).canonical canonical⟩
  case h_2 c rest _ =>
    obtain ⟨t, answer, touches⟩ := exec_answers c { s with pending := rest }
    exact ⟨t, answer, touches.canonical canonical⟩

end Sys2Proof.Machine
end

section
/-!
PROOF. The queue and domain time (R23), the reset state (R342, R361), and the common commands of the sideband (R321-R324).
-/

-- One declaration after another: the package as one text then needs few threads at a time.
set_option Elab.async false

namespace Sys2Proof.Machine
open Sys2Proof.Safety

/-- A command that answers a state leaves what `touched` does not name. -/
theorem exec_frame {c : Instr} {s u : State} (acts : exec c s = .next u) : Frame (touched c) s u := by
  obtain ⟨t, answer, touches⟩ := exec_answers c s
  rw [acts] at answer
  cases answer
  exact touches.frame

/-! ### The queue and domain time (R23) -/

/-- What one nanosecond of a slew moves of the offset: at most one count in 20,000, and never past zero. -/
theorem Clock.slew_one_bounds (c : Clock) : ((c.slew 1).slewLeft - c.slewLeft).natAbs ≤ (c.slewAcc + 1) / 20000 ∧
    (c.slew 1).slewAcc < 20000 ∧ (c.slew 1).slewLeft.natAbs ≤ c.slewLeft.natAbs := by
  simp only [Clock.slew]
  have k := Nat.min_le_left ((c.slewAcc + 1) / 20000) c.slewLeft.natAbs
  have l := Nat.min_le_right ((c.slewAcc + 1) / 20000) c.slewLeft.natAbs
  generalize min ((c.slewAcc + 1) / 20000) c.slewLeft.natAbs = n at k l ⊢
  refine ⟨?_, Nat.mod_lt _ (by decide), ?_⟩ <;> split <;> omega

/-- With no offset left to slew, only the counts since the last nanosecond move. -/
theorem Clock.slew_of_zero {c : Clock} (done : c.slewLeft = 0) (n : Nat) :
    c.slew n = { c with slewAcc := (c.slewAcc + n) % 20000 } := by
  obtain ⟨gtc, left⟩ := c
  subst done
  simp [Clock.slew]

/-- An idle step of a chip that nothing holds counts one nanosecond. -/
theorem step_idle {s : State} (empty : s.pending = []) (up : s.pkg.heldBy = none) : step s = .next { s with
    clock := { s.clock.slew 1 with
      gtc := s.clock.gtc + 1 + BitVec.ofInt 64 (s.clock.slewLeft - (s.clock.slew 1).slewLeft) } } := by
  simp only [step, empty, idle, up]

/-- Settles O53: an idle step is `step_idle`, and what it slews is bounded by `Clock.slew_one_bounds`. -/
theorem stepRunsTheFrontCommand : Obligations.StepRunsTheFrontCommand := by
  unfold Obligations.StepRunsTheFrontCommand
  refine ⟨fun c q s front => by simp only [step, front], fun s empty up => ⟨fun done => ?_, ?_⟩, fun s empty held => ?_⟩
  · refine ⟨(s.clock.slewAcc + 1) % 20000, (step_idle empty up).trans ?_⟩
    rw [Clock.slew_of_zero done]
    simp
  · obtain ⟨moved, acc, left⟩ := s.clock.slew_one_bounds
    exact ⟨(s.clock.slew 1).slewLeft, (s.clock.slew 1).slewAcc, step_idle empty up, moved, acc, left⟩
  · obtain ⟨h, holds⟩ := Option.ne_none_iff_exists'.1 held
    simp only [step, empty, idle, holds]

/-! ### The sideband (R321, R322, R324) -/

/-- With ENEC in force a list of causes is raised, one after another. -/
theorem State.ibi_each {s : State} (enabled : s.mgt.ibiEnabled = true) (causes : List Byte) :
    causes.foldl State.ibi s = { s with out := s.out ++ causes.map .ibi } := by
  induction causes generalizing s with
  | nil => simp
  | cons cause causes ih =>
    have raised : s.ibi cause = s.emit (.ibi cause) := if_pos enabled
    rw [List.foldl_cons, raised, ih (s := s.emit (.ibi cause)) enabled]
    simp

/-- A directed read is answered by an addressed chip. -/
theorem State.i3cAnswer_addressed {s : State} (alive : s.i3cAlive = true) (addressed : s.mgt.i3cAddr.isSome = true)
    (bytes : List Byte) : s.i3cAnswer bytes = s.emit (.i3cData bytes) := by
  simp [State.i3cAnswer, State.i3cAddressed, alive, addressed]

/-- A directed read is not acknowledged by a chip without an address. -/
theorem State.i3cAnswer_unaddressed {s : State} (unaddressed : s.mgt.i3cAddr = none) (bytes : List Byte) :
    s.i3cAnswer bytes = s.emit .i3cNack := by
  simp [State.i3cAnswer, State.i3cAddressed, unaddressed]

theorem exec_entdaa_addressed {s : State} {b : BitVec 7} (addressed : s.mgt.i3cAddr = some b) (a : BitVec 7) :
    exec (.entdaa a) s = .next s :=
  if_pos (by simp [addressed])

section
variable {s : State} (alive : s.i3cAlive = true)
include alive

theorem exec_entdaa_unaddressed (unaddressed : s.mgt.i3cAddr = none) (a : BitVec 7) : exec (.entdaa a) s = .next
    (({ s with mgt := { s.mgt with i3cAddr := some a } } : State).emit (.i3cData (natToBe 6 s.provisionedId ++ [0x06, 0x00]))) :=
  if_neg (by simp [alive, unaddressed])

theorem exec_enec_alive : exec .enec s = .next { s with
    mgt := { s.mgt with ibiEnabled := true, ibiHeld := [] }
    out := s.out ++ (([0x01, 0x02, 0x03, 0x04, 0x05] : List Byte).filter s.mgt.ibiHeld.contains).map .ibi } :=
  (if_neg (by simp [alive])).trans (congrArg Host.Outcome.next (State.ibi_each rfl _))

theorem exec_getstatus_addressed (addressed : s.mgt.i3cAddr.isSome = true) : exec .getstatus s = .next
    (s.fresh.2.fresh.2.emit (.i3cData [if s.start.boot.failed then s.start.boot.codeB ++ s.start.boot.codeA
      else Config.i3cStatus s.fresh.2.fresh.1, Config.i3cStatus s.fresh.1])) :=
  exec_next rfl (State.i3cAnswer_addressed (s := s.fresh.2.fresh.2) alive addressed _)

end

/-- Settles O38: the broadcast commands by their own lemmas, the directed reads by `State.i3cAnswer`. -/
theorem sidebandCommonCommands : Obligations.SidebandCommonCommands := by
  unfold Obligations.SidebandCommonCommands
  intro s alive id
  refine ⟨fun a unaddressed => ?_, fun a b addressed => exec_entdaa_addressed addressed a, ?_, ?_, ?_, ?_,
    fun addressed => ?_, fun unaddressed => ?_⟩
  · have acts := exec_entdaa_unaddressed alive unaddressed a
    exact ⟨_, acts, rfl, rfl, exec_frame acts⟩
  · exact exec_next rfl (if_pos alive)
  · exact exec_next rfl (if_pos alive)
  · exact ⟨_, exec_enec_alive alive, rfl, exec_frame (exec_enec_alive alive), rfl⟩
  · exact fun code => exec_next rfl (if_pos alive)
  · have answer := State.i3cAnswer_addressed alive addressed
    have status := exec_getstatus_addressed alive addressed
    refine ⟨exec_next rfl (answer _), exec_next rfl (answer _), exec_next rfl (answer _), ⟨_, exec_next rfl (answer _)⟩,
      ⟨_, exec_next rfl (answer _)⟩, ⟨_, _, _, status, rfl, exec_frame status, fun failed => if_pos failed⟩,
      fun a => exec_next rfl (if_pos (by simp [State.i3cAddressed, alive, addressed]))⟩
  · have answer := State.i3cAnswer_unaddressed unaddressed
    exact ⟨exec_next rfl (answer _), exec_next rfl (answer _), exec_next rfl (answer _), exec_next rfl (answer _),
      exec_next rfl (answer _)⟩

/-! ### Reset -/

/-- Every channel entry is zero at reset. -/
theorem State.reset_chEntry (ch : Nat) : State.reset.chEntry ch = 0 := by
  have chans : State.reset.chan.chans = [] := rfl
  rw [State.chEntry, chans, Sparse.get_nil]
  exact BitVec.toNat_zero ..

/-- Settles O54: at reset every map is empty, and an unlisted key reads as its reset value. -/
theorem resetIsHeldEmptyAndCanonical : Obligations.ResetIsHeldEmptyAndCanonical := by
  unfold Obligations.ResetIsHeldEmptyAndCanonical
  refine ⟨rfl, rfl, rfl, rfl, rfl, rfl, rfl, fun p => rfl, fun ch => ?_, fun t => rfl, fun p => rfl⟩
  rw [State.reset_chEntry]
  decide

end Sys2Proof.Machine
end

section
/-!
PROOF. A channel that its watchdog stopped (R339, R251): what it keeps, and the resume that takes it up again.
-/

-- One declaration after another: the package as one text then needs few threads at a time.
set_option Elab.async false

namespace Sys2Proof.Machine
open Sys2Proof.Safety

/-! ### A channel entry in another state (Table 11.4) -/

/-- The field that is replaced reads as written. -/
theorem fld_setFld_self (w v : Nat) {hi lo : Nat} (ordered : lo ≤ hi) : fld (setFld w hi lo v) hi lo = v % 2 ^ (hi - lo + 1) := by
  apply Nat.eq_of_testBit_eq
  intro i
  rw [fld_testBit, Nat.testBit_mod_two_pow]
  by_cases inside : i < hi - lo + 1
  · rw [setFld_testBit _ _ _ ordered, if_pos (by omega), Nat.add_sub_cancel_left]
  · simp [inside]

/-- A field below the width of a word reads as in the number that the word is made of. -/
theorem fld_ofNat (w x : Nat) {hi lo : Nat} (inside : hi < w) (ordered : lo ≤ hi) :
    fld (BitVec.ofNat w x).toNat hi lo = fld x hi lo := by
  apply Nat.eq_of_testBit_eq
  intro i
  rw [fld_testBit, fld_testBit, BitVec.toNat_ofNat, Nat.testBit_mod_two_pow]
  by_cases below : i < hi - lo + 1
  · have : lo + i < w := by omega
    simp [below, this]
  · simp [below]

theorem State.chEntry_setCh_self (s : State) (ch e : Nat) : (s.setCh ch e).chEntry ch = (BitVec.ofNat 1024 e).toNat :=
  congrArg BitVec.toNat (Sparse.get_set_self ..)

theorem State.chEntry_setCh_ne (s : State) {ch k : Nat} (e : Nat) (other : k ≠ ch) : (s.setCh ch e).chEntry k = s.chEntry k :=
  congrArg BitVec.toNat (Sparse.get_set_ne _ _ _ other)

/-- The channel `ch` has gone from s to t into a state, with the rest of its entry, and all other channels, as they were. -/
structure Moved (s t : State) (ch st : Nat) : Prop where
  cmds : t.chan.cmds = s.chan.cmds
  self : t.chEntry ch = (BitVec.ofNat 1024 (withState (s.chEntry ch) st)).toNat
  others : ∀ k, k ≠ ch → t.chEntry k = s.chEntry k

theorem Moved.of_setCh {s u t : State} {ch st : Nat} (chan : u.chan = s.chan)
    (cmds : t.chan.cmds = (u.setCh ch (withState (s.chEntry ch) st)).chan.cmds)
    (chans : t.chan.chans = (u.setCh ch (withState (s.chEntry ch) st)).chan.chans) : Moved s t ch st where
  cmds := by rw [cmds, State.setCh, chan]
  self := by rw [State.chEntry, chans]; exact State.chEntry_setCh_self u ch _
  others k other := by
    rw [State.chEntry, chans]
    refine (State.chEntry_setCh_ne u _ other).trans ?_
    rw [State.chEntry, chan]; rfl

theorem Moved.fld {s t : State} {ch st : Nat} (moved : Moved s t ch st) {hi lo : Nat} (above : 2 < lo) (ordered : lo ≤ hi)
    (inside : hi < 1024) : Machine.fld (t.chEntry ch) hi lo = Machine.fld (s.chEntry ch) hi lo := by
  rw [moved.self, fld_ofNat _ _ inside ordered, withState, fld_setFld_apart _ _ (by decide) (by omega) ordered]

theorem Moved.state {s t : State} {ch st : Nat} (moved : Moved s t ch st) (small : st < 8) : chState (t.chEntry ch) = st := by
  rw [moved.self, chState, fld_ofNat _ _ (by decide) (by decide), withState, fld_setFld_self _ _ (by decide)]
  exact Nat.mod_eq_of_lt small

/-- What of the channels a move keeps. -/
theorem Moved.kept {s t : State} {ch st : Nat} (moved : Moved s t ch st) : t.cmdsOf ch = s.cmdsOf ch ∧
    cSqHead (t.chEntry ch) = cSqHead (s.chEntry ch) ∧ cSqTail (t.chEntry ch) = cSqTail (s.chEntry ch) ∧
    cCqHead (t.chEntry ch) = cCqHead (s.chEntry ch) ∧ cCqTail (t.chEntry ch) = cCqTail (s.chEntry ch) ∧
    ∀ k, k ≠ ch → t.chEntry k = s.chEntry k ∧ t.cmdsOf k = s.cmdsOf k := by
  have cmds (k : Nat) : t.cmdsOf k = s.cmdsOf k := congrArg (List.filter _) moved.cmds
  exact ⟨cmds ch, moved.fld (by decide) (by decide) (by decide), moved.fld (by decide) (by decide) (by decide),
    moved.fld (by decide) (by decide) (by decide), moved.fld (by decide) (by decide) (by decide),
    fun k other => ⟨moved.others k other, cmds k⟩⟩

/-- A channel that no fence hides shows its entry. -/
theorem State.chShown_of_unfenced {s : State} (unfenced : s.fenced = false) (ch : Nat) : s.chShown ch = s.chEntry ch := by
  unfold State.chShown
  exact if_neg (by simp [unfenced])

/-- The state in which a resume has taken a channel up again: its entry is e. -/
def State.resumed (s : State) (w ch e g : Nat) : State :=
  let u := (s.setCh ch e).cwResult w 0 0 g
  { u with chan := { u.chan with lastFetch := Sparse.set 0 u.chan.lastFetch ch u.now } }

theorem State.resumed_chan (s : State) (w ch e g : Nat) : (s.resumed w ch e g).chan.cmds = (s.setCh ch e).chan.cmds ∧
    (s.resumed w ch e g).chan.chans = (s.setCh ch e).chan.chans := by
  have same : ((s.setCh ch e).cwResult w 0 0 g).chan = (s.setCh ch e).chan :=
    (State.cwResult_touches ..).frame .chan (by decide)
  rw [← same]
  exact ⟨rfl, rfl⟩

/-- A resume through a window takes a STOPPED channel to ACTIVE. -/
theorem exec_cwResume_stopped {s : State} {path : Path} {ch : Nat} (opens : Opens s path (Reg.tenCwCmd (tenWindow path)))
    (idle : s.rdBit (Reg.tenCwStatus (tenWindow path)) 0 = false) (unfenced : s.fenced = false)
    (inside : (s.cwTarget path).2 < (s.tenant (s.cwTarget path).1).chCnt)
    (place : (s.tenant (s.cwTarget path).1).chBase + (s.cwTarget path).2 = ch) (stopped : chState (s.chEntry ch) = 2) :
    ∃ t, exec (.cwResume path) s = .next t ∧ Moved s t ch 1 := by
  subst place
  have shown := State.chShown_of_unfenced unfenced
  let ch := (s.tenant (s.cwTarget path).1).chBase + (s.cwTarget path).2
  refine ⟨s.resumed (tenWindow path) ch (withState (s.chEntry ch) 1) (cGen (s.chEntry ch)),
    exec_next rfl ((State.cw_open opens idle inside _).trans ?_), ?_⟩
  · dsimp only
    rw [shown, if_neg (by simp [stopped])]
    rfl
  · exact .of_setCh (u := s) rfl (State.resumed_chan ..).1 (State.resumed_chan ..).2

/-- Settles O58: the watchdog's command and the resume each move the channel, and a move keeps what the statement names. -/
theorem stoppedChannelKeepsItsCommands : Obligations.StoppedChannelKeepsItsCommands := by
  unfold Obligations.StoppedChannelKeepsItsCommands
  intro ch s up watched active waiting kept
  obtain ⟨n, r, -, acts⟩ := exec_channelWatchdog up watched active waiting
  let v := ((s.reach n).setBit Reg.fltEvent 2).logEvent r
  have chan : v.chan = s.chan := by simp [v]
  have stops : Moved s (v.setCh ch.val (withState (s.chEntry ch.val) 2)) ch.val 2 := .of_setCh chan rfl rfl
  have frame : Frame [.clock, .rf, .chan, .flt] s _ := exec_frame acts
  refine ⟨_, acts, stops.state (by decide), stops.kept, frame .parts (by decide), frame .tiles (by decide), ?_⟩
  intro path opens idle unfenced inside place
  obtain ⟨t, resumes, back⟩ := exec_cwResume_stopped opens idle unfenced inside place (stops.state (by decide))
  refine ⟨t, resumes, back.state (by decide), ?_⟩
  obtain ⟨c1, c2, c3, c4, c5, c6⟩ := stops.kept
  obtain ⟨d1, d2, d3, d4, d5, d6⟩ := back.kept
  exact ⟨d1.trans c1, d2.trans c2, d3.trans c3, d4.trans c4, d5.trans c5, fun k other =>
    ⟨(d6 k other).1.trans (c6 k other).1, (d6 k other).2.trans (c6 k other).2⟩⟩

end Sys2Proof.Machine
end

section
/-!
PROOF. The fuse commands (R373, R374, R376): arming, programming with its refusals, reading.
-/

-- One declaration after another: the package as one text then needs few threads at a time.
set_option Elab.async false

namespace Sys2Proof.Machine
open Sys2Proof.Safety

/-! ### Registers written one after another -/

/-- A register that none of the writes names reads as before. -/
theorem State.rd_foldl_wr_ne (place : Nat → Nat) (value : Nat → Word) {q : Nat} (l : List Nat) (s : State)
    (apart : ∀ n ∈ l, q ≠ place n) : (l.foldl (fun s n => s.wr (place n) (value n)) s).rd q = s.rd q := by
  induction l generalizing s with
  | nil => rfl
  | cons m l ih =>
    exact (ih _ fun n inside => apart n (.tail _ inside)).trans (State.rd_wr_ne _ _ (apart m (.head _)))

/-- A register that one of the writes names reads as written. -/
theorem State.rd_foldl_wr_self {place : Nat → Nat} (value : Nat → Word) (apart : ∀ i j, place i = place j → i = j) {n : Nat}
    (l : List Nat) (s : State) (inside : n ∈ l) : (l.foldl (fun s n => s.wr (place n) (value n)) s).rd (place n) = value n := by
  induction l generalizing s with
  | nil => cases inside
  | cons m l ih =>
    by_cases later : n ∈ l
    · exact ih _ later
    · obtain rfl | h := List.mem_cons.1 inside
      · refine (State.rd_foldl_wr_ne place value l _ fun k here same => later ?_).trans (State.rd_wr_self ..)
        rwa [apart _ _ same]
      · exact absurd h later

/-! ### Fuse commands (R373, R374) -/

theorem State.fuseResult_rdFld (s : State) (k : Nat) (small : k < 16) :
    (s.fuseResult k).rdFld Reg.otpFuseStatus 7 4 = k := by
  unfold State.fuseResult
  rw [State.rdFld_wrFld_self _ _ _ (by decide) (by decide)]
  exact Nat.mod_eq_of_lt small

/-- The state in which the programming of a slot has ended. -/
def State.burnt (s : State) (r g : Nat) (x : BitVec 1432) (intact : Bool) : State :=
  { s with start := { s.start with
      burn := none, fuses := Sparse.set none s.start.fuses (r * 4 + g) (some { payload := x, checkOk := intact }) } }

theorem State.burnt_fuseSlot_self (s : State) (r g : Nat) (x : BitVec 1432) (intact : Bool) :
    (s.burnt r g x intact).fuseSlot r g = some { payload := x, checkOk := intact } := by
  simp [State.fuseSlot, State.burnt]

theorem State.burnt_fuseSlot_ne (s : State) {r g q h : Nat} (x : BitVec 1432) (intact : Bool) (other : q * 4 + h ≠ r * 4 + g) :
    (s.burnt r g x intact).fuseSlot q h = s.fuseSlot q h := by
  simp [State.fuseSlot, State.burnt, other]

/-- Settles O46: each refusal is a branch of the command; a slot's programming and a record's reading write what they say. -/
theorem fuseCommandsArmProgramAndRead : Obligations.FuseCommandsArmProgramAndRead := by
  unfold Obligations.FuseCommandsArmProgramAndRead
  refine ⟨fun path key s opens => exec_next rfl (State.via_open opens _), ?_, ?_⟩
  · intro path s opens r new u refused
    have program : exec (.fuseProgram path) s = .next _ := exec_next rfl (State.via_open opens _)
    have read : exec (.fuseRead path) s = .next _ := exec_next rfl (State.via_open opens _)
    refine ⟨fun burns => ⟨exec_next program (if_pos burns), exec_next read (if_pos burns)⟩, ?_⟩
    intro quiet
    have idle : ¬ s.start.burn.isSome = true := by simp [quiet]
    replace program := exec_next program (if_neg idle)
    replace read := exec_next read (if_neg idle)
    have passed {b : Bool} (holds : b = true) : ¬ (!b) = true := by simp [holds]
    have known (legal : r < 6) : ¬ 6 ≤ r := Nat.not_le.2 legal
    have unarmed (legal : r < 6) (late : s.start.armed.any (fun t => decide (s.since t ≤ 1000000)) = false) : refused 1 :=
      exec_next (exec_next program (if_neg (known legal))) (if_pos (by simp [late]))
    refine ⟨fun high => exec_next program (if_pos high), fun legal none => unarmed legal (by simp [none]),
      fun t legal some late => unarmed legal (by simp [some]; omega), ?_, ?_⟩
    · intro t legal some soon
      have armed : s.start.armed.any (fun t => decide (s.since t ≤ 1000000)) = true := by simp [some, soon]
      replace program := exec_next (exec_next program (if_neg (known legal))) (if_neg (by simp [armed]))
      have room (space : s.nextSlot r < 4) := exec_next program (if_neg (Nat.not_le.2 space))
      have record (space : s.nextSlot r < 4) (other : r ≠ 0) := exec_next (room space) (if_neg other)
      refine ⟨fun full => exec_next program (if_pos full), fun space first => exec_next (room space) (if_pos first), ?_, ?_, ?_⟩
      · exact fun space other rule => exec_next (record space other) (if_pos (congrArg not rule))
      · exact fun space other rule root => exec_next (exec_next (record space other) (if_neg (passed rule)))
          (if_pos (congrArg not root))
      · exact fun space other rule root => exec_next (exec_next (record space other) (if_neg (passed rule)))
          (if_neg (passed root))
    · intro legal
      replace read := exec_next read (if_neg (known legal))
      have frame : Frame [.rf] s _ := ((execFuseRead_touches path s).of _ read).frame
      refine ⟨_, read, State.fuseResult_rdFld _ _ (by decide), frame, fun n inside => ?_⟩
      refine (State.rd_wrFld_ne _ _ _ _ (by simp only [Reg.otpStage, Reg.otpFuseStatus]; omega)).trans ?_
      exact State.rd_foldl_wr_self _ (fun i j same => by simp only [Reg.otpStage] at same; omega) _ _ (List.mem_range.2 inside)
  · intro r g x s burns legal low
    have burnt (intact : Bool) : exec (.fuseProgramDone intact) s = .next (if intact then
        ((s.burnt r g x intact).fuseResult 0).setBit Reg.otpEvent 4 else (s.burnt r g x intact).fuseResult 6) := by
      change execFuseProgramDone intact s = _
      unfold execFuseProgramDone
      rw [burns]
      rfl
    constructor
    · have frame : Frame [.rf, .start] s _ := exec_frame (burnt true)
      exact ⟨_, burnt true, rfl, (State.rdFld_setBit_ne _ _ _ _ (by decide)).trans (State.fuseResult_rdFld _ _ (by decide)),
        by simp [State.rdBit_setBit], s.burnt_fuseSlot_self r g x true, frame⟩
    · refine ⟨_, burnt false, rfl, State.fuseResult_rdFld _ _ (by decide), s.burnt_fuseSlot_self r g x false, fun q h _ low' other => ?_⟩
      exact s.burnt_fuseSlot_ne x false (by omega)
end Sys2Proof.Machine
end

section
/-!
PROOF. Images (R370-R372): staging, activation half by half, release and cancel.
-/

-- One declaration after another: the package as one text then needs few threads at a time.
set_option Elab.async false

namespace Sys2Proof.Machine
open Sys2Proof.Safety

/-- A change of partitions one after another: each one changed has what the change gives every partition. -/
theorem State.part_foldl_modPart {P : Part → Prop} {f : Part → Part} (gives : ∀ x, P (f x)) (p : Nat) :
    ∀ (l : List Nat) (s : State), p ∈ l ∨ P (s.part p) → P ((l.foldl (fun s p => s.modPart p f) s).part p)
  | [], _, h => h.resolve_left (by simp)
  | q :: l, s, h => State.part_foldl_modPart gives p l _ (by
    by_cases same : p = q
    · subst same
      exact .inr (by simpa using gives _)
    · rw [State.part_modPart_ne s f same]
      simpa [same] using h)

/-! ### Staging and activation of an image (R370-R372) -/

theorem State.releaseActivation_part (s : State) {p : Nat} (inside : p < 8) :
    (s.releaseActivation.part p).holdActivation = false :=
  State.part_foldl_modPart (P := fun x => x.holdActivation = false) (fun _ => rfl) p _ s (.inl (List.mem_range.2 inside))

theorem State.releaseActivation_image (s : State) : s.releaseActivation.start.image = s.start.image :=
  congrArg (·.image) ((State.releaseActivation_touches s).frame .start (by decide))

/-- STAGE: an image is refused at the check that fails first, else its programming begins. -/
theorem execImageStage_open {path : Path} {s : State} (opens : Opens s path Reg.otpImgCmd)
    (idle : s.start.image.busy = false) :
    let v := s.meet 0 s.imageAddr 4096
    (s.tenBytes 0 s.imageAddr 4096 = none → exec (.imageStage path) s = .next (v.imageResult 11)) ∧
    ∀ h, s.tenBytes 0 s.imageAddr 4096 = some h →
      (v.highestValid 0 = none ∨ v.highestValid 3 = none → exec (.imageStage path) s = .next (v.imageResult 8)) ∧
      (v.highestValid 0 ≠ none → v.highestValid 3 ≠ none → headerOk h = false →
        exec (.imageStage path) s = .next (v.imageResult 2)) ∧
      (v.highestValid 0 ≠ none → v.highestValid 3 ≠ none → headerOk h = true →
        let n := max 4096 (leAt h 8 4)
        let w := v.meet 0 s.imageAddr n
        (v.tenBytes 0 s.imageAddr n = none → exec (.imageStage path) s = .next (w.imageResult 11)) ∧
        ∀ img, v.tenBytes 0 s.imageAddr n = some img →
          let c := imageCode (w.latestFuse 3) (fld (w.latestFuse 5) 15 0) img
          (c ≠ 0 → exec (.imageStage path) s = .next (w.imageResult c)) ∧
          (c = 0 → exec (.imageStage path) s = .next (w.modImage fun g => { g with busy := true, image := img }))) := by
  intro v
  have stage : exec (.imageStage path) s = .next _ :=
    exec_next (exec_next rfl (State.via_open opens _)) (if_neg (by simp [idle]))
  dsimp only at stage
  refine ⟨fun unread => by rw [stage, unread], fun h head => ?_⟩
  rw [head] at stage
  dsimp only at stage
  refine ⟨fun rootless => exec_next stage (if_pos (by simpa using rootless)), ?_⟩
  have rooted (id : v.highestValid 0 ≠ none) (root : v.highestValid 3 ≠ none) := exec_next stage (if_neg (by simp [id, root, v]))
  refine ⟨fun id root header => exec_next (rooted id root) (if_pos (by simp [header])), ?_⟩
  intro id root header n w
  have whole := exec_next (rooted id root) (if_neg (by simp [header]))
  refine ⟨fun unread => by rw [whole, unread], ?_⟩
  intro img read c
  rw [read] at whole
  exact ⟨fun fails => exec_next whole (if_pos (by simpa using fails)), fun passes => exec_next whole (if_neg (by simpa using passes))⟩

theorem execImageActivate_open {path : Path} {s : State} (opens : Opens s path Reg.otpImgCmd) (idle : s.start.image.busy = false) :
    let g := s.start.image
    (g.staged = false → exec (.imageActivate path) s = .next (s.imageResult 9)) ∧
    (g.staged = true → linksItem g.image ≠ s.start.boot.links → exec (.imageActivate path) s = .next (s.imageResult 10)) ∧
    (g.staged = true → linksItem g.image = s.start.boot.links → g.pending = false →
      exec (.imageActivate path) s = .next ((s.modImage fun g => { g with pending := true, swapped := 0 }).imageResult
        0).holdIdle) := by
  have activate : exec (.imageActivate path) s = .next _ :=
    exec_next (exec_next rfl (State.via_open opens _)) (if_neg (by simp [idle]))
  have links (staged : s.start.image.staged = true) := exec_next activate (if_neg (by simp [staged]))
  refine ⟨fun unstaged => exec_next activate (if_pos (by simp [unstaged])),
    fun staged differ => exec_next (links staged) (if_pos (by simpa using differ)), fun staged same first => ?_⟩
  exact exec_next (exec_next (links staged) (if_neg (by simpa using same))) (if_neg (by simp [first]))

theorem exec_imageStageDone {s : State} (busy : s.start.image.busy = true) :
    let slot := !s.start.boot.slotB
    let v := (s.flashErase (slotBase slot) maxImage).modImage fun g => { g with busy := false }
    exec (.imageStageDone true) s = .next ((((v.flashWrite (slotBase slot) v.start.image.image).writeBcb slot true 0).modImage
      fun g => { g with staged := true, slotB := slot }).imageResult 0) ∧
    ∃ bytes : List Byte, bytes.length = 4096 ∧ exec (.imageStageDone false) s =
      .next ((v.fresh.2.flashWrite (slotBase slot) bytes).imageResult 12) := by
  have running : ¬ (!s.start.image.busy) = true := by simp [busy]
  exact ⟨if_neg running, _, by rw [List.length_map, List.length_range], if_neg running⟩

theorem exec_activationSwap {s : State} (pending : s.start.image.pending = true)
    (held : s.partList.all s.heldForActivation = true) (quiet : s.quiesced = true) :
    (s.start.image.swapped = 0 → exec .activationSwap s = .next (s.modImage fun g => { g with swapped := 1 })) ∧
    (s.start.image.swapped = 1 →
      let img := s.start.image.image
      let v := (s.modImage fun g => { g with swapped := 2 }).modBoot fun b => { b with
        fwver := BitVec.ofNat 64 (leAt img 0x10 8), svn := BitVec.ofNat 16 (leAt img 0xC 2),
        rver := BitVec.ofNat 4 (leAt img 0x18 1) }
      exec .activationSwap s = .next (if BitVec.ofNat 4 (leAt img 0x18 1) = s.start.boot.rver then v else v.fenceVersions)) := by
  have swap (early : s.start.image.swapped < 2) : exec .activationSwap s = _ := if_neg (by simp [pending, held, quiet, early])
  exact ⟨fun none => (swap (by omega)).trans (if_pos none), fun one => (swap (by omega)).trans (if_neg (by omega))⟩

theorem exec_activationRelease {s : State} (pending : s.start.image.pending = true) (swapped : s.start.image.swapped = 2) :
    ∃ u, exec .activationRelease s = .next u ∧ u.start.image.pending = false ∧ u.start.image.swapped = 0 ∧
      u.rdBit Reg.otpEvent 3 = true ∧ ∀ p, p < 8 → (u.part p).holdActivation = false := by
  have release : exec .activationRelease s = .next _ := if_neg (by simp [pending, swapped])
  refine ⟨_, release, ?_, ?_, ?_, fun p inside => ?_⟩
  · simp [State.releaseActivation_image, State.modImage]
  · simp [State.releaseActivation_image, State.modImage]
  · simp [State.rdBit_setBit]
  · rw [State.setBit_part]
    exact State.releaseActivation_part _ inside

/-- Settles O47: each clause is a branch of its command. -/
theorem imagesAreStagedAndActivated : Obligations.ImagesAreStagedAndActivated := by
  unfold Obligations.ImagesAreStagedAndActivated
  refine ⟨?_, fun s busy => exec_imageStageDone busy,
    fun s pending held quiet => exec_activationSwap pending held quiet, fun s pending swapped => exec_activationRelease pending swapped⟩
  intro path s opens g
  have cancel : exec (.activateCancel path) s = .next _ := exec_next rfl (State.via_open opens _)
  refine ⟨fun busy => ⟨exec_next (exec_next rfl (State.via_open opens _)) (if_pos busy),
    exec_next (exec_next rfl (State.via_open opens _)) (if_pos busy)⟩, fun idle => (execImageStage_open opens idle).1,
    fun h idle => (execImageStage_open opens idle).2 h, fun idle => (execImageActivate_open opens idle).1,
    fun idle => (execImageActivate_open opens idle).2.1, fun idle => (execImageActivate_open opens idle).2.2,
    fun pending unswapped => exec_next cancel (if_neg (by simp_all [g])), fun pending swapped => exec_next cancel (if_pos (by simp_all [g]))⟩

end Sys2Proof.Machine
end

section
/-!
PROOF. The whole-device reset (R342, R21, R230, R365): what it keeps, and what ends it.
-/

-- One declaration after another: the package as one text then needs few threads at a time.
set_option Elab.async false

namespace Sys2Proof.Machine
open Sys2Proof.Safety

/-! ### The whole-device reset (R342) -/

/-- A byte that the reset keeps reads as before, any other as zero. -/
theorem State.deviceReset_dram (s : State) (h : Option HeldBy) (da : Nat) :
    Sparse.get 0 (s.deviceReset h).mem.dram da = if keptAcross da then Sparse.get 0 s.mem.dram da else 0 := by
  have dram : (s.deviceReset h).mem.dram = s.mem.dram.filter fun e => keptAcross e.1 := rfl
  rw [dram, Sparse.get, Sparse.find_filter_ne]
  split <;> rfl

theorem keptAcross_iff (da : Nat) :
    keptAcross da = true ↔ 0xBF80000000 ≤ da ∧ da < 0xBFA0000000 ∨ isHbm da = false := by
  simp [keptAcross]

/-- The fuses of a reset that interrupts no programming. -/
theorem State.deviceReset_fuseSlot {s : State} (quiet : s.start.burn = none) (h : Option HeldBy) (r g : Nat) :
    (s.deviceReset h).fuseSlot r g = s.fuseSlot r g := by
  simp [State.fuseSlot, State.deviceReset, quiet, State.fresh]

/-- Settles O44: the commands by what holds the chip; what a reset keeps is what `deviceReset` copies. -/
theorem wholeDeviceResetKeepsFusesFlashAndDump : Obligations.WholeDeviceResetKeepsFusesFlashAndDump := by
  unfold Obligations.WholeDeviceResetKeepsFusesFlashAndDump
  refine ⟨fun s up => ⟨?_, fun path opens => exec_next rfl (State.via_open opens _), fun k => ?_, ?_⟩, fun _ _ => rfl,
    fun _ => rfl, fun _ => rfl, fun s held => ⟨?_, ?_⟩, fun s held => ?_, fun h s => ?_⟩
  · change execWholeDeviceReset s = _
    rw [execWholeDeviceReset, up]
  · change execRailMonitorTrip k s = _
    rw [execRailMonitorTrip, up]
    simp
  · change execRefclkLoss s = _
    rw [execRefclkLoss, up]
  · change execResetNRise true s = _
    rw [execResetNRise, held]
    rfl
  · change execResetNRise false s = _
    rw [execResetNRise, held]
    rfl
  · change execRefclkRestore s = _
    rw [execRefclkRestore, held]
  · refine ⟨rfl, rfl, rfl, rfl, rfl, rfl, rfl, rfl, rfl, fun r g quiet => State.deviceReset_fuseSlot quiet h r g, fun da => ?_⟩
    rw [State.deviceReset_dram]
    simp only [keptAcross_iff]

end Sys2Proof.Machine
end

section
/-!
PROOF. Start-up (R361-R368): the choice of an image, two slots that fail, and the report of readiness.
-/

-- One declaration after another: the package as one text then needs few threads at a time.
set_option Elab.async false

namespace Sys2Proof.Machine
open Sys2Proof.Safety

/-! ### Start-up (R363-R367) -/

/-- What the console is told changes nothing else. -/
theorem State.console_kept {α : Type} (read : State → α) (kept : ∀ (s : State) (o : Out), read (s.emit o) = read s) (l : List Byte) (s : State) :
    read (l.foldl (fun s c => s.emit (.console c)) s) = read s := by
  induction l generalizing s with
  | nil => rfl
  | cons c l ih => exact (ih _).trans (kept _ _)

/-- A start-up with a valid identity and roots and a flash that answers, in no trial: the preferred slot, else the other one. -/
theorem State.startUp_tries {s : State} (id : s.highestValid 0 ≠ none) (roots : s.highestValid 3 ≠ none) (flash : s.start.sfdp = true) :
    let v := (s.readFuses.modBoot fun b => { b with stage := 3, slowFlash := !s.start.octal }).setBit Reg.memStatus 2
    v.bcb.trial = false →
    let code := fun x => imageCode (v.latestFuse 3) v.minSvn (v.slotImage x)
    (code v.bcb.pref = 0 → s.startUp = v.startFirmware v.bcb.pref false false (0, 0)) ∧
    (code v.bcb.pref ≠ 0 → code (!v.bcb.pref) = 0 → s.startUp = v.startFirmware (!v.bcb.pref) true false
      (if v.bcb.pref then (0, code true) else (code false, 0))) ∧
    (code true ≠ 0 → code false ≠ 0 → s.startUp = v.bootFailed (code false) (code true)) := by
  intro v trial code
  have start : s.startUp = _ := (if_neg (by
    change ¬ ((s.highestValid 0).isNone || (s.highestValid 3).isNone) = true
    simp [id, roots])).trans (if_neg (by
    change ¬ (!s.start.sfdp) = true
    simp [flash]))
  have octal : s.readFuses.start.octal = s.start.octal := rfl
  have tries : s.startUp = if code v.bcb.pref = 0 then v.startFirmware v.bcb.pref false false (0, 0) else
      let codes := if v.bcb.pref then (code (!v.bcb.pref), code v.bcb.pref) else (code v.bcb.pref, code (!v.bcb.pref))
      if code (!v.bcb.pref) = 0 then v.startFirmware (!v.bcb.pref) true false codes else v.bootFailed codes.1 codes.2 := by
    simp only [octal] at start
    simp only [v] at trial
    rw [start]
    simp [trial, code, v]
  clear start octal
  clear_value code v
  refine ⟨fun good => tries.trans (if_pos good), fun bad good => ?_, fun badB badA => ?_⟩
  · rw [tries, if_neg bad]
    cases slot : v.bcb.pref <;> rw [slot] at good
    all_goals rw [if_pos (by simpa using good)]; simp_all
  · cases slot : v.bcb.pref <;> rw [slot] at tries
    · exact tries.trans ((if_neg badA).trans (if_neg badB))
    · exact tries.trans ((if_neg badB).trans (if_neg badA))

/-- Two slots that fail leave their codes, and ALL_ZERO clear. -/
theorem State.bootFailed_codes (a b : Nat) (s : State) (lowA : a < 16) (lowB : b < 16) :
    (s.bootFailed a b).start.boot.failed = true ∧ (s.bootFailed a b).start.boot.codeA.toNat = a ∧
    (s.bootFailed a b).start.boot.codeB.toNat = b ∧ (s.bootFailed a b).rdBit Reg.memStatus 2 = false := by
  let v := (s.modBoot fun x => { x with failed := true, codeA := BitVec.ofNat 4 a, codeB := BitVec.ofNat 4 b }).clrBit Reg.memStatus 2
  have start : (s.bootFailed a b).start = v.start := State.console_kept (·.start) (fun _ _ => rfl) _ v
  have bit : (s.bootFailed a b).rdBit Reg.memStatus 2 = v.rdBit Reg.memStatus 2 :=
    State.console_kept (·.rdBit Reg.memStatus 2) (fun _ _ => rfl) _ v
  rw [start, bit]
  refine ⟨rfl, ?_, ?_, by simp [v, State.rdBit_clrBit]⟩
  · exact (BitVec.toNat_ofNat ..).trans (Nat.mod_eq_of_lt lowA)
  · exact (BitVec.toNat_ofNat ..).trans (Nat.mod_eq_of_lt lowB)

/-- A chip that is committed and has tried its links reports ready; no trial is on. -/
theorem exec_chipReady {s : State} (firmware : s.start.boot.firmware = true) (committed : s.committed = true)
    (first : s.rdBit Reg.glbStatus 2 = false) (tried : s.linksTried = true) (trial : s.bcb.trial = false) :
    let v := (s.setBit Reg.otpBootStatus 3).setBit Reg.glbStatus 2
    let v := if s.rd Reg.glbBlkEn = 0x3FFFF then v.clrBit Reg.glbCtrl 0 else v
    let v := ((v.modBoot fun b => { b with stage := 8 }).ibi 0x01).assignRoles true
    exec .chipReady s = .next (if v.isDm then v else v.emit (.toChip (BitVec.ofNat 14 (v.rdFld Reg.mgtParent 13 0)) "REGISTER"
      [v.self.toNat])) := by
  have ready : exec .chipReady s = _ := if_neg (by simp [firmware, committed, first, tried])
  have image : ((s.setBit Reg.otpBootStatus 3).setBit Reg.glbStatus 2).bcb.trial = false := trial
  have blocks : ((s.setBit Reg.otpBootStatus 3).setBit Reg.glbStatus 2).rd Reg.glbBlkEn = s.rd Reg.glbBlkEn := by
    rw [State.rd_setBit_ne _ _ (by decide), State.rd_setBit_ne _ _ (by decide)]
  simp only [image, Bool.false_eq_true, if_false, blocks] at ready
  exact ready

/-- Settles O45: the slots are tried in order, and readiness is one branch. -/
theorem startUpChoosesAnImageAndReportsReady : Obligations.StartUpChoosesAnImageAndReportsReady := by
  unfold Obligations.StartUpChoosesAnImageAndReportsReady
  refine ⟨fun s without => ?_, fun a b s lowA lowB => ?_, fun s id roots flash => State.startUp_tries id roots flash,
    fun s firmware committed first tried trial => exec_chipReady firmware committed first tried trial, fun s failed => ?_⟩
  · refine if_pos ?_
    change ((s.highestValid 0).isNone || (s.highestValid 3).isNone) = true
    simpa using without
  · obtain ⟨failed, codeA, codeB, zero⟩ := State.bootFailed_codes a b s lowA lowB
    exact ⟨failed, codeA, codeB, zero, (State.bootFailed_touches s a b).frame⟩
  · change execFlashRelease s = _
    rw [execFlashRelease, if_pos failed]

end Sys2Proof.Machine
end

section
/-!
PROOF. The memory-domain and the control-domain reset (R330, R331, R344-R346): their start, and what follows their end.
-/

-- One declaration after another: the package as one text then needs few threads at a time.
set_option Elab.async false

namespace Sys2Proof.Machine
open Sys2Proof.Safety

/-- A field that is written with a value which fits it reads as that value. -/
theorem State.rdFld_wrFld_fits (s : State) (p v : Nat) {hi lo : Nat} (ordered : lo ≤ hi) (inside : hi < 32)
    (fits : v < 2 ^ (hi - lo + 1)) : (s.wrFld p hi lo v).rdFld p hi lo = v :=
  (State.rdFld_wrFld_self s p v ordered inside).trans (Nat.mod_eq_of_lt fits)

/-! ### The memory-domain reset (R344, R359) -/

theorem State.rd_restPhase_ne (s : State) {q : Nat} (other : q ≠ Reg.fltStatus) : s.restPhase.rd q = s.rd q :=
  State.rd_wrFld_ne _ _ _ _ other

theorem State.rdBit_restPhase_ne (s : State) {q : Nat} (i : Nat) (other : q ≠ Reg.fltStatus) :
    s.restPhase.rdBit q i = s.rdBit q i :=
  State.rdBit_wrFld_ne _ _ _ _ _ other

/-- A memory-domain reset shows its phase and its scope, after its record and its count. -/
theorem State.startMemReset_eq {s : State} (up : s.flt.memReset = false) (k : Nat) : ∃ v : State, v.mem = s.mem ∧
    s.startMemReset k = { (v.wrFld Reg.fltStatus 2 0 5).wrFld Reg.fltStatus 10 8 2 with flt := { v.flt with memReset := true } } := by
  obtain ⟨events, seq, held, eq⟩ := s.logEvent_eq { kind := 2, source := k, action := 2 }
  refine ⟨(s.logEvent { kind := 2, source := k, action := 2 }).bumpFld Reg.fltResetCnt 23 16 1, ?_, if_neg (by simp [up])⟩
  rw [eq]
  rfl

theorem State.startMemReset_shows {s : State} (up : s.flt.memReset = false) (k : Nat) :
    (s.startMemReset k).flt.memReset = true ∧ (s.startMemReset k).rdFld Reg.fltStatus 2 0 = 5 ∧
    (s.startMemReset k).rdFld Reg.fltStatus 10 8 = 2 ∧ (s.startMemReset k).mem = s.mem := by
  obtain ⟨v, mem, begins⟩ := State.startMemReset_eq up k
  rw [begins]
  refine ⟨rfl, ?_, ?_, by simpa using mem⟩
  · change ((v.wrFld Reg.fltStatus 2 0 5).wrFld Reg.fltStatus 10 8 2).rdFld Reg.fltStatus 2 0 = 5
    rw [State.rdFld_wrFld_apart _ _ _ (by decide) (by decide) (by decide) (by decide)]
    exact State.rdFld_wrFld_fits _ _ _ (by decide) (by decide) (by decide)
  · change ((v.wrFld Reg.fltStatus 2 0 5).wrFld Reg.fltStatus 10 8 2).rdFld Reg.fltStatus 10 8 = 2
    exact State.rdFld_wrFld_fits _ _ _ (by decide) (by decide) (by decide)

/-- A retrain that succeeds, with no write confirmed, ends the reset. -/
theorem exec_hbmRetrainDone {s : State} (runs : s.flt.memReset = true) :
    (∃ u, exec (.hbmRetrainDone true []) s = .next u ∧ u.flt.memReset = false ∧ u.rdBit Reg.fltCtrl 1 = false ∧
      Frame [.rf, .flt] s u) ∧
    ∀ l, exec (.hbmRetrainDone false l) s = .next (s.escalate (Config.resetSource 3).toNat) := by
  have busy : ¬ (!s.flt.memReset) = true := by simp [runs]
  let v := { s with flt := { s.flt with memReset := false } }.clrBit Reg.fltCtrl 1
  have ends : exec (.hbmRetrainDone true []) s = .next v.restPhase := (if_neg busy).trans rfl
  refine ⟨⟨_, ends, rfl, ?_, ?_⟩, fun l => (if_neg busy).trans rfl⟩
  · rw [State.rdBit_restPhase_ne _ _ (by decide), State.rdBit_clrBit _ _ _ (by decide)]
    simp
  · exact Touches.frame (.via (State.restPhase_touches _) (.via (State.clrBit_touches ..) (.mono (s.setFlt_touches _))))

/-! ### The control-domain reset (R345, R330, R331) -/

/-- The roles that pass: to the standby's chip, or to none. -/
theorem State.passRoles_mgt (s : State) : s.passRoles.mgt = if !s.isDm then s.mgt
    else if s.rdBit Reg.mgtDm 30 && !s.mgt.dmIsStandby then { s.mgt with dmIsStandby := true }
    else { s.mgt with noDm := true } := by
  unfold State.passRoles
  split
  · rfl
  · split <;> rfl

/-- No manager role is left to the chip. -/
theorem State.passRoles_bit (s : State) {i : Nat} (role : i = 17 ∨ i = 18 ∨ i = 19) : s.passRoles.rdBit Reg.mgtStatus i = false := by
  unfold State.passRoles
  have low : i < 32 := by omega
  simp only [State.rdBit_clrBit _ _ _ low]
  obtain rfl | rfl | rfl := role <;> simp

theorem State.passRoles_parent {s : State} (dm : s.isDm = true) (named : s.rdBit Reg.mgtDm 30 = true)
    (first : s.mgt.dmIsStandby = false) : s.passRoles.rdFld Reg.mgtParent 13 0 = s.rdFld Reg.mgtDm 29 16 := by
  unfold State.passRoles
  rw [if_neg (by simp [dm]), if_pos (by simp [named, first])]
  rw [State.rdFld_clrBit_ne _ _ _ _ (by decide), State.rdFld_clrBit_ne _ _ _ _ (by decide),
    State.rdFld_clrBit_ne _ _ _ _ (by decide), State.setParent_names]
  exact (BitVec.toNat_ofNat ..).trans (Nat.mod_eq_of_lt (Nat.mod_lt _ (by decide)))

/-- The control cores restart: what they kept is gone, and the companion cores are held. -/
def State.coresRestart (s : State) : State := { s with
  mgt := { s.mgt with jobs := [], standby := [], ready := [] }
  flt := { s.flt with ctlReset := true, lastCtl := some s.now, companionHeld := (List.range 24).map (8 + ·) } }

theorem State.coresRestart_touches (s : State) : Touches [.mgt, .flt] s s.coresRestart := by
  unfold State.coresRestart
  simp only [Touches.mk_iff]
  exact TouchesParts.upd (.refl _ s)

theorem State.coresRestart_rd (s : State) (q : Nat) : s.coresRestart.rd q = s.rd q := rfl

/-- The registers with the count and the scope of a control-domain reset. -/
def State.ctlShown (s : State) : State := (s.bumpFld Reg.fltResetCnt 31 24 1).wrFld Reg.fltStatus 10 8 4

theorem State.ctlShown_touches (s : State) : Touches [.rf] s s.ctlShown :=
  .via (State.wrFld_touches ..) (State.bumpFld_touches ..)

theorem State.ctlShown_rd (s : State) {q : Nat} (status : q ≠ Reg.fltStatus) (count : q ≠ Reg.fltResetCnt) :
    s.ctlShown.rd q = s.rd q :=
  (State.rd_wrFld_ne _ _ _ _ status).trans (State.rd_wrFld_ne _ _ _ _ count)

/-- The state in which the control cores restart, before the phase shows. -/
def State.ctlRestarts (s : State) : State := (s.ctlShown.passRoles.setBit Reg.shtSyncStatus 1).coresRestart

theorem State.ctlRestarts_touches (s : State) : Touches [.rf, .mgt, .flt] s s.ctlRestarts :=
  .via (State.coresRestart_touches _) (.via (State.setBit_touches ..) (.via (State.passRoles_touches _)
    (.mono s.ctlShown_touches)))

theorem State.startCtlReset_first {s : State} (first : s.flt.lastCtl = none) :
    s.startCtlReset = if s.ctlRestarts.flt.run.isSome then s.ctlRestarts else s.ctlRestarts.restPhase := by
  unfold State.startCtlReset
  exact if_neg (by simp [first])
/-- The phase that a reset's end shows is all that it changes. -/
theorem State.phaseShown (s : State) : let u := if s.flt.run.isSome then s else s.restPhase
    u.flt = s.flt ∧ u.mgt = s.mgt ∧ u.out = s.out ∧ (∀ q, q ≠ Reg.fltStatus → u.rd q = s.rd q) ∧ Touches [.rf] s u := by
  intro u
  by_cases runs : s.flt.run.isSome = true
  · have same : u = s := if_pos runs
    rw [same]
    exact ⟨rfl, rfl, rfl, fun _ _ => rfl, .refl _ _⟩
  · have same : u = s.restPhase := if_neg runs
    rw [same]
    exact ⟨rfl, rfl, rfl, fun q other => s.rd_restPhase_ne other, s.restPhase_touches⟩

/-- The count and the scope leave the roles, and what they pass by. -/
theorem State.ctlRestarts_mgt (s : State) :
    s.ctlRestarts.mgt = { s.passRoles.mgt with jobs := [], standby := [], ready := [] } := by
  have dm : s.ctlShown.isDm = s.isDm := by
    rw [State.isDm, State.rdBit, s.ctlShown_rd (by decide) (by decide)]
    rfl
  have named : s.ctlShown.rdBit Reg.mgtDm 30 = s.rdBit Reg.mgtDm 30 := by
    rw [State.rdBit, s.ctlShown_rd (by decide) (by decide)]
    rfl
  have mgt : s.ctlShown.mgt = s.mgt := s.ctlShown_touches.frame .mgt (by decide)
  rw [State.ctlRestarts, State.coresRestart, State.setBit_mgt, State.passRoles_mgt, State.passRoles_mgt, dm, named, mgt]

theorem State.ctlRestarts_parent {s : State} (dm : s.isDm = true) (named : s.rdBit Reg.mgtDm 30 = true)
    (first : s.mgt.dmIsStandby = false) : s.ctlRestarts.rdFld Reg.mgtParent 13 0 = s.rdFld Reg.mgtDm 29 16 := by
  have reg {q : Nat} (status : q ≠ Reg.fltStatus) (count : q ≠ Reg.fltResetCnt) (i : Nat) : s.ctlShown.rdBit q i = s.rdBit q i := by
    rw [State.rdBit, s.ctlShown_rd status count]
    rfl
  have mgt : s.ctlShown.mgt = s.mgt := s.ctlShown_touches.frame .mgt (by decide)
  have passed := State.passRoles_parent ((reg (by decide) (by decide) 18).trans dm) ((reg (by decide) (by decide) 30).trans named)
    ((congrArg Mgt.dmIsStandby mgt).trans first)
  rw [State.ctlRestarts, State.rdFld, State.coresRestart_rd, State.rd_setBit_ne _ _ (by decide)]
  refine passed.trans ?_
  rw [State.rdFld, s.ctlShown_rd (by decide) (by decide)]
  rfl

theorem State.ctlRestarts_bit (s : State) {i : Nat} (role : i = 17 ∨ i = 18 ∨ i = 19) :
    s.ctlRestarts.rdBit Reg.mgtStatus i = false := by
  rw [State.ctlRestarts, State.rdBit, State.coresRestart_rd]
  exact (State.rdBit_setBit_ne _ _ _ (by decide)).trans (State.passRoles_bit _ role)

theorem State.ctlRestarts_holdover (s : State) : s.ctlRestarts.rdBit Reg.shtSyncStatus 1 = true := by
  rw [State.ctlRestarts, State.rdBit, State.coresRestart_rd]
  exact (State.rdBit_setBit _ _ _ (by decide)).trans (by simp)

theorem State.ctlRestarts_lastCtl (s : State) : s.ctlRestarts.flt.lastCtl = some s.now := by
  have clock : s.ctlShown.passRoles.clock = s.clock :=
    (Touches.via (State.passRoles_touches _) (.mono s.ctlShown_touches) : Touches [.rf, .mgt] s _).frame .clock (by decide)
  rw [State.ctlRestarts, State.coresRestart, State.setBit_now, State.now, clock]
  rfl

/-- The first control-domain reset passes the roles, holds over and holds the companion cores. -/
theorem State.startCtlReset_restarts {s : State} (first : s.flt.lastCtl = none) : let u := s.startCtlReset
    u.flt.ctlReset = true ∧ u.flt.lastCtl = some s.now ∧ u.mgt = { s.passRoles.mgt with jobs := [], standby := [], ready := [] } ∧
      (s.isDm = false → s.passRoles.mgt = s.mgt) ∧
      (s.isDm = true → s.rdBit Reg.mgtDm 30 = true → s.mgt.dmIsStandby = false →
        s.passRoles.mgt = { s.mgt with dmIsStandby := true } ∧ u.rdFld Reg.mgtParent 13 0 = s.rdFld Reg.mgtDm 29 16) ∧
      (s.isDm = true → s.rdBit Reg.mgtDm 30 = false → s.passRoles.mgt = { s.mgt with noDm := true }) ∧
      u.rdBit Reg.mgtStatus 17 = false ∧ u.rdBit Reg.mgtStatus 18 = false ∧ u.rdBit Reg.mgtStatus 19 = false ∧
      u.rdBit Reg.shtSyncStatus 1 = true ∧ u.flt.companionHeld = (List.range 24).map (8 + ·) ∧ Frame [.rf, .mgt, .flt] s u := by
  obtain ⟨flt, mgt, -, regs, touches⟩ := s.ctlRestarts.phaseShown
  rw [← State.startCtlReset_first first] at flt mgt regs touches
  have bit {q : Nat} (other : q ≠ Reg.fltStatus) (i : Nat) : s.startCtlReset.rdBit q i = s.ctlRestarts.rdBit q i := by
    rw [State.rdBit, regs q other]
    rfl
  refine ⟨by rw [flt]; rfl, by rw [flt, s.ctlRestarts_lastCtl], mgt.trans s.ctlRestarts_mgt, fun other => ?_,
    fun dm named first => ⟨?_, ?_⟩, fun dm unnamed => ?_, ?_, ?_, ?_, ?_, by rw [flt]; rfl,
    (Touches.via touches s.ctlRestarts_touches).frame⟩
  · rw [State.passRoles_mgt, if_pos (by simp [other])]
  · rw [State.passRoles_mgt, if_neg (by simp [dm]), if_pos (by simp [named, first])]
  · rw [State.rdFld, regs _ (by decide)]
    exact State.ctlRestarts_parent dm named first
  · rw [State.passRoles_mgt, if_neg (by simp [dm]), if_neg (by simp [unnamed])]
  · exact (bit (by decide) 17).trans (s.ctlRestarts_bit (.inl rfl))
  · exact (bit (by decide) 18).trans (s.ctlRestarts_bit (.inr (.inl rfl)))
  · exact (bit (by decide) 19).trans (s.ctlRestarts_bit (.inr (.inr rfl)))
  · exact (bit (by decide) 1).trans s.ctlRestarts_holdover

/-- A record held while the control complex was away takes its number and enters the log. -/
def State.takeHeld (s : State) (r : Nat × BitVec 1024) : State := { s with flt := { s.flt with
  events := newest256 (s.flt.events ++ [BitVec.ofNat 1024 (setFld r.2.toNat 63 32 s.flt.eventSeq.toNat)]),
  eventSeq := s.flt.eventSeq + 1 } }

/-- Of the held records the log and the next number alone show. -/
theorem State.takeHeld_each (l : List (Nat × BitVec 1024)) (s : State) : ∃ events, l.foldl State.takeHeld s =
    { s with flt := { s.flt with events := events, eventSeq := s.flt.eventSeq + BitVec.ofNat 32 l.length } } := by
  induction l generalizing s with
  | nil => exact ⟨s.flt.events, by simp⟩
  | cons r l ih =>
    obtain ⟨events, eq⟩ := ih (s.takeHeld r)
    refine ⟨events, ?_⟩
    rw [List.foldl_cons, eq]
    have count : s.flt.eventSeq + 1 + BitVec.ofNat 32 l.length = s.flt.eventSeq + BitVec.ofNat 32 (l.length + 1) := by
      rw [BitVec.add_assoc, Nat.add_comm, BitVec.ofNat_add]
      rfl
    simp only [State.takeHeld, count, List.length_cons]

/-- The control complex is back, before the chip registers again. -/
def State.ctlBack (s : State) : State :=
  (s.flt.ctlHeld.foldl State.takeHeld { s with flt := { s.flt with ctlReset := false, ctlHeld := [] } }).clrBit Reg.fltCtrl 2

theorem State.ctlBack_eq (s : State) : ∃ events, s.ctlBack = ({ s with flt := { s.flt with
    events := events, eventSeq := s.flt.eventSeq + BitVec.ofNat 32 s.flt.ctlHeld.length, ctlReset := false,
    ctlHeld := [] } } : State).clrBit Reg.fltCtrl 2 := by
  obtain ⟨events, eq⟩ := State.takeHeld_each s.flt.ctlHeld { s with flt := { s.flt with ctlReset := false, ctlHeld := [] } }
  exact ⟨events, by rw [State.ctlBack, eq]⟩

theorem State.ctlBack_touches (s : State) : Touches [.rf, .flt] s s.ctlBack := by
  obtain ⟨events, eq⟩ := s.ctlBack_eq
  rw [eq]
  exact .via (State.clrBit_touches ..) (.mono (s.setFlt_touches _))

theorem State.ctlBack_rd (s : State) {q : Nat} (other : q ≠ Reg.fltCtrl) : s.ctlBack.rd q = s.rd q := by
  obtain ⟨events, eq⟩ := s.ctlBack_eq
  rw [eq, State.rd_clrBit_ne _ _ other]
  rfl

theorem State.ctlBack_flt (s : State) : s.ctlBack.flt.ctlReset = false ∧ s.ctlBack.flt.ctlHeld = [] ∧
    s.ctlBack.flt.eventSeq = s.flt.eventSeq + BitVec.ofNat 32 s.flt.ctlHeld.length := by
  obtain ⟨events, eq⟩ := s.ctlBack_eq
  rw [eq]
  exact ⟨rfl, rfl, rfl⟩

/-- What the rejoining chip answers, before the phase shows. -/
theorem exec_controlRestartDone {s : State} (away : s.flt.ctlReset = true) : exec .controlRestartDone s = .next
    (if s.ctlBack.rejoin.flt.run.isSome then s.ctlBack.rejoin else s.ctlBack.rejoin.restPhase) :=
  if_neg (by simp [away])

/-- The control bit stands as the chip joins again. -/
theorem State.rejoin_rd (s : State) {q : Nat} (status : q ≠ Reg.mgtStatus) (parent : q ≠ Reg.mgtParent)
    (sync : q ≠ Reg.shtSyncStatus) : s.rejoin.rd q = s.rd q := by
  unfold State.rejoin
  dsimp only
  split
  · rfl
  · split
    · rw [State.becomeRoot, State.rd_clrBit_ne _ _ sync, State.rd_wrFld_ne _ _ _ _ sync, State.rd_wr_ne _ _ parent,
        State.rd_setBit_ne _ _ status]
      rfl
    · rw [State.emit_rd, State.rd_putBit_ne _ _ _ status]

theorem State.rejoin_uncommitted {s : State} (out : s.committed = false) : s.rejoin = s := if_pos (by simp [out])

/-- With a domain manager the chip registers. -/
theorem State.rejoin_registers {s : State} (committed : s.committed = true) (dm : s.mgt.noDm = false) :
    s.rejoin = (s.putBit Reg.mgtStatus 19 (s.rdBit Reg.mgtDm 30 && s.self.toNat == s.rdFld Reg.mgtDm 29 16 &&
      !s.mgt.dmIsStandby)).emit (.toChip s.dmChip "REGISTER" [s.self.toNat]) := by
  exact (if_neg (by simp [committed])).trans (if_neg (by simp [dm]))

/-- Without one, the chip that DM_CHIP names takes the role. -/
theorem State.rejoin_manages {s : State} (committed : s.committed = true) (none : s.mgt.noDm = true)
    (named : s.self.toNat = s.rdFld Reg.mgtDm 13 0) :
    s.rejoin = ({ s with mgt := { s.mgt with noDm := false, dmIsStandby := false } } : State).becomeRoot := by
  refine (if_neg (by simp [committed])).trans ((if_pos (by simp [none, named])).trans ?_)
  have named' : (s.self.toNat == s.rdFld Reg.mgtDm 13 0) = true := by simp [named]
  rw [named']
  rfl

/-- Settles O43: the orders by what holds the chip; a reset's start and its end by their own lemmas. -/
theorem memoryAndControlResets : Obligations.MemoryAndControlResets := by
  unfold Obligations.MemoryAndControlResets
  refine ⟨fun s up => ?orders, fun k s up => State.startMemReset_shows up k, fun s runs => exec_hbmRetrainDone runs,
    fun s first => State.startCtlReset_restarts first, fun s away => ?back⟩
  case orders =>
    have free : ¬ s.pkg.heldBy.isSome = true := by simp [up]
    refine ⟨fun quiet => ⟨?_, fun path opens => exec_next rfl (State.via_open opens _ |>.trans ?_)⟩, fun r runs => ?_, ?_,
      fun path opens => exec_next rfl (State.via_open opens _ |>.trans ?_)⟩
    · refine exec_next rfl ((if_neg free).trans ?_)
      rw [quiet]
    · refine (if_neg free).trans ?_
      have same : (s.setBit Reg.fltCtrl 1).flt.run = none := quiet
      rw [same]
    · refine exec_next rfl ((if_neg free).trans ?_)
      rw [runs]
    · exact exec_next rfl (if_neg free)
    · exact if_neg free
  case back =>
    obtain ⟨flt, mgt, out, regs, touches⟩ := s.ctlBack.rejoin.phaseShown
    have rejoins : s.ctlBack.rejoin.flt = s.ctlBack.flt := (State.rejoin_touches _).frame .flt (by decide)
    obtain ⟨ctl, held, seq⟩ := s.ctlBack_flt
    have committed : s.ctlBack.committed = s.committed := by
      rw [State.committed, State.rdBit, s.ctlBack_rd (by decide)]
      rfl
    have same : s.ctlBack.mgt = s.mgt := s.ctlBack_touches.frame .mgt (by decide)
    refine ⟨_, exec_controlRestartDone away, by rw [flt, rejoins, ctl], by rw [flt, rejoins, held], ?_,
      by rw [flt, rejoins, seq], fun uncommitted => ?_, fun ready dm => ?_, fun ready none named => ?_⟩
    · rw [State.rdBit, regs _ (by decide), State.rejoin_rd _ (by decide) (by decide) (by decide)]
      exact (State.rdBit_clrBit _ _ _ (by decide)).trans (by simp)
    · rw [State.rejoin_uncommitted (committed.trans uncommitted)] at touches ⊢
      exact (Touches.via touches s.ctlBack_touches).frame
    · have registers := State.rejoin_registers (committed.trans ready) (by rw [same, dm])
      have chip : s.ctlBack.dmChip = s.dmChip := State.dmChip_congr (s.ctlBack_rd (by decide)) (congrArg Mgt.dmIsStandby same)
      have self : s.ctlBack.self = s.self := State.self_congr (s.ctlBack_rd (by decide))
      have before : s.ctlBack.out = s.out := s.ctlBack_touches.frame .out (by decide)
      have answer : Touches [.rf, .out] s.ctlBack s.ctlBack.rejoin := by
        rw [registers]
        exact .via (State.emit_touches ..) (.mono (State.putBit_touches ..))
      refine ⟨(Touches.via touches (.via answer (.mono s.ctlBack_touches))).frame, out.trans ?_⟩
      have putOut (b : Bool) : (s.ctlBack.putBit Reg.mgtStatus 19 b).out = s.ctlBack.out :=
        (State.putBit_touches ..).frame .out (by decide)
      rw [registers, State.emit, putOut, chip, self, before]
    · have manages := State.rejoin_manages (committed.trans ready) (by rw [same, none]) (by
        rw [State.self_congr (s.ctlBack_rd (by decide)), named, State.rdFld, State.rdFld, s.ctlBack_rd (by decide)])
      have role : s.ctlBack.rejoin.mgt = { s.mgt with noDm := false, dmIsStandby := false } := by
        rw [manages, ← same]
        exact (State.becomeRoot_touches _).frame .mgt (by decide)
      have answer : Touches [.rf, .mgt] s.ctlBack s.ctlBack.rejoin := by
        rw [manages]
        refine .via (State.becomeRoot_touches _) ?_
        simp only [Touches.mk_iff]
        exact TouchesParts.upd (.refl _ _)
      refine ⟨(Touches.via touches (.via answer (.mono s.ctlBack_touches))).frame, mgt.trans role, ?_, ?_⟩
      · rw [State.rdBit, regs _ (by decide), manages]
        exact (State.becomeRoot_bit _ (by decide)).trans (by simp)
      · rw [regs _ (by decide), manages, State.becomeRoot_parent]

end Sys2Proof.Machine
end

section
/-!
PROOF. Counters, the console, the boundary scan, tile debug and the debug module (R381, R403-R409).
-/

-- One declaration after another: the package as one text then needs few threads at a time.
set_option Elab.async false

namespace Sys2Proof.Machine
open Sys2Proof.Safety

/-! ### Counters, tile debug and the console (R381, R403-R406, R409) -/

/-- A write of PMC_TDBG over another path than the debug path's is flagged. -/
theorem State.tdbg_other {s : State} {path : Path} {t : Nat} (opens : Opens s path (Reg.pmcTdbg t)) (other : path ≠ .debug)
    (f : State → State) : s.tdbg path t f = s.setBit Reg.pmcEvent 2 :=
  (State.via_open opens _).trans (if_neg other)

theorem State.tdbg_debug {s : State} {t : Nat} (opens : Opens s .debug (Reg.pmcTdbg t)) (f : State → State) :
    s.tdbg .debug t f = f s :=
  (State.via_open opens _).trans (if_pos rfl)

theorem exec_uartRxChar {s : State} (up : s.pkg.heldBy = none) (enabled : s.blockOn 16 = true) (data : Byte) :
    (s.dbg.rxFifo.length < 64 → exec (.uartRxChar data true) s =
       .next { s with dbg := { s.dbg with rxFifo := s.dbg.rxFifo ++ [data] } }) ∧
     (64 ≤ s.dbg.rxFifo.length → exec (.uartRxChar data true) s = .next (s.setBit Reg.uarErr 1)) ∧
     exec (.uartRxChar 0 false) s = .next (s.setBit Reg.uarErr 2) := by
  have runs : ¬ (s.pkg.heldBy.isSome || !s.blockOn 16) = true := by simp [up, enabled]
  have char : exec (.uartRxChar data true) s = _ := (if_neg runs).trans (if_neg (by simp))
  exact ⟨fun room => exec_next char (if_neg (Nat.not_le.2 room)), fun full => exec_next char (if_pos full),
    (if_neg runs).trans (if_pos (by simp))⟩

theorem exec_uartTxChar {s : State} (up : s.pkg.heldBy = none) (enabled : s.blockOn 16 = true) {data : Byte} {l : List Byte}
    (waits : s.dbg.txFifo = data :: l) :
    exec .uartTxChar s = .next (({ s with dbg := { s.dbg with txFifo := l } } : State).emit (.console data)) := by
  have runs : ¬ (s.pkg.heldBy.isSome || !s.blockOn 16) = true := by simp [up, enabled]
  refine (if_neg runs).trans ?_
  rw [waits]

/-- A core's read of UAR_RX takes the oldest character. -/
theorem exec_uartRxRead {s : State} {n : Fin 32} (opens : Opens s (.core n) Reg.uarRx) :
    ∃ u, exec (.uartRxRead (.core n)) s = .next u ∧ u.dbg.rxFifo = s.dbg.rxFifo.drop 1 ∧
      u.out = s.out ++ [.readData (.core n) (s.view Reg.uarRx)] ∧ Frame [.dbg, .out] s u := by
  have reads : exec (.uartRxRead (.core n)) s = .next _ := exec_next rfl ((State.via_open opens _).trans (if_pos rfl))
  have frame : Frame [.dbg, .out] s _ := exec_frame reads
  exact ⟨_, reads, rfl, rfl, frame⟩

theorem exec_tileDebug {s : State} {t : Fin 64} (opens : Opens s .debug (Reg.pmcTdbg t.val))
    (halted : (s.tile t.val).debugHalted = true) :
    (∃ u, exec (.tileDebugResume .debug t) s = .next u ∧
      u.tile t.val = { s.tile t.val with debugHalted := false, debugStep := false, debugPass := true }) ∧
    ∃ u, exec (.tileDebugStep .debug t) s = .next u ∧
      u.tile t.val = { s.tile t.val with debugHalted := false, debugStep := true, debugPass := true } :=
  ⟨⟨_, exec_next rfl (State.tdbg_debug opens _), by simp [halted]⟩, ⟨_, exec_next rfl (State.tdbg_debug opens _), by simp [halted]⟩⟩

/-! ### The debug module (R408) -/

theorem mem_insertNat (l : List Nat) (x : Nat) : x ∈ insertNat l x := by
  unfold insertNat
  split
  · next known => simpa using known
  · simp

/-- The hart that a write of dmcontrol selects. -/
theorem hart_dmcontrol {w : Word} {h : Nat} (low : fld w.toNat 25 16 = h) (high : fld w.toNat 15 6 = 0) (d : DebugModule) :
    ({ d with dmcontrol := w &&& 0x23FFFFC3 } : DebugModule).hart = h := by
  have bits (hi lo : Nat) (inside : hi < 32) (ordered : lo ≤ hi) (kept : ∀ i, lo ≤ i → i ≤ hi → (0x23FFFFC3 : Word).getLsbD i = true) :
      fld (w &&& 0x23FFFFC3).toNat hi lo = fld w.toNat hi lo := by
    apply Nat.eq_of_testBit_eq
    intro i
    rw [fld_testBit, fld_testBit]
    by_cases below : i < hi - lo + 1
    · have := kept (lo + i) (by omega) (by omega)
      rw [BitVec.testBit_toNat, BitVec.getLsbD_and, this, BitVec.testBit_toNat]
      simp
    · simp [below]
  unfold DebugModule.hart
  rw [bits 25 16 (by decide) (by decide) (fun i a b => by interval_cases i <;> decide),
    bits 15 6 (by decide) (by decide) (fun i a b => by interval_cases i <;> decide), low, high]
  omega

/-- A halt request halts the hart that it selects. -/
theorem State.dmControl_halts (s : State) {w : Word} {h : Nat} (active : w.getLsbD 0 = true) (request : w.getLsbD 31 = true)
    (low : fld w.toNat 25 16 = h) (high : fld w.toNat 15 6 = 0) (hart : h < 32) : h ∈ (s.dmControl w).dbg.dm.halted := by
  unfold State.dmControl
  rw [if_neg (by simp [active])]
  change h ∈ (if 32 ≤ ({ s.dbg.dm with dmcontrol := w &&& 0x23FFFFC3 } : DebugModule).hart then _ else
    State.modDm' _ _).dbg.dm.halted
  rw [hart_dmcontrol low high, if_neg (by omega)]
  simp only [State.modDm', request, if_true]
  rw [hart_dmcontrol low high]
  exact mem_insertNat _ h

/-- Settles O51: the counters and the console, a tile's halts, the scan instructions, and the debug module by their lemmas. -/
theorem countersConsoleScanAndDebug : Obligations.CountersConsoleScanAndDebug := by
  unfold Obligations.CountersConsoleScanAndDebug
  refine ⟨⟨fun path c s opens => exec_next rfl (State.via_open opens _), fun t s => ⟨?_, fun opens => ⟨?_, ?_, ?_⟩⟩,
    fun data s up enabled => ?_, fun n data s opens room => ?_, fun n s opens => exec_uartRxRead opens, fun s => ?_⟩,
    fun s unlocked => ?_⟩
  · intro path en opens other
    have flagged (f : State → State) := State.tdbg_other opens other f
    exact ⟨exec_next rfl (flagged _), exec_next rfl (flagged _), exec_next rfl (flagged _), exec_next rfl (flagged _)⟩
  · exact fun en => exec_next rfl (State.tdbg_debug opens _)
  · exact exec_next rfl (State.tdbg_debug opens _)
  · exact fun halted => exec_tileDebug opens halted
  · obtain ⟨room, full, broken⟩ := exec_uartRxChar up enabled data
    exact ⟨room, full, broken, fun l waits => exec_uartTxChar up enabled waits⟩
  · exact exec_next rfl ((State.via_open opens _).trans (if_neg (by simpa [Path.isCore] using room)))
  · intro sel after
    have none (j : Jtag) : after j [] = { s with dbg := { s.dbg with jtag := j } } := by simp [after]
    refine ⟨rfl, fun _ _ => rfl, ?_, ?_, ?_, rfl, fun locked => ⟨if_pos locked, fun _ => if_pos locked⟩,
      fun unlocked => ⟨_, if_neg (by simp [unlocked])⟩⟩
    · rw [none]; rfl
    · rw [none]; rfl
    · rw [none]; rfl
  · intro u
    have dmi (a : DmiAccess) : exec (.dmi a) s = _ := if_neg (by simp [unlocked])
    have control (w : Word) : s.dmiWrite 0x10 w = s.dmControl w := if_pos rfl
    refine ⟨fun a read => exec_next (dmi a) (if_pos read),
      fun a write => exec_next (dmi a) ((if_neg (by simp [write])).trans (if_pos write)),
      fun a read write => exec_next (dmi a) ((if_neg read).trans (if_neg write)), fun w off => ?_,
      fun h w active request low high hart => ?_, fun da w inside => ?_⟩
    · rw [control, State.dmControl, if_pos (by rw [off]; rfl)]
      rfl
    · rw [control]
      exact s.dmControl_halts active request low high hart
    · rw [State.busWrite, if_pos inside]
      simp
end Sys2Proof.Machine
end

section
/-!
PROOF. Accesses by path and place (R382-R390, R398), and over the sideband (R323).
-/

-- One declaration after another: the package as one text then needs few threads at a time.
set_option Elab.async false

namespace Sys2Proof.Machine
open Sys2Proof.Safety

/-! ### Flags (R398) -/

theorem Reg.tenErr_ne_glb (v : Nat) : Reg.glbErr ≠ Reg.tenErr v ∧ Reg.glbErrOff ≠ Reg.tenErr v := by
  simp only [Reg.glbErr, Reg.glbErrOff, Reg.tenErr, Reg.window]
  omega

/-- A misuse sets its bit of GLB_ERR, and clears none. -/
theorem State.flagErr_bit (s : State) (path : Path) (off bit : Nat) {i : Nat} (low : i < 32) :
    (s.flagErr path off bit).rdBit Reg.glbErr i = (s.rdBit Reg.glbErr i || decide (bit = i)) := by
  have set := State.rdBit_setBit s Reg.glbErr bit low
  have vf (v : State) (b : Nat) : (v.setBit (Reg.tenErr path.fn) b).rdBit Reg.glbErr i = v.rdBit Reg.glbErr i :=
    State.rdBit_setBit_ne _ _ _ (Reg.tenErr_ne_glb _).1
  have capture (v : State) : (if v.rdBit Reg.glbErrOff 31 then v else ((((v.wrFld Reg.glbErrOff 28 0 off).setBit Reg.glbErrOff
      31).wrFld Reg.glbErrSrc 3 0 bit).wrFld Reg.glbErrSrc 5 4 path.code).wrFld Reg.glbErrSrc 17 8 path.fn).rdBit Reg.glbErr i =
      v.rdBit Reg.glbErr i := by
    split
    · rfl
    · rw [State.rdBit_wrFld_ne _ _ _ _ _ (by decide), State.rdBit_wrFld_ne _ _ _ _ _ (by decide),
        State.rdBit_wrFld_ne _ _ _ _ _ (by decide), State.rdBit_setBit_ne _ _ _ (by decide),
        State.rdBit_wrFld_ne _ _ _ _ _ (by decide)]
  unfold State.flagErr
  refine (capture _).trans (Eq.trans ?_ set)
  split
  · split
    · exact vf _ _
    · rfl
  · rfl

/-! ### Accesses by path and place (R382-R390) -/

theorem State.up_of_busOpen {s : State} {path : Path} (opens : s.busOpen path = true) : s.pkg.heldBy = none := by
  unfold State.busOpen at opens
  exact Option.isNone_iff_eq_none.1 (Bool.and_eq_true_iff.1 opens).1

/-- An access to a place of the path that holds a register. -/
theorem State.writeAccess_register {s : State} {path : Path} {off p : Nat} (place : path.place off = some p)
    (area : areaOf (windowFn path).val p = .register) (v : Word) :
    s.writeAccess path off 0xF v = s.registerWrite path p v ∧
    ∀ en : BitVec 4, en ≠ 0xF → en ≠ 0 → s.writeAccess path off en v = s.flagErr path off errNarrowWr := by
  unfold State.writeAccess
  rw [place]
  dsimp only
  rw [area]
  refine ⟨by simp, fun en narrow some => ?_⟩
  rw [if_neg some, if_pos (by simpa using narrow)]

theorem State.access_none {s : State} {path : Path} {off p : Nat} (place : path.place off = some p) (v : Word) :
    s.writeAccess path off 0 v = s ∧ s.readAccess path off 0 = (0, s) := by
  unfold State.writeAccess State.readAccess
  rw [place]
  exact ⟨if_pos rfl, if_pos rfl⟩

theorem State.access_unmapped {s : State} {path : Path} {off p : Nat} (place : path.place off = some p)
    (area : areaOf (windowFn path).val p = .unmapped) (v : Word) :
    s.writeAccess path off 0xF v = s.flagErr path off errUnmapped ∧
    s.readAccess path off 0xF = (0, s.flagErr path off errUnmapped) := by
  unfold State.writeAccess State.readAccess
  rw [place]
  dsimp only
  rw [area]
  exact ⟨by simp, by simp⟩

/-- A full read of a register answers it, and clears the RC bits that it answers, but over the debug path. -/
theorem exec_rcRead_register {s : State} {path : Path} {offset : BitVec 29} {p b : Nat} {r : RegRow} {i : Nat} {x : Word}
    (opens : s.busOpen path = true) (place : path.place (offset.toNat / 4 * 4) = some p)
    (area : areaOf (windowFn path).val p = .register) (row : Reg.find p = some (b, r, i)) (there : s.absent b r i = false)
    (value : s.readValue path p = (x, s)) (crosses : s.crossingHeld path (offset.toNat / 4 * 4) = false) :
    exec (.rcRead path offset 0xF) s = .next (State.emit (if path = .debug then s
      else s.wr p (s.rd p &&& ~~~(x &&& r.mask .rc))) (.readData path x)) := by
  have up := State.up_of_busOpen opens
  have access : s.readAccess path (offset.toNat / 4 * 4) 0xF = (x, if path = .debug then s else
      s.wr p (s.rd p &&& ~~~(x &&& r.mask .rc))) := by
    unfold State.readAccess
    rw [place]
    dsimp only
    rw [area]
    simp only [State.registerRead, value, row, there]
    by_cases debug : path = .debug <;> simp [debug]
  refine (if_neg (by simp [up, crosses])).trans ((if_pos opens).trans ?_)
  rw [access]

theorem exec_registerStallTimeout {s : State} {path : Path} (opens : s.busOpen path = true) (other : path ≠ .i3c)
    (offset : BitVec 29) (w : Bool) : ∃ u, exec (.registerStallTimeout path offset w) s = .next u ∧
      u.port.stalls = s.port.stalls + 1 ∧ u.rdBit Reg.glbErr errStall = true ∧
      u.out = s.out ++ (if w then [] else [.readData path 0xFFFFFFFF]) ∧ Frame [.rf, .port, .out] s u := by
  have flags := s.flagErr_touches path offset.toNat errStall
  have stalls : exec (.registerStallTimeout path offset w) s = .next _ := if_neg (by simp [opens, other])
  have frame : Frame [.rf, .port, .out] s _ := exec_frame stalls
  have port : (s.flagErr path offset.toNat errStall).port = s.port := flags.frame .port (by decide)
  have out : (s.flagErr path offset.toNat errStall).out = s.out := flags.frame .out (by decide)
  have bit := s.flagErr_bit path offset.toNat errStall (i := errStall) (by decide)
  refine ⟨_, stalls, ?_, ?_, ?_, frame⟩
  · cases w <;> exact congrArg (·.stalls + 1) port
  · cases w <;> exact bit.trans (by simp)
  · cases w
    · exact congrArg (· ++ _) out
    · exact out.trans (List.append_nil _).symm

/-! ### Accesses over the sideband (R323) -/

theorem splitAccess_aligned {o : Nat} (aligned : o % 4 = 0) : splitAccess o = [(o, 0xF)] := if_pos aligned

section
variable {s : State} {o : BitVec 16} (opens : s.busOpen .i3c = true) (addressed : s.mgt.i3cAddr.isSome = true)
include opens addressed

theorem State.i3cAddressed_of_open : s.i3cAddressed = true := by
  have up := State.up_of_busOpen opens
  unfold State.i3cAddressed State.i3cAlive
  rw [up, addressed]
  rfl

theorem exec_i3cPrivateWrite (aligned : o.toNat % 4 = 0) (data : List Byte) :
    (data.length < 4 → exec (.i3cPrivateWrite o data) s = .next (s.setBit Reg.mgtEvent 7)) ∧
    (4 ≤ data.length → exec (.i3cPrivateWrite o data) s =
      .next (s.writeAccess .i3c o.toNat 0xF (BitVec.ofNat 32 (bytesToNat (data.take 4))))) := by
  have takes : ¬ (!s.i3cAddressed || !s.busOpen .i3c) = true := by simp [State.i3cAddressed_of_open opens addressed, opens]
  refine ⟨fun short => (if_neg takes).trans (if_pos short), fun long => (if_neg takes).trans ((if_neg (Nat.not_lt.2 long)).trans ?_)⟩
  rw [splitAccess_aligned aligned]
  rfl

theorem exec_i3cPrivateRead (aligned : o.toNat % 4 = 0) : exec (.i3cPrivateRead o) s =
    .next ((s.readAccess .i3c o.toNat 0xF).2.emit (.i3cData (natToBytes 4 (s.readAccess .i3c o.toNat 0xF).1.toNat))) := by
  refine (if_neg (by simp [State.i3cAddressed_of_open opens addressed])).trans ?_
  simp [splitAccess_aligned aligned, aligned, State.up_of_busOpen opens]

end

/-- Settles O49: each access by its place, and the sideband's as one aligned word. -/
theorem accessesActByPathAndPlace : Obligations.AccessesActByPathAndPlace := by
  unfold Obligations.AccessesActByPathAndPlace
  intro path offset en v s opens off
  refine ⟨fun crosses => ?_, fun crosses => ⟨?_, ?_⟩, fun p place => ⟨?_, fun area => ⟨?_, ?_⟩, ?_, ?_⟩,
    fun other w => exec_registerStallTimeout opens other offset w, ?_⟩
  · exact congrArg Host.Outcome.next (if_neg (by simp [opens, crosses, off]))
  · exact congrArg Host.Outcome.next (if_pos (by simp [crosses, off]))
  · exact if_pos (by simp [crosses, off])
  · rintro rfl
    exact State.access_none place v
  · rintro rfl
    exact (State.writeAccess_register place area v).1
  · exact (State.writeAccess_register place area v).2 en
  · rintro area rfl
    exact State.access_unmapped place area v
  · rintro b r i x area rfl row there value crosses
    exact exec_rcRead_register opens place area row there value crosses
  · rintro rfl addressed o data aligned
    obtain ⟨short, long⟩ := exec_i3cPrivateWrite opens addressed aligned data
    exact ⟨short, long, exec_i3cPrivateRead opens addressed aligned⟩

end Sys2Proof.Machine
end

section
/-!
PROOF. The statement on field writes (R387, R388, R394) fails: a reserved bit off its value reports the test hold.
-/

-- One declaration after another: the package as one text then needs few threads at a time.
set_option Elab.async false

namespace Sys2Proof.Machine
open Sys2Proof.Safety

/-! ### A write of a RSVL field reports the test hold (R394) -/

/-- The part after reset, in operating mode. -/
def operating : State := State.reset.clrBit Reg.glbCtrl 0

/-- GLB_CTRL: the staging mode, and reserved bits. -/
def glbCtrlRow : RegRow :=
  ⟨"GLB_CTRL", 0x4, 1, 4, false, 0x00000001, .whole, [(0, 0, .rw), (31, 1, .rsvl)]⟩

theorem find_glbCtrl : Reg.find Reg.glbCtrl = some (0, glbCtrlRow, 0) := by decide +kernel

/-- The write of a reserved bit off its reset value tells the domain manager that the chip halts. -/
theorem operating_tells : (operating.writeFields .pf Reg.glbCtrl 2 0).out.length = 1 := by decide +kernel

/-- Refutes O48: the reserved bit 1 of GLB_CTRL, written 1 over the PF's path in operating mode, sets TEST_HOLD, and the message
HALTED goes to the domain manager; the statement's frame has no room for what is sent. -/
theorem not_fieldWritesFollowTheMode : ¬ Obligations.FieldWritesFollowTheMode := by
  unfold Obligations.FieldWritesFollowTheMode
  intro h
  obtain ⟨-, flagged, -⟩ := h .pf Reg.glbCtrl 0 glbCtrlRow 0 2 operating find_glbCtrl (by decide) (by decide +kernel) (by decide)
    (by decide)
  obtain ⟨u, write, frame, -, -⟩ := flagged (by decide +kernel) (by decide +kernel) rfl (by decide)
  have out : u.out = operating.out := frame .out (by decide)
  have told := operating_tells
  rw [write, out] at told
  exact absurd told (by decide +kernel)

end Sys2Proof.Machine
end

section
/-!
PROOF. A wavelength fails (R302, R303): a spare takes its place, the link narrows, or it is down.
-/

-- One declaration after another: the package as one text then needs few threads at a time.
set_option Elab.async false

namespace Sys2Proof.Machine
open Sys2Proof.Safety

/-! ### Masks of wavelengths -/

/-- A sum of ascending powers of two above a number has their bits, and the number's. -/
theorem testBit_addPowers (j : Nat) : ∀ (l : List Nat) (m : Nat), l.Pairwise (· < ·) → (∀ i ∈ l, m < 2 ^ i) →
    (l.foldl (fun m i => m + 2 ^ i) m).testBit j = (m.testBit j || decide (j ∈ l))
  | [], m, _, _ => by simp
  | a :: l, m, sorted, above => by
    obtain ⟨least, sorted⟩ := List.pairwise_cons.1 sorted
    have below : m < 2 ^ a := above a (.head _)
    have join : m + 2 ^ a = 2 ^ a ||| m := by
      simpa [Nat.add_comm] using Nat.two_pow_add_eq_or_of_lt below 1
    have next : ∀ i ∈ l, m + 2 ^ a < 2 ^ i := fun i inside => by
      have := Nat.pow_le_pow_right (n := 2) (by decide) (least i inside)
      rw [Nat.pow_succ] at this
      omega
    rw [List.foldl_cons, testBit_addPowers j l _ sorted next, join, Nat.testBit_or, Nat.testBit_two_pow]
    by_cases same : a = j
    · simp [same]
    · simp [same, Ne.symm same]

theorem bitOf_eq (w : Nat) : bitOf w = w.testBit := by
  funext i
  rw [bitOf, Nat.testBit_eq_decide_div_mod_eq]
  exact beq_eq_decide ..

theorem testBit_lowestBits (mask n j : Nat) :
    (lowestBits mask n).testBit j = decide (j ∈ ((List.range 10).filter mask.testBit).take n) := by
  unfold lowestBits
  rw [bitOf_eq, testBit_addPowers]
  · simp
  · exact ((List.pairwise_lt_range.filter _).sublist (List.take_sublist ..))
  · exact fun i _ => Nat.two_pow_pos i

/-- The lowest bits of a mask are bits of it. -/
theorem bit_of_lowestBits {mask n j : Nat} (h : (lowestBits mask n).testBit j = true) : mask.testBit j = true := by
  rw [testBit_lowestBits] at h
  have := List.mem_of_mem_take (of_decide_eq_true h)
  exact (List.mem_filter.1 this).2

/-- The lowest bit of a mask, alone. -/
theorem testBit_lowestBits_one {mask i : Nat} (low : i < 10) (set : mask.testBit i = true) (least : ∀ k, k < i → mask.testBit k = false)
    (j : Nat) : (lowestBits mask 1).testBit j = decide (j = i) := by
  have first : (List.range 10).find? mask.testBit = some i :=
    List.find?_range_eq_some.2 ⟨set, List.mem_range.2 low, fun k below => by simp [least k below]⟩
  rw [testBit_lowestBits, List.take_one, List.head?_filter, first]
  simp

theorem testBit_complement (x : Nat) {i : Nat} (low : i < 10) : (0x3FF ^^^ x).testBit i = !x.testBit i := by
  have ones : (0x3FF : Nat).testBit i = true := by interval_cases i <;> decide
  rw [Nat.testBit_xor, ones, Bool.true_xor]

/-- The count of a mask that one bit alone can be in. -/
theorem popCount_and_pow (x : Nat) {i : Nat} (low : i < 10) : popCount 10 (x &&& 2 ^ i) = if x.testBit i then 1 else 0 := by
  have one : popCount 10 (x &&& 2 ^ i) = (List.range 10).countP fun j => x.testBit j && decide (j = i) := by
    rw [popCount, bitOf_eq, ← List.countP_eq_length_filter]
    refine List.countP_congr fun j _ => ?_
    rw [Nat.testBit_and, Nat.testBit_two_pow, decide_eq_decide.2 eq_comm]
  rw [one]
  split
  · next set =>
    have only : (fun j => x.testBit j && decide (j = i)) = fun j => decide (j = i) := by
      funext j
      by_cases same : j = i <;> simp [same, set]
    rw [only]
    interval_cases i <;> decide
  · next clear =>
    have none : (fun j => x.testBit j && decide (j = i)) = fun _ => false := by
      funext j
      by_cases same : j = i <;> simp [same, clear]
    rw [none]
    decide

/-- A mask with a bit has a count. -/
theorem popCount_pos {x i : Nat} (low : i < 10) (set : x.testBit i = true) : 0 < popCount 10 x :=
  List.length_pos_of_mem (List.mem_filter.2 ⟨List.mem_range.2 low, (congrFun (bitOf_eq x) i).trans set⟩)

/-! ### What leaves the lanes of the links (R302, R303) -/

/-- Every link has its state, its wavelengths in use and its failure marks as before. -/
def LanesStand (s t : State) : Prop :=
  ∀ k, (t.link k).state = (s.link k).state ∧ (t.link k).activeMap = (s.link k).activeMap ∧ (t.link k).failed = (s.link k).failed

theorem LanesStand.refl (s : State) : LanesStand s s := fun _ => ⟨rfl, rfl, rfl⟩

theorem LanesStand.trans {r s t : State} (h : LanesStand r s) (i : LanesStand s t) : LanesStand r t := fun k =>
  ⟨(i k).1.trans (h k).1, (i k).2.1.trans (h k).2.1, (i k).2.2.trans (h k).2.2⟩

theorem State.link_congr {s t : State} (net : t.net.links = s.net.links) (k : Nat) : t.link k = s.link k := by
  simp only [State.link, net]

theorem LanesStand.of_links {s t : State} (net : t.net.links = s.net.links) : LanesStand s t := fun k => by
  rw [State.link_congr net]
  exact ⟨rfl, rfl, rfl⟩

/-- An operation that does not touch the network. -/
theorem LanesStand.of_touches {l : List Component} {s t : State} (h : Touches l s t) (apart : .net ∉ l := by decide) :
    LanesStand s t :=
  .of_links (congrArg Net.links (h.frame .net apart))

theorem LanesStand.foldl {α : Type} {f : State → α → State} (each : ∀ s a, LanesStand s (f s a)) :
    ∀ (l : List α) (s : State), LanesStand s (l.foldl f s)
  | [], s => .refl s
  | a :: l, s => (each s a).trans (LanesStand.foldl each l _)

theorem LanesStand.ite {s t u : State} {c : Prop} [Decidable c] (h : LanesStand s t) (i : LanesStand s u) :
    LanesStand s (if c then t else u) := by split <;> assumption

/-- One more operation, or none. -/
theorem LanesStand.maybe {s t u : State} {c : Prop} [Decidable c] (h : LanesStand s t) (i : LanesStand t u) :
    LanesStand s (if c then u else t) := .ite (h.trans i) h

/-- A change of a link's other fields. -/
theorem State.modLink_lanes (s : State) (l : Nat) {f : Link → Link} (state : ∀ x, (f x).state = x.state := by intro x; rfl)
    (map : ∀ x, (f x).activeMap = x.activeMap := by intro x; rfl) (failed : ∀ x, (f x).failed = x.failed := by intro x; rfl) :
    LanesStand s (s.modLink l f) := fun k => by
  by_cases same : k = l
  · subst same
    rw [State.link_modLink_self]
    exact ⟨state _, map _, failed _⟩
  · rw [State.link_modLink_ne s f same]
    exact ⟨rfl, rfl, rfl⟩

theorem State.takeReserve_lanes (s : State) (l v : Nat) : LanesStand s (s.takeReserve l v) := by
  unfold State.takeReserve
  exact .ite (.refl s) (.ite (s.modLink_lanes l) (.of_touches (State.setBit_touches ..)))

theorem State.takeCredit_lanes {s t : State} {l : Nat} {f : DataFlit} (takes : s.takeCredit l f = some t) : LanesStand s t := by
  unfold State.takeCredit at takes
  have reserves := s.takeReserve_lanes l f.tenant
  split at takes
  · split at takes
    · cases takes
    · cases takes
      exact s.modLink_lanes l
  · split at takes
    · cases takes
    · dsimp only at takes
      split at takes
      · cases takes
        exact reserves.trans ((State.modLink_lanes _ l).trans (State.modLink_lanes _ l))
      · split at takes
        · cases takes
        · cases takes
          exact reserves.trans ((State.modLink_lanes _ l).trans (State.modLink_lanes _ l))

theorem State.pickFlit_lanes {s t : State} {l i : Nat} {f : DataFlit} (picks : s.pickFlit l = some (i, f, t)) : LanesStand s t := by
  unfold State.pickFlit at picks
  obtain ⟨x, -, picks⟩ := List.exists_of_findSome?_eq_some picks
  obtain ⟨n, -, picks⟩ := Option.bind_eq_some_iff.1 picks
  obtain ⟨u, takes, picks⟩ := Option.map_eq_some_iff.1 picks
  cases picks
  exact (State.takeCredit_lanes takes).trans (State.modLink_lanes _ l)

theorem State.sendWaiting_lanes (l : Nat) : ∀ (n : Nat) (s : State), LanesStand s (s.sendWaiting l n)
  | 0, s => .refl s
  | n + 1, s => by
    simp only [State.sendWaiting]
    split
    · exact .refl s
    · split
      · exact .refl s
      · next picks =>
        refine (State.pickFlit_lanes picks).trans (.trans ?_ (State.sendWaiting_lanes l n _))
        exact (LanesStand.of_touches (.via (State.emit_touches ..) (.mono (State.pmcLink_touches ..)) : Touches [.rf, .dbg, .out] _ _)).trans
          (State.modLink_lanes _ l)

theorem State.drain_lanes (s : State) (l : Nat) : LanesStand s (s.drain l) := State.sendWaiting_lanes l _ s

/-- A bundle that goes down takes no link with it. -/
theorem State.bundleDown_lanes (s : State) (b : Nat) : LanesStand s (s.bundleDown b) := by
  unfold State.bundleDown
  have peers := LanesStand.foldl (f := State.peerFails) (fun s c => .of_touches (s.peerFails_touches c)) (s.bundlePeers b) s
  have clear (t : State) : LanesStand t (t.clearLanes b) := .of_links rfl
  dsimp only
  split
  · refine .ite (peers.trans (clear _)) ((peers.trans (clear _)).trans (LanesStand.foldl (fun s p => ?_) _ _))
    exact .ite (.of_touches (s.loseMirror_touches p)) (.refl s)
  · exact peers.trans (clear _)

/-- A link that leaves for a state in which it carries nothing. -/
def Link.dropped (st : LinkState) (x : Link) : Link :=
  { x with state := st, activeMap := 0, replay := [], waiting := [], rx := [], credits := [], reserves := [], owed := [],
           laneCe := [], naked := false, replayRow := 0, trainFailedAt := none }

theorem State.dropLink_lanes (s : State) (l : Nat) (st : LinkState) :
    LanesStand (s.modLink l (Link.dropped st)) (s.dropLink l st) := by
  unfold State.dropLink
  dsimp only
  have merge (k : Nat) (x : List DataFlit) (t : State) :
      LanesStand t ((t.modLink k fun y => { y with waiting := y.waiting ++ x }).drain k) :=
    (t.modLink_lanes k).trans (State.drain_lanes _ k)
  have event (t : State) : LanesStand t (t.setBit Reg.lnkEvent 2) := .of_touches (State.setBit_touches ..)
  have tell (kind : String) (args : List Nat) (t : State) : LanesStand t (t.tellDm kind args) := .of_touches (State.tellDm_touches ..)
  refine .ite (.refl _) ?_
  split
  · exact .maybe (.maybe (.trans (.ite (.refl _) (merge _ _ _)) (event _)) (tell _ _ _)) (State.bundleDown_lanes _ _)
  · exact .maybe (.maybe (event _) (tell _ _ _)) (State.bundleDown_lanes _ _)

/-- A link that narrows, on the w lowest of the usable wavelengths u. -/
def Link.narrowed (u w : Nat) (x : Link) : Link := { x with state := .retrain, activeMap := BitVec.ofNat 10 (lowestBits u w) }

/-- A narrowing takes the widest width that is usable, or takes the link down. -/
theorem State.narrow_lanes (s : State) (l : Nat) :
    let w := widthFor (s.link l).ethernet (popCount 10 (s.usableLanes l))
    LanesStand (s.modLink l (if w = 0 then Link.dropped .down else Link.narrowed (s.usableLanes l) w)) (s.narrow l) := by
  intro w
  unfold State.narrow
  dsimp only
  by_cases none : w = 0
  · rw [if_pos none, if_pos none]
    exact s.dropLink_lanes l .down
  · rw [if_neg none, if_neg none]
    have merge (k : Nat) (x : List DataFlit) (t : State) : LanesStand t
        (((t.modLink l fun y => { y with replay := [] }).modLink k fun y => { y with waiting := y.waiting ++ x }).drain k) :=
      ((t.modLink_lanes l).trans (State.modLink_lanes _ k)).trans (State.drain_lanes _ k)
    have again (c : Bool) (t : State) : LanesStand t (if c then t else t.bumpFld (Reg.lnkRetrainCnt l) 15 0 1) :=
      .ite (.refl t) (.of_touches (State.bumpFld_touches ..))
    have warn (t : State) : LanesStand t ((t.setBit Reg.lnkEvent 1).linkWarn 1) :=
      .of_touches (.via (State.linkWarn_touches ..) (.mono (State.setBit_touches ..)) : Touches [.rf, .mgt, .flt, .out] _ _)
    have tell (kind : String) (args : List Nat) (t : State) : LanesStand t (t.tellDm kind args) := .of_touches (State.tellDm_touches ..)
    refine .ite (.trans ?_ (warn _)) (.trans (.trans ?_ (warn _)) (tell _ _ _))
    all_goals
      split
      · exact .trans (again _ _) (.ite (.refl _) (merge _ _ _))
      · exact again _ _

/-! ### A wavelength fails (R302, R303) -/

/-- A link with one more failure mark. -/
def Link.marked (lane : Nat) (x : Link) : Link := { x with failed := x.failed ||| BitVec.ofNat 10 (2 ^ lane) }

/-- A lane with a failure mark is not usable; every other one as before. -/
theorem State.usableLanes_marked (s : State) (l lane : Nat) {k : Nat} (low : k < 10) :
    ((s.modLink l (Link.marked lane)).usableLanes l).testBit k = ((s.usableLanes l).testBit k && !decide (lane = k)) := by
  have fused : (s.modLink l (Link.marked lane)).fusedLanes l = s.fusedLanes l := rfl
  have laser : (s.modLink l (Link.marked lane)).net.laserFailed = s.net.laserFailed := rfl
  have ones : (0x3FF : Nat).testBit k = true := by interval_cases k <;> decide
  unfold State.usableLanes
  rw [fused, laser, State.link_modLink_self]
  simp only [Nat.testBit_and, testBit_complement _ low, Nat.testBit_or, ones, Link.marked, BitVec.toNat_or, BitVec.toNat_ofNat,
    Nat.testBit_mod_two_pow, Nat.testBit_two_pow, low]
  cases (s.fusedLanes l).testBit k <;> cases (s.link l).failed.toNat.testBit k <;> cases s.net.laserFailed.toNat.testBit k <;> simp

/-- The mask of one lane that is new is that lane. -/
theorem newLane {failed : BitVec 10} {fused : Nat} {lane : Fin 10} (good : failed.getLsbD lane.val = false)
    (whole : bitOf fused lane.val = false) : 2 ^ lane.val &&& (0x3FF ^^^ (failed.toNat ||| fused)) = 2 ^ lane.val := by
  apply Nat.eq_of_testBit_eq
  intro i
  rw [Nat.testBit_and, Nat.testBit_two_pow]
  by_cases same : lane.val = i
  · subst same
    rw [bitOf_eq] at whole
    rw [testBit_complement _ lane.isLt, Nat.testBit_or, BitVec.testBit_toNat, good, whole]
    simp
  · simp [same]

/-- The link that has a spare in the place of a lane. -/
def Link.spareFor (kept spares : Nat) (x : Link) : Link :=
  { x with activeMap := BitVec.ofNat 10 (kept ||| lowestBits spares 1), spared := x.spared + 1 }

theorem eq_or_eq_of_ite {α : Type} {c : Prop} [Decidable c] {t a b : α} (h : t = if c then a else b) : t = b ∨ t = a := by
  split at h
  · exact .inr h
  · exact .inl h

/-- What a failed lane comes to, by the link's state and by whether the lane was in use. -/
theorem State.failLanes_one {s : State} {l : Nat} {lane : Fin 10} (good : (s.link l).failed.getLsbD lane.val = false)
    (whole : bitOf (s.fusedLanes l) lane.val = false) :
    let x := s.link l
    let v := s.modLink l (Link.marked lane.val)
    let kept := x.activeMap.toNat &&& (0x3FF ^^^ 2 ^ lane.val)
    let spares := v.usableLanes l &&& (0x3FF ^^^ kept)
    (x.state = .retrain → s.failLanes l (2 ^ lane.val) = v.narrow l) ∧
    (x.state = .up → x.activeMap.getLsbD lane.val = false → s.failLanes l (2 ^ lane.val) = v) ∧
    (x.state = .up → x.activeMap.getLsbD lane.val = true → popCount 10 spares = 0 → s.failLanes l (2 ^ lane.val) = v.narrow l) ∧
    (x.state = .up → x.activeMap.getLsbD lane.val = true → popCount 10 spares ≠ 0 →
      let w := ((v.modLink l (Link.spareFor kept spares)).bumpFld (Reg.lnkRetrainCnt l) 31 16 1).setBit Reg.lnkEvent 0
      s.failLanes l (2 ^ lane.val) = w ∨ s.failLanes l (2 ^ lane.val) = w.linkWarn 1) := by
  intro x v kept spares
  have new := newLane good whole
  have count := popCount_and_pow x.activeMap.toNat lane.isLt
  rw [BitVec.testBit_toNat] at count
  have fails : s.failLanes l (2 ^ lane.val) = _ := (if_neg (by rw [new]; exact (Nat.two_pow_pos _).ne')).trans rfl
  rw [new, count] at fails
  have other (up : x.state = .up) : ¬ (x.state == .retrain) = true := by rw [up]; decide
  have serves (up : x.state = .up) : ¬ (x.state != .up || decide (1 = 0)) = true := by rw [up]; decide
  refine ⟨fun retrain => fails.trans (if_pos ?_), fun up idle => ?_, fun up used without => ?_, fun up used spare => ?_⟩
  · change (x.state == .retrain) = true
    rw [retrain]
    rfl
  · rw [idle, if_neg Bool.false_ne_true] at fails
    exact fails.trans ((if_neg (other up)).trans (if_pos (by simp)))
  all_goals
    rw [used, if_pos rfl] at fails
    replace fails := fails.trans ((if_neg (other up)).trans (if_neg (serves up)))
  · exact fails.trans (if_pos (by change popCount 10 spares < 1; omega))
  · replace fails := fails.trans (if_neg (by change ¬ popCount 10 spares < 1; omega))
    exact eq_or_eq_of_ite fails

theorem getLsbD_ofNat_ten (n : Nat) {i : Nat} (low : i < 10) : (BitVec.ofNat 10 n).getLsbD i = n.testBit i := by
  rw [BitVec.getLsbD_ofNat]
  simp [low]

/-- A narrowed link uses only usable wavelengths, or none. -/
theorem State.narrow_uses {s : State} {l k : Nat} (low : k < 10) (unusable : (s.usableLanes l).testBit k = false) :
    ((s.narrow l).link l).activeMap.getLsbD k = false := by
  rw [(s.narrow_lanes l l).2.1, State.link_modLink_self]
  split
  · simp [Link.dropped]
  · rw [Link.narrowed, getLsbD_ofNat_ten _ low]
    by_contra used
    rw [bit_of_lowestBits (by simpa using used)] at unusable
    cases unusable

/-- The lanes of a spare's map: those kept, and the spare. -/
theorem testBit_spareMap {map : BitVec 10} {lane : Fin 10} {spares : Nat} {k : Nat} (low : k < 10) :
    (BitVec.ofNat 10 ((map.toNat &&& (0x3FF ^^^ 2 ^ lane.val)) ||| lowestBits spares 1)).getLsbD k =
      (map.getLsbD k && !decide (lane.val = k) || (lowestBits spares 1).testBit k) := by
  rw [getLsbD_ofNat_ten _ low, Nat.testBit_or, Nat.testBit_and, testBit_complement _ low, Nat.testBit_two_pow, BitVec.testBit_toNat]

/-- An operation that does not touch the registers. -/
theorem State.rd_of_touches {l : List Component} {s t : State} (h : Touches l s t) (q : Nat) (apart : .rf ∉ l := by decide) :
    t.rd q = s.rd q := by
  have rf : t.rf = s.rf := h.frame .rf apart
  rw [State.rd_get, State.rd_get, rf]

/-- A record that is no fault's leaves the registers. -/
theorem State.rd_logEvent (s : State) {r : EvRec} (other : r.kind ≠ 1) (q : Nat) : (s.logEvent r).rd q = s.rd q := by
  obtain ⟨events, seq, held, eq⟩ := s.logEvent_eq r
  rw [eq]
  change (s.countFault r).rd q = s.rd q
  rw [State.countFault, if_neg other]

/-- A failure warning shows in FLT_EVENT and FLT_WARN_SRC alone. -/
theorem State.rd_warn (s : State) (source : Nat) {q : Nat} (event : q ≠ Reg.fltEvent) (src : q ≠ Reg.fltWarnSrc) :
    (s.warn source).rd q = s.rd q := by
  have flags : ((s.setBit Reg.fltEvent 5).setBit Reg.fltWarnSrc source).rd q = s.rd q := by
    rw [State.rd_setBit_ne _ _ src, State.rd_setBit_ne _ _ event]
  unfold State.warn
  dsimp only
  generalize (s.setBit Reg.fltEvent 5).setBit Reg.fltWarnSrc source = v at flags ⊢
  have sends (quiet : Bool) (f : Flt) : (if quiet then v else (((({ v with flt := f } : State).tellDm "WARN" [source]).ibi
      0x02).logEvent { kind := 3, source := 0x0D, code := source })).rd q = v.rd q := by
    split
    · rfl
    · rw [State.rd_logEvent _ (show 3 ≠ 1 by decide)]
      exact State.rd_of_touches (.via (State.ibi_touches ..) (.via (State.tellDm_touches ..) (.mono (v.setFlt_touches f))) :
        Touches [.mgt, .flt, .out] v _) q
  exact (sends _ _).trans flags

theorem State.linkWarn_event (s : State) (source : Nat) : (s.linkWarn source).rdBit Reg.lnkEvent 0 = s.rdBit Reg.lnkEvent 0 := by
  unfold State.linkWarn
  rw [State.rdBit, State.rd_warn _ _ (by decide) (by decide)]
  exact (State.rdBit_setBit _ _ _ (by decide)).trans (by simp)

/-- The link whose lane has a spare in its place. -/
theorem State.spared_link {s t : State} {l : Nat} {kept spares : Nat}
    (spared : let w := ((s.modLink l (Link.spareFor kept spares)).bumpFld (Reg.lnkRetrainCnt l) 31 16 1).setBit Reg.lnkEvent 0
      t = w ∨ t = w.linkWarn 1) :
    (t.link l).state = (s.link l).state ∧ (t.link l).failed = (s.link l).failed ∧
    (t.link l).activeMap = BitVec.ofNat 10 (kept ||| lowestBits spares 1) ∧ t.rdBit Reg.lnkEvent 0 = true := by
  let w := ((s.modLink l (Link.spareFor kept spares)).bumpFld (Reg.lnkRetrainCnt l) 31 16 1).setBit Reg.lnkEvent 0
  have shown : LanesStand (s.modLink l (Link.spareFor kept spares)) w :=
    .of_touches (.via (State.setBit_touches ..) (State.bumpFld_touches ..))
  have event : w.rdBit Reg.lnkEvent 0 = true := (State.rdBit_setBit _ _ _ (by decide)).trans (by simp)
  have link : LanesStand (s.modLink l (Link.spareFor kept spares)) t := by
    obtain rfl | rfl := spared
    · exact shown
    · exact shown.trans (.of_touches (State.linkWarn_touches ..))
  obtain ⟨state, map, failed⟩ := link l
  rw [State.link_modLink_self] at state map failed
  refine ⟨state, failed, map, ?_⟩
  obtain rfl | rfl := spared
  · exact event
  · exact (State.linkWarn_event w 1).trans event

section
variable {s : State} {l : Nat} {lane : Fin 10} (good : (s.link l).failed.getLsbD lane.val = false)
  (whole : bitOf (s.fusedLanes l) lane.val = false)
include good whole

/-- The link carries nothing on the lane that has failed. -/
theorem State.failLanes_clears (carries : (s.link l).state = .up ∨ (s.link l).state = .retrain) :
    ((s.failLanes l (2 ^ lane.val)).link l).activeMap.getLsbD lane.val = false := by
  have unusable : ((s.modLink l (Link.marked lane.val)).usableLanes l).testBit lane.val = false := by
    rw [s.usableLanes_marked l lane.val lane.isLt]
    simp
  obtain ⟨retrain, idle, without, spare⟩ := State.failLanes_one good whole
  obtain up | up := carries
  · by_cases used : (s.link l).activeMap.getLsbD lane.val = true
    · let kept := (s.link l).activeMap.toNat &&& (0x3FF ^^^ 2 ^ lane.val)
      let spares := (s.modLink l (Link.marked lane.val)).usableLanes l &&& (0x3FF ^^^ kept)
      by_cases none : popCount 10 spares = 0
      · rw [without up used none]
        exact State.narrow_uses lane.isLt unusable
      · obtain ⟨-, -, map, -⟩ := State.spared_link (spare up used none)
        rw [map, testBit_spareMap lane.isLt]
        have apart : (lowestBits spares 1).testBit lane.val = false := by
          by_contra taken
          have := bit_of_lowestBits (by simpa using taken)
          rw [Nat.testBit_and, unusable] at this
          cases this
        rw [apart]
        simp
    · rw [idle up (by simpa using used), State.link_modLink_self]
      simpa [Link.marked] using used
  · rw [retrain up]
    exact State.narrow_uses lane.isLt unusable

/-- The lowest spare of a link that is UP takes the place of a lane in use. -/
theorem State.failLanes_spares (up : (s.link l).state = .up) (used : (s.link l).activeMap.getLsbD lane.val = true) {spare : Fin 10}
    (other : spare ≠ lane) (usable : (s.usableLanes l).testBit spare.val = true)
    (idle : (s.link l).activeMap.getLsbD spare.val = false)
    (least : ∀ k : Fin 10, k.val < spare.val → k ≠ lane → (s.usableLanes l).testBit k.val = true →
      (s.link l).activeMap.getLsbD k.val = true) :
    let u := s.failLanes l (2 ^ lane.val)
    (u.link l).state = .up ∧ (u.link l).failed = (s.link l).failed ||| BitVec.ofNat 10 (2 ^ lane.val) ∧
      u.rdBit Reg.lnkEvent 0 = true ∧ ∀ k : Fin 10, k ≠ lane → (u.link l).activeMap.getLsbD k.val =
        ((s.link l).activeMap.getLsbD k.val || k == spare) := by
  intro u
  let kept := (s.link l).activeMap.toNat &&& (0x3FF ^^^ 2 ^ lane.val)
  let spares := (s.modLink l (Link.marked lane.val)).usableLanes l &&& (0x3FF ^^^ kept)
  have apart {k : Fin 10} (h : k ≠ lane) : decide (lane.val = k.val) = false := by
    simpa using fun same => h (Fin.ext same.symm)
  have bit (k : Fin 10) : spares.testBit k.val = ((s.usableLanes l).testBit k.val && !decide (lane.val = k.val) &&
      !((s.link l).activeMap.getLsbD k.val && !decide (lane.val = k.val))) := by
    rw [Nat.testBit_and, s.usableLanes_marked l _ k.isLt, testBit_complement _ k.isLt, Nat.testBit_and, testBit_complement _ k.isLt,
      Nat.testBit_two_pow, BitVec.testBit_toNat]
  have set : spares.testBit spare.val = true := by rw [bit, usable, idle, apart other]; rfl
  have first : ∀ k, k < spare.val → spares.testBit k = false := fun k below => by
    rw [bit ⟨k, by omega⟩]
    by_cases same : (⟨k, by omega⟩ : Fin 10) = lane
    · simp [← same]
    · have := least ⟨k, by omega⟩ below same
      cases known : (s.usableLanes l).testBit k
      · simp
      · simp [this known, apart same]
  obtain ⟨-, -, -, spared⟩ := State.failLanes_one good whole
  obtain ⟨state, failed, map, event⟩ := State.spared_link (spared up used (popCount_pos spare.isLt set).ne')
  rw [State.link_modLink_self] at state failed
  refine ⟨state.trans up, failed, event, fun k h => ?_⟩
  rw [map, testBit_spareMap k.isLt, testBit_lowestBits_one spare.isLt set first, apart h]
  by_cases same : k = spare
  · simp [same]
  · have : ¬ k.val = spare.val := fun e => same (Fin.ext e)
    simp [same, this]

end

/-- Settles O34: a lane that fails is left by each outcome, and the lowest spare takes its place. -/
theorem failedWavelengthsCarryNothing : Obligations.FailedWavelengthsCarryNothing := by
  unfold Obligations.FailedWavelengthsCarryNothing
  intro l lane r s carries good whole
  refine ⟨_, rfl, State.failLanes_clears good whole carries, fun spare up used other usable idle least => ?_⟩
  rw [bitOf_eq] at usable
  exact State.failLanes_spares good whole up used other usable idle
    fun k below h known => least k below h ((congrFun (bitOf_eq _) _).trans known)

end Sys2Proof.Machine
end

section
/-!
PROOF. Links train (R297, R300, R301, R303, R307): up, miswired, refused, or waiting.
-/

-- One declaration after another: the package as one text then needs few threads at a time.
set_option Elab.async false

namespace Sys2Proof.Machine
open Sys2Proof.Safety

/-! ### Training (R300, R301, R303) -/

/-- A link that may train: its chip is committed and enabled, it is not disabled, and no failed step's wait runs. -/
structure MayTrain (s : State) (l : Fin 36) : Prop where
  waits : (s.link l.val).state = .down ∨ (s.link l.val).state = .training
  fresh : (s.link l.val).trainFailedAt = none
  configured : (s.link l.val).configured = true
  enabled : s.blockOn 14 = true
  committed : s.rdBit Reg.mgtStatus 16 = true
  allowed : s.rdBit (Reg.lnkCtrl l.val) 1 = false

/-- The wavelengths that this end and the far end can use. -/
def State.usableWith (s : State) (l : Fin 36) (r : TrainResult) : Nat := s.usableLanes l.val &&& r.usable.toNat

/-- The width at which the link would train. -/
def State.widthWith (s : State) (l : Fin 36) (r : TrainResult) : Nat :=
  widthFor (s.link l.val).ethernet (popCount 10 (s.usableWith l r))

/-- The link in training. -/
def State.training (s : State) (l : Fin 36) : State := s.modLink l.val fun x => { x with state := .training }

theorem State.usableLanes_training (s : State) (l : Fin 36) :
    (s.modLink l.val fun x => { x with state := .training }).usableLanes l.val = s.usableLanes l.val := by
  unfold State.usableLanes
  rw [State.link_modLink_self]
  rfl

/-- A step from a to b fails. -/
def failsWithin (r : TrainResult) (a b : Nat) : Bool := r.failStep.any fun k => decide (a ≤ k.val) && decide (k.val ≤ b)

/-- One of the steps 1 to 5 fails, or the lasers are off, or no width is usable. -/
def State.failsFive (s : State) (l : Fin 36) (r : TrainResult) : Bool :=
  failsWithin r 0 5 || !s.rdBit Reg.lnkRlmCtrl 0 || decide (s.widthWith l r = 0)

/-- The peer as step 6 shows it. -/
def State.showPeer (s : State) (l : Fin 36) (r : TrainResult) : State :=
  s.wr (Reg.lnkPeer l.val) (BitVec.ofNat 32 (packFields [(0, 14, r.farChip.toNat),
    (16, 6, if r.farIsSwitch then 0x3F else r.farLink.toNat), (22, 1, b2n r.farIsSwitch)]))

/-- A link keeps the delay that step 7 measured. -/
def Link.measured (r : TrainResult) (x : Link) : Link := { x with delayPs := r.delayPs, asymPs := r.asymPs }

/-- What a link of a bundle comes to from step 6 on. -/
def State.trainBundle (s : State) (l : Fin 36) (r : TrainResult) (c : BundleCfg) (map : Nat) : State :=
  if failsWithin r 6 6 then s.trainFailed l.val else
  let s := s.showPeer l r
  if s.miswired c r then (s.modLink l.val fun x => { x with state := .miswired, firstTry := true }).setBit Reg.lnkEvent 4
  else if failsWithin r 7 7 then s.trainFailed l.val else
  let s := s.modLink l.val (Link.measured r)
  if 500000 < r.delayPs.toNat || r.vl0Credits < 16 then s.modLink l.val fun x => { x with state := .refused, firstTry := true }
  else if failsWithin r 8 8 then s.trainFailed l.val
  else (s.firstCredits c r.vl0Credits).2.linkUp l.val map (s.firstCredits c r.vl0Credits).1

section
variable {s : State} {l : Fin 36} (may : MayTrain s l) (r : TrainResult)
include may

/-- An attempt begins in TRAINING, on the wavelengths that are usable before it. -/
theorem exec_linkTrain_fails (fails : s.failsFive l r = true) :
    exec (.linkTrain l r) s = .next ((s.training l).trainFailed l.val) := by
  obtain ⟨waits, fresh, configured, enabled, committed, allowed⟩ := may
  have start : exec (.linkTrain l r) s = _ :=
    if_neg (by obtain w | w := waits <;> simp [w, fresh, configured, enabled, committed, allowed])
  rw [s.usableLanes_training l] at start
  exact start.trans (if_pos fails)

theorem exec_linkTrain_ethernet (passes : s.failsFive l r = false) (kind : (s.link l.val).ethernet = true) :
    exec (.linkTrain l r) s = .next ((s.training l).linkUp l.val (lowestBits (s.usableWith l r) (s.widthWith l r)) []) := by
  obtain ⟨waits, fresh, configured, enabled, committed, allowed⟩ := may
  have start : exec (.linkTrain l r) s = _ :=
    if_neg (by obtain w | w := waits <;> simp [w, fresh, configured, enabled, committed, allowed])
  rw [s.usableLanes_training l] at start
  exact start.trans ((if_neg (Bool.eq_false_iff.1 passes)).trans (if_pos kind))

theorem exec_linkTrain_bundle (passes : s.failsFive l r = false) (kind : (s.link l.val).ethernet = false) {c : BundleCfg}
    (bundle : s.bundle (s.link l.val).bundle.toNat = some c) : exec (.linkTrain l r) s =
    .next (((s.training l).sendIdentity l.val c).trainBundle l r c (lowestBits (s.usableWith l r) (s.widthWith l r))) := by
  obtain ⟨waits, fresh, configured, enabled, committed, allowed⟩ := may
  have start : exec (.linkTrain l r) s = _ :=
    if_neg (by obtain w | w := waits <;> simp [w, fresh, configured, enabled, committed, allowed])
  rw [s.usableLanes_training l] at start
  replace start := start.trans ((if_neg (Bool.eq_false_iff.1 passes)).trans (if_neg (by simp [kind])))
  have named : (s.modLink l.val fun x => { x with state := .training }).bundle (s.link l.val).bundle.toNat = some c := bundle
  rw [named] at start
  refine start.trans ?_
  unfold State.trainBundle
  simp only [apply_ite Host.Outcome.next]
  rfl

end

/-! ### What a training changes -/

/-- Every link but one is as before. -/
def OtherLinks (l : Nat) (s t : State) : Prop := ∀ k, k ≠ l → t.link k = s.link k

theorem OtherLinks.trans {l : Nat} {r s t : State} (h : OtherLinks l r s) (i : OtherLinks l s t) : OtherLinks l r t :=
  fun k other => (i k other).trans (h k other)

theorem OtherLinks.of_touches (l : Nat) {m : List Component} {s t : State} (h : Touches m s t) (apart : .net ∉ m := by decide) :
    OtherLinks l s t :=
  fun k _ => State.link_congr (congrArg Net.links (h.frame .net apart)) k

theorem State.modLink_others (s : State) (l : Nat) (f : Link → Link) : OtherLinks l s (s.modLink l f) :=
  fun _ other => State.link_modLink_ne s f other

/-- An operation that does not touch the network leaves a link. -/
theorem State.link_of_touches {m : List Component} {s t : State} (h : Touches m s t) (k : Nat) (apart : .net ∉ m := by decide) :
    t.link k = s.link k :=
  State.link_congr (congrArg Net.links (h.frame .net apart)) k

theorem Reg.lnkEvent_ne_ctrl (l : Nat) : Reg.lnkEvent ≠ Reg.lnkCtrl l := by
  simp only [Reg.lnkEvent, Reg.lnkCtrl]
  omega

/-- A link that comes up. -/
structure CameUp (s t : State) (l map : Nat) (credits : Sparse Nat) : Prop where
  state : (t.link l).state = .up
  map : (t.link l).activeMap = BitVec.ofNat 10 map
  credits : (t.link l).credits = credits
  delay : (t.link l).delayPs = (s.link l).delayPs
  asym : (t.link l).asymPs = (s.link l).asymPs
  event : t.rdBit Reg.lnkEvent 3 = true
  others : OtherLinks l s t
  out : t.out = s.out

theorem State.linkUp_cameUp (s : State) (l map : Nat) (credits : Sparse Nat) :
    CameUp s (s.linkUp l map credits) l map credits := by
  unfold State.linkUp
  refine ⟨by simp, by simp, by simp, by simp, by simp, ?_,
    (s.modLink_others l _).trans (.of_touches l (.via (State.clrBit_touches ..) (State.setBit_touches ..))), rfl⟩
  rw [State.rdBit_clrBit_ne _ _ _ (Reg.lnkEvent_ne_ctrl l)]
  exact (State.rdBit_setBit _ _ _ (by decide)).trans (by simp)

/-- The state in which a link has sent its identity. -/
def State.identified (s : State) (l : Fin 36) (c : BundleCfg) : State := (s.training l).sendIdentity l.val c

theorem State.identified_out (s : State) (l : Fin 36) (c : BundleCfg) : (s.identified l c).out =
    s.out ++ [.identity l.val (s.rd Reg.mgtDomain) s.self c.kind.toNat 1] := rfl

theorem State.identified_others (s : State) (l : Fin 36) (c : BundleCfg) : OtherLinks l.val s (s.identified l c) :=
  (s.modLink_others l.val _).trans (.of_touches _ (State.emit_touches ..))

theorem State.showPeer_out (s : State) (l : Fin 36) (r : TrainResult) : (s.showPeer l r).out = s.out := State.wr_out ..

theorem State.showPeer_miswired (s : State) (l : Fin 36) (r : TrainResult) (c : BundleCfg) :
    (s.showPeer l r).miswired c r = s.miswired c r := by
  have peer {q : Nat} (low : q < 0xE100C) : (s.showPeer l r).rd q = s.rd q :=
    State.rd_wr_ne _ _ (by simp only [Reg.lnkPeer]; omega)
  simp only [State.miswired, State.bundleFar, State.rdFld, peer (show Reg.mgtDomain < 0xE100C by decide),
    peer (show Reg.mgtCoord < 0xE100C by decide)]

/-- The first credits of VL0 are what the far end advertised. -/
theorem State.firstCredits_vl0 (s : State) (c : BundleCfg) (n : Nat) : Sparse.get 0 (s.firstCredits c n).1 0 = n := by
  unfold State.firstCredits
  dsimp only
  split
  · simp
  · split
    · simp [List.range_succ]
    · simp [creditPool]

section
variable {s : State} {l : Fin 36} {r : TrainResult} {c : BundleCfg} {map : Nat}

/-- Every step passes. -/
theorem State.trainBundle_up (passes : r.failStep = none) (wired : (s.showPeer l r).miswired c r = false)
    (near : r.delayPs.toNat ≤ 500000) (credits : 16 ≤ r.vl0Credits) :
    let v := (s.showPeer l r).modLink l.val (Link.measured r)
    s.trainBundle l r c map = (v.firstCredits c r.vl0Credits).2.linkUp l.val map (v.firstCredits c r.vl0Credits).1 := by
  have none (a b : Nat) : failsWithin r a b = false := by rw [failsWithin, passes]; rfl
  intro v
  unfold State.trainBundle
  simp only [none, wired, Bool.false_eq_true, if_false]
  exact if_neg (by simp; omega)

theorem State.trainBundle_miswired (passes : r.failStep = none) (wrong : (s.showPeer l r).miswired c r = true) :
    s.trainBundle l r c map = ((s.showPeer l r).modLink l.val fun x => { x with state := .miswired, firstTry := true }).setBit
      Reg.lnkEvent 4 := by
  have none (a b : Nat) : failsWithin r a b = false := by rw [failsWithin, passes]; rfl
  unfold State.trainBundle
  simp only [none, Bool.false_eq_true, if_false]
  exact if_pos wrong

theorem State.trainBundle_refused (passes : r.failStep = none) (wired : (s.showPeer l r).miswired c r = false)
    (bad : 500000 < r.delayPs.toNat ∨ r.vl0Credits < 16) :
    s.trainBundle l r c map = ((s.showPeer l r).modLink l.val (Link.measured r)).modLink l.val fun x =>
      { x with state := .refused, firstTry := true } := by
  have none (a b : Nat) : failsWithin r a b = false := by rw [failsWithin, passes]; rfl
  unfold State.trainBundle
  simp only [none, wired, Bool.false_eq_true, if_false]
  exact if_pos (by simpa using bad)

theorem State.trainBundle_unidentified (fails : r.failStep = some 6) : s.trainBundle l r c map = s.trainFailed l.val :=
  if_pos (by rw [failsWithin, fails]; rfl)

end

/-- A link whose attempt fails waits from now on. -/
theorem State.trainFailed_link (s : State) (l : Nat) : ((s.trainFailed l).link l).state = .down ∧
    ((s.trainFailed l).link l).trainFailedAt = some s.now := by
  rw [State.trainFailed, State.link_modLink_self]
  exact ⟨rfl, rfl⟩

theorem State.trainFailed_others (s : State) (l : Nat) : OtherLinks l s (s.trainFailed l) := s.modLink_others l _

theorem exec_trainRetry {s : State} {l : Fin 36} {t : Dword} (waits : (s.link l.val).trainFailedAt = some t)
    (down : (s.link l.val).state = .down) : ∃ u, exec (.trainRetry l) s = .next u ∧
      u.link l.val = { s.link l.val with state := .training, trainFailedAt := none } ∧
      u.clock = (s.reach (t.toNat + 100000000)).clock ∧ (∀ k, k ≠ l.val → u.link k = s.link k) ∧ Frame [.clock, .net] s u := by
  have link (k : Nat) : (s.reach (t.toNat + 100000000)).link k = s.link k := State.link_of_touches (State.reach_touches ..) k
  have retries : exec (.trainRetry l) s = .next ((s.reach (t.toNat + 100000000)).modLink l.val fun x =>
      { x with state := if x.state == .down then .training else x.state, trainFailedAt := none }) := by
    change execTrainRetry l s = _
    rw [execTrainRetry, waits]
  have frame : Frame [.clock, .net] s _ := exec_frame retries
  refine ⟨_, retries, ?_, State.modLink_clock .., fun k other => ?_, frame⟩
  · rw [State.link_modLink_self, link, down]
    rfl
  · rw [State.link_modLink_ne _ _ other, link]

/-- Settles O33: each outcome of an attempt, and the retry after it. -/
theorem linksTrainToTheirWidth : Obligations.LinksTrainToTheirWidth := by
  unfold Obligations.LinksTrainToTheirWidth
  refine ⟨?_, fun l t s waits down => exec_trainRetry waits down⟩
  intro l r s waits fresh configured enabled committed allowed x usable w passed others _ failed up
  have may : MayTrain s l := ⟨waits, fresh, configured, enabled, committed, allowed⟩
  have framed {u : State} (acts : exec (.linkTrain l r) s = .next u) (h : OtherLinks l.val s u) : others u :=
    ⟨h, exec_frame acts⟩
  have passes (h : passed) : s.failsFive l r = false := by
    obtain ⟨none, on, width⟩ := h
    have steps : failsWithin r 0 5 = false := by rw [failsWithin, none]; rfl
    simp only [State.failsFive, steps, on, Bool.not_true, Bool.or_self, Bool.false_or]
    exact decide_eq_false width
  have upOf {t u : State} {credits : Sparse Nat} (acts : exec (.linkTrain l r) s = .next u) (start : OtherLinks l.val s t)
      (came : CameUp t u l.val (lowestBits usable w) credits) : up u :=
    ⟨came.state, came.map, came.event, framed acts (start.trans came.others)⟩
  have trains : OtherLinks l.val s (s.training l) := s.modLink_others l.val _
  have peer (c : BundleCfg) : OtherLinks l.val s ((s.identified l c).showPeer l r) :=
    (s.identified_others l c).trans (.of_touches _ (State.wr_touches ..))
  have wires (c : BundleCfg) : ((s.identified l c).showPeer l r).miswired c r = s.miswired c r := State.showPeer_miswired _ l r c
  have told (c : BundleCfg) : ((s.identified l c).showPeer l r).out = _ := (State.showPeer_out ..).trans (s.identified_out l c)
  refine ⟨fun h kind => ?_, fun c h kind bundle => ⟨fun wired near credits => ?_, fun wrong => ?_, fun wired bad => ?_⟩,
    fun c six on width kind bundle => ?_, fun fails => ?_⟩
  · have acts := exec_linkTrain_ethernet may r (passes h) kind
    exact ⟨_, acts, upOf acts trains (State.linkUp_cameUp ..)⟩
  · have acts := exec_next (exec_linkTrain_bundle may r (passes h) kind bundle)
      (State.trainBundle_up h.1 ((wires c).trans wired) near credits)
    let v := ((s.identified l c).showPeer l r).modLink l.val (Link.measured r)
    have came := (v.firstCredits c r.vl0Credits).2.linkUp_cameUp l.val (lowestBits usable w) (v.firstCredits c r.vl0Credits).1
    have first := v.firstCredits_touches c r.vl0Credits
    have link : (v.firstCredits c r.vl0Credits).2.link l.val = Link.measured r (((s.identified l c).showPeer l r).link l.val) :=
      (State.link_of_touches first l.val).trans (State.link_modLink_self ..)
    have start : OtherLinks l.val s (v.firstCredits c r.vl0Credits).2 :=
      ((peer c).trans (State.modLink_others _ _ _)).trans (.of_touches _ first)
    refine ⟨_, acts, upOf acts start came, came.out.trans ?_, came.delay.trans (by rw [link]; rfl),
      came.asym.trans (by rw [link]; rfl), ?_⟩
    · exact (first.frame .out (by decide)).trans ((State.modLink_out ..).trans (told c))
    · exact (congrArg (Sparse.get 0 · 0) came.credits).trans (v.firstCredits_vl0 c r.vl0Credits)
  · have acts := exec_next (exec_linkTrain_bundle may r (passes h) kind bundle) (State.trainBundle_miswired h.1 ((wires c).trans wrong))
    have link := State.link_modLink_self ((s.identified l c).showPeer l r) l.val fun x => { x with state := .miswired, firstTry := true }
    refine ⟨_, acts, (congrArg Link.state ((State.setBit_link ..).trans link)), ?_,
      (State.setBit_out ..).trans ((State.modLink_out ..).trans (told c)), framed acts ?_⟩
    · exact (State.rdBit_setBit _ _ _ (by decide)).trans (by simp)
    · exact ((peer c).trans (State.modLink_others _ _ _)).trans (.of_touches _ (State.setBit_touches ..))
  · have acts := exec_next (exec_linkTrain_bundle may r (passes h) kind bundle)
      (State.trainBundle_refused h.1 ((wires c).trans wired) bad)
    refine ⟨_, acts, congrArg Link.state (State.link_modLink_self ..),
      (State.modLink_out ..).trans ((State.modLink_out ..).trans (told c)), framed acts ?_⟩
    exact ((peer c).trans (State.modLink_others _ _ _)).trans (State.modLink_others _ _ _)
  · have five : s.failsFive l r = false := by
      have steps : failsWithin r 0 5 = false := by rw [failsWithin, six]; rfl
      simp only [State.failsFive, steps, on, Bool.not_true, Bool.or_self, Bool.false_or]
      exact decide_eq_false width
    have acts := exec_next (exec_linkTrain_bundle may r five kind bundle) (State.trainBundle_unidentified six)
    obtain ⟨down, since⟩ := (s.identified l c).trainFailed_link l.val
    exact ⟨_, acts, ⟨down, since, framed acts ((s.identified_others l c).trans (State.trainFailed_others _ _))⟩,
      (State.modLink_out ..).trans (s.identified_out l c)⟩
  · have five : s.failsFive l r = true := by
      rw [State.failsFive, failsWithin]
      obtain step | off | none := fails
      · simp [step]
      · simp [off]
      · have : s.widthWith l r = 0 := none
        simp [this]
    have acts := exec_linkTrain_fails may r five
    obtain ⟨down, since⟩ := (s.training l).trainFailed_link l.val
    exact ⟨_, acts, down, since, framed acts (trains.trans (State.trainFailed_others _ _))⟩

end Sys2Proof.Machine
end

section
/-!
PROOF. Links retrain, stop, and follow the laser module (R297, R298, R303, R342).
-/

-- One declaration after another: the package as one text then needs few threads at a time.
set_option Elab.async false

namespace Sys2Proof.Machine
open Sys2Proof.Safety

/-! ### A retrain ends, and lane marks go (R303) -/

theorem Reg.lnkCreditCfg_ne_ctrl (l : Nat) : Reg.lnkCreditCfg ≠ Reg.lnkCtrl l := by
  simp only [Reg.lnkCreditCfg, Reg.lnkCtrl]
  omega

/-- The first credits are read from LNK_CREDIT_CFG and the free values. -/
theorem State.firstCredits_congr {s t : State} (cfg : t.rd Reg.lnkCreditCfg = s.rd Reg.lnkCreditCfg)
    (free : t.freeCount = s.freeCount) (c : BundleCfg) (n : Nat) : (t.firstCredits c n).1 = (s.firstCredits c n).1 := by
  have resv : t.resv = s.resv := by simp only [State.resv, State.rdFld, cfg]
  unfold State.firstCredits
  simp only [resv, State.fresh, free]
  split
  · rfl
  · split <;> rfl

/-- Step 8 again changes its link's credits alone, and may draw a free value. -/
theorem State.stepEight_link (s : State) (l : Nat) : LanesStand s (s.stepEight l) ∧ OtherLinks l s (s.stepEight l) ∧
    Touches [.net, .freeCount] s (s.stepEight l) ∧
    (∀ c, s.bundle (s.link l).bundle.toNat = some c → (s.link l).replay = [] →
      ((s.stepEight l).link l).credits = (s.firstCredits c (s.link l).vl0Adv).1 ∧ ((s.stepEight l).link l).owed = []) := by
  unfold State.stepEight
  dsimp only
  split
  · next none => exact ⟨.refl s, fun _ _ => rfl, .refl _ s, fun c named _ => by rw [none] at named; cases named⟩
  · next c named =>
    have first := s.firstCredits_touches c (s.link l).vl0Adv
    refine ⟨(LanesStand.of_touches first).trans (State.modLink_lanes _ l), (OtherLinks.of_touches l first).trans (State.modLink_others _ _ _),
      .via (State.modLink_touches ..) (.mono first), fun d named' empty => ?_⟩
    rw [named] at named'
    cases named'
    rw [State.link_modLink_self, empty]
    exact ⟨rfl, rfl⟩

/-- The link is UP again, before its credits are advertised. -/
def State.upAgain (s : State) (l : Nat) : State :=
  ((s.modLink l fun x => { x with state := .up }).setBit Reg.lnkEvent 3).clrBit (Reg.lnkCtrl l) 2

theorem State.upAgain_link (s : State) (l : Nat) : (s.upAgain l).link l = { s.link l with state := .up } := by
  simp [State.upAgain]

theorem State.upAgain_touches (s : State) (l : Nat) : Touches [.rf, .net] s (s.upAgain l) :=
  .via (State.clrBit_touches ..) (.via (State.setBit_touches ..) (.mono (State.modLink_touches ..)))

theorem State.upAgain_others (s : State) (l : Nat) : OtherLinks l s (s.upAgain l) :=
  (s.modLink_others l _).trans (.of_touches l (.via (State.clrBit_touches ..) (State.setBit_touches ..)))

theorem State.upAgain_event (s : State) (l : Nat) : (s.upAgain l).rdBit Reg.lnkEvent 3 = true :=
  (State.rdBit_clrBit_ne _ _ _ (Reg.lnkEvent_ne_ctrl l)).trans ((State.rdBit_setBit _ _ _ (by decide)).trans (by simp))

theorem State.upAgain_rd (s : State) (l : Nat) : (s.upAgain l).rd Reg.lnkCreditCfg = s.rd Reg.lnkCreditCfg :=
  (State.rd_clrBit_ne _ _ (Reg.lnkCreditCfg_ne_ctrl l)).trans (State.rd_setBit_ne _ _ (by decide))

theorem State.upAgain_bundle (s : State) (l b : Nat) : (s.upAgain l).bundle b = s.bundle b := rfl

/-- A narrowing retrain that ends: the link is UP, its credits are advertised anew, and it sends. -/
theorem exec_narrowRetrainDone {l : Fin 36} {s : State} (retrains : (s.link l.val).state = .retrain) :
    let v := (s.upAgain l.val).stepEight l.val
    let w := match (s.link l.val).replay with
      | f :: _ => v.emit (.resend l.val f.seq)
      | [] => v
    exec (.narrowRetrainDone l) s = .next (w.sendMessages.drain l.val) ∧ (v.link l.val).state = .up ∧
    v.rdBit Reg.lnkEvent 3 = true ∧ (∀ k, k ≠ l.val → v.link k = s.link k) ∧ Frame [.rf, .net, .freeCount] s v ∧
    (∀ c, s.bundle (s.link l.val).bundle.toNat = some c → (s.link l.val).replay = [] →
      (v.link l.val).credits = (s.firstCredits c (s.link l.val).vl0Adv).1 ∧ (v.link l.val).owed = []) := by
  intro v w
  obtain ⟨lanes, others, touches, credits⟩ := (s.upAgain l.val).stepEight_link l.val
  have link := s.upAgain_link l.val
  refine ⟨if_neg (by simp [retrains]), ?_, ?_, (s.upAgain_others l.val).trans others,
    (Touches.via touches (.mono (s.upAgain_touches l.val))).frame, fun c named empty => ?_⟩
  · rw [(lanes l.val).1, link]
  · rw [State.rdBit, State.rd_of_touches touches]
    exact s.upAgain_event l.val
  · obtain ⟨first, owed⟩ := credits c (by rw [link, s.upAgain_bundle]; exact named) (by rw [link]; exact empty)
    rw [link] at first
    exact ⟨first.trans (State.firstCredits_congr (s.upAgain_rd l.val) rfl c _), owed⟩

/-- CLR_LANES of a link that carries traffic retrains it on what is usable without its failure marks. -/
theorem exec_clrLanes {path : Path} {l : Fin 36} {s : State} (opens : Opens s path (Reg.lnkCtrl l.val))
    (carries : (s.link l.val).state = .up ∨ (s.link l.val).state = .retrain) :
    let v := s.modLink l.val fun x => { x with failed := 0 }
    let u := v.usableLanes l.val
    let w := widthFor (s.link l.val).ethernet (popCount 10 u)
    w ≠ 0 → ∃ t, exec (.clrLanes path l) s = .next t ∧ (t.link l.val).state = .retrain ∧ (t.link l.val).failed = 0 ∧
      t.rdBit (Reg.lnkCtrl l.val) 2 = true ∧ (t.link l.val).activeMap = BitVec.ofNat 10 (lowestBits u w) ∧
      (∀ k, k ≠ l.val → t.link k = s.link k) ∧ Frame [.rf, .net] s t := by
  intro v u w wide
  let t := ((v.setBit (Reg.lnkCtrl l.val) 2).modLink l.val (Link.narrowed u w)).bumpFld (Reg.lnkRetrainCnt l.val) 15 0 1
  have acts : exec (.clrLanes path l) s = .next t :=
    exec_next (exec_next (exec_next rfl (State.via_open opens _)) (if_neg (by obtain c | c := carries <;> simp [c]))) (if_neg wide)
  have link : t.link l.val = Link.narrowed u w { s.link l.val with failed := 0 } := by
    refine (State.link_of_touches (State.bumpFld_touches ..) _).trans ((State.link_modLink_self ..).trans ?_)
    rw [State.setBit_link, State.link_modLink_self]
  have frame : Frame [.rf, .net] s t := Touches.frame (.via (State.bumpFld_touches ..) (.via (State.modLink_touches ..)
    (.via (State.setBit_touches ..) (.mono (State.modLink_touches ..)))))
  have others : OtherLinks l.val s t := ((((s.modLink_others l.val _).trans (.of_touches _ (State.setBit_touches ..))).trans
    (State.modLink_others _ _ _))).trans (.of_touches _ (State.bumpFld_touches ..))
  refine ⟨t, acts, by rw [link]; rfl, by rw [link]; rfl, ?_, by rw [link]; rfl, others, frame⟩
  refine (State.rdBit_wrFld_ne _ _ _ _ _ ?_).trans ((State.rdBit_setBit _ _ _ (by decide)).trans (by simp))
  simp only [Reg.lnkCtrl, Reg.lnkRetrainCnt]
  omega

/-! ### Retrains and stops by command (R297, R342) -/

theorem exec_lnkRetrain {path : Path} {l : Fin 36} {s : State} (opens : Opens s path (Reg.lnkCtrl l.val))
    (enabled : (s.link l.val).state ≠ .disabled) : exec (.lnkRetrain path l) s = .next ((s.fabricReset l.val).logEvent {
      kind := 2, source := (Config.resetSource 2).toNat, action := 3, link := l.val }) :=
  exec_next (exec_next rfl (State.via_open opens _)) (if_neg (by simpa using enabled))

/-- What a write of LNK_CTRL.DISABLE leaves. -/
def State.disableWritten (s : State) (path : Path) (l : Nat) (d : Bool) : State :=
  s.writeFields path (Reg.lnkCtrl l) ((s.rd (Reg.lnkCtrl l) &&& ~~~2) ||| BitVec.ofNat 32 (2 * b2n d)) 0

theorem exec_linkDisable {path : Path} {l : Fin 36} {s : State} (opens : Opens s path (Reg.lnkCtrl l.val)) :
    ((s.disableWritten path l.val true).rdBit (Reg.lnkCtrl l.val) 1 = true →
      exec (.linkDisable path l true) s = .next ((s.disableWritten path l.val true).dropLink l.val .disabled)) ∧
    ((s.disableWritten path l.val false).rdBit (Reg.lnkCtrl l.val) 1 = false →
      exec (.linkDisable path l false) s = .next ((s.disableWritten path l.val false).enableLink l.val)) :=
  ⟨fun set => exec_next (exec_next rfl (State.via_open opens _)) (if_pos set),
    fun clear => exec_next (exec_next rfl (State.via_open opens _)) (if_neg (Bool.eq_false_iff.1 clear))⟩

/-- What a write of LNK_RLM_CTRL.EN leaves. -/
def State.enWritten (s : State) (path : Path) (en : Bool) : State :=
  s.writeFields path Reg.lnkRlmCtrl ((s.rd Reg.lnkRlmCtrl &&& ~~~1) ||| BitVec.ofNat 32 (b2n en)) 0

theorem exec_rlmEnable {path : Path} {en : Bool} {s : State} (opens : Opens s path Reg.lnkRlmCtrl) :
    let w := s.enWritten path en
    (w.rdBit Reg.lnkRlmCtrl 0 = true → exec (.rlmEnable path en) s = .next (w.emit (.spi (spiWrite 0x02 0x3FF)))) ∧
    (w.rdBit Reg.lnkRlmCtrl 0 = false → exec (.rlmEnable path en) s = .next ((List.range 36).foldl (fun s l =>
      if (s.link l).state == .disabled then s else s.dropLink l .down) ((w.emit (.spi (spiWrite 0x02 0))).clrBit
        Reg.lnkRlmStatus 1))) := by
  intro w
  have acts : exec (.rlmEnable path en) s = .next (
      let v := w.emit (.spi (spiWrite 0x02 (if w.rdBit Reg.lnkRlmCtrl 0 then 0x3FF else 0)))
      if v.rdBit Reg.lnkRlmCtrl 0 then v else
      (List.range 36).foldl (fun s l => if (s.link l).state == .disabled then s else s.dropLink l .down)
        (v.clrBit Reg.lnkRlmStatus 1)) := exec_next rfl (State.via_open opens _)
  constructor <;> intro bit <;> rw [acts] <;> simp only [State.emit_rdBit, bit, if_true, Bool.false_eq_true, if_false]

/-! ### A poll of the laser module (R298) -/

/-- What goes out, all at once. -/
def State.sends (s : State) (os : List Out) : State := { s with out := s.out ++ os }

theorem State.sends_link (s : State) (os : List Out) (l : Nat) : (s.sends os).link l = s.link l := rfl
theorem State.sends_net (s : State) (os : List Out) : (s.sends os).net = s.net := rfl
theorem State.sends_rdBit (s : State) (os : List Out) (q i : Nat) : (s.sends os).rdBit q i = s.rdBit q i := rfl
theorem State.sends_touches (s : State) (os : List Out) : Touches [.out] s (s.sends os) := TouchesParts.upd (.refl _ s)

theorem State.emit_frames (fs : List Word) (s : State) :
    fs.foldl (fun s f => s.emit (.spi f)) s = s.sends (fs.map .spi) := by
  induction fs generalizing s with
  | nil => simp [State.sends]
  | cons f fs ih =>
    rw [List.foldl_cons, ih]
    simp [State.emit, State.sends]

/-- A map whose places in a list are set one after another. -/
theorem Sparse.get_foldl_set {α : Type} [DecidableEq α] (d : α) (f : Nat → α) (l : List Nat) (m : Sparse α) (j : Nat) :
    Sparse.get d (l.foldl (fun m k => Sparse.set d m k (f k)) m) j = if j ∈ l then f j else Sparse.get d m j := by
  induction l generalizing m with
  | nil => simp
  | cons k l ih =>
    rw [List.foldl_cons, ih, Sparse.get_set]
    by_cases later : j ∈ l <;> by_cases here : j = k <;> simp_all

/-- A laser's power is below its minimum. -/
def laserIsLow (power pmin : List (BitVec 16)) (k : Nat) : Bool := decide ((power.getD k 0).toNat < (pmin.getD k 0).toNat)

/-- The polls in a row in which a laser was low, after this one. -/
def State.lowPolls (s : State) (power pmin : List (BitVec 16)) (k : Nat) : Nat :=
  if laserIsLow power pmin k then Sparse.get 0 s.net.laserLow k + 1 else 0

/-- What LNK_RLM_STATUS shows of a module that is present, on and closed. -/
def rlmShown (power pmin : List (BitVec 16)) (temp : BitVec 16) : Word :=
  BitVec.ofNat 32 (packFields ([(0, 1, 1), (1, 1, 1), (2, 1, 0), (16, 8, temp.toNat / 10)] ++
    (List.range 10).map fun k => (3 + k, 1, b2n !laserIsLow power pmin k)))

/-- A poll's frames have gone out, and what the module answered is shown. -/
def State.pollShown (s : State) (power pmin : List (BitVec 16)) (temp : BitVec 16) : State :=
  (s.sends (pollFrames.map .spi)).wr Reg.lnkRlmStatus (rlmShown power pmin temp)

/-- The laser module's readings, and the polls in which each was low. -/
def State.withLasers (s : State) (power : Sparse (BitVec 16)) (low : Sparse Nat) : State :=
  { s with net := { s.net with laserPower := power, laserLow := low } }

theorem State.withLasers_link (s : State) (power : Sparse (BitVec 16)) (low : Sparse Nat) (l : Nat) :
    (s.withLasers power low).link l = s.link l := rfl

theorem State.withLasers_rd (s : State) (power : Sparse (BitVec 16)) (low : Sparse Nat) (q : Nat) :
    (s.withLasers power low).rd q = s.rd q := rfl

theorem State.withLasers_out (s : State) (power : Sparse (BitVec 16)) (low : Sparse Nat) :
    (s.withLasers power low).out = s.out := rfl

theorem State.withLasers_touches (s : State) (power : Sparse (BitVec 16)) (low : Sparse Nat) :
    Touches [.net] s (s.withLasers power low) := TouchesParts.upd (.refl _ s)

/-- A poll that finds the module well. -/
def State.polled (s : State) (power pmin : List (BitVec 16)) (temp : BitVec 16) : State :=
  (s.pollShown power pmin temp).withLasers
    ((List.range 10).foldl (fun (m : Sparse (BitVec 16)) k => Sparse.set 0 m k (power.getD k 0)) s.net.laserPower)
    ((List.range 10).foldl (fun (m : Sparse Nat) k =>
      Sparse.set 0 m k (((List.range 10).map (s.lowPolls power pmin)).getD k 0)) s.net.laserLow)

theorem State.lowPolls_getD (s : State) (power pmin : List (BitVec 16)) {k : Nat} (laser : k < 10) :
    ((List.range 10).map (s.lowPolls power pmin)).getD k 0 = s.lowPolls power pmin k := by
  rw [List.getD_eq_getElem _ _ (by simpa using laser), List.getElem_map, List.getElem_range]

theorem exec_rlmPoll {id status temp : BitVec 16} {power pmin : List (BitVec 16)} {s : State} (present : id.toNat = 0x4E52)
    (well : bitOf status.toNat 1 = false) (closed : bitOf status.toNat 2 = false) (on : s.rdBit Reg.lnkRlmCtrl 0 = true)
    (few : ∀ k, k < 10 → laserIsLow power pmin k = true → Sparse.get 0 s.net.laserLow k < 2) :
    exec (.rlmPoll id status power pmin temp) s = .next (s.polled power pmin temp) := by
  have none : (List.range 10).filter (fun k => decide (3 ≤ ((List.range 10).map (s.lowPolls power pmin)).getD k 0)) = [] := by
    refine List.filter_eq_nil_iff.2 fun k mem => ?_
    have laser := List.mem_range.1 mem
    have := few k laser
    rw [s.lowPolls_getD power pmin laser, State.lowPolls]
    split <;> grind
  have one : b2n true = 1 := rfl
  have zero : b2n false = 0 := rfl
  change execRlmPoll id status power pmin temp s = _
  simp only [execRlmPoll, State.emit_frames, State.sends_rdBit, on, well, closed, present, laserIdWord, one, zero, beq_self_eq_true, Bool.true_and,
    Bool.not_true, Bool.not_false, Bool.or_false, Bool.false_eq_true, if_false]
  refine congrArg _ ((if_pos ?new).trans ?shown)
  case new => exact (congrArg (fun l => (l.foldl (fun m k => m + 2 ^ k) 0) &&& _) none).trans (Nat.zero_and _)
  case shown =>
    delta State.polled State.pollShown State.withLasers rlmShown State.lowPolls laserIsLow
    simp only [State.wr_net, State.sends_net]

/-- What a poll read of a laser, and in how many polls in a row it was low. -/
theorem State.polled_laser (s : State) (power pmin : List (BitVec 16)) (temp : BitVec 16) {k : Nat} (laser : k < 10) :
    Sparse.get 0 (s.polled power pmin temp).net.laserPower k = power.getD k 0 ∧
    Sparse.get 0 (s.polled power pmin temp).net.laserLow k = s.lowPolls power pmin k := by
  have mem := List.mem_range.2 laser
  refine ⟨(Sparse.get_foldl_set ..).trans (if_pos mem), (Sparse.get_foldl_set ..).trans ((if_pos mem).trans ?_)⟩
  exact s.lowPolls_getD power pmin laser

theorem State.polled_touches (s : State) (power pmin : List (BitVec 16)) (temp : BitVec 16) :
    Touches [.rf, .net, .out] s (s.polled power pmin temp) :=
  .via (State.withLasers_touches ..) (.via (Touches.setFile ..) (.mono (State.sends_touches ..)))

/-- A poll that finds the module well shows its readings, and counts the polls in which a laser was low. -/
theorem exec_rlmPoll_shows {id status temp : BitVec 16} {power pmin : List (BitVec 16)} {s : State} (present : id.toNat = 0x4E52)
    (well : bitOf status.toNat 1 = false) (closed : bitOf status.toNat 2 = false) (on : s.rdBit Reg.lnkRlmCtrl 0 = true)
    (few : ∀ k, k < 10 → laserIsLow power pmin k = true → Sparse.get 0 s.net.laserLow k < 2) :
    ∃ u, exec (.rlmPoll id status power pmin temp) s = .next u ∧ Frame [.rf, .net, .out] s u ∧ (∀ l, u.link l = s.link l) ∧
      u.out = s.out ++ pollFrames.map .spi ∧
      (∀ k, k < 10 → Sparse.get 0 u.net.laserPower k = power.getD k 0 ∧
        Sparse.get 0 u.net.laserLow k = s.lowPolls power pmin k) ∧
      u.rd Reg.lnkRlmStatus = rlmShown power pmin temp :=
  ⟨_, exec_rlmPoll present well closed on few, (s.polled_touches power pmin temp).frame, fun _ => (State.withLasers_link ..).trans ((State.wr_link ..).trans (State.sends_link ..)),
    (State.withLasers_out ..).trans (State.wr_out ..), fun _ laser => s.polled_laser power pmin temp laser, (State.withLasers_rd ..).trans (State.rd_wr_self ..)⟩

/-- Settles O35: each of the six commands has its lemma. -/
theorem linksRetrainNarrowAndStop : Obligations.LinksRetrainNarrowAndStop := by
  unfold Obligations.LinksRetrainNarrowAndStop
  refine ⟨fun l s retrains => exec_narrowRetrainDone retrains, fun path l s opens carries wide => exec_clrLanes opens carries wide,
    fun path l s opens => exec_lnkRetrain opens, fun path l s opens => exec_linkDisable opens,
    fun path en s opens => exec_rlmEnable opens, fun id status temp power pmin s present well closed on few => ?_⟩
  simpa only [State.lowPolls, laserIsLow, rlmShown, decide_eq_true_eq] using
    exec_rlmPoll_shows (temp := temp) present well closed on fun k laser low => few k laser (of_decide_eq_true low)

end Sys2Proof.Machine
end

section
/-!
PROOF. Queue pairs (R316, R317): commit, reset, read, and the packets and timers that move them.
-/

-- One declaration after another: the package as one text then needs few threads at a time.
set_option Elab.async false

namespace Sys2Proof.Machine
open Sys2Proof.Safety

/-! ### The contexts of queue pairs (R317) -/

theorem State.setQp_qpCtx (s : State) (q c k : Nat) :
    (s.setQp q c).qpCtx k = if k = q then (BitVec.ofNat 512 c).toNat else s.qpCtx k := by
  simp only [State.qpCtx, State.setQp, Sparse.get_set]
  split <;> rfl

theorem State.setQp_qpRun (s : State) (q c k : Nat) : (s.setQp q c).qpRun k = s.qpRun k := rfl

theorem State.setQp_ethRate (s : State) (q c l : Nat) : (s.setQp q c).ethRate l = s.ethRate l := rfl

theorem State.modQp_qpCtx (s : State) (q k : Nat) (f : QpRun → QpRun) : (s.modQp q f).qpCtx k = s.qpCtx k := rfl

theorem State.modQp_qpRun (s : State) (q k : Nat) (f : QpRun → QpRun) :
    (s.modQp q f).qpRun k = if k = q then f (s.qpRun q) else s.qpRun k :=
  Sparse.get_set ..

theorem State.qpResult_qpCtx (s : State) (r off k : Nat) : (s.qpResult r off).qpCtx k = s.qpCtx k := rfl
theorem State.qpResult_qpRun (s : State) (r off k : Nat) : (s.qpResult r off).qpRun k = s.qpRun k := rfl

/-- The running state in which a queue pair is committed: at the start PSN of its context, at its link's rate. -/
def QpRun.committed (c rate : Nat) : QpRun := { QpRun.reset with psn := BitVec.ofNat 24 (fld c 119 96), rateGbps := rate }

/-- A context is written in RTS. -/
def State.qpWritten (s : State) (q c : Nat) : State :=
  ((s.setQp q (setFld c 2 1 1)).modQp q fun _ => .committed c (s.ethRate (qLink c))).qpResult 0 0

theorem State.qpCommit_bad {s : State} {c off : Nat} (bad : s.qpCheck c = some off) (q : Nat) :
    s.qpCommit q c = s.qpResult 1 off := by
  unfold State.qpCommit
  rw [bad]

theorem State.qpCommit_busy {s : State} {q c : Nat} (good : s.qpCheck c = none) (busy : s.qpBusy q = true) :
    s.qpCommit q c = s.qpResult 2 0 := by
  unfold State.qpCommit
  rw [good]
  exact if_pos busy

theorem State.qpCommit_written {s : State} {q c : Nat} (good : s.qpCheck c = none) (idle : s.qpBusy q = false) :
    s.qpCommit q c = s.qpWritten q c := by
  unfold State.qpCommit State.qpWritten
  rw [good]
  simp only [idle, Bool.false_eq_true, if_false, State.setQp_ethRate, QpRun.committed]

theorem State.qpWritten_qpCtx (s : State) (q c k : Nat) :
    (s.qpWritten q c).qpCtx k = if k = q then (BitVec.ofNat 512 (setFld c 2 1 1)).toNat else s.qpCtx k := by
  rw [State.qpWritten, State.qpResult_qpCtx, State.modQp_qpCtx, State.setQp_qpCtx]

theorem State.qpWritten_qpRun (s : State) (q c k : Nat) :
    (s.qpWritten q c).qpRun k = if k = q then .committed c (s.ethRate (qLink c)) else s.qpRun k := by
  rw [State.qpWritten, State.qpResult_qpRun, State.modQp_qpRun, State.setQp_qpRun]

theorem State.qpWritten_touches (s : State) (q c : Nat) : Touches [.rf, .net] s (s.qpWritten q c) :=
  .via (State.qpResult_touches ..) (.via (State.modQp_touches ..) (.mono (State.setQp_touches ..)))

/-- The context's words go to the data registers. -/
def State.qpShown (s : State) (c : Nat) : State :=
  ((List.range 16).foldl (fun s n => s.wr (Reg.lnkQpData n) (BitVec.ofNat 32 (c / 2 ^ (32 * n)))) s).qpResult 0 0

theorem State.qpShown_touches (s : State) (c : Nat) : Touches [.rf] s (s.qpShown c) :=
  .via (State.qpResult_touches ..) (Touches.foldl _ (fun s _ => Touches.setFile s ..) (.refl _ s))

theorem State.rd_qpShown (s : State) (c : Nat) {n : Nat} (inside : n < 16) :
    (s.qpShown c).rd (Reg.lnkQpData n) = BitVec.ofNat 32 (c / 2 ^ (32 * n)) := by
  have apart : Reg.lnkQpData n ≠ Reg.lnkQpStatus := by
    simp only [Reg.lnkQpData, Reg.lnkQpStatus]
    omega
  rw [State.qpShown, State.qpResult, State.rd_wrFld_ne _ _ _ _ apart, State.rd_wrFld_ne _ _ _ _ apart]
  exact State.rd_foldl_wr_self _ (fun i j same => by simp only [Reg.lnkQpData] at same; omega) _ _ (List.mem_range.2 inside)

/-- A commit judges the staged context. -/
theorem exec_qpCommit {path : Path} {s : State} (opens : Opens s path Reg.lnkQpCmd) :
    let q := s.qpIndex
    let c := s.qpStaged
    (∀ off, s.qpCheck c = some off → exec (.qpCommit path) s = .next (s.qpResult 1 off)) ∧
    (s.qpCheck c = none → s.qpBusy q = true → exec (.qpCommit path) s = .next (s.qpResult 2 0)) ∧
    (s.qpCheck c = none → s.qpBusy q = false → exec (.qpCommit path) s = .next (s.qpWritten q c)) := by
  intro q c
  have acts : exec (.qpCommit path) s = .next (s.qpCommit q c) := exec_next rfl (State.via_open opens _)
  rw [acts]
  exact ⟨fun off bad => by rw [State.qpCommit_bad bad], fun good busy => by rw [State.qpCommit_busy good busy],
    fun good idle => by rw [State.qpCommit_written good idle]⟩

/-! ### The packets of a queue pair (R316) -/

/-- A queue pair that runs over a link. -/
def State.qpLive (s : State) (l : Nat) (q : Nat) : Bool := s.qpRts q && qLink (s.qpCtx q) == l

/-- A link of Ethernet personality that is UP. -/
def State.ethUp (s : State) (l : Nat) : Prop := (s.link l).state = .up ∧ (s.link l).ethernet = true

section
variable {l : Fin 36} {s : State} (up : s.ethUp l.val)
include up

theorem ethUp_passes : ¬ ((s.link l.val).state != .up || !(s.link l.val).ethernet) = true := by
  simp [up.1, up.2]

theorem exec_eth_other : exec (.ethPacketReceive l .other) s = .next s.ethDrop :=
  exec_next (if_neg (ethUp_passes up)) rfl

theorem exec_eth_pause (prio : BitVec 3) (quanta : BitVec 16) : exec (.ethPacketReceive l (.pause prio quanta)) s = .next s :=
  exec_next (if_neg (ethUp_passes up)) rfl

/-- What answers no pair that runs over the link is dropped. -/
theorem exec_eth_dead {q : Fin 4096} (dead : s.qpLive l.val q.val = false) (psn : BitVec 24) :
    exec (.ethPacketReceive l (.ack q psn)) s = .next s.ethDrop ∧ exec (.ethPacketReceive l (.nak q psn)) s = .next s.ethDrop :=
  ⟨exec_next (if_neg (ethUp_passes up)) (if_neg (Bool.eq_false_iff.1 dead)),
    exec_next (if_neg (ethUp_passes up)) (if_neg (Bool.eq_false_iff.1 dead))⟩

variable {q : Fin 4096} (live : s.qpLive l.val q.val = true)
include live

/-- An acknowledgement moves the pair on, a NAK makes it go back. -/
theorem exec_eth_acked (psn : BitVec 24) : exec (.ethPacketReceive l (.ack q psn)) s = .next (s.qpAdvance q.val psn) ∧
    exec (.ethPacketReceive l (.nak q psn)) s = .next (s.qpGoBack q.val psn) :=
  ⟨exec_next (if_neg (ethUp_passes up)) (if_pos live), exec_next (if_neg (ethUp_passes up)) (if_pos live)⟩

omit up in
theorem qpLive_stays : ¬ (!s.qpLive l.val q.val) = true := by simp [live]

theorem exec_eth_readResponse {psn : BitVec 24} (awaited : psn = (s.qpRun q.val).psn) (last : Bool) (data : List Byte) :
    exec (.ethPacketReceive l (.readResponse q psn last false data)) s = .next (s.qpAdvance q.val psn) :=
  exec_next (exec_next (if_neg (ethUp_passes up)) (if_neg (qpLive_stays live))) (if_pos (beq_iff_eq.2 awaited))

/-- A congestion notice halves the rate, unless one came within 50 µs. -/
theorem exec_eth_cnp (apart : (s.qpRun q.val).lastCnp = 0 ∨ 50000 ≤ s.since (s.qpRun q.val).lastCnp) :
    exec (.ethPacketReceive l (.cnp q)) s =
      .next (s.modQp q.val fun x => { x with rateGbps := x.rateGbps / 2, lastCnp := s.now }) := by
  refine exec_next (exec_next (if_neg (ethUp_passes up)) (if_neg (qpLive_stays live))) (if_neg ?_)
  obtain first | late := apart
  · simp [first]
  · simp [late]

theorem exec_eth_rnrNak (spent : qRnr (s.qpCtx q.val) ≤ (s.qpRun q.val).rnrRetries) (psn : BitVec 24) :
    exec (.ethPacketReceive l (.rnrNak q psn)) s = .next (s.qpError q.val) :=
  exec_next (exec_next (if_neg (ethUp_passes up)) (if_neg (qpLive_stays live))) (if_pos spent)

end

/-! ### The timers of a queue pair (R316, R317) -/

theorem exec_qpTimeout {q : Fin 4096} {s : State} (runs : s.qpRts q.val = true) (busy : s.qpBusy q.val = true) :
    exec (.qpTimeout q) s = .next (s.qpGoBack q.val (s.qpRun q.val).psn) :=
  if_neg (by simp [runs, busy])

theorem exec_qpRateRise {q : Fin 4096} {s : State} (runs : s.qpRts q.val = true) :
    ∃ u, exec (.qpRateRise q) s = .next u ∧ Frame [.clock, .net] s u ∧ u.qpRun q.val = { s.qpRun q.val with
      rateGbps := min (s.ethRate (qLink (s.qpCtx q.val))) ((s.qpRun q.val).rateGbps + 5) } := by
  refine ⟨_, if_neg (by simp [runs]), (Touches.via (State.modQp_touches ..) (.mono (State.reach_touches ..))).frame, ?_⟩
  rw [State.modQp_qpRun, if_pos rfl]
  simp only [State.qpRun, State.qpCtx, State.ethRate, State.link, State.reach_net]

/-- Settles O37: each of the commands and packets has its lemma. -/
theorem queuePairsRunTheirContexts : Obligations.QueuePairsRunTheirContexts := by
  unfold Obligations.QueuePairsRunTheirContexts
  refine ⟨fun path s opens => ?_, fun l q psn s up ethernet => ?_, fun q s runs => ⟨exec_qpTimeout runs, exec_qpRateRise runs⟩⟩
  · obtain ⟨bad, busy, written⟩ := exec_qpCommit opens
    refine ⟨bad, busy, fun good idle => ⟨_, written good idle, ?_, ?_, ?_, fun k other => ⟨?_, ?_⟩,
      (s.qpWritten_touches _ _).frame⟩, exec_next rfl (State.via_open opens _),
      _, exec_next rfl (State.via_open opens _), (s.qpShown_touches _).frame, fun n inside => s.rd_qpShown _ inside⟩
    · exact (State.qpWritten_qpCtx ..).trans (if_pos rfl)
    · rw [State.qpWritten_qpRun, if_pos rfl, QpRun.committed]
    · rw [State.qpWritten_qpRun, if_pos rfl, QpRun.committed]
    · exact (State.qpWritten_qpCtx ..).trans (if_neg other)
    · exact (State.qpWritten_qpRun ..).trans (if_neg other)
  · have up : s.ethUp l.val := ⟨up, ethernet⟩
    refine ⟨fun live => ?_, fun dead => exec_eth_dead up dead psn, exec_eth_other up, exec_eth_pause up⟩
    obtain ⟨ack, nak⟩ := exec_eth_acked up live psn
    exact ⟨ack, nak, fun last data awaited => exec_eth_readResponse up live awaited last data, exec_eth_cnp up live,
      fun spent => exec_eth_rnrNak up live spent psn⟩

end Sys2Proof.Machine
end

section
/-!
PROOF. Flits (R305-R308, R310, R312): judged, taken once in sequence, sent and kept; packets reach their engines; timers.
-/

-- One declaration after another: the package as one text then needs few threads at a time.
set_option Elab.async false

namespace Sys2Proof.Machine
open Sys2Proof.Safety

/-! ### A flit is judged (R305, R307) -/

theorem State.flit_uncorrectable (s : State) (l : Nat) (flit : List Byte) :
    s.flit l flit true = (s.bump (Reg.lnkFecUe l) 1).nak l := by
  unfold State.flit
  simp [flitBad]

theorem State.flit_bad {s : State} {l : Nat} {flit : List Byte} (bad : flitBad flit false = true) : s.flit l flit false = s.nak l := by
  unfold State.flit
  simp [bad]

/-- A wrong CRC, a reserved bit, or a reserved type makes a flit bad. -/
theorem flitBad_of {flit : List Byte} (wrong : crcA (flit.take 248) ≠ bytesToNat (flit.drop 248) ∨
    fld (bytesToNat (flit.take 8)) 63 56 ≠ 0 ∨ 4 ≤ fld (bytesToNat (flit.take 8)) 3 0) : flitBad flit false = true := by
  unfold flitBad
  obtain crc | reserved | type := wrong
  · simp [crc]
  · simp [reserved]
  · simp [type]

section
variable {s : State} {l : Nat} {flit : List Byte} (good : flitBad flit false = false)
include good

/-- A good data flit: in sequence it is taken; ahead of it, the first is answered by a NAK. -/
theorem State.flit_data (data : fld (bytesToNat (flit.take 8)) 3 0 = 1) :
    let w := bytesToNat (flit.take 8)
    let v := (s.credited l (fld w 38 36) (fld w 51 40)).acked l (BitVec.ofNat 12 (fld w 35 24) + 1)
    s.flit l flit false =
      if fld w 23 12 = (s.link l).rxSeq.toNat then v.takeFlit l w ((flit.drop 8).take 240)
      else if serialNewer 12 (fld w 23 12) (s.link l).rxSeq.toNat && !(s.link l).naked then v.nak l else v := by
  unfold State.flit
  simp [good, data]

theorem State.flit_nak (nak : fld (bytesToNat (flit.take 8)) 3 0 = 3) :
    let w := bytesToNat (flit.take 8)
    let ack := BitVec.ofNat 12 (fld w 35 24)
    s.flit l flit false = ((s.credited l (fld w 38 36) (fld w 51 40)).acked l ack).replayFrom l ack := by
  unfold State.flit
  simp [good, nak]

theorem State.flit_control (control : fld (bytesToNat (flit.take 8)) 3 0 = 0 ∨ fld (bytesToNat (flit.take 8)) 3 0 = 2) :
    let w := bytesToNat (flit.take 8)
    s.flit l flit false = (s.credited l (fld w 38 36) (fld w 51 40)).acked l (BitVec.ofNat 12 (fld w 35 24) + 1) := by
  unfold State.flit
  obtain type | type := control <;> simp [good, type]

end

theorem exec_flitReceive {l : Fin 36} {flit : List Byte} {s : State} (up : (s.link l.val).state = .up)
    (galinoc : (s.link l.val).ethernet = false) (whole : flit.length = 256) (bad : Bool) (corrected : List (Fin 10 × Nat)) :
    let v := s.sendMessages.bump (Reg.lnkFecCe l.val) (corrected.foldl (fun n e => n + e.2) 0)
    exec (.flitReceive l flit bad corrected) s = .next (((v.flit l.val flit bad).drain l.val).noteLaneCe l.val corrected) :=
  if_neg (by simp [up, galinoc, whole])

/-! ### A packet arrives (R306, R310) -/

theorem State.deliverPacket_link (s : State) (h : PacketHeader) (payload : List Byte) (l : Nat) :
    (s.deliverPacket h payload).link l = s.link l := by
  unfold State.deliverPacket
  split <;> rfl

/-- What a packet gives the engine of its KIND. -/
def packetOut (h : PacketHeader) (payload : List Byte) : List Out := if h.kind.toNat < 6 then [.packetTo h.kind.toNat h payload] else []

theorem State.deliverPacket_eq (s : State) (h : PacketHeader) (payload : List Byte) :
    s.deliverPacket h payload = s.sends (packetOut h payload) := by
  unfold State.deliverPacket packetOut State.sends
  split
  · rfl
  · simp

/-- The merge of a lane is set. -/
def State.setMerge (s : State) (key : Nat) (m : Merge) : State :=
  { s with net := { s.net with merge := Sparse.set Merge.reset s.net.merge key m } }

theorem State.setMerge_link (s : State) (key : Nat) (m : Merge) (l : Nat) : (s.setMerge key m).link l = s.link l := rfl
theorem State.setMerge_out (s : State) (key : Nat) (m : Merge) : (s.setMerge key m).out = s.out := rfl
theorem State.setMerge_upLinks (s : State) (key : Nat) (m : Merge) (b : Nat) : (s.setMerge key m).upLinks b = s.upLinks b := rfl
theorem State.setMerge_merge (s : State) (key : Nat) (m : Merge) :
    Sparse.get Merge.reset (s.setMerge key m).net.merge key = m := Sparse.get_set_self ..
theorem State.setMerge_touches (s : State) (key : Nat) (m : Merge) : Touches [.net] s (s.setMerge key m) :=
  TouchesParts.upd (.refl _ s)

/-- The merge of a lane delivers packets, and touches no link. -/
theorem State.mergeLane_link (b vl n l : Nat) (s : State) : (s.mergeLane b vl n).link l = s.link l := by
  induction n generalizing s with
  | zero => rfl
  | succ n ih =>
    unfold State.mergeLane
    dsimp only
    split
    · exact (ih _).trans (State.deliverPacket_link ..)
    · split
      · rfl
      · split
        · exact (ih _).trans (State.deliverPacket_link ..)
        · rfl

theorem State.packetIn_link (s : State) (l vl : Nat) (h : PacketHeader) (payload : List Byte) (k : Nat) :
    (s.packetIn l vl h payload).link k = s.link k := by
  unfold State.packetIn
  dsimp only
  split
  · exact State.deliverPacket_link ..
  · split
    · rfl
    · exact State.mergeLane_link ..

/-- A link whose flit in sequence was taken, with the packets that its lanes have begun. -/
def Link.flitTaken (rx : List RxPacket) (x : Link) : Link :=
  { x with rxSeq := x.rxSeq + 1, naked := false, received := x.received + 1, rx := rx }

/-- A data flit in sequence is counted, and the next one is awaited. -/
theorem State.takeFlit_link (s : State) (l w : Nat) (body : List Byte) :
    ∃ rx, (s.takeFlit l w body).link l = Link.flitTaken rx (s.link l) := by
  have told : ∀ (v : State) (o : Out) (rx : List RxPacket), (((v.modLink l (Link.flitTaken rx)).pmcLink l 0x82 1).emit o).link l =
      Link.flitTaken rx (v.link l) := fun v o rx =>
    (State.emit_link ..).trans ((State.link_of_touches (State.pmcLink_touches ..) _).trans (State.link_modLink_self ..))
  unfold State.takeFlit
  dsimp only
  rw [apply_ite (fun u : State => u.link l), State.packetIn_link, ite_self]
  exact ⟨_, told ..⟩

/-- A sequence number is not newer than itself. -/
theorem serialNewer_ne {a b : BitVec 16} (newer : serialNewer 16 a.toNat b.toNat = true) : a ≠ b := by
  rintro rfl
  have bound := a.isLt
  simp only [serialNewer, bne_iff_ne, Bool.and_eq_true] at newer
  omega

/-- A lane whose only packet is the next one delivers it. -/
theorem State.mergeLane_next {s : State} {b vl : Nat} {k : HeldPacket} (next : k.h.pseq = (Sparse.get Merge.reset s.net.merge (b * 8 + vl)).next)
    (only : (Sparse.get Merge.reset s.net.merge (b * 8 + vl)).held = [k]) :
    s.mergeLane b vl 1 = (s.setMerge (b * 8 + vl) { next := k.h.pseq + 1, held := [] }).deliverPacket k.h k.payload := by
  unfold State.mergeLane
  simp [only, next, State.mergeLane, State.setMerge]

/-- A lane whose only packet is not the next one waits while another link of its bundle is UP. -/
theorem State.mergeLane_waits {s : State} {b vl : Nat} {k : HeldPacket} (early : k.h.pseq ≠ (Sparse.get Merge.reset s.net.merge (b * 8 + vl)).next)
    (only : (Sparse.get Merge.reset s.net.merge (b * 8 + vl)).held = [k]) {l : Nat} (up : l ∈ s.upLinks b) (other : l ≠ k.link) :
    s.mergeLane b vl 1 = s := by
  have one : (s.upLinks b).all (fun l => [k].any (·.link == l)) = false := List.all_eq_false.2 ⟨l, up, by simpa using Ne.symm other⟩
  have missing : [k].find? (·.h.pseq == (Sparse.get Merge.reset s.net.merge (b * 8 + vl)).next) = none := by simpa using early
  unfold State.mergeLane
  simp only [only, missing, one, Bool.not_false, if_true]

section
variable {l : Fin 36} {vl : Fin 8} {h : PacketHeader} {payload : List Byte} {s : State}

/-- The key of the merge of a link's lane. -/
def State.laneKey (s : State) (l vl : Nat) : Nat := (s.link l).bundle.toNat * 8 + vl

def State.laneMerge (s : State) (l vl : Nat) : Merge := Sparse.get Merge.reset s.net.merge (s.laneKey l vl)

/-- A bundle to a chip beside this one. -/
def State.besides (s : State) (b : Nat) : Bool := (s.bundle b).any (·.kind == 0)

/-- The packet that arrives, held by its lane's merge. -/
def heldPacket (l : Nat) (h : PacketHeader) (payload : List Byte) : HeldPacket := { link := l, h := h, payload := payload }

theorem exec_packetReceive_far (far : s.besides (s.link l.val).bundle.toNat = false) :
    exec (.packetReceive { link := l, vl := vl, head := h } payload) s = .next (s.sends (packetOut h payload)) :=
  exec_next (exec_next rfl (if_pos (congrArg Bool.not far))) (State.deliverPacket_eq ..)

variable (beside : s.besides (s.link l.val).bundle.toNat = true)
include beside

/-- A packet of a NEIGHBOUR bundle that is the next of its lane, or newer, joins the lane's merge. -/
theorem exec_packetReceive_joins (empty : (s.laneMerge l.val vl.val).held = [])
    (new : h.pseq = (s.laneMerge l.val vl.val).next ∨ serialNewer 16 h.pseq.toNat (s.laneMerge l.val vl.val).next.toNat = true) :
    exec (.packetReceive { link := l, vl := vl, head := h } payload) s = .next ((s.setMerge (s.laneKey l.val vl.val)
      { next := (s.laneMerge l.val vl.val).next, held := [heldPacket l.val h payload] }).mergeLane (s.link l.val).bundle.toNat vl.val 1) := by
  refine exec_next (exec_next (exec_next rfl (if_neg (Bool.eq_false_iff.1 (congrArg Bool.not beside)))) (if_neg ?_)) ?_
  · change ¬ (h.pseq != (s.laneMerge l.val vl.val).next &&
      !serialNewer 16 h.pseq.toNat (s.laneMerge l.val vl.val).next.toNat) = true
    obtain next | newer := new
    · simp [next]
    · simp [newer]
  · change (s.setMerge (s.laneKey l.val vl.val) { s.laneMerge l.val vl.val with
      held := (s.laneMerge l.val vl.val).held ++ [heldPacket l.val h payload] }).mergeLane (s.link l.val).bundle.toNat vl.val
      ((s.laneMerge l.val vl.val).held ++ [heldPacket l.val h payload]).length = _
    rw [empty]
    rfl

/-- The next packet of its lane goes to its engine. -/
theorem exec_packetReceive_next (empty : (s.laneMerge l.val vl.val).held = []) (next : h.pseq = (s.laneMerge l.val vl.val).next) :
    ∃ u, exec (.packetReceive { link := l, vl := vl, head := h } payload) s = .next u ∧ u.out = s.out ++ packetOut h payload ∧
      Sparse.get Merge.reset u.net.merge (s.laneKey l.val vl.val) = { next := h.pseq + 1, held := [] } ∧ Frame [.net, .out] s u := by
  let v := s.setMerge (s.laneKey l.val vl.val) { next := (s.laneMerge l.val vl.val).next, held := [heldPacket l.val h payload] }
  let w := v.setMerge (s.laneKey l.val vl.val) { next := h.pseq + 1, held := [] }
  have merge : Sparse.get Merge.reset v.net.merge (s.laneKey l.val vl.val) = _ := State.setMerge_merge ..
  have given := State.mergeLane_next (s := v) (b := (s.link l.val).bundle.toNat) (vl := vl.val) (k := heldPacket l.val h payload)
    (next.trans (congrArg Merge.next merge).symm) (congrArg Merge.held merge)
  refine ⟨w.sends (packetOut h payload), exec_next (exec_packetReceive_joins beside empty (.inl next))
    (given.trans (State.deliverPacket_eq ..)), rfl, (congrArg (fun n => Sparse.get Merge.reset n.merge _) (State.sends_net ..)).trans
    (State.setMerge_merge ..), ?_⟩
  exact (Touches.via (State.sends_touches ..) (.via (State.setMerge_touches ..) (.mono (State.setMerge_touches ..)))).frame

/-- A later packet of its lane waits while another link of its bundle is UP. -/
theorem exec_packetReceive_waits (empty : (s.laneMerge l.val vl.val).held = [])
    (newer : serialNewer 16 h.pseq.toNat (s.laneMerge l.val vl.val).next.toNat = true) {k : Nat}
    (up : k ∈ s.upLinks (s.link l.val).bundle.toNat) (other : k ≠ l.val) :
    ∃ u, exec (.packetReceive { link := l, vl := vl, head := h } payload) s = .next u ∧
      Sparse.get Merge.reset u.net.merge (s.laneKey l.val vl.val) =
        { next := (s.laneMerge l.val vl.val).next, held := [heldPacket l.val h payload] } ∧ Frame [.net] s u := by
  let v := s.setMerge (s.laneKey l.val vl.val) { next := (s.laneMerge l.val vl.val).next, held := [heldPacket l.val h payload] }
  have merge : Sparse.get Merge.reset v.net.merge (s.laneKey l.val vl.val) = _ := State.setMerge_merge ..
  have early : h.pseq ≠ (Sparse.get Merge.reset v.net.merge (s.laneKey l.val vl.val)).next := by
    rw [merge]
    exact serialNewer_ne newer
  have waits := State.mergeLane_waits (s := v) (b := (s.link l.val).bundle.toNat) (vl := vl.val) (k := heldPacket l.val h payload)
    early (congrArg Merge.held merge) up other
  exact ⟨v, exec_next (exec_packetReceive_joins beside empty (.inr newer)) waits, merge, (State.setMerge_touches ..).frame⟩

/-- A copy of a packet that was delivered changes nothing. -/
theorem exec_packetReceive_copy (passed : h.pseq ≠ (s.laneMerge l.val vl.val).next)
    (old : serialNewer 16 h.pseq.toNat (s.laneMerge l.val vl.val).next.toNat = false) :
    exec (.packetReceive { link := l, vl := vl, head := h } payload) s = .next s := by
  refine exec_next (exec_next rfl (if_neg (Bool.eq_false_iff.1 (congrArg Bool.not beside)))) (if_pos ?_)
  change (h.pseq != (s.laneMerge l.val vl.val).next && !serialNewer 16 h.pseq.toNat (s.laneMerge l.val vl.val).next.toNat) = true
  simp [passed, old]

end

/-! ### What a link sends is numbered on and kept (R305, R307) -/

/-- A link's state, numbering and replay buffer are as before. -/
def SameReplay (l : Nat) (s t : State) : Prop :=
  (t.link l).state = (s.link l).state ∧ (t.link l).replay = (s.link l).replay ∧ (t.link l).txSeq = (s.link l).txSeq

theorem SameReplay.refl (l : Nat) (s : State) : SameReplay l s s := ⟨rfl, rfl, rfl⟩

theorem SameReplay.trans {l : Nat} {s t u : State} (a : SameReplay l s t) (b : SameReplay l t u) : SameReplay l s u :=
  ⟨b.1.trans a.1, b.2.1.trans a.2.1, b.2.2.trans a.2.2⟩

theorem SameReplay.modLink (s : State) (l : Nat) {f : Link → Link} (state : ∀ x, (f x).state = x.state)
    (replay : ∀ x, (f x).replay = x.replay) (txSeq : ∀ x, (f x).txSeq = x.txSeq) : SameReplay l s (s.modLink l f) := by
  unfold SameReplay
  rw [State.link_modLink_self]
  exact ⟨state _, replay _, txSeq _⟩

theorem SameReplay.of_touches {m : List Component} (l : Nat) {s t : State} (h : Touches m s t) (apart : .net ∉ m := by decide) :
    SameReplay l s t := by
  unfold SameReplay
  rw [State.link_of_touches h l apart]
  exact ⟨rfl, rfl, rfl⟩

theorem State.takeReserve_sameReplay (s : State) (l v : Nat) : SameReplay l s (s.takeReserve l v) := by
  unfold State.takeReserve
  dsimp only
  split
  · exact .refl l s
  · split
    · exact .modLink s l (fun _ => rfl) (fun _ => rfl) fun _ => rfl
    · exact .of_touches l (State.setBit_touches ..)

/-- A credit that is taken leaves the replay buffer alone. -/
theorem State.takeCredit_sameReplay {s t : State} {l : Nat} {f : DataFlit} (taken : s.takeCredit l f = some t) : SameReplay l s t := by
  unfold State.takeCredit at taken
  dsimp only at taken
  have reserve := (s.takeReserve_sameReplay l f.tenant).trans (.modLink (s.takeReserve l f.tenant) l (f := fun x => { x with
    reserves := x.reserves.map fun r => if r.tenant == f.tenant then { r with last := s.now } else r })
    (fun _ => rfl) (fun _ => rfl) fun _ => rfl)
  split at taken
  · split at taken
    · cases taken
    · cases taken
      exact .modLink s l (fun _ => rfl) (fun _ => rfl) fun _ => rfl
  · split at taken
    · cases taken
    · split at taken
      · cases taken
        exact reserve.trans (.modLink _ l (fun _ => rfl) (fun _ => rfl) fun _ => rfl)
      · split at taken
        · cases taken
        · cases taken
          exact reserve.trans (.modLink _ l (fun _ => rfl) (fun _ => rfl) fun _ => rfl)

theorem State.pickFlit_sameReplay {s t : State} {l i : Nat} {f : DataFlit} (picked : s.pickFlit l = some (i, f, t)) :
    SameReplay l s t := by
  unfold State.pickFlit at picked
  obtain ⟨e, -, found⟩ := List.exists_of_findSome?_eq_some picked
  obtain ⟨n, -, found⟩ := Option.bind_eq_some_iff.1 found
  obtain ⟨v, taken, found⟩ := Option.map_eq_some_iff.1 found
  obtain rfl : _ = t := congrArg (·.2.2) found
  exact (State.takeCredit_sameReplay taken).trans (.modLink v l (fun _ => rfl) (fun _ => rfl) fun _ => rfl)

/-- What a link has sent since: numbered on, kept, 2,048 flits at most. -/
def Sent (l : Nat) (s t : State) (fs : List SentFlit) : Prop :=
  (t.link l).replay = (s.link l).replay ++ fs ∧ (t.link l).txSeq = (s.link l).txSeq + BitVec.ofNat 12 fs.length ∧
  (fs ≠ [] → (s.link l).state = .up ∧ (s.link l).replay.length + fs.length ≤ 2048) ∧
  ∀ i (h : i < fs.length), fs[i].seq = (s.link l).txSeq + BitVec.ofNat 12 i

theorem Sent.nil {l : Nat} {s t : State} (same : SameReplay l s t) : Sent l s t [] :=
  ⟨by simp [same.2.1], by simp [same.2.2], by simp, by simp⟩

/-- One flit more, before the rest. -/
theorem Sent.cons {l : Nat} {s t u : State} {f : SentFlit} {fs : List SentFlit} (up : (s.link l).state = .up)
    (room : (s.link l).replay.length < 2048)
    (kept : (t.link l).replay = (s.link l).replay ++ [f])
    (numbered : f.seq = (s.link l).txSeq) (next : (t.link l).txSeq = (s.link l).txSeq + 1) (rest : Sent l t u fs) :
    Sent l s u (f :: fs) := by
  obtain ⟨replay, txSeq, bound, seqs⟩ := rest
  refine ⟨by rw [replay, kept]; simp, ?_, fun _ => ⟨up, ?_⟩, fun i h => ?_⟩
  · rw [txSeq, next, List.length_cons]
    bv_omega
  · by_cases none : fs = []
    · simp [none]
      omega
    · have := (bound none).2
      rw [kept] at this
      simp only [List.length_append, List.length_cons, List.length_nil] at this ⊢
      omega
  · cases i with
    | zero => simp [numbered]
    | succ i =>
      rw [List.getElem_cons_succ, seqs i (by simpa using h), next]
      bv_omega

/-- A flit as the replay buffer keeps it. -/
def Link.sentFlit (x : Link) (f : DataFlit) : SentFlit := { seq := x.txSeq, flit := f }

/-- A link that has sent the flit at a place of its queue. -/
def Link.flitSent (i : Nat) (f : DataFlit) (x : Link) : Link :=
  { x with waiting := x.waiting.eraseIdx i, replay := x.replay ++ [x.sentFlit f], txSeq := x.txSeq + 1, sent := x.sent + 1 }

/-- Each flit that a link sends is numbered on and kept. -/
theorem State.sendWaiting_sent (l n : Nat) (s : State) : ∃ fs, Sent l s (s.sendWaiting l n) fs := by
  induction n generalizing s with
  | zero => exact ⟨[], .nil (.refl l s)⟩
  | succ n ih =>
    unfold State.sendWaiting
    dsimp only
    split
    · exact ⟨[], .nil (.refl l s)⟩
    · next sends =>
      split
      · exact ⟨[], .nil (.refl l s)⟩
      · next i f t picked =>
        let v := (t.pmcLink l 0x81 1).emit (.dataFlit l (flitBytes f (s.link l).txSeq ((s.link l).rxSeq - 1)))
        have same : SameReplay l s v := ((State.pickFlit_sameReplay picked).trans (.of_touches l (State.pmcLink_touches ..))).trans
          (.of_touches l (State.emit_touches ..))
        obtain ⟨fs, rest⟩ := ih (v.modLink l (Link.flitSent i f))
        simp only [bne_iff_ne, ne_eq, Bool.or_eq_true, not_or, not_not] at sends
        obtain ⟨⟨up, -⟩, room⟩ := sends
        refine ⟨_, .cons (f := (v.link l).sentFlit f) up (Nat.lt_of_not_le fun full => room (decide_eq_true full)) ?kept ?numbered ?next rest⟩
        case kept => exact (congrArg Link.replay (State.link_modLink_self ..)).trans (congrArg (· ++ _) same.2.1)
        case numbered => exact same.2.2
        case next => exact (congrArg Link.txSeq (State.link_modLink_self ..)).trans (congrArg (· + 1) same.2.2)

theorem State.drain_sent (l : Nat) (s : State) : ∃ fs, Sent l s (s.drain l) fs := State.sendWaiting_sent l _ s

/-! ### The timers of a link (R305, R308, R312) -/

theorem exec_replayTimeout {l : Fin 36} {f : SentFlit} {fs : List SentFlit} {s : State}
    (up : (s.sendMessages.link l.val).state = .up) (kept : (s.sendMessages.link l.val).replay = f :: fs) :
    exec (.replayTimeout l) s = .next (s.sendMessages.replayFrom l.val f.seq) := by
  change execReplayTimeout l s = _
  unfold execReplayTimeout
  simp only [up, kept]

theorem exec_linkCreditWatchdog {l : Fin 36} {s : State} (up : (s.link l.val).state = .up) (vl : Fin 8) (tenant : Fin 512) :
    let v := (s.reach ((Sparse.get 0 (s.link l.val).creditsLast vl.val).toNat + 10000000)).setBit Reg.lnkEvent 5
    exec (.linkCreditWatchdog l vl tenant) s = .next (((v.logEvent {
      kind := 1, source := 0x06, action := 3, link := l.val, vl := vl.val, peer := s.rdFld (Reg.lnkPeer l.val) 13 0,
      tenant := if 3 ≤ vl.val then tenant.val else 0 }).setBit Reg.fltEvent 3).fabricReset l.val) := by
  intro v
  have peer : v.rdFld (Reg.lnkPeer l.val) 13 0 = s.rdFld (Reg.lnkPeer l.val) 13 0 := by
    have apart : Reg.lnkPeer l.val ≠ Reg.lnkEvent := by
      simp only [Reg.lnkPeer, Reg.lnkEvent]
      omega
    simp only [State.rdFld, v, State.rd_setBit_ne _ _ apart, State.reach_rd]
  rw [← peer]
  exact if_neg (by simp [up])

theorem exec_reserveRelease {l : Fin 36} {tenant : Fin 512} {e : Reserve} {s : State}
    (held : (s.link l.val).reserves.find? (fun e => e.tenant == tenant.val) = some e) :
    ∃ u, exec (.reserveRelease l tenant) s = .next u ∧
      u.link l.val = { s.link l.val with reserves := (s.link l.val).reserves.filter (·.tenant != tenant.val) } ∧
      u.clock = (s.reach (e.last.toNat + 1000000)).clock ∧ Frame [.clock, .net] s u := by
  let u := (s.reach (e.last.toNat + 1000000)).modLink l.val fun x => { x with reserves := x.reserves.filter (·.tenant != tenant.val) }
  refine ⟨u, ?_, ?_, rfl, (Touches.via (State.modLink_touches ..) (.mono (State.reach_touches ..))).frame⟩
  · change execReserveRelease l tenant s = _
    unfold execReserveRelease
    rw [held]
  · rw [State.link_modLink_self, State.reach_link]

/-- Settles O36: flits by type and sequence, packets by bundle and PSEQ, what is sent, and the timers. -/
theorem flitsAreTakenOnceInOrder : Obligations.FlitsAreTakenOnceInOrder := by
  unfold Obligations.FlitsAreTakenOnceInOrder
  refine ⟨fun l flit bad corrected s up galinoc whole => exec_flitReceive up galinoc whole bad corrected, fun l flit s => ?_,
    fun l w body s => ?_, fun l s => s.drain_sent l, fun l f fs s up kept => exec_replayTimeout up kept,
    fun l vl h payload s => ?_, fun l vl tenant s up => exec_linkCreditWatchdog up vl tenant,
    fun l tenant e s held => exec_reserveRelease held⟩
  · refine ⟨s.flit_uncorrectable l flit, fun wrong => State.flit_bad (flitBad_of wrong), fun good => ⟨fun data inSeq => ?_,
      fun data ahead newer fresh => ?_, fun data ahead naked => ?_, State.flit_nak good, State.flit_control good⟩⟩
    · exact (State.flit_data good data).trans (if_pos inSeq)
    · exact (State.flit_data good data).trans ((if_neg ahead).trans (if_pos (by simp [newer, fresh])))
    · exact (State.flit_data good data).trans ((if_neg ahead).trans (if_neg (by simp [naked])))
  · obtain ⟨rx, taken⟩ := s.takeFlit_link l w body
    rw [taken]
    exact ⟨rfl, rfl, rfl⟩
  · exact ⟨exec_packetReceive_far, fun beside next empty => exec_packetReceive_next beside empty next,
      fun beside newer empty ⟨_, up, other⟩ => exec_packetReceive_waits beside empty newer up other,
      fun beside passed old => exec_packetReceive_copy beside passed old⟩

end Sys2Proof.Machine
end

section
/-!
PROOF. HALT_N and the domain manager (R10, R12, R34, R170, R329, R333, R334, R348-R351): registrations, reports, warnings.
-/

-- One declaration after another: the package as one text then needs few threads at a time.
set_option Elab.async false

namespace Sys2Proof.Machine
open Sys2Proof.Safety

/-! ### HALT_N (R333, R334) -/

/-- A record leaves every register but the count and the event of faults. -/
theorem State.rd_logEvent_ne (s : State) (r : EvRec) {q : Nat} (event : q ≠ Reg.fltEvent) (count : q ≠ Reg.fltFaultCnt) :
    (s.logEvent r).rd q = s.rd q := by
  obtain ⟨events, seq, held, eq⟩ := s.logEvent_eq r
  rw [eq]
  change (s.countFault r).rd q = s.rd q
  unfold State.countFault
  split
  · exact (State.rd_setBit_ne _ _ event).trans (State.rd_wrFld_ne _ _ _ _ count)
  · rfl

theorem State.ibi_haltN (s : State) (cause : Byte) : (s.ibi cause).mgt.haltN = s.mgt.haltN := by
  unfold State.ibi
  split
  · rfl
  · split <;> rfl

theorem State.logEvent_mgt (s : State) (r : EvRec) : (s.logEvent r).mgt = s.mgt := (s.logEvent_touches r).frame .mgt (by decide)

/-- What HALT_N low sets, and whom it tells (R334). -/
def State.haltSeen (s : State) : State := (((s.setBit Reg.mgtStatus 20).setBit Reg.mgtEvent 5).ibi 0x04)

theorem State.haltSeen_bits (s : State) : s.haltSeen.rdBit Reg.mgtStatus 20 = true ∧ s.haltSeen.rdBit Reg.mgtEvent 5 = true := by
  unfold State.haltSeen
  simp only [State.rdBit, State.rd_of_touches (State.ibi_touches ..)]
  refine ⟨(State.rdBit_setBit_ne _ _ _ (by decide)).trans ?_, ?_⟩
  all_goals exact (State.rdBit_setBit _ _ _ (by decide)).trans (by simp)

theorem State.haltSeen_haltN (s : State) : s.haltSeen.mgt.haltN = s.mgt.haltN := State.ibi_haltN _ _

theorem State.haltSeen_touches (s : State) : Touches [.rf, .mgt, .out] s s.haltSeen :=
  .via (State.ibi_touches ..) (.via (State.setBit_touches ..) (.mono (State.setBit_touches ..)))

theorem exec_haltNLow {s : State} (up : s.pkg.heldBy = none) : ∃ u, exec .haltNLow s = .next u ∧ u.mgt.haltN = false ∧
    u.rdBit Reg.mgtStatus 20 = true ∧ u.rdBit Reg.mgtEvent 5 = true ∧ u.rdBit Reg.fltEvent 0 = true ∧
    Frame [.rf, .mgt, .flt, .out] s u := by
  let low : State := { s with mgt := { s.mgt with haltN := false } }
  let w := low.haltSeen.logEvent { kind := 1, source := 0x0C }
  have told : Touches [.out] w (w.tellDm "HALTED" [w.self.toNat]) := State.tellDm_touches ..
  have rd : ∀ q, (w.tellDm "HALTED" [w.self.toNat]).rd q = w.rd q := State.rd_of_touches told
  obtain ⟨halted, event⟩ := low.haltSeen_bits
  refine ⟨w.tellDm "HALTED" [w.self.toNat], if_neg (by simp [up]), ?_, ?_, ?_, ?_, Touches.frame (.via told (.via
    (State.logEvent_touches ..) (.via low.haltSeen_touches (TouchesParts.upd (.refl _ s)))))⟩
  · exact (congrArg Mgt.haltN (State.logEvent_mgt ..)).trans low.haltSeen_haltN
  · rw [State.rdBit, rd, State.rd_logEvent_ne _ _ (by decide) (by decide)]
    exact halted
  · rw [State.rdBit, rd, State.rd_logEvent_ne _ _ (by decide) (by decide)]
    exact event
  · rw [State.rdBit, rd]
    exact (State.logEvent_bit _ rfl (by decide)).trans (by simp)

theorem exec_haltNRelease {s : State} (released : s.mgt.haltDrive = false) : ∃ u, exec .haltNRelease s = .next u ∧
    u.mgt = { s.mgt with haltN := true, haltHighSince := s.now, haltWait := false } ∧ Frame [.clock, .mgt] s u := by
  let high : State := { s with mgt := { s.mgt with haltN := true, haltHighSince := s.now } }
  have rises : exec .haltNRelease s = .next (if high.mgt.haltWait then
      { high.reach (high.now.toNat + 10000) with mgt := { high.mgt with haltWait := false } } else high) :=
    if_neg (by simp [released])
  have touched : Touches [.clock, .mgt] s high := TouchesParts.upd (.refl _ s)
  by_cases waits : high.mgt.haltWait = true
  · exact ⟨_, exec_next rises (if_pos waits), rfl, Touches.frame (TouchesParts.upd (.via (State.reach_touches ..) touched))⟩
  · refine ⟨_, exec_next rises (if_neg waits), ?_, touched.frame⟩
    change { s.mgt with haltN := true, haltHighSince := s.now } = _
    rw [← Bool.eq_false_iff.2 waits]

theorem State.driveHalt_facts (s : State) : s.driveHalt.mgt = { s.mgt with haltDrive := true, haltN := false } ∧
    s.driveHalt.rdBit Reg.mgtEvent 6 = true ∧ Frame [.rf, .mgt] s s.driveHalt :=
  ⟨rfl, (State.rdBit_setBit _ _ _ (by decide)).trans (by simp),
    (Touches.via (State.setBit_touches ..) (TouchesParts.upd (.refl _ s))).frame⟩

theorem exec_boardHalt (s : State) : (s.rdBit Reg.mgtStatus 17 = true → exec .boardHalt s = .next s.driveHalt) ∧
    (s.rdBit Reg.mgtStatus 17 = false → exec .boardHalt s =
      .next (s.emit (.toChip s.dmChip "NOT_OWNER" [(s.boardManager.getD s.dmChip).toNat]))) :=
  ⟨fun board => exec_next rfl (if_pos board), fun other => exec_next rfl (if_neg (Bool.eq_false_iff.1 other))⟩

theorem exec_haltDriveEnd {s : State} (drives : s.mgt.haltDrive = true) : exec .haltDriveEnd s =
    .next (({ s with mgt := { s.mgt with haltDrive := false } } : State).clrBit Reg.mgtCmd 1) :=
  exec_next rfl (if_pos drives)

/-! ### Registrations at the domain manager (R10, R170, R329) -/

/-- A chip registers for the launch of a job. -/
def DmJob.withChip (c : ChipId) (mode : Bool) (n : Word) (d : DmJob) : DmJob :=
  { d with registered := if d.registered.contains c then d.registered else d.registered ++ [c]
           stepFrames := if d.registered.isEmpty then n else d.stepFrames
           mode := if d.registered.isEmpty then mode else d.mode
           abandonedAt := none
           held := false }

/-- A job of the domain manager that is changed is found again, changed. -/
theorem State.dmJob_modDm {s : State} {jobId : Word} {d : DmJob} (found : s.dmJob jobId = some d) {f : DmJob → DmJob}
    (named : ∀ d, (f d).jobId = d.jobId) : (s.modDm jobId f).dmJob jobId = some (f d) := by
  have same : ((·.jobId == jobId) ∘ fun d : DmJob => if d.jobId == jobId then f d else d) = (·.jobId == jobId) := by
    funext d
    simp only [Function.comp]
    split <;> simp [named]
  have mine : (d.jobId == jobId) = true := List.find?_some (p := fun d : DmJob => d.jobId == jobId) found
  simp only [State.dmJob, State.modDm, List.find?_map, same] at found ⊢
  rw [found, Option.map_some, if_pos mine]

/-- A registration for a job that the domain manager knows. -/
theorem State.registerLaunch_known {s : State} {jobId : Word} {d : DmJob} (known : s.dmJob jobId = some d) (c : ChipId) (mode : Bool)
    (n : Word) : s.registerLaunch c jobId mode n =
      let v := s.modDm jobId (DmJob.withChip c mode n)
      let e := d.withChip c mode n
      if e.stepFrames != n then v.refuseLaunch e 0x13 c.toNat
      else if e.mode != mode then v.refuseLaunch e Config.mixedModes.toNat c.toNat
      else if v.mgt.refuse then v else v.countIfAll e := by
  have found := State.dmJob_modDm known (f := DmJob.withChip c mode n) fun _ => rfl
  unfold State.registerLaunch
  simp only [known]
  change (match (s.modDm jobId (DmJob.withChip c mode n)).dmJob jobId with | none => _ | some d => _) = _
  rw [found]
  rfl

theorem DmJob.withChip_begun {d : DmJob} (begun : d.registered ≠ []) (c : ChipId) (mode : Bool) (n : Word) : (d.withChip c mode n).stepFrames = d.stepFrames ∧
    (d.withChip c mode n).mode = d.mode := by
  have : d.registered.isEmpty = false := by simpa using begun
  simp [DmJob.withChip, this]

section
variable {s : State} {jobId : Word} {d : DmJob} (known : s.dmJob jobId = some d) (begun : d.registered ≠ [])
include known begun

/-- A worker whose STEP_FRAMES or mode differs has its job's launch refused. -/
theorem State.registerLaunch_differs {c : ChipId} {mode : Bool} {n : Word} (differs : d.stepFrames ≠ n ∨ d.mode ≠ mode) :
    ∃ (u : State) (e : DmJob) (st : Nat), s.registerLaunch c jobId mode n = u.refuseLaunch e st c.toNat ∧ e.workers = d.workers ∧
      (d.stepFrames ≠ n → st = 0x13) ∧ Frame [.mgt] s u := by
  obtain ⟨frames, kind⟩ := DmJob.withChip_begun begun c mode n
  have frame := (s.modDm_touches jobId (DmJob.withChip c mode n)).frame
  rw [State.registerLaunch_known known]
  by_cases same : d.stepFrames = n
  · have other := differs.resolve_left (not_not_intro same)
    exact ⟨_, _, _, (if_neg (by simp [frames, same])).trans (if_pos (by simp [kind, other])), rfl, fun no => absurd same no, frame⟩
  · exact ⟨_, _, _, if_pos (by simp [frames, same]), rfl, fun _ => rfl, frame⟩

/-- The last worker's registration sends the launch count. -/
theorem State.registerLaunch_last {c : ChipId} {mode : Bool} {n : Word} (frames : d.stepFrames = n) (kind : d.mode = mode)
    (accepts : s.mgt.refuse = false) (all : ∀ x ∈ d.workers, x = c ∨ d.registered.contains x = true) :
    ∃ (u : State) (e : DmJob), s.registerLaunch c jobId mode n = u.sendCount e ∧ e.workers = d.workers ∧ Frame [.mgt] s u := by
  obtain ⟨frames', kind'⟩ := DmJob.withChip_begun begun c mode n
  refine ⟨s.modDm jobId (DmJob.withChip c mode n), d.withChip c mode n, ?_, rfl, (State.modDm_touches ..).frame⟩
  rw [State.registerLaunch_known known]
  refine (if_neg (by simp [frames', frames])).trans ((if_neg (by simp [kind', kind])).trans ((if_neg ?_).trans (if_pos ?_)))
  · exact Bool.eq_false_iff.1 accepts
  · refine List.all_eq_true.2 fun x mem => ?_
    simp only [DmJob.withChip]
    obtain rfl | held := all x mem
    · split <;> simp_all
    · split <;> simp_all

end

theorem exec_registration {s : State} (committed : s.committed = true) (domain : s.mgt.noDm = false) (dm : s.isDm = true) (c : ChipId)
    (jobId : Word) (mode : Bool) (n : Word) :
    exec (.registration c jobId mode n true) s = .next (s.registerLaunch c jobId mode n) ∧
    (s.mgt.ready.contains c = false → c ≠ s.self → exec (.registration c jobId mode n false) s =
      .next (({ s with mgt := { s.mgt with ready := s.mgt.ready ++ [c] } } : State).emit (.toChip c "REGISTERED" []))) := by
  have first : ∀ launching, exec (.registration c jobId mode n launching) s =
      if launching then .next (if s.isDm then s.registerLaunch c jobId mode n else s.notOwner c)
      else if !s.isDm && !s.rdBit Reg.mgtStatus 17 then .next (s.notOwner c)
      else if s.mgt.ready.contains c || c == s.self then .next s
      else .next (({ s with mgt := { s.mgt with ready := s.mgt.ready ++ [c] } } : State).emit (.toChip c "REGISTERED" [])) :=
    fun _ => (if_neg (by simp [committed])).trans (if_neg (by simp [domain]))
  refine ⟨exec_next (first true) (if_pos dm), fun new other => (first false).trans ((if_neg (by simp)).trans
    ((if_neg (by simp [dm])).trans (if_neg ?_)))⟩
  simp only [new, Bool.false_or, beq_iff_eq]
  exact other

/-! ### Reports (R12, R34, R348-R351) -/

/-- At another chip a request names the domain manager; a refusal of a launch comes from it. -/
theorem exec_elsewhere {s : State} (other : s.isDm = false) (c : ChipId) (jobId : Word) (mode : Bool) (n : Word) (k : Fin 5) :
    (s.committed = true → s.mgt.noDm = false → exec (.registration c jobId mode n true) s = .next (s.notOwner c)) ∧
    exec (.warningReceive c k) s = .next (s.notOwner c) ∧
    exec (.workerReport c jobId .stepBoundary) s = .next (s.notOwner c) ∧
    ∀ st, exec (.workerReport c jobId (.launchRefused st)) s = .next (s.launchRefused jobId st c) := by
  have apart : ¬ s.isDm = true := Bool.eq_false_iff.1 other
  have reports : (!s.isDm) = true := by simp [other]
  exact ⟨fun committed domain => exec_next ((if_neg (by simp [committed])).trans ((if_neg (by simp [domain])).trans (if_pos rfl)))
    (if_neg apart), exec_next rfl (if_neg apart), if_pos reports, fun st => if_pos reports⟩

/-- What the domain manager does on a report of a worker's, of a job that it knows. -/
def State.reported (s : State) (d : DmJob) (jobId : Word) (c : ChipId) : Report → State
  | .lateLaunch | .notInLock => s.sendCount d
  | .mirrorFingerprint => s.refuseLaunch d 0x24 c.toNat
  | .mirrorFreeze => (d.workers.filter (· != c)).foldl (fun s c =>
      if c == s.self then s.haltJob jobId else s.emit (.toChip c "HALT_JOB" [jobId.toNat])) s
  | .workerLeft | .collectiveFailed => s.abandonJob d c false
  | .ouuTable => s.abandonJob d c true
  | .stepBoundary =>
    let l := if d.boundary.contains c then d.boundary else d.boundary ++ [c]
    if d.workers.all l.contains then
      ((s.modDm jobId fun d => { d with boundary := [] }).tellWorkers d "STEP_AGREED" [jobId.toNat]).copyAgreed jobId
    else s.modDm jobId fun d => { d with boundary := l }
  | _ => s

section
variable {s : State} (dm : s.isDm = true)
include dm

theorem exec_warningReceive (c : ChipId) (k : Fin 5) : exec (.warningReceive c k) s =
    .next ((s.mgt.jobs.filter (·.workers.contains c)).foldl (fun s d => s.requestCut d [] false) s) :=
  exec_next rfl (if_pos dm)

variable {jobId : Word} {d : DmJob} (known : s.dmJob jobId = some d)
include known

/-- A report of a job that the domain manager knows is acted on. -/
theorem exec_workerReport (c : ChipId) {r : Report} (acts : r ≠ .ticksStopped) :
    exec (.workerReport c jobId r) s = .next (s.reported d jobId c r) := by
  refine (if_neg (by simp [dm])).trans ((if_neg acts).trans ?_)
  rw [known]
  cases r <;> rfl

theorem exec_holdMinExpiry {t : Dword} (abandoned : d.abandonedAt = some t) : exec (.holdMinExpiry jobId) s =
    .next (((s.reach (t.toNat + s.rdFld Reg.fltRecovCfg 7 0 * 60000000000)).modDm jobId fun d =>
      { d with abandonedAt := none, held := false, registered := [] }).tellWorkers d "RESTART_FROM_CHECKPOINT" [jobId.toNat]) := by
  refine (if_neg (by simp [dm])).trans ?_
  rw [known]
  change (match d.abandonedAt with | none => _ | some t => _) = _
  rw [abandoned]

end

/-- The orders of a job to its workers. -/
def ordersTo (l : List ChipId) (kind : String) (args : List Nat) : List Out := l.map fun c => .toChip c kind args

theorem State.tellWorkers_eq (s : State) (d : DmJob) (kind : String) (args : List Nat) :
    s.tellWorkers d kind args = s.sends (ordersTo d.workers kind args) := s.emit_each d.workers kind args

/-- Once a pass had begun an abandonment is followed by the restart at once. -/
theorem State.abandonJob_inPass (s : State) (d : DmJob) (c : ChipId) :
    (s.abandonJob d c true).out = s.out ++ ordersTo d.workers "ABANDON" [d.jobId.toNat, c.toNat] ++
      ordersTo d.workers "RESTART_FROM_CHECKPOINT" [d.jobId.toNat] := by
  have must : (s.mustRestart d.jobId true).1 = true := rfl
  unfold State.abandonJob
  simp only [must, if_true, State.tellWorkers_eq]
  rfl

/-- What each worker of a list does on a freeze, or is told. -/
def State.haltAt (jobId : Word) (s : State) (c : ChipId) : State :=
  if c == s.self then s.haltJob jobId else s.emit (.toChip c "HALT_JOB" [jobId.toNat])

theorem State.haltAt_each (jobId : Word) (l : List ChipId) (s : State) (away : ∀ x ∈ l, x ≠ s.self) :
    l.foldl (State.haltAt jobId) s = s.sends (ordersTo l "HALT_JOB" [jobId.toNat]) := by
  induction l generalizing s with
  | nil => simp [State.sends, ordersTo]
  | cons c l ih =>
    have one : s.haltAt jobId c = s.emit (.toChip c "HALT_JOB" [jobId.toNat]) := if_neg (by simpa using away c (by simp))
    rw [List.foldl_cons, one, ih (s.emit _) fun x mem => away x (List.mem_cons_of_mem _ mem)]
    simp [State.sends, State.emit, ordersTo]

/-- A freeze halts the job at every other worker, none of them this chip. -/
theorem State.reported_freeze {s : State} {d : DmJob} (away : d.workers.contains s.self = false) (jobId : Word) (c : ChipId) :
    s.reported d jobId c .mirrorFreeze = s.sends (ordersTo (d.workers.filter (· != c)) "HALT_JOB" [jobId.toNat]) := by
  refine State.haltAt_each jobId _ s ?_
  rintro x mem rfl
  have := List.contains_iff_mem.2 (List.mem_filter.1 mem).1
  rw [away] at this
  cases this

/-- The last worker's boundary agrees the step. -/
theorem State.reported_boundary {s : State} {d : DmJob} {c : ChipId} (all : ∀ x ∈ d.workers, x = c ∨ d.boundary.contains x = true)
    (jobId : Word) : s.reported d jobId c .stepBoundary =
      ((s.modDm jobId fun d => { d with boundary := [] }).tellWorkers d "STEP_AGREED" [jobId.toNat]).copyAgreed jobId := by
  refine if_pos (List.all_eq_true.2 fun x mem => ?_)
  obtain rfl | held := all x mem
  · split <;> simp_all
  · split <;> simp_all

/-- Settles O40: HALT_N, registrations, reports and warnings, each by its lemma. -/
theorem managersHaltLaunchAndRecover : Obligations.ManagersHaltLaunchAndRecover := by
  unfold Obligations.ManagersHaltLaunchAndRecover
  refine ⟨fun path s opens => exec_next rfl (State.via_open opens _), fun s => (exec_boardHalt s).1, fun s => (exec_boardHalt s).2,
    State.driveHalt_facts, fun s => exec_haltDriveEnd, fun s => exec_haltNLow, fun s => exec_haltNRelease,
    fun c jobId mode n s committed domain dm => ?_, fun c jobId mode n k s other => exec_elsewhere other c jobId mode n k,
    fun c jobId s d dm known => ?_, fun c k s dm => exec_warningReceive dm c k⟩
  · obtain ⟨launching, ready⟩ := exec_registration committed domain dm c jobId mode n
    exact ⟨launching, ready, fun d known begun => ⟨State.registerLaunch_differs known begun, State.registerLaunch_last known begun⟩⟩
  · have report := fun (r : Report) (acts : r ≠ .ticksStopped) => exec_workerReport dm known c acts
    have job : d.jobId = jobId := by simpa using List.find?_some (p := fun d : DmJob => d.jobId == jobId) known
    refine ⟨report .lateLaunch (by decide), report .notInLock (by decide), report .mirrorFingerprint (by decide),
      report .workerLeft (by decide), report .collectiveFailed (by decide), ⟨_, report .ouuTable (by decide),
        (State.abandonJob_touches ..).frame, ?_⟩, fun away => ⟨_, exec_next (report .mirrorFreeze (by decide))
          (State.reported_freeze away jobId c), (State.sends_touches ..).frame, rfl⟩,
      fun all => exec_next (report .stepBoundary (by decide)) (State.reported_boundary all jobId),
      fun t abandoned => exec_holdMinExpiry dm known abandoned⟩
    rw [← job]
    exact s.abandonJob_inPass d c

end Sys2Proof.Machine
end

section
/-!
PROOF. Checkpoints on a worker and admission (R352-R358): orders, reports, the cut, its drain, a restore, a copy.
-/

-- One declaration after another: the package as one text then needs few threads at a time.
set_option Elab.async false

namespace Sys2Proof.Machine
open Sys2Proof.Safety

/-! ### Orders of a cut at a worker (R353, R354) -/

/-- What is changed at each place of a list, the same once as several times. -/
theorem foldl_at {σ α : Type} {f : σ → Nat → σ} {read : σ → Nat → α} {g : α → α} (once : ∀ x, g (g x) = g x)
    (acts : ∀ s p q, read (f s p) q = if q = p then g (read s q) else read s q) (l : List Nat) (s : σ) (q : Nat) :
    read (l.foldl f s) q = if q ∈ l then g (read s q) else read s q := by
  induction l generalizing s with
  | nil => simp
  | cons p l ih =>
    rw [List.foldl_cons, ih, acts]
    by_cases here : q = p <;> by_cases later : q ∈ l <;> simp [here, later, once]

theorem State.modCkpt_ckpt (s : State) (p q : Nat) (f : Ckpt → Ckpt) :
    ((s.modCkpt p f).part q).ckpt = if q = p then f (s.part q).ckpt else (s.part q).ckpt := by
  unfold State.modCkpt
  split
  · next same => rw [same, State.part_modPart_self]
  · next other => rw [State.part_modPart_ne s _ other]

theorem State.ckptState_part (s : State) (p st q : Nat) : (s.ckptState p st).part q = s.part q := rfl

theorem exec_cutOrder (jobId : Word) (c : BitVec 40) (s : State) : ∃ u, exec (.cutOrder jobId c) s = .next u ∧
    ∀ p, (u.part p).ckpt.cutStep = if p ∈ s.partsOfJob jobId then some c else (s.part p).ckpt.cutStep := by
  refine ⟨_, rfl, fun p => foldl_at (read := fun s p => (s.part p).ckpt.cutStep) (g := fun _ => some c) (fun _ => rfl)
    (fun s p q => ?_) _ s p⟩
  rw [State.ckptState_part, State.modCkpt_ckpt]
  split <;> rfl

theorem exec_cutRelease (jobId : Word) (s : State) : ∃ u, exec (.cutRelease jobId) s = .next u ∧ Frame [.parts] s u ∧
    ∀ p, (u.part p).ckpt = if p ∈ s.partsOfJob jobId then { (s.part p).ckpt with releaseWait := false }
      else (s.part p).ckpt :=
  ⟨_, rfl, (Touches.foldl _ (fun _ _ => State.modCkpt_touches ..) (.refl _ s)).frame, fun p =>
    foldl_at (read := fun s p => (s.part p).ckpt) (g := fun k => { k with releaseWait := false }) (fun _ => rfl)
      (fun s p q => s.modCkpt_ckpt p q _) _ s p⟩

/-! ### Reports of a cut (R353) -/

/-- A cut's report on another chip completes the requests that wait here. -/
theorem exec_cutReport_elsewhere {s : State} (other : s.isDm = false) (jobId : Word) (chip : ChipId) (stage : CutStage) :
    exec (.cutReport jobId chip stage) s = .next (match stage with
      | .copied => s
      | .done => ((cutRequests s jobId).foldl (fun s c => s.complete c.chan c.index stOk 0 0) s).retryBells
      | .failed => ((cutRequests s jobId).foldl (fun s c => s.complete c.chan c.index 0x34 chip.toNat 0) s).retryBells) := by
  refine (if_pos (by simp [other])).trans ?_
  cases stage <;> rfl

/-- A worker's report in a cut that stands at the domain manager: what it changes there. -/
def DmJob.reported (d : DmJob) (chip : ChipId) (stage : CutStage) : DmJob :=
  let d := { d with cutReports := if d.cutReports.contains chip then d.cutReports else d.cutReports ++ [chip] }
  if stage = .copied then d
  else { d with cutDone := if d.cutDone.contains chip then d.cutDone else d.cutDone ++ [chip]
                cutFailed := if stage = .failed && d.cutFailed.isNone then some chip else d.cutFailed }

/-- Every worker has copied. -/
def DmJob.allCopied (d : DmJob) : Bool := d.workers.all d.cutReports.contains

/-- With this report every worker has copied: the release, and the pre-emption that waited for it. -/
def State.releaseIfLast (s : State) (jobId : Word) (was : Bool) (d : DmJob) : State :=
  if !was && d.allCopied then
    let s := s.tellWorkers d "RELEASE" [jobId.toNat]
    if d.preemptAfter && !d.cutAgain then s.tellWorkers d "PREEMPT" [jobId.toNat] else s
  else s

section
variable {s : State} {jobId : Word} {d : DmJob} {chip : ChipId} (dm : s.isDm = true) (known : s.dmJob jobId = some d)
  (cuts : d.cutStep ≠ none) (works : chip ∈ d.workers)
include dm known cuts works

theorem exec_cutReport (stage : CutStage) : exec (.cutReport jobId chip stage) s =
    let e := d.reported chip stage
    let u := (s.modDm jobId fun _ => e).releaseIfLast jobId d.allCopied e
    .next (if e.workers.all e.cutDone.contains then u.endCut e else u) := by
  refine (if_neg (by simp [dm])).trans ?_
  rw [known]
  refine (if_neg ?_).trans rfl
  simp [cuts, works]

/-- While a worker has not copied the report is noted. -/
theorem exec_cutReport_copied (new : chip ∉ d.cutReports) (waits : ∃ w ∈ d.workers, w ≠ chip ∧ w ∉ d.cutReports)
    (runs : d.workers.all d.cutDone.contains = false) :
    exec (.cutReport jobId chip .copied) s = .next (s.modDm jobId fun _ => { d with cutReports := d.cutReports ++ [chip] }) := by
  have noted : d.reported chip .copied = { d with cutReports := d.cutReports ++ [chip] } := by simp [DmJob.reported, new]
  have some : (d.reported chip .copied).allCopied = false := by
    obtain ⟨w, mem, other, missing⟩ := waits
    rw [noted]
    exact List.all_eq_false.2 ⟨w, mem, by simp [other, missing]⟩
  refine exec_next (exec_cutReport dm known cuts works .copied) ((if_neg ?_).trans ((if_neg (by simp [some])).trans ?_))
  · rw [noted]
    exact Bool.eq_false_iff.1 runs
  · rw [noted]

/-- The last worker's end of its drain ends the cut. -/
theorem exec_cutReport_done (all : ∀ w ∈ d.workers, w ∈ d.cutReports ∧ (w ∈ d.cutDone ∨ w = chip)) (new : chip ∉ d.cutDone) :
    exec (.cutReport jobId chip .done) s = .next ((s.modDm jobId fun _ => { d with cutDone := d.cutDone ++ [chip] }).endCut
      { d with cutDone := d.cutDone ++ [chip] }) := by
  have noted : d.reported chip .done = { d with cutDone := d.cutDone ++ [chip] } := by
    have copied := (all chip works).1
    simp [DmJob.reported, new, copied]
  have copied : d.allCopied = true := List.all_eq_true.2 fun w mem => by simpa using (all w mem).1
  refine exec_next (exec_cutReport dm known cuts works .done) ((if_pos ?_).trans ?_)
  · rw [noted]
    exact List.all_eq_true.2 fun w mem => by simpa using (all w mem).2
  · rw [noted, copied]
    rfl

end

/-! ### The cut, its drain, and a restore (R353-R355) -/

theorem exec_checkpointCut {p : Fin 8} {j : Job} {s : State} (job : (s.part p.val).job = some j) (on : (s.part p.val).jobOn = true)
    (acts : (s.part p.val).action = 5) (here : (s.part p.val).ckpt.cutStep = some (s.part p.val).closing)
    (drained : (s.part p.val).ckpt.drain = none) (stays : (s.part p.val).abandoned = false) (up : s.flt.run = none)
    (memory : s.flt.memReset = false) (goes : s.halted = false)
    (rings : (s.kal.krots.any fun k => s.partOf k.tile == p.val) = false) (wire : List (BitVec 8)) :
    exec (.checkpointCut p wire) s = .next (s.cut p.val j wire) := by
  change execCheckpointCut p wire s = _
  unfold execCheckpointCut
  dsimp only
  rw [job]
  simp [on, acts, here, drained, stays, up, memory, goes, rings]

theorem exec_cutDrainDone {p : Fin 8} {v : Nat} {jobId : Word} {bs head : List Byte} {s : State}
    (drains : (s.part p.val).ckpt.drain = some (v, jobId, bs, head)) (wire : List (BitVec 8)) :
    let es := ckExtents bs
    let offs := stageOffsets es (ckStage (ckHead bs))
    let u := (es.zip offs).foldl (fun s e => s.meet v e.2 (ceLen e.1)) s
    exec (.cutDrainDone p wire) s = .next (((u.modCkpt p.val fun k => { k with drain := none }).ckptState p.val 0).finishCut
      p.val v jobId bs head offs (s.sendCodes v es offs wire)) := by
  intro es offs u
  change execCutDrainDone p wire s = _
  unfold execCutDrainDone
  rw [drains]

/-- What the extents of a restore leave, before they are judged. -/
def State.restored (s : State) (p v : Nat) (bs : List Byte) (wire : List WireResult) : State :=
  ((s.meetCkpt p v).restoreExtents v (ckExtents bs) wire).meet v (ckManifest (ckHead bs)) (64 + 32 * ckCount (ckHead bs))

/-- The entries of a manifest. -/
def State.manifestEntries (s : State) (v : Nat) (h : Nat) : List Byte :=
  ((s.tenBytes v (ckManifest h) (64 + 32 * ckCount h)).getD []).drop 64

/-- The first extent of a restore that did not arrive whole, with its digest. -/
def badExtent (bs : List Byte) (wire : List WireResult) (m : List Byte) : Option Nat :=
  (List.range (ckExtents bs).length).find? fun i => match wire[i]? with
    | some (WireResult.data b) => decide (b.length != ceLen ((ckExtents bs).getD i 0)) ||
        (digestOf b).toNat != bytesToNat ((m.drop (32 * i)).take 16)
    | _ => true

/-- A restore whose extents all match clears RESTORE; else it refuses its LAUNCH. -/
theorem exec_restoreDone {p : Fin 8} {j : Job} {bs : List Byte} {s : State} (job : (s.part p.val).job = some j)
    (restores : j.restoring = true) (read : s.readCkpt p.val j.tenant = some bs) (wire : List WireResult) :
    let u := s.restored p.val j.tenant bs wire
    exec (.restoreDone p wire) s = .next (match badExtent bs wire (u.manifestEntries j.tenant (ckHead bs)) with
      | some i => (((u.ckptState p.val 0).ckptOutcome p.val (some i)).endRecord p.val 0x34 i).finishJob p.val 0x34
          { j with endDetail := i }
      | none => ((((u.writeTen j.tenant (u.ckptAddr p.val) (natToBytes 4 (setFld (fld (ckHead bs) 31 0) 17 17 0))).2.ckptState p.val
          0).ckptOutcome p.val none).modJob p.val fun j => { j with restoring := false })) := by
  intro u
  change execRestoreDone p wire s = _
  unfold execRestoreDone
  rw [job]
  refine (if_neg (by simp [restores])).trans ?_
  rw [read]
  change (match badExtent bs wire (u.manifestEntries j.tenant (ckHead bs)) with
    | some i => _
    | none => _) = _
  cases badExtent bs wire (u.manifestEntries j.tenant (ckHead bs)) <;> rfl

/-! ### Admission (R357, R358) -/

section
variable {p : Fin 8} {i e : Nat} {bs : List Byte} {s : State} (read : s.readCkpt p.val (s.ckptTenant p.val) = some bs)
  (extent : (ckExtents bs)[i]? = some e)
include read extent

/-- An extent of an admission, judged. -/
theorem exec_admissionCopy (data : List Byte) (g : BitVec 128) (ue : Option (BitVec 40)) : exec (.admissionCopy p i data g ue) s =
    let v := s.ckptTenant p.val
    if ue.isSome || decide (data.length != ceLen e) || digestOf data != g then
      let u := { s with flt := { s.flt with admissionUe := ue.getD (BitVec.allOnes 40) } }
      .next ((((((u.dropCopied p.val v (ckExtents bs)).ckptState p.val 0).ckptLast p.val 2 i).setBit Reg.fltEvent 8).admissionRecord
        p.val 0x06 ue).tellDm "ADMISSION_FAILED" [p.val, i])
    else
      let u := (s.writeTen v (ceSrc e) data).2.modCkpt p.val fun k => { k with copied := dedup (k.copied ++ [i]) }
      let w := ((u.modCkpt p.val fun k => { k with copied := [] }).ckptState p.val 0).ckptLast p.val 1 0
      if (u.part p.val).ckpt.copied.length < (ckExtents bs).length then .next (u.ckptState p.val 6)
      else .next ((w.admissionRecord p.val 0 none).tellDm "ADMITTED" [p.val]) := by
  change execAdmissionCopy p i data g ue s = _
  unfold execAdmissionCopy
  dsimp only
  rw [read]
  change (match (ckExtents bs)[i]? with | none => _ | some e => _) = _
  rw [extent]

theorem exec_admissionCopy_whole {data : List Byte} {g : BitVec 128} {ue : Option (BitVec 40)} (sound : ue = none)
    (whole : data.length = ceLen e) (same : digestOf data = g) :
    let u := (s.writeTen (s.ckptTenant p.val) (ceSrc e) data).2.modCkpt p.val fun k => { k with copied := dedup (k.copied ++ [i]) }
    let w := ((u.modCkpt p.val fun k => { k with copied := [] }).ckptState p.val 0).ckptLast p.val 1 0
    exec (.admissionCopy p i data g ue) s = .next (if (u.part p.val).ckpt.copied.length < (ckExtents bs).length
      then u.ckptState p.val 6 else (w.admissionRecord p.val 0 none).tellDm "ADMITTED" [p.val]) := by
  intro u w
  refine (exec_admissionCopy read extent data g ue).trans ((if_neg (by simp [sound, whole, same])).trans ?_)
  exact (apply_ite Host.Outcome.next ((u.part p.val).ckpt.copied.length < (ckExtents bs).length) _ _).symm

theorem exec_admissionCopy_fails {data : List Byte} {g : BitVec 128} {ue : Option (BitVec 40)}
    (bad : ue.isSome = true ∨ data.length ≠ ceLen e ∨ digestOf data ≠ g) :
    let u := { s with flt := { s.flt with admissionUe := ue.getD (BitVec.allOnes 40) } }
    exec (.admissionCopy p i data g ue) s = .next ((((((u.dropCopied p.val (s.ckptTenant p.val) (ckExtents bs)).ckptState p.val 0).ckptLast
      p.val 2 i).setBit Reg.fltEvent 8).admissionRecord p.val 0x06 ue).tellDm "ADMISSION_FAILED" [p.val, i]) :=
  (exec_admissionCopy read extent data g ue).trans (if_pos (by
    obtain met | short | other := bad
    · simp [met]
    · simp [short]
    · simp [other]))

end

/-- Settles O19: each of the commands has its lemma. -/
theorem checkpointsCutRestoreAndAdmit : Obligations.CheckpointsCutRestoreAndAdmit := by
  unfold Obligations.CheckpointsCutRestoreAndAdmit
  exact ⟨exec_cutOrder, exec_cutRelease, fun jobId chip stage s other => exec_cutReport_elsewhere other jobId chip stage,
    fun jobId chip d s dm known cuts works new waits runs => exec_cutReport_copied dm known cuts works new waits runs,
    fun jobId chip d s dm known cuts works all new => exec_cutReport_done dm known cuts works all new,
    fun p wire j s job on acts here drained stays up memory goes rings =>
      exec_checkpointCut job on acts here drained stays up memory goes rings wire,
    fun p wire v jobId bs head s drains => exec_cutDrainDone drains wire,
    fun p wire j bs s job restores read => exec_restoreDone job restores read wire,
    fun p i e data g ue bs s read extent => ⟨exec_admissionCopy_whole read extent, exec_admissionCopy_fails read extent⟩⟩

end Sys2Proof.Machine
end

section
/-!
PROOF. A compute-domain reset begins, and writes its dump (R343, R348).
-/

-- One declaration after another: the package as one text then needs few threads at a time.
set_option Elab.async false

namespace Sys2Proof.Machine
open Sys2Proof.Safety

/-! ### A compute-domain reset begins (R343) -/

/-- The registers show phase and scope, and the count. -/
def State.resetShown (s : State) : State :=
  ((s.wrFld Reg.fltStatus 2 0 1).wrFld Reg.fltStatus 10 8 1).bumpFld Reg.fltResetCnt 15 0 1

theorem State.resetShown_status (s : State) : s.resetShown.rdFld Reg.fltStatus 2 0 = 1 ∧ s.resetShown.rdFld Reg.fltStatus 10 8 = 1 := by
  unfold State.resetShown State.bumpFld
  simp only [State.rdFld, State.rd_wrFld_ne _ _ _ _ (show Reg.fltStatus ≠ Reg.fltResetCnt by decide)]
  refine ⟨?_, State.rdFld_wrFld_fits _ _ _ (by decide) (by decide) (by decide)⟩
  refine (State.rdFld_wrFld_apart _ _ _ (by decide) (by decide) (by decide) (by decide)).trans ?_
  exact State.rdFld_wrFld_fits _ _ _ (by decide) (by decide) (by decide)

theorem State.resetShown_count (s : State) :
    s.resetShown.rdFld Reg.fltResetCnt 15 0 = min (s.rdFld Reg.fltResetCnt 15 0 + 1) 65535 := by
  have before : ((s.wrFld Reg.fltStatus 2 0 1).wrFld Reg.fltStatus 10 8 1).rdFld Reg.fltResetCnt 15 0 = s.rdFld Reg.fltResetCnt 15 0 := by
    simp only [State.rdFld, State.rd_wrFld_ne _ _ _ _ (show Reg.fltResetCnt ≠ Reg.fltStatus by decide)]
  unfold State.resetShown State.bumpFld
  rw [State.rdFld_wrFld_fits _ _ _ (by decide) (by decide) (by omega), before]
  rfl

/-- A run of a reset that begins now. -/
def State.newRun (s : State) (g v : Option Nat) (a : Bool) : ResetRun :=
  { since := s.now, phase := 1, scrubAt := 0, guilty := g, guiltyTenant := v, record := s.flt.eventSeq - 1, admin := a, memWaiting := false }

/-- The run is noted. -/
def State.withRun (s : State) (r : ResetRun) : State := { s with flt := { s.flt with lastReset := s.now, run := some r } }

theorem State.withRun_rdFld (s : State) (r : ResetRun) (q hi lo : Nat) : (s.withRun r).rdFld q hi lo = s.rdFld q hi lo := rfl

/-- Beside what it shows, the start of a reset raises interrupts, tells the domain manager, and notes the run. -/
theorem State.startReset_eq {s : State} (idle : s.flt.run = none) (g v : Option Nat) (a : Bool) :
    ∃ w, Touches [.chan, .out] s.resetShown w ∧ s.startReset g v a = w.withRun (s.newRun g v a) := by
  let u := s.resetShown.fenceVectors
  let w := if (List.range 8).any fun p => (u.part p).job.isSome then u.tellDm "WORKER_RESET" [u.self.toNat] else u
  have touches : Touches [.chan, .out] s.resetShown w :=
    Touches.ite (.via (State.tellDm_touches ..) (State.fenceVectors_touches _)) (State.fenceVectors_touches _)
  have clock : w.clock = s.clock := touches.frame .clock (by decide)
  have flt : w.flt = s.flt := touches.frame .flt (by decide)
  refine ⟨w, touches, ?_⟩
  have begins : s.startReset g v a = w.withRun (w.newRun g v a) := by
    unfold State.startReset
    rw [idle]
    rfl
  rw [begins]
  simp only [State.newRun, State.now, clock, flt]

theorem State.startReset_begins {s : State} (idle : s.flt.run = none) (g v : Option Nat) (a : Bool) : let u := s.startReset g v a
    u.flt.run = some (s.newRun g v a) ∧ u.rdFld Reg.fltStatus 2 0 = 1 ∧ u.rdFld Reg.fltStatus 10 8 = 1 ∧
    u.rdFld Reg.fltResetCnt 15 0 = min (s.rdFld Reg.fltResetCnt 15 0 + 1) 65535 ∧ u.tiles = s.tiles ∧ u.parts = s.parts := by
  obtain ⟨w, touches, begins⟩ := State.startReset_eq idle g v a
  obtain ⟨phase, scope⟩ := s.resetShown_status
  have frame := (s.startReset_touches g v a).frame
  have shows : ∀ q hi lo, (s.startReset g v a).rdFld q hi lo = s.resetShown.rdFld q hi lo := fun q hi lo => by
    rw [begins, State.withRun_rdFld, State.rdFld, State.rd_of_touches touches]
    rfl
  refine ⟨by rw [begins]; rfl, ?_, ?_, ?_, frame .tiles (by decide), frame .parts (by decide)⟩
  · rw [shows, phase]
  · rw [shows, scope]
  · rw [shows, s.resetShown_count]

/-- The administrator's, the domain manager's and a register's order of a reset. -/
theorem State.orderReset_begins {s : State} (up : s.pkg.heldBy = none) (idle : s.flt.run = none) (source : Nat) :
    s.orderReset source = (s.logEvent { kind := 2, source := source, action := 1 }).startReset none none (source == 0x09) :=
  if_neg (by simp [up, idle])

theorem State.resetByFault_begins {s : State} (up : s.pkg.heldBy = none) {t : Nat}
    (lowest : (List.range 64).find? (fun t => (s.tile t).faulted) = some t) :
    s.resetByFault = s.startReset (some t) (some (s.tenantOf t)) false := by
  unfold State.resetByFault
  rw [if_neg (by simp [up]), lowest]

/-! ### The dump (R343) -/

/-- Which tiles failed their self-test stands. -/
structure SameBist (s t : State) : Prop where
  bist : ∀ k, (t.tile k).bistFailed = (s.tile k).bistFailed

theorem SameBist.trans {s t u : State} (a : SameBist s t) (b : SameBist t u) : SameBist s u := ⟨fun k => (b.bist k).trans (a.bist k)⟩

theorem SameBist.of_touches {m : List Component} {s t : State} (h : Touches m s t) (apart : .tiles ∉ m := by decide) : SameBist s t := by
  have tiles : t.tiles = s.tiles := h.frame .tiles apart
  exact ⟨fun k => by simp only [State.tile, tiles]⟩

theorem SameBist.setMem (s : State) (m : Store) : SameBist s { s with mem := m } := ⟨fun _ => rfl⟩
theorem SameBist.setFlt (s : State) (f : Flt) : SameBist s { s with flt := f } := ⟨fun _ => rfl⟩

theorem State.faultTile_bist (s : State) (t : Nat) (r : EvRec) : SameBist s (s.faultTile t r) := by
  refine ⟨fun k => ?_⟩
  rw [State.faultTile_tile]
  split
  · next same => rw [same]
  · rfl

theorem State.lsUe_bist (s : State) (t a : Nat) : SameBist s (s.lsUe t a) := by
  unfold State.lsUe
  dsimp only
  refine SameBist.trans ?_ (State.faultTile_bist _ _ _)
  refine .of_touches (m := [.rf]) (Touches.ite (State.setBit_touches ..) (.via (Touches.setFile ..) (State.setBit_touches ..)))

theorem State.freeBytes_each_bist (place : Nat → Nat) (n : Nat) (l : List Nat) (s : State) :
    SameBist s (l.foldl (fun s w => s.freeBytes (place w) n) s) :=
  .of_touches (Touches.foldl _ (fun _ _ => State.freeBytes_touches ..) (.refl _ s))

theorem State.dumpLs_bist (s : State) (base t : Nat) : SameBist s (s.dumpLs base t) := by
  have copied := fun m => (SameBist.of_touches (s.lsScan_touches t lsBytes)).trans (SameBist.setMem _ m)
  unfold State.dumpLs
  dsimp only
  split
  · exact copied _
  · exact ((copied _).trans (State.freeBytes_each_bist (fun w => base + 0x10000 + (w * 8 - lsKey t 0)) 8 _ _)).trans
      (State.lsUe_bist ..)

theorem State.writeDump_bist (s : State) (seq : Word) (tile : Option Nat) : SameBist s (s.writeDump seq tile) := by
  unfold State.writeDump
  refine SameBist.trans ((SameBist.trans ?_ (.setFlt _ _)).trans (.of_touches (State.freeBytes_touches ..)))
    (.of_touches (State.pokeNat_touches ..))
  have head := fun m => (SameBist.of_touches (m := [.dram, .freeCount]) (.via (State.freeBytes_touches _ (dumpAt s.flt.dumpB + 0x9000) 0x7000)
    (.mono (s.pokeNat_touches (dumpAt s.flt.dumpB + 0x1000) 0x8000 (packFields (s.flt.events.mapIdx fun i r => (1024 * i, 1024, r.toNat))))))).trans
      (SameBist.setMem _ m)
  cases tile with
  | none => exact head _
  | some t => exact ((head _).trans (State.dumpLs_bist ..)).trans (.of_touches (State.freeBytes_touches ..))

/-- The tiles are as after reset, the scrub of their local stores runs. -/
def State.scrubAll (s : State) : State := (List.range 64).foldl (fun s t => s.modTile t Tile.scrubbed) s

theorem State.modTile_tile (s : State) (t k : Nat) (f : Tile → Tile) :
    (s.modTile t f).tile k = if k = t then f (s.tile k) else s.tile k := by
  split
  · next same => rw [same, State.tile_modTile_self]
  · next other => rw [State.tile_modTile_ne _ _ other]

theorem State.scrubAll_tile (s : State) {k : Nat} (tile : k < 64) : s.scrubAll.tile k = (s.tile k).scrubbed :=
  (foldl_at (read := State.tile) (g := Tile.scrubbed) (fun _ => rfl) (fun s t k => s.modTile_tile t k _) _ s k).trans
    (if_pos (List.mem_range.2 tile))

theorem State.scrubAll_touches (s : State) : Touches [.tiles] s s.scrubAll :=
  Touches.foldl _ (fun _ _ => State.modTile_touches ..) (.refl _ s)

/-- The local stores and the engines are as after reset, and the reset is in its last phase. -/
def State.enginesReset (s : State) (r : ResetRun) : State := { s with
  mem := { s.mem with ls := [], lsBad := [], lsSoft := [], accBad := [] }
  loupe := []
  prism := Prism.reset
  kal := { Kal.reset with sent := s.kal.sent, received := s.kal.received }
  flt := { s.flt with run := some { r with phase := 4, scrubAt := s.now } } }

theorem State.enginesReset_rd (s : State) (r : ResetRun) (q : Nat) : (s.enginesReset r).rd q = s.rd q := rfl
theorem State.enginesReset_tile (s : State) (r : ResetRun) (k : Nat) : (s.enginesReset r).tile k = s.tile k := rfl

/-- The phase of the scrub shows. -/
def State.scrubShown (s : State) : State := (s.wrFld Reg.fltStatus 2 0 4).setBit Reg.memStatus 0

theorem State.scrubShown_touches (s : State) : Touches [.rf] s s.scrubShown :=
  .via (State.setBit_touches ..) (.mono (State.wrFld_touches ..))

theorem State.scrubShown_bits (s : State) : s.scrubShown.rdFld Reg.fltStatus 2 0 = 4 ∧ s.scrubShown.rdBit Reg.memStatus 0 = true ∧
    s.scrubShown.rdBit Reg.fltEvent 6 = s.rdBit Reg.fltEvent 6 := by
  unfold State.scrubShown
  refine ⟨?_, (State.rdBit_setBit _ _ _ (by decide)).trans (by simp),
    (State.rdBit_setBit_ne _ _ _ (by decide)).trans (State.rdBit_wrFld_ne _ _ _ _ _ (by decide))⟩
  rw [State.rdFld, State.rd_setBit_ne _ _ (by decide)]
  exact State.rdFld_wrFld_fits _ _ _ (by decide) (by decide) (by decide)

/-- With the dump written the tiles, the local stores and the engines are as after reset. -/
theorem exec_dumpDone {s : State} {r : ResetRun} (runs : s.flt.run = some r) (dumps : r.phase = 2) :
    exec .dumpDone s =
      .next ((((s.writeDump r.record r.guilty).setBit Reg.fltEvent 6).scrubAll.enginesReset r).scrubShown) := by
  change execDumpDone s = _
  unfold execDumpDone
  rw [runs]
  exact if_neg (by simp [dumps])

end Sys2Proof.Machine
end

section
/-!
PROOF. What keeps a compute-domain reset ended: records, registers, commands and doorbells (R343).
-/

-- One declaration after another: the package as one text then needs few threads at a time.
set_option Elab.async false

namespace Sys2Proof.Machine
open Sys2Proof.Safety

/-! ### What follows the end of a compute-domain reset leaves it ended (R343) -/

/-- A partition on which nothing runs. -/
def Part.idle (x : Part) : Prop := x.job = none ∧ x.running = false

/-- No compute-domain reset, context, count, fetch, scrub, job or halt comes about: those of the state before stand. -/
structure Keeps (s t : State) : Prop where
  run : t.flt.run = s.flt.run
  contexts : t.chan.contexts = s.chan.contexts
  sems : t.chan.sems = s.chan.sems
  fetches : t.ing.fetches = s.ing.fetches
  tiles : t.tiles = s.tiles
  idle : ∀ p, (s.part p).idle → (t.part p).idle
  status : t.rd Reg.mgtStatus = s.rd Reg.mgtStatus

theorem Keeps.refl (s : State) : Keeps s s := ⟨rfl, rfl, rfl, rfl, rfl, fun _ => id, rfl⟩

theorem Keeps.trans {s t u : State} (a : Keeps s t) (b : Keeps t u) : Keeps s u :=
  ⟨b.run.trans a.run, b.contexts.trans a.contexts, b.sems.trans a.sems, b.fetches.trans a.fetches, b.tiles.trans a.tiles,
    fun p h => b.idle p (a.idle p h), b.status.trans a.status⟩

theorem Keeps.foldl {α : Type} {f : State → α → State} {l : List α} (acts : ∀ s x, x ∈ l → Keeps s (f s x)) (s : State) :
    Keeps s (l.foldl f s) := by
  induction l generalizing s with
  | nil => exact .refl s
  | cons x l ih =>
    exact (acts s x (List.mem_cons_self ..)).trans (ih (fun s y mem => acts s y (List.mem_cons_of_mem _ mem)) _)

theorem Keeps.ite {c : Prop} [Decidable c] {s t u : State} (a : Keeps s t) (b : Keeps s u) : Keeps s (if c then t else u) := by
  split
  · exact a
  · exact b

/-- What touches none of these components keeps it. -/
theorem Keeps.of_touches {m : List Component} {s t : State} (h : Touches m s t)
    (apart : ∀ c ∈ [Component.flt, .chan, .ing, .tiles, .parts, .rf], c ∉ m := by decide) : Keeps s t := by
  have flt : t.flt = s.flt := h.frame .flt (apart _ (by decide))
  have chan : t.chan = s.chan := h.frame .chan (apart _ (by decide))
  have ing : t.ing = s.ing := h.frame .ing (apart _ (by decide))
  have tiles : t.tiles = s.tiles := h.frame .tiles (apart _ (by decide))
  have parts : t.parts = s.parts := h.frame .parts (apart _ (by decide))
  refine ⟨by rw [flt], by rw [chan], by rw [chan], by rw [ing], tiles, fun p => ?_, State.rd_of_touches h _ (apart _ (by decide))⟩
  simp only [State.part, parts]
  exact id

/-- A register that is written, MGT_STATUS with the value that it has. -/
theorem Keeps.wr (s : State) {p : Nat} {v : Word} (other : p = Reg.mgtStatus → v = s.rd p) : Keeps s (s.wr p v) :=
  ⟨rfl, rfl, rfl, rfl, rfl, fun _ => id, by
    rw [State.rd_wr]
    split
    · next same => rw [other same.symm, same]
    · rfl⟩

theorem Keeps.wr_ne (s : State) {p : Nat} (v : Word) (other : p ≠ Reg.mgtStatus) : Keeps s (s.wr p v) :=
  .wr s fun same => absurd same other

theorem Keeps.setBit (s : State) {p : Nat} (i : Nat) (other : p ≠ Reg.mgtStatus) : Keeps s (s.setBit p i) := .wr_ne s _ other
theorem Keeps.clrBit (s : State) {p : Nat} (i : Nat) (other : p ≠ Reg.mgtStatus) : Keeps s (s.clrBit p i) := .wr_ne s _ other
theorem Keeps.bump (s : State) {p : Nat} (n : Nat) (other : p ≠ Reg.mgtStatus) : Keeps s (s.bump p n) := .wr_ne s _ other

theorem Keeps.wrFld (s : State) {p : Nat} (hi lo v : Nat) (other : p ≠ Reg.mgtStatus) : Keeps s (s.wrFld p hi lo v) :=
  .wr_ne s _ other

theorem Keeps.setMem (s : State) (m : Store) : Keeps s { s with mem := m } := ⟨rfl, rfl, rfl, rfl, rfl, fun _ => id, rfl⟩
theorem Keeps.setDbg (s : State) (d : Dbg) : Keeps s { s with dbg := d } := ⟨rfl, rfl, rfl, rfl, rfl, fun _ => id, rfl⟩

theorem Keeps.setFlt (s : State) {f : Flt} (run : f.run = s.flt.run) : Keeps s { s with flt := f } :=
  ⟨run, rfl, rfl, rfl, rfl, fun _ => id, rfl⟩

theorem Keeps.setChan (s : State) {c : ChanUnit} (contexts : c.contexts = s.chan.contexts) (sems : c.sems = s.chan.sems) :
    Keeps s { s with chan := c } :=
  ⟨rfl, contexts, sems, rfl, rfl, fun _ => id, rfl⟩

/-! #### Records, warnings and the errors of memory -/

theorem Keeps.logEvent (s : State) (r : EvRec) : Keeps s (s.logEvent r) := by
  have parts : (s.logEvent r).parts = s.parts := (s.logEvent_touches r).frame .parts (by decide)
  have run : (s.logEvent r).flt.run = s.flt.run := by
    obtain ⟨events, seq, held, eq⟩ := s.logEvent_eq r
    simp [eq]
  refine ⟨run, by rw [State.logEvent_chan], by rw [State.logEvent_chan], congrArg Ingress.fetches ((s.logEvent_touches r).frame .ing (by decide)),
    (s.logEvent_touches r).frame .tiles (by decide), fun p => ?_, State.rd_logEvent_ne s r (by decide) (by decide)⟩
  simp only [State.part, parts]
  exact id

theorem Keeps.tellDm (s : State) (kind : String) (args : List Nat) : Keeps s (s.tellDm kind args) :=
  .of_touches (State.tellDm_touches ..)

theorem Keeps.ibi (s : State) (cause : Byte) : Keeps s (s.ibi cause) := .of_touches (State.ibi_touches ..)

theorem Keeps.pmcAt (s : State) (code v c : Nat) : Keeps s (s.pmcAt code v c) := by
  unfold State.pmcAt
  dsimp only
  exact .ite (.refl s) (.ite (.refl s) (.ite ((Keeps.setDbg s _).trans (.setBit _ _ (by decide))) (.setDbg s _)))

theorem Keeps.pmcRange (s : State) (first n code v : Nat) : Keeps s (s.pmcRange first n code v) :=
  .foldl (fun s c _ => .pmcAt s code v c) s

theorem Keeps.warn (s : State) (source : Nat) : Keeps s (s.warn source) := by
  unfold State.warn
  dsimp only
  refine .trans ((Keeps.setBit s _ (by decide)).trans (.setBit _ _ (by decide))) (.ite (.refl _) ?_)
  refine (((Keeps.setFlt _ ?_).trans (.tellDm ..)).trans (.ibi ..)).trans (.logEvent ..)
  rfl

theorem Keeps.noteHbmCe (s : State) (k : Nat) : Keeps s (s.noteHbmCe k) := by
  unfold State.noteHbmCe
  dsimp only
  have apart : Reg.memCeCnt k ≠ Reg.mgtStatus := by
    simp only [Reg.memCeCnt, Reg.mgtStatus]
    omega
  refine Keeps.trans ?_ (.ite ((Keeps.setBit _ _ (by decide)).trans (.warn ..)) (.refl _))
  exact ((Keeps.bump s _ apart).trans (.pmcRange ..)).trans (.setMem ..)

theorem Keeps.noteHbmUe (s : State) (da : Nat) : Keeps s (s.noteHbmUe da) :=
  ((Keeps.bump s _ (show Reg.memUeCnt (stackOf da) ≠ Reg.mgtStatus by simp only [Reg.memUeCnt, Reg.mgtStatus]; omega)).trans
    (.setBit _ _ (show Reg.memEvent ≠ Reg.mgtStatus by decide))).trans (.setMem _ _)

theorem Keeps.correctDev (s : State) (das : List Nat) : Keeps s (s.correctDev das) := by
  unfold State.correctDev
  exact .ite (.refl s) ((Keeps.setMem s _).trans (.foldl (fun s w _ => .noteHbmCe s _) _))

theorem Keeps.readDev (s : State) (das : List Nat) : Keeps s (s.readDev das).st := by
  have met : Keeps s (if das.any isHole then s.setBit Reg.memEvent 4 else s) := .ite (.setBit s _ (by decide)) (.refl s)
  unfold State.readDev
  generalize (if das.any isHole then s.setBit Reg.memEvent 4 else s) = u at met ⊢
  dsimp only
  split
  · exact met.trans (.noteHbmUe u _)
  · exact met.trans (.correctDev u das)

theorem Keeps.writeDev (s : State) (l : List (Nat × Byte)) : Keeps s (s.writeDev l).2 := by
  have met : Keeps s (if l.any (fun e => isHole e.1) then s.setBit Reg.memEvent 4 else s) := .ite (.setBit s _ (by decide)) (.refl s)
  unfold State.writeDev
  generalize (if l.any (fun e => isHole e.1) then s.setBit Reg.memEvent 4 else s) = u at met ⊢
  dsimp only
  split
  · exact met.trans (.setMem u _)
  · exact ((((met.trans (.setMem u _)).trans (.foldl (fun s w _ => .noteHbmCe s _) _)).trans
      (.foldl (fun s w _ => .noteHbmUe s _) _)).trans (.setMem _ _))

theorem Keeps.readTen (s : State) (v a n : Nat) : Keeps s (s.readTen v a n).st := by
  unfold State.readTen
  split
  · exact .readDev s _
  · exact .refl s

theorem Keeps.writeTen (s : State) (v a : Nat) (bytes : List Byte) : Keeps s (s.writeTen v a bytes).2 := by
  unfold State.writeTen
  split
  · exact .writeDev s _
  · exact .refl s

/-! #### Channels, their completions and doorbells -/

theorem Reg.tenEvent_ne_status (v : Nat) : Reg.tenEvent v ≠ Reg.mgtStatus := by
  simp only [Reg.tenEvent, Reg.window, Reg.mgtStatus]
  split <;> omega

theorem Reg.tenDbDropCnt_ne_status (v : Nat) : Reg.tenDbDropCnt v ≠ Reg.mgtStatus := by
  simp only [Reg.tenDbDropCnt, Reg.window, Reg.mgtStatus]
  split <;> omega

theorem Keeps.sendMsix (s : State) (fn vec : Nat) : Keeps s (s.sendMsix fn vec) := by
  unfold State.sendMsix
  exact .ite (.setChan s rfl rfl) (.of_touches (State.emit_touches ..))

theorem Keeps.fenceVectors (s : State) : Keeps s s.fenceVectors := .foldl (fun s v _ => .sendMsix s v 0) s

theorem Keeps.setCh (s : State) (ch e : Nat) : Keeps s (s.setCh ch e) := .setChan s rfl rfl
theorem Keeps.setCmd (s : State) (c : ExecCmd) : Keeps s (s.setCmd c) := .setChan s rfl rfl
theorem Keeps.dropCmd (s : State) (ch : Nat) (index : Word) : Keeps s (s.dropCmd ch index) := .setChan s rfl rfl

theorem Keeps.chError (s : State) (ch code index : Nat) : Keeps s (s.chError ch code index) :=
  (((Keeps.setCh s ch _).trans (.setBit _ 6 (Reg.tenEvent_ne_status _))).trans (.setBit _ 2 (by decide))).trans (.sendMsix ..)

theorem Keeps.acctRecord (s : State) (ch index : Nat) (acct : List Nat) : Keeps s (s.acctRecord ch index acct) := by
  unfold State.acctRecord
  dsimp only
  split
  · exact .refl s
  · refine .trans (.readTen s (cTenant (s.chEntry ch)) (cAcct (s.chEntry ch)) 64) ?_
    split
    · exact .chError ..
    · split
      · exact (Keeps.writeTen ..).trans (.chError ..)
      · exact .writeTen ..

theorem Keeps.complete (s : State) (ch : Nat) (index : Word) (status detail result : Nat) :
    Keeps s (s.complete ch index status detail result) := by
  unfold State.complete
  dsimp only
  split
  · exact .refl s
  · refine .ite (.dropCmd ..) (.ite (.setCmd ..) ?_)
    split
    · exact ((Keeps.writeTen ..).trans (.dropCmd ..)).trans (.chError ..)
    · refine Keeps.trans ?_ (.ite (.sendMsix ..) (.refl _))
      exact (((Keeps.writeTen ..).trans (.dropCmd ..)).trans (.setCh ..)).trans (.acctRecord ..)

theorem Keeps.writeWaiting (ch n : Nat) (s : State) : Keeps s (s.writeWaiting ch n) := by
  induction n generalizing s with
  | zero => exact .refl s
  | succ n ih =>
    unfold State.writeWaiting
    split
    · split
      · exact .ite ((Keeps.complete ..).trans (ih _)) (.refl s)
      · exact .refl s
    · exact .refl s

theorem Keeps.dropBell (s : State) (v bit : Nat) (ch : Option Nat) : Keeps s (s.dropBell v bit ch) := by
  have flagged := ((Keeps.setBit s bit (Reg.tenEvent_ne_status v)).trans (.bump _ 1 (Reg.tenDbDropCnt_ne_status v))).trans
    (.setBit _ 0 (show Reg.chnEvent ≠ Reg.mgtStatus by decide))
  cases ch with
  | none => exact flagged
  | some c => exact flagged.trans (.setCh ..)

theorem Keeps.cacheTake {s t : State} {ch : Nat} (taken : s.cacheTake ch = some t) : Keeps s t := by
  unfold State.cacheTake at taken
  dsimp only at taken
  split at taken
  · cases taken
    exact .setChan s rfl rfl
  · split at taken
    · cases taken
      exact .setChan s rfl rfl
    · split at taken
      · cases taken
        exact .setChan s rfl rfl
      · cases taken

theorem Keeps.setTail (s : State) (ch : Nat) (e : Nat) (l : Sparse (List (Word × Dword))) :
    Keeps s { s.setCh ch e with chan := { (s.setCh ch e).chan with bells := l } } := by
  refine (Keeps.setCh s ch e).trans (.setChan _ ?_ ?_)
  · rfl
  · rfl

theorem Keeps.bellSq (s : State) (v ch index : Nat) : Keeps s (s.bellSq v ch index) := by
  have fetched : Keeps s (if cSqTail (s.chEntry ch) = cSqHead (s.chEntry ch) then
      { s with chan := { s.chan with lastFetch := Sparse.set 0 s.chan.lastFetch ch s.now } } else s) :=
    .ite (.setChan s rfl rfl) (.refl s)
  unfold State.bellSq
  dsimp only
  exact .ite (.dropBell ..) (.ite (.refl s) (fetched.trans (.setTail ..)))

theorem Keeps.bellCq (s : State) (v ch index : Nat) : Keeps s (s.bellCq v ch index) := by
  unfold State.bellCq
  exact .ite (.dropBell ..) ((Keeps.setCh ..).trans (.writeWaiting ..))

theorem Keeps.bell (s : State) (v : Nat) (cq : Bool) (high low : Word) : Keeps s (s.bell v cq high low) := by
  unfold State.bell
  dsimp only
  split
  · exact .dropBell ..
  · split
    · next taken => exact (Keeps.cacheTake taken).trans (.ite (.bellCq ..) (.bellSq ..))
    · exact (Keeps.setBit s 4 (by decide)).trans (.setChan _ rfl rfl)

theorem Keeps.retryBells (s : State) : Keeps s s.retryBells := by
  unfold State.retryBells
  dsimp only
  refine .ite (.refl s) (.trans (t := { s with chan := { s.chan with bellsHeld := [] } }) ?_ (.foldl (fun s i _ => ?_) _))
  · refine .setChan s ?_ ?_
    · rfl
    · rfl
  · split
    · exact .bell ..
    · exact .bell ..
    · exact .refl _

end Sys2Proof.Machine
end

section
/-!
PROOF. The end of a compute-domain reset (R343, R359): what it clears, and what follows it.
-/

-- One declaration after another: the package as one text then needs few threads at a time.
set_option Elab.async false

namespace Sys2Proof.Machine
open Sys2Proof.Safety

/-! #### Pending values that take effect (R392) -/

theorem Keeps.setPart (s : State) {p : Nat} {x : Part} (idle : (s.part p).idle → x.idle) : Keeps s (s.setPart p x) := by
  refine ⟨rfl, rfl, rfl, rfl, rfl, fun q still => ?_, rfl⟩
  by_cases same : q = p
  · subst same
    rw [State.part_setPart_self]
    exact idle still
  · rw [State.part_setPart_ne s x same]
    exact still

theorem Reg.pwrTclkAct_ne_status {p : Nat} (inside : p < 8) : Reg.pwrTclkAct p ≠ Reg.mgtStatus := by
  simp only [Reg.pwrTclkAct, Reg.mgtStatus]
  omega

theorem Keeps.applyPower (s : State) {p : Nat} (inside : p < 8) : Keeps s (s.applyPower p) := by
  unfold State.applyPower
  dsimp only
  refine Keeps.trans (Keeps.trans (.setPart s ?_) (.wrFld _ _ _ _ ?_)) (.wrFld _ _ _ _ ?_)
  · exact id
  · exact Reg.pwrTclkAct_ne_status inside
  · exact Reg.pwrTclkAct_ne_status inside

theorem Keeps.freshPart (s : State) {p : Nat} (inside : p < 8) : Keeps s (s.freshPart p) := by
  refine ((Keeps.setPart s fun _ => ⟨rfl, rfl⟩).trans (.foldl (fun s q mem => .wr_ne s _ ?_) _)).trans (.applyPower _ inside)
  simp only [List.mem_cons, List.not_mem_nil, or_false, Reg.shtPctrl, Reg.shtPevent, Reg.shtOverrunCnt, Reg.shtSlipCnt,
    Reg.shtLastCause] at mem
  simp only [Reg.mgtStatus]
  omega

theorem Keeps.applyLayout (s : State) (start : Nat) : Keeps s (s.applyLayout start) := by
  have placed : Keeps s ((s.wrFld Reg.tilPartStatus 7 0 start).wrFld Reg.tilPartCfg 7 0 start) :=
    (Keeps.wrFld s _ _ _ (by decide)).trans (.wrFld _ _ _ _ (by decide))
  unfold State.applyLayout
  dsimp only
  refine .ite (.setBit s _ (by decide)) (.ite (.setBit s _ (by decide)) (placed.trans (.foldl (fun s p mem => ?_) _)))
  exact .freshPart s (List.mem_range.1 (List.mem_of_mem_filter mem))

theorem Keeps.putBit (s : State) {p : Nat} (i : Nat) (b : Bool) (other : p ≠ Reg.mgtStatus) : Keeps s (s.putBit p i b) := by
  cases b with
  | true => exact .setBit s i other
  | false => exact .clrBit s i other

theorem Keeps.applyShare (s : State) (share : Nat) : Keeps s (s.applyShare share) :=
  .foldl (fun s _ _ => .ite (.refl s) (.ite (.setBit s _ (by decide))
    ((Keeps.putBit s _ _ (by decide)).trans (.putBit _ _ _ (by decide))))) s

/-- A chip's status holds no value that is staged. -/
theorem rwsMask_mgtStatus : rwsMask Reg.mgtStatus = 0#32 := by decide +kernel

theorem Keeps.applyRws (s : State) (p : Nat) (v : Word) : Keeps s (s.applyRws p (rwsMask p) v) := by
  have written : Keeps s (s.wr p ((s.rd p &&& ~~~rwsMask p) ||| (v &&& rwsMask p))) :=
    .wr s fun same => by
      rw [same, rwsMask_mgtStatus, BitVec.not_zero, BitVec.and_allOnes, BitVec.and_zero, BitVec.or_zero]
  unfold State.applyRws
  refine .ite (.applyLayout ..) (.ite (.applyShare ..) (.ite ?_ ?_))
  · exact written.trans (.foldl (fun s q mem => .ite (.refl s) (.applyPower s (List.mem_range.1 mem))) _)
  · exact written.trans (.foldl (fun s q mem => .ite (.applyPower s (List.mem_range.1 mem)) (.refl s)) _)

theorem Keeps.settlePending (s : State) : Keeps s s.settlePending := by
  have taken (s : State) (l : Sparse (Option Word)) : Keeps s { s with rf := { s.rf with strobed := l } } :=
    ⟨rfl, rfl, rfl, rfl, rfl, fun _ => id, rfl⟩
  refine .ite (.refl s) ((taken s _).trans (.foldl (fun s e _ => ?_) _))
  split
  · exact .applyRws ..
  · exact .refl s

/-! #### A memory-domain reset that waited (R359) -/

theorem Keeps.restPhase (s : State) : Keeps s s.restPhase := .wrFld s _ _ _ (by decide)

theorem Keeps.startMemReset (s : State) (source : Nat) : Keeps s (s.startMemReset source) := by
  unfold State.startMemReset
  dsimp only
  refine .ite (.refl s) (Keeps.trans (((Keeps.logEvent s _).trans (.wrFld _ _ _ _ ?_)).trans
    ((Keeps.wrFld _ _ _ _ ?_).trans (.wrFld _ _ _ _ ?_))) (.setFlt _ ?_))
  · decide
  · decide
  · decide
  · rfl

/-! ### The end of a compute-domain reset (R343) -/

/-- The scrub of every tile has ended, and the granules that waited are zero. -/
def State.scrubEnded (s : State) : State :=
  (List.range 64).foldl (fun s t => s.modTile t fun x => { x with scrubbing := false }) s.zeroReleased

/-- Volatile granules are zero, and commands, jobs and frames have ended. -/
def State.workEnded (s : State) (r : ResetRun) : State :=
  let s := s.zeroGranules s.volatileGranules.contains
  let s := (s.chan.chans.map (·.1)).foldl (fun s ch => s.abortChannel r ch) s
  let s := (List.range 8).foldl (fun s p => s.abortJob r p) s
  (List.range 8).foldl (fun s p => s.modPart p Part.stopped) s

/-- Contexts, images, counts, credits and fetches are gone. -/
def State.contextsGone (s : State) : State := { s with
  chan := { s.chan with contexts := [], images := [], sems := [], credit := [] }
  ing := { s.ing with fetches := [] } }

/-- What the compute domain staged is dropped, and its passes have ended. -/
def State.stagedGone (s : State) : State := ((List.range 8).foldl (fun s p => s.clrBit (Reg.ouuCtrl p) 0) s).dropStaged.aptSettle

/-- HALTED is clear, and no reset runs. -/
def State.haltGone (s : State) : State :=
  let s := s.clrBit Reg.mgtStatus 20
  { s with
    mgt := { s.mgt with haltWait := !s.mgt.haltN }
    port := { s.port with testHold := s.port.testHold && s.testBlocks != 0 }
    flt := { s.flt with run := none } }

/-- All that the reset clears is clear. -/
def State.resetCleared (s : State) (r : ResetRun) : State := (s.scrubEnded.workEnded r).contextsGone.stagedGone.haltGone

/-- What follows: the phase shows, fences end, pending values take effect and held doorbells act. -/
def State.takenUp (s : State) : State :=
  (((s.clrBit Reg.memStatus 0).clrBit Reg.fltCtrl 0).restPhase).fenceVectors.settlePending.retryBells

theorem exec_resetEnd {s : State} {r : ResetRun} (runs : s.flt.run = some r) (clears : r.phase = 4) :
    exec .resetEnd s = .next (if r.memWaiting then (s.resetCleared r).takenUp.startMemReset 0x09 else (s.resetCleared r).takenUp) := by
  have phase : ¬ (r.phase != 4) = true := by simp [clears]
  change execResetEnd s = _
  unfold execResetEnd State.takenUp State.resetCleared State.haltGone State.stagedGone State.contextsGone State.workEnded State.scrubEnded
  rw [runs]
  dsimp only
  rw [if_neg phase]

theorem State.scrubEnded_tile (s : State) {k : Nat} (inside : k < 64) : (s.scrubEnded.tile k).scrubbing = false := by
  have ended := foldl_at (f := fun s t => s.modTile t fun x => { x with scrubbing := false }) (read := State.tile)
    (g := fun x => { x with scrubbing := false }) (fun _ => rfl) (fun s p q => State.modTile_tile s p q _) (List.range 64) s.zeroReleased k
  rw [State.scrubEnded, ended, if_pos (List.mem_range.2 inside)]

theorem State.workEnded_touches (s : State) (r : ResetRun) :
    Touches [.clock, .rf, .parts, .dram, .store, .chan, .mgt, .flt, .dbg, .pkg, .freeCount, .out] s (s.workEnded r) := by
  refine .foldl _ (fun s p => .mono (State.modPart_touches s p _)) (.foldl _ (fun s p => State.abortJob_touches s r p) ?_)
  exact .foldl _ (fun s ch => .mono (State.abortChannel_touches s r ch)) (.mono (State.zeroGranules_touches ..))

theorem State.workEnded_part (s : State) (r : ResetRun) {p : Nat} (inside : p < 8) : ((s.workEnded r).part p).idle :=
  State.part_foldl_modPart (P := Part.idle) (f := Part.stopped) (fun _ => ⟨rfl, rfl⟩) p _ _ (.inl (List.mem_range.2 inside))

theorem State.stagedGone_touches (s : State) : Touches [.rf, .apt] s s.stagedGone :=
  .via (State.aptSettle_touches _) (.via (State.dropStaged_touches _) (.foldl _ (fun s _ => .mono (State.clrBit_touches s _ _)) (.refl _ s)))

theorem State.haltGone_tiles (s : State) : s.haltGone.tiles = s.tiles := rfl
theorem State.haltGone_part (s : State) (p : Nat) : s.haltGone.part p = s.part p := rfl
theorem State.haltGone_chan (s : State) : s.haltGone.chan = s.chan := rfl
theorem State.haltGone_ing (s : State) : s.haltGone.ing = s.ing := rfl
theorem State.haltGone_run (s : State) : s.haltGone.flt.run = none := rfl

theorem State.haltGone_halted (s : State) : s.haltGone.rdBit Reg.mgtStatus 20 = false :=
  (State.rdBit_clrBit s Reg.mgtStatus _ (by decide)).trans (by simp)

theorem State.contextsGone_tiles (s : State) : s.contextsGone.tiles = s.tiles := rfl
theorem State.contextsGone_parts (s : State) : s.contextsGone.parts = s.parts := rfl

theorem State.resetCleared_tile (s : State) (r : ResetRun) {k : Nat} (inside : k < 64) :
    ((s.resetCleared r).tile k).scrubbing = false := by
  have staged := ((s.scrubEnded.workEnded r).contextsGone.stagedGone_touches).frame .tiles (by decide)
  have work := (s.scrubEnded.workEnded_touches r).frame .tiles (by decide)
  have same : (s.resetCleared r).tiles = s.scrubEnded.tiles := by
    rw [State.resetCleared, State.haltGone_tiles]
    exact staged.trans ((State.contextsGone_tiles _).trans work)
  rw [State.tile, same]
  exact s.scrubEnded_tile inside

theorem State.resetCleared_part (s : State) (r : ResetRun) {p : Nat} (inside : p < 8) : ((s.resetCleared r).part p).idle := by
  have staged := ((s.scrubEnded.workEnded r).contextsGone.stagedGone_touches).frame .parts (by decide)
  have same : (s.scrubEnded.workEnded r).contextsGone.stagedGone.parts = (s.scrubEnded.workEnded r).parts :=
    Eq.trans staged (State.contextsGone_parts _)
  rw [State.resetCleared, State.haltGone_part, State.part, same]
  exact s.scrubEnded.workEnded_part r inside

theorem State.resetCleared_chan (s : State) (r : ResetRun) :
    (s.resetCleared r).chan.contexts = [] ∧ (s.resetCleared r).chan.sems = [] ∧ (s.resetCleared r).ing.fetches = [] := by
  have touched := (s.scrubEnded.workEnded r).contextsGone.stagedGone_touches
  have chan : (s.scrubEnded.workEnded r).contextsGone.stagedGone.chan = (s.scrubEnded.workEnded r).contextsGone.chan :=
    touched.frame .chan (by decide)
  have ing : (s.scrubEnded.workEnded r).contextsGone.stagedGone.ing = (s.scrubEnded.workEnded r).contextsGone.ing :=
    touched.frame .ing (by decide)
  rw [State.resetCleared, State.haltGone_chan, State.haltGone_ing, chan, ing]
  exact ⟨rfl, rfl, rfl⟩

theorem Keeps.takenUp (s : State) : Keeps s s.takenUp :=
  ((((Keeps.clrBit s 0 (by decide)).trans (.clrBit _ 0 (by decide))).trans (.restPhase _)).trans
    ((Keeps.fenceVectors _).trans (.settlePending _))).trans (.retryBells _)

/-- At its end no job, context, count or fetch is left, and HALTED is clear. -/
theorem exec_resetEnd_clears {s : State} {r : ResetRun} (runs : s.flt.run = some r) (clears : r.phase = 4) :
    ∃ u, exec .resetEnd s = .next u ∧ Keeps (s.resetCleared r) u := by
  refine ⟨_, exec_resetEnd runs clears, ?_⟩
  generalize s.resetCleared r = u
  exact .ite ((Keeps.takenUp u).trans (.startMemReset ..)) (.takenUp u)

/-! ### The phases of a compute-domain reset -/

theorem exec_resetEnd_ends {s : State} {r : ResetRun} (runs : s.flt.run = some r) (clears : r.phase = 4) :
    ∃ u, exec .resetEnd s = .next u ∧ u.flt.run = none ∧ u.chan.contexts = [] ∧ u.chan.sems = [] ∧ u.ing.fetches = [] ∧
      (∀ t, t < 64 → (u.tile t).scrubbing = false) ∧ (∀ p, p < 8 → (u.part p).job = none ∧ (u.part p).running = false) ∧
      u.rdBit Reg.mgtStatus 20 = false := by
  obtain ⟨u, acts, kept⟩ := exec_resetEnd_clears runs clears
  obtain ⟨contexts, sems, fetches⟩ := s.resetCleared_chan r
  refine ⟨u, acts, kept.run.trans (State.haltGone_run _), kept.contexts.trans contexts, kept.sems.trans sems, kept.fetches.trans fetches, fun t inside => ?_,
    fun p inside => kept.idle p (s.resetCleared_part r inside), ?_⟩
  · rw [State.tile, kept.tiles]
    exact s.resetCleared_tile r inside
  · rw [State.rdBit, kept.status]
    exact State.haltGone_halted _

end Sys2Proof.Machine
end

section
/-!
PROOF. The phases of a compute-domain reset (R343, R346).
-/

-- One declaration after another: the package as one text then needs few threads at a time.
set_option Elab.async false

namespace Sys2Proof.Machine
open Sys2Proof.Safety

/-! ### The phases of a compute-domain reset (R343, R346) -/

/-- The state in which the scrub of the local stores begins. -/
def State.dumped (s : State) (r : ResetRun) : State := ((s.writeDump r.record r.guilty).setBit Reg.fltEvent 6).scrubAll

theorem State.dumped_touches (s : State) (r : ResetRun) :
    Touches [.rf, .tiles, .ls, .dram, .store, .chan, .mgt, .flt, .freeCount, .out] s (s.dumped r) :=
  .via (State.scrubAll_touches _) (.via (State.setBit_touches ..) (State.writeDump_touches ..))

theorem State.dumped_tile (s : State) (r : ResetRun) {k : Nat} (inside : k < 64) :
    (s.dumped r).tile k = { Tile.reset with bistFailed := (s.tile k).bistFailed, scrubbing := true } := by
  have bist := ((s.writeDump_bist r.record r.guilty).trans (.of_touches (State.setBit_touches _ Reg.fltEvent 6))).bist k
  rw [State.dumped, State.scrubAll_tile _ inside, Tile.scrubbed, bist]

theorem State.dumped_now (s : State) (r : ResetRun) : (s.dumped r).now = s.now := by
  have clock : (s.dumped r).clock = s.clock := (s.dumped_touches r).frame .clock (by decide)
  simp only [State.now, clock]

theorem State.dumped_kal (s : State) (r : ResetRun) : (s.dumped r).kal = s.kal := (s.dumped_touches r).frame .kal (by decide)

theorem State.dumped_written (s : State) (r : ResetRun) : (s.dumped r).rdBit Reg.fltEvent 6 = true := by
  unfold State.dumped
  rw [State.rdBit, State.rd_of_touches (State.scrubAll_touches _)]
  exact (State.rdBit_setBit (s.writeDump r.record r.guilty) Reg.fltEvent _ (by decide)).trans (by simp)

theorem State.enginesReset_shown (s : State) (r : ResetRun) : let u := (s.enginesReset r).scrubShown
    u.flt.run = some { r with phase := 4, scrubAt := s.now } ∧ u.mem.ls = [] ∧ u.loupe = [] ∧ u.prism = Prism.reset ∧
    u.kal = { Kal.reset with sent := s.kal.sent, received := s.kal.received } ∧ (∀ t, u.tile t = s.tile t) := by
  have frame := (s.enginesReset r).scrubShown_touches.frame
  have flt : (s.enginesReset r).scrubShown.flt = (s.enginesReset r).flt := frame .flt (by decide)
  have tiles : (s.enginesReset r).scrubShown.tiles = s.tiles := frame .tiles (by decide)
  refine ⟨?_, frame .ls (by decide), frame .loupe (by decide), frame .prism (by decide), frame .kal (by decide), fun t => ?_⟩
  · rw [flt]
    rfl
  · rw [State.tile, tiles]
    rfl

theorem exec_dumpDone_scrubs {s : State} {r : ResetRun} (runs : s.flt.run = some r) (dumps : r.phase = 2) :
    ∃ u, exec .dumpDone s = .next u ∧ u.flt.run = some { r with phase := 4, scrubAt := s.now } ∧ u.mem.ls = [] ∧ u.loupe = [] ∧
      u.prism = Prism.reset ∧ u.kal = { Kal.reset with sent := s.kal.sent, received := s.kal.received } ∧
      (∀ t, t < 64 → u.tile t = { Tile.reset with bistFailed := (s.tile t).bistFailed, scrubbing := true }) ∧
      u.rdFld Reg.fltStatus 2 0 = 4 ∧ u.rdBit Reg.memStatus 0 = true ∧ u.rdBit Reg.fltEvent 6 = true := by
  obtain ⟨run, ls, loupe, prism, kal, tiles⟩ := (s.dumped r).enginesReset_shown r
  obtain ⟨phase, scrub, written⟩ := ((s.dumped r).enginesReset r).scrubShown_bits
  rw [State.dumped_now] at run
  rw [State.dumped_kal] at kal
  refine ⟨_, exec_dumpDone runs dumps, run, ls, loupe, prism, kal, fun t inside => (tiles t).trans (s.dumped_tile r inside), phase, scrub, ?_⟩
  refine written.trans ?_
  rw [State.rdBit, State.enginesReset_rd]
  exact s.dumped_written r

theorem exec_resetDrainTimeout {s : State} {r : ResetRun} (runs : s.flt.run = some r) (drains : r.phase = 1) :
    exec .resetDrainTimeout s = .next (
      let v := (s.reach (r.since.toNat + 20000)).sourceNotices
      let v := if v.outstanding then v.setBit Reg.aptEvent 1 else v
      let v := (List.range 8).foldl State.abandonedRecord v.dropRequests.abortExtents
      let v := (v.wrFld Reg.fltStatus 2 0 2).openDump
      { v with flt := { v.flt with run := some { r with phase := 2 } } }) := by
  have phase : ¬ (r.phase != 1) = true := by simp [drains]
  change execResetDrainTimeout s = _
  unfold execResetDrainTimeout
  rw [runs]
  dsimp only
  rw [if_neg phase]

theorem exec_resetWatchdog {s : State} {r : ResetRun} (runs : s.flt.run = some r) :
    exec .resetWatchdog s = .next ((s.reach (r.since.toNat + 100000000)).escalate (Config.resetSource 3).toNat) := by
  change execResetWatchdog s = _
  unfold execResetWatchdog
  rw [runs]

/-- Settles O42: the order starts the reset, and each end of a phase leaves the state that its own rule names; what follows the
last phase brings nothing back (`Keeps`). -/
theorem computeResetPassesItsPhases : Obligations.ComputeResetPassesItsPhases := by
  unfold Obligations.ComputeResetPassesItsPhases
  refine ⟨fun s up idle => ⟨fun path opens => ?_, ?_, ?_, fun t lowest => ?_, fun g v a => State.startReset_begins idle g v a⟩,
    fun r s runs => ⟨exec_resetDrainTimeout runs, exec_dumpDone_scrubs runs, exec_resetEnd_ends runs, exec_resetWatchdog runs⟩⟩
  · exact exec_next rfl ((State.via_open opens _).trans (State.orderReset_begins (s := s.setBit Reg.fltCtrl 0) up idle 0x09))
  · exact exec_next rfl (State.orderReset_begins up idle 0x09)
  · exact exec_next rfl (State.orderReset_begins up idle 0x0A)
  · exact exec_next rfl (State.resetByFault_begins up lowest)

end Sys2Proof.Machine
end
